-- ==== Sys2Proof/Word.lean ====
section
/-!
DEFINITION. The words of the SRN-TG4096-A and their plainest arithmetic (R2, R7, R181).
-/
namespace Sys2Proof

/-- A byte of memory. -/
abbrev Byte := BitVec 8
/-- A 16-bit word of instruction memory (R249). -/
abbrev Half := BitVec 16
/-- A scalar register, an address, a doubleword (R168). -/
abbrev Word := BitVec 64
/-- A vector register (R168). -/
abbrev VWord := BitVec 512

/-- `bits(x, hi, lo)` of R7 on an unsigned integer: the field [hi:lo]. -/
def fieldOf (x hi lo : Nat) : Nat := (x >>> lo) % 2 ^ (hi + 1 - lo)

/-- Bit `i` of an unsigned integer. -/
def bitOf (x i : Nat) : Bool := x.testBit i

/-- `sext(x, n)` of R7: the low `n` bits read as two's complement. -/
def sextInt (x n : Nat) : Int :=
  let y := x % 2 ^ n
  if 2 * y ≥ 2 ^ n ∧ 0 < n then (y : Int) - (2 ^ n : Nat) else (y : Int)

/-- An exact integer wrapped modulo 2^n (R182). -/
def wrapNat (v : Int) (n : Nat) : Nat := (v % ((2 ^ n : Nat) : Int)).toNat

/-- An exact integer as a 64-bit word, wrapped. -/
def wordOfInt (v : Int) : Word := BitVec.ofNat 64 (wrapNat v 64)

/-- 1 or 0. -/
def boolNat (b : Bool) : Nat := if b then 1 else 0

/-- 1 or 0 in a register. -/
def boolWord (b : Bool) : Word := if b then 1 else 0

/-- The value of bytes assembled little-endian (R2). -/
def leNat : List Byte → Nat
  | [] => 0
  | b :: bs => b.toNat + 256 * leNat bs

/-- The low `n` bytes of a value, little-endian (R2). -/
def leBytes : Nat → Nat → List Byte
  | 0, _ => []
  | n + 1, v => BitVec.ofNat 8 v :: leBytes n (v / 256)

/-- The value of bytes assembled big-endian (SM2 and SM3 fields of R24). -/
def beNat (bs : List Byte) : Nat := bs.foldl (fun a b => a * 256 + b.toNat) 0

/-- The low `n` bytes of a value, big-endian. -/
def beBytes (n v : Nat) : List Byte := (leBytes n v).reverse

end Sys2Proof
end

