-- ==== Sys2Proof/Machine/Crypto.lean ====
section
/-!
DEFINITION. The published functions the spec names: SM3 (R24), ChaCha20 (R212), CRC-64 of ECMA-182 (R248) and
the LZ4 block format (R178).
-/
namespace Sys2Proof.Machine
open Sys2Proof

/-- A 32-bit word. -/
abbrev W32 := BitVec 32

/-! SM3 -/

def sm3P0 (x : W32) : W32 := x ^^^ x.rotateLeft 9 ^^^ x.rotateLeft 17
def sm3P1 (x : W32) : W32 := x ^^^ x.rotateLeft 15 ^^^ x.rotateLeft 23

/-- The padded message: a bit 1, zeros, and the bit length in 64 bits. -/
def sm3Pad (m : List Byte) : List Byte :=
  let z := (119 - m.length % 64) % 64
  m ++ [0x80] ++ List.replicate z 0 ++ beBytes 8 (8 * m.length)

/-- Words of a block, big-endian. -/
def sm3Words : List Byte → List W32
  | a :: b :: c :: d :: r => (a ++ b ++ c ++ d) :: sm3Words r
  | _ => []

/-- The expanded message, newest word first. -/
def sm3Expand : Nat → List W32 → List W32
  | 0, w => w
  | n + 1, w =>
    let g (k : Nat) := w.getD (k - 1) 0
    sm3Expand n ((sm3P1 (g 16 ^^^ g 9 ^^^ (g 3).rotateLeft 15) ^^^ (g 13).rotateLeft 7 ^^^ g 6) :: w)

/-- The eight registers. -/
structure Sm3 where
  a : W32
  b : W32
  c : W32
  d : W32
  e : W32
  f : W32
  g : W32
  h : W32
  deriving DecidableEq, Repr

/-- One round. -/
def sm3Round (j : Nat) (w w4 : W32) (r : Sm3) : Sm3 :=
  let t : W32 := if j < 16 then 0x79cc4519 else 0x7a879d8a
  let ss1 := (r.a.rotateLeft 12 + r.e + t.rotateLeft (j % 32)).rotateLeft 7
  let ss2 := ss1 ^^^ r.a.rotateLeft 12
  let ff := if j < 16 then r.a ^^^ r.b ^^^ r.c else (r.a &&& r.b) ||| (r.a &&& r.c) ||| (r.b &&& r.c)
  let gg := if j < 16 then r.e ^^^ r.f ^^^ r.g else (r.e &&& r.f) ||| (~~~r.e &&& r.g)
  let tt1 := ff + r.d + ss2 + (w ^^^ w4)
  let tt2 := gg + r.h + ss1 + w
  ⟨tt1, r.a, r.b.rotateLeft 9, r.c, sm3P0 tt2, r.e, r.f.rotateLeft 19, r.g⟩

/-- The rounds over the expanded words. -/
def sm3Rounds : Nat → Nat → List W32 → Sm3 → Sm3
  | 0, _, _, r => r
  | n + 1, j, w, r => sm3Rounds n (j + 1) (w.drop 1) (sm3Round j (w.getD 0 0) (w.getD 4 0) r)

/-- One block. -/
def sm3Block (v : Sm3) (block : List Byte) : Sm3 :=
  let w := (sm3Expand 52 (sm3Words block).reverse).reverse
  let r := sm3Rounds 64 0 w v
  ⟨v.a ^^^ r.a, v.b ^^^ r.b, v.c ^^^ r.c, v.d ^^^ r.d, v.e ^^^ r.e, v.f ^^^ r.f, v.g ^^^ r.g, v.h ^^^ r.h⟩

/-- Blocks of 64 bytes. -/
def sm3Blocks : Nat → Sm3 → List Byte → Sm3
  | 0, v, _ => v
  | n + 1, v, m => sm3Blocks n (sm3Block v (m.take 64)) (m.drop 64)

/-- SM3 of a message, as 256 bits with the first byte in the top bits. -/
def sm3 (m : List Byte) : BitVec 256 :=
  let p := sm3Pad m
  let v := sm3Blocks (p.length / 64)
    ⟨0x7380166f, 0x4914b2b9, 0x172442d7, 0xda8a0600, 0xa96f30bc, 0x163138aa, 0xe38dee4d, 0xb0fb0e4e⟩ p
  v.a ++ v.b ++ v.c ++ v.d ++ v.e ++ v.f ++ v.g ++ v.h

/-! ChaCha20 -/

/-- A quarter round on four positions of the state. -/
def chachaQuarter (i j k l : Nat) (st : List W32) : List W32 :=
  let g (n : Nat) := st.getD n 0
  let a := g i + g j
  let d := (g l ^^^ a).rotateLeft 16
  let c := g k + d
  let b := (g j ^^^ c).rotateLeft 12
  let a := a + b
  let d := (d ^^^ a).rotateLeft 8
  let c := c + d
  let b := (b ^^^ c).rotateLeft 7
  (((st.set i a).set j b).set k c).set l d

/-- A column round and a diagonal round. -/
def chachaDouble (st : List W32) : List W32 :=
  let st := chachaQuarter 0 4 8 12 st
  let st := chachaQuarter 1 5 9 13 st
  let st := chachaQuarter 2 6 10 14 st
  let st := chachaQuarter 3 7 11 15 st
  let st := chachaQuarter 0 5 10 15 st
  let st := chachaQuarter 1 6 11 12 st
  let st := chachaQuarter 2 7 8 13 st
  chachaQuarter 3 4 9 14 st

/-- `n` double rounds. -/
def chachaRounds : Nat → List W32 → List W32
  | 0, st => st
  | n + 1, st => chachaRounds n (chachaDouble st)

/-- Output word `k` of the block function (R212): the key as 256 bits with byte 0 lowest, the counter and the
nonce words. -/
def chacha20Word (key : BitVec 256) (ctr n0 n1 n2 : W32) (k : Nat) : W32 :=
  let kw (i : Nat) : W32 := BitVec.ofNat 32 (key.toNat / 2 ^ (32 * i))
  let st : List W32 := [0x61707865, 0x3320646e, 0x79622d32, 0x6b206574, kw 0, kw 1, kw 2, kw 3] ++
    [kw 4, kw 5, kw 6, kw 7, ctr, n0, n1, n2]
  (chachaRounds 10 st).getD k 0 + st.getD k 0

/-! CRC-64 (ECMA-182) -/

/-- `n` shifts of the register, most significant bit first. -/
def crcShift : Nat → Word → Word
  | 0, c => c
  | n + 1, c => crcShift n (if c.msb then (c <<< 1) ^^^ 0x42F0E1EBA9EA3693 else c <<< 1)

/-- A byte folded into the register. -/
def crc64Byte (c : Word) (b : Byte) : Word := crcShift 8 (c ^^^ (b.setWidth 64 <<< 56))

/-- Bytes folded into the register, in order (R248). -/
def crc64 (c : Word) (bs : List Byte) : Word := bs.foldl crc64Byte c

/-! LZ4 block format -/

/-- A length continued by bytes of 255: the length and the bytes after it. -/
def lz4Len : Nat → List Byte → Nat → Option (Nat × List Byte)
  | 0, _, _ => none
  | _, [], _ => none
  | n + 1, b :: r, acc => if b == 255 then lz4Len n r (acc + 255) else some (acc + b.toNat, r)

/-- Copying `n` bytes from `off` bytes back; the output is held newest byte first. -/
def lz4Match (off : Nat) : Nat → List Byte → List Byte
  | 0, out => out
  | n + 1, out => lz4Match off n (out.getD (off - 1) 0 :: out)

/-- The sequences of a block; `out` newest byte first. `none` where the input breaks the format. -/
def lz4Go : Nat → List Byte → List Byte → Option (List Byte)
  | 0, _, _ => none
  | _, [], _ => none
  | n + 1, t :: r, out =>
    let l0 := t.toNat / 16
    match (if l0 == 15 then lz4Len r.length r 15 else some (l0, r)) with
    | none => none
    | some (ll, r) =>
      if r.length < ll then none
      else
        let out := (r.take ll).reverse ++ out
        match r.drop ll with
        | [] => some out
        | [_] => none
        | o0 :: o1 :: r2 =>
          let off := o0.toNat + 256 * o1.toNat
          let m0 := t.toNat % 16
          match (if m0 == 15 then lz4Len r2.length r2 15 else some (m0, r2)) with
          | none => none
          | some (ml, r3) =>
            if off == 0 || out.length < off || 4096 < out.length + ml + 4 then none
            else lz4Go n r3 (lz4Match off (ml + 4) out)

/-- Decoding one block (R178): the bytes, where it decodes to exactly 4,096. -/
def lz4Block (src : List Byte) : Option (List Byte) :=
  match lz4Go (src.length + 1) src [] with
  | some out => if out.length == 4096 then some out.reverse else none
  | none => none

end Sys2Proof.Machine
end

