-- ==== Sys2Proof/Config.lean ====
section
/-!
DEFINITION. What the implementation fixes and the spec does not give, and free values: opaque constants, so that
nothing can be proved of their values (assumption log 5 to 8, 83, 103).
-/
namespace Sys2Proof.Config
open Sys2Proof

/-- Fused SM3 hash of the root public key (R25). -/
opaque rootKeyHash : BitVec 256
/-- Fused minimum security version at power-on (R25, R26). -/
opaque minSecurityVersion : BitVec 32
/-- Fused boot-source field (R25). -/
opaque bootSource : BitVec 2
/-- Device serial from fuses (R27). -/
opaque serial : BitVec 128
/-- The device's SM2 identity public key (R27). -/
opaque identityKey : BitVec 512
/-- The ROM's fixed digest (R25). -/
opaque romDigest : BitVec 256
/-- SM3 digest of the training configuration (R25). -/
opaque trainingDigest : BitVec 256
/-- Whether an SM2 signature of a message verifies under a public key (R24, R27). -/
opaque sm2Verify : BitVec 512 → List Byte → BitVec 512 → Bool
/-- The device's SM2 signature of a message; the number tells one use from another (R27). -/
opaque sm2Sign : Nat → List Byte → BitVec 512
/-- What the random-number generator gives for the `n`-th nonce beside its number (R18). -/
opaque nonceHigh : Nat → BitVec 192
/-- What hides a nonce's number (R18). -/
opaque nonceKey : Word
/-- The `n`-th nonce: no two of 2^64 are the same (R18). -/
def nonce (n : Nat) : BitVec 256 := nonceHigh n ++ (nonceKey ^^^ BitVec.ofNat 64 n)
/-- The 64 bytes of the `n`-th flit sent, whose layout the spec does not give (R13). -/
opaque flitData : Nat → VWord
/-- The credits that a port grants its partner on a virtual channel when it first comes Up (R14). -/
opaque recvCredits : Fin 8 → Nat
/-- Fused droop threshold of a super-group, in mV (R31). -/
opaque droopThreshold : Nat → BitVec 16
/-- Whether an expander address is decoded by a populated range (R107). -/
opaque expanderPopulated : Nat → Bool
/-- A value that the spec leaves open; the number is the counter of the state. -/
opaque freeWord : Nat → Word
/-- A choice that the spec leaves open; the number is the counter of the state. -/
opaque freeBit : Nat → Bool
/-- Where a rank's own numbers stand among those that a collective without `det` combines (R87); the number is the
communicator, the rank, the sequence number and the unit. -/
opaque planChoice : Nat → Nat

end Sys2Proof.Config
end

