-- ==== Sys2Proof/Syntax.lean ====
section
/-!
DEFINITION. The instructions and device steps of the SRN-TG4096-A: one constructor for each row of
spec/opcode_table.json. The first 87 are steps of the device itself (R25 and on), the others instructions
(R263). An instruction carries what its prefixes set (`Pre`, R253), its
registers (R251) and its immediate, extended (R252).
-/
namespace Sys2Proof

/-- Scalar register number (R251). -/
abbrev SReg := Fin 32
/-- Vector register number. -/
abbrev VReg := Fin 32
/-- Operand slot number. -/
abbrev OReg := Fin 32
/-- Queue handle number. -/
abbrev QReg := Fin 16
/-- Trigger counter number. -/
abbrev HReg := Fin 16
/-- Mask register number. -/
abbrev KReg := Fin 8
/-- Lazy-uniform register number. -/
abbrev YReg := Fin 8
/-- Accumulator number. -/
abbrev ZReg := Fin 4
/-- Package core number. -/
abbrev CoreId := Fin 4096

/-- The element types of XT, by code (R258). -/
inductive Ty where
  | dflt | i8 | n8 | i16 | n16 | i32 | n32 | i64 | n64 | bf16 | f16 | f32 | e4m3 | e5m2 | i4 | n4
  deriving DecidableEq, Repr

/-- The rounding modes of R185. -/
inductive Rnd where
  | rne | rtz | rdn | rup | rna | sr | rod
  deriving DecidableEq, Repr

/-- The scopes of R150. -/
inductive Scope where
  | core | tile | group | sgroup | die | pkg | sys | row
  deriving DecidableEq, Repr

/-- The orders of R151. -/
inductive Order where
  | relaxed | acq | rel | acqrel
  deriving DecidableEq, Repr

/-- An XW prefix: wait for `count` filled (or free) slots of a queue (R256). -/
structure Wait where
  queue : QReg
  free : Bool
  count : Fin 33
  deriving DecidableEq, Repr

/-- What the prefixes XW, XP, XM, XT and XS of an instruction set (R253). -/
structure Pre where
  wait : Option Wait := none
  rnd : Rnd := .rne
  sat : Bool := false
  ftzi : Bool := false
  ftzo : Bool := false
  mask : KReg := 0
  zero : Bool := false
  yreg : YReg := 0
  stype : Ty := .dflt
  dtype : Ty := .dflt
  scope : Scope := .core
  order : Order := .relaxed
  strong : Bool := false
  deriving DecidableEq, Repr

/-- What a Hjelril partner shows at a training step (R16 to R18). -/
structure Partner where
  lane0 : Bool
  lane1 : Bool
  rate512 : Bool
  rate256 : Bool
  width2 : Bool
  width1 : Bool
  deep : Bool
  devnum : BitVec 16
  deriving DecidableEq, Repr

/-- A 64-byte flit with its sequence number and virtual channel (R13, R14). -/
structure Flit where
  seq : BitVec 12
  vc : Fin 8
  data : VWord
  deriving DecidableEq, Repr

/-- The readings of one monitor window (R28): temperature of sensor die × 64 + s, minimum supply of
super-group die × 16 + g, oscillations of oscillator die × 4 + r. -/
structure Readings where
  temps : List (BitVec 16)
  droops : List (BitVec 16)
  process : List (BitVec 16)
  deriving DecidableEq, Repr

/-- A mailbox deposit: one under way by its number, or an entry of the control cores for a core's mailbox (R172, R318). -/
inductive Deposit where
  | sent (n : Nat)
  | system (core : CoreId) (w0 w1 : Word)
  deriving DecidableEq, Repr

/-- What a ridge token says of its device: the error bits and the store digests of its cores (R116, R118). -/
structure RidgeToken where
  errors : BitVec 16
  digest : Word
  deriving DecidableEq, Repr

/-- A remote operation of another device as it reaches this one (R94, R99). -/
structure RemoteReq where
  dev : BitVec 16
  ref : Nat
  core : CoreId
  kind : Fin 4
  tenant : BitVec 6
  handle : BitVec 20
  off : Word
  value : Word
  len : Nat
  deriving DecidableEq, Repr

/-- One constructor for each row of the table. -/
inductive Instr where
  /-- POWER_ON_RESET (R25). After power-on reset the control cores run the boot ROM: they read the fuses, clear the measurement registers, bring up the boot sources and start fetching the image, with the device in maintenance. -/
  | powerOnReset 
  /-- BOOT_FETCH_RETRY (R25). The one-second retry interval for a boot source expires, and the ROM tries that source again or moves to the next source. -/
  | bootFetchRetry 
  /-- BOOT_IMAGE_RECEIVED (R25). A fetched boot image is verified; on success it is measured, its stages are loaded and stage 0 starts, and on failure it is discarded and BOOTSTAT is updated. -/
  | bootImageReceived (image : List Byte)
  /-- DIE_RELEASE (R25). Once all 48 channels of a compute die have trained, the die is released; when all four dies are released the device leaves maintenance. -/
  | dieRelease (die : Fin 4)
  /-- BOOTGO_WRITE (R34). A host write of 1 to BOOTGO offers the image in the staging buffer to a host-link boot attempt; the ROM clears BOOTGO when the attempt ends. -/
  | bootgoWrite (v : BitVec 32)
  /-- ATTESTATION_REQUEST (R27). A nonce-bearing request from the host or the management port makes the control cores return a signed attestation report. -/
  | attestationRequest (nonce : BitVec 256)
  /-- MEASUREMENT_EXTEND (R26). Loaded firmware requests that a digest extend one of MEAS4 to MEAS7. -/
  | measurementExtend (m : Fin 8) (digest : BitVec 256)
  /-- SECURITY_VERSION_RAISE (R26). Firmware requests that the fused minimum security version rise; it never falls. -/
  | securityVersionRaise (v : BitVec 32)
  /-- DEVNUM_WRITE (R31). A write to DEVNUM is taken only while every port's enable is 0, and is ignored otherwise. -/
  | devnumWrite (v : BitVec 16)
  /-- POWERLIM_WRITE (R30). A write to POWERLIM sets the package power limit, clamped to the range 1,200 to 2,400 W. -/
  | powerlimWrite (v : BitVec 16)
  /-- PORT_ENABLE (R19). Writing enable 1 in HLPCTL starts training the port at step 1. -/
  | portEnable (p : Fin 128) (v : BitVec 32)
  /-- PORT_DISABLE (R19). Writing enable 0 in HLPCTL stops the port at once and returns it to Disabled, keeping its retry buffer and credits. -/
  | portDisable (p : Fin 128) (v : BitVec 32)
  /-- PORT_RESTART (R19). Writing 1 to restart in HLPCTL begins training at step 1 with a fresh attempt count; on a port that is Up it also raises a link degrade event of kind retrain. -/
  | portRestart (p : Fin 128) (v : BitVec 32)
  /-- TRAINING_STEP_COMPLETE (R16). A training step finishes and the port moves to the next step, or to Up after step 6. -/
  | trainingStepComplete (p : Fin 128) (o : Partner)
  /-- TRAINING_STEP_TIMEOUT (R16). A training step reaches its time limit or fails; the attempt ends with its fail code, and the port retries from step 1 or enters Failed. -/
  | trainingStepTimeout (p : Fin 128) (code : BitVec 8)
  /-- IDENTITY_REPORT_RECEIVE (R18). At step 6 the port verifies the partner's signed identity report against the nonce it sent and the partner's device number, and latches HLPIDHASH. -/
  | identityReportReceive (p : Fin 128) (devnum : BitVec 16) (report : List Byte)
  /-- IDENTITY_CHALLENGE (R18). A partner's challenge arrives, and the port answers with a signed report over the partner's nonce. -/
  | identityChallenge (p : Fin 128) (nonce : BitVec 256)
  /-- FLIT_RECEIVE (R13). A received flit is checked; each sequence number is delivered once and in order, and duplicates are discarded. -/
  | flitReceive (p : Fin 128) (flit : Flit) (good : Bool)
  /-- FLIT_ACK_RECEIVE (R13). The partner acknowledges flits, and the sender releases them from its retry buffer. -/
  | flitAckReceive (p : Fin 128) (seq : BitVec 12)
  /-- FLIT_RESEND (R13). The partner reports an uncorrectable flit, and the sender resends from that flit onward. -/
  | flitResend (p : Fin 128) (seq : BitVec 12)
  /-- CREDIT_GRANT (R14). The receiver grants credits on a virtual channel, letting the sender transmit on that channel. -/
  | creditGrant (p : Fin 128) (vc : Fin 8) (n : Nat)
  /-- LANE_LOSS (R22). One lane loses signal or lock; the port continues at width 1 and raises a link degrade event of kind 1. -/
  | laneLoss (p : Fin 128)
  /-- RATE_FALLBACK (R22). The corrected-symbol rate at 512 Gb/s exceeds its limit; the port retrains offering only 256 Gb/s and raises a link degrade event of kind 2. -/
  | rateFallback (p : Fin 128)
  /-- ERROR_THRESHOLD (R22). More than err_limit flits needed a resend within a window of 2^24 flits, and a link degrade event of kind 3 is reported. -/
  | errorThreshold (p : Fin 128) (resends : BitVec 32)
  /-- LINK_DOWN (R22). Both lanes are lost or a retrain fails; the port trains again and, if every attempt fails, discards its unacknowledged flits. -/
  | linkDown (p : Fin 128)
  /-- MONITOR_UPDATE (R28). Every 1,024 cycles the temperature, droop and process monitors update their readings. -/
  | monitorUpdate (r : Readings)
  /-- DROOP_HOLD_END (R29). The 8-cycle droop hold expires, and issue resumes in the super-group. -/
  | droopHoldEnd (sg : Fin 64)
  /-- HOST_APERTURE_ACCESS (R33). A host access to BAR4 is translated as a global access under HAPBASE and HAPASID, or reaches the boot staging buffer during maintenance. -/
  | hostApertureAccess (write : Bool) (off : BitVec 36) (n : Nat) (data : List Byte)
  /-- HOST_SUBMIT (R40). A host write to SUBMIT presents a launch record to a submission port and is answered with Successful Completion or Request Retry Status. -/
  | hostSubmit (p : Fin 256) (off : BitVec 12) (data : List Byte) (deferrable : Bool)
  /-- SUBMISSION_DECIDE (R39). In its cycle, a port decides one held submission against the checks in order, and accepts and stamps the record or refuses it with a code. -/
  | submissionDecide (p : Fin 256)
  /-- SCHEDULER_INTAKE (R60). The scheduler takes an accepted record into its intake and checks the edges it names; a failing record completes with errors bit 3 and logs an entry of kind 2. -/
  | schedulerIntake 
  /-- SCHEDULER_START (R52). Each cycle the scheduler starts at most one ready record in priority, stamp and port order, taking its input tokens and holding its output slots. -/
  | schedulerStart 
  /-- SYSTEM_COPY_COMPLETE (R44). The system copy engine finishes the copy of a kind-3 record; the result is written at done + 32 and the completion record follows. -/
  | systemCopyComplete 
  /-- IMAGE_LOAD_COMPLETE (R46). The loader finishes checking, loading and relocating an image, or refuses it and writes the refusal record and a completion record with errors bit 2. -/
  | imageLoadComplete 
  /-- PLACEMENT (R53). A task whose image has loaded is placed first-fit in the lowest free aligned block of its domain size. -/
  | placement 
  /-- CREW_FINISH (R66). When all of a crew's threads have stopped and its commands and stores have completed, the crew sends its status word to its parent in the truss. -/
  | crewFinish (core : Fin 4096)
  /-- TRUSS_REPORT (R66). A leader receives a child's status word and, once every child has reported, sends one combined word up the truss. -/
  | trussReport (core : Fin 4096)
  /-- ENERGY_DEFER_EXPIRY (R76). A record that has been deferred for energy without a break for 2^20 cycles is no longer deferred. -/
  | energyDeferExpiry (n : Nat)
  /-- SWITCH_OUT_TRIGGER (R56). The switch-out conditions have held for 8,192 cycles, and the switch-out of the chosen victim begins with its stop. -/
  | switchOutTrigger 
  /-- SWITCH_OUT_DRAIN_PASS (R78). A drain pass of a switch-out sums the messages sent minus those received, and repeats until two successive passes read zero. -/
  | switchOutDrainPass 
  /-- SWITCH_OUT_COMPLETE (R78). When every core's save has landed, the switch-out completes, the domain is freed and the task waits again. -/
  | switchOutComplete 
  /-- SCHEND_WRITE (R67). A write to SCHEND ends every record with the given port and seq whose completion record has not been written. -/
  | schendWrite (v : Word)
  /-- DBGGO_WRITE (R245). A write to DBGGO resumes a task that is stopped at a debug or replay stop. -/
  | dbggoWrite (v : Word)
  /-- EDGECTL_WRITE (R58). A write to EDGECTL configures an edge; enabling it checks capacity and clamps filled to capacity. -/
  | edgectlWrite (e : Fin 4096) (v : Word)
  /-- BUDGET_BOUNDARY (R73). At every 1,024-cycle boundary each die refills its tenants' bandwidth and energy buckets, redistributing the refill of idle tenants. -/
  | budgetBoundary (coefs : List (BitVec 32)) (epools : List (BitVec 32))
  /-- ARBITER_AGE_LIMIT (R55). A request that has waited 1,024 cycles at an arbiter is served before every request that arrived there after it. -/
  | arbiterAgeLimit (n : Nat)
  /-- ACCESS_AT_HOME (R103). A near or global request reaches its target, which makes the checks and performs the access. -/
  | accessAtHome (n : Nat)
  /-- TRANSLATION_WALK_COMPLETE (R105). A page-table walk at an eaves station ends, filling the cache or ending in a fault. -/
  | translationWalkComplete (asid : BitVec 16) (va : Word)
  /-- XLINV_ALL (R106). An XLINV write with what 0 starts the invalidation of all translations, or sets dropped while busy. -/
  | xlinvAll 
  /-- XLINV_ASID (R106). An XLINV write with what 1 starts the invalidation of every translation of one ASID. -/
  | xlinvAsid (asid : BitVec 16)
  /-- XLINV_PAGE (R106). An XLINV write with what 2 starts the invalidation of one page of one ASID. -/
  | xlinvPage (asid : BitVec 16) (va : Word)
  /-- XLINV_NONE (R106). An XLINV write with what 3 is not accepted and has no effect. -/
  | xlinvNone 
  /-- XLINV_COMPLETE (R106). An invalidation completes once every station has dropped the named translations and its walks and requests have drained; busy clears. -/
  | xlinvComplete 
  /-- XLSTAT_CLEAR (R106). Writing 1 to dropped in XLSTAT clears it. -/
  | xlstatClear (v : Word)
  /-- COMM_ENABLE (R81). Writing enable 1 in COMMCTL copies the rank map and enables the communicator, or leaves it disabled when a check fails. -/
  | commEnable (c : Fin 4096) (v : Word)
  /-- COMM_DISABLE (R81). Clearing enable in COMMCTL completes every pending request of the communicator with status 6. -/
  | commDisable (c : Fin 4096)
  /-- COLLECTIVE_REQUEST_TAKE (R89). An engine takes a queued request and checks that every peer of its plan is reachable; otherwise the request completes at once with status 9. -/
  | collectiveRequestTake (e : Fin 2)
  /-- COLLECTIVE_MATCH (R85). When every rank has submitted the same comm and seq, rank 0's engine compares the requests and starts the collective or ends it with status 3. -/
  | collectiveMatch (c : Fin 4096) (seq : BitVec 32) (peers : List VWord) (tables : List (List Byte))
  /-- COLLECTIVE_CHUNK_ARRIVE (R91). A collective chunk arrives and is delivered, or held in the early-arrival store, or credit is withheld while the store is full. -/
  | collectiveChunkArrive (c : Fin 4096) (seq : BitVec 32) (rank stage off : Nat) (data : List Byte)
  /-- COLLECTIVE_FAULT_NOTICE (R90). A fault notice from a faulting rank arrives, and this rank completes with status 4 at its next chunk boundary. -/
  | collectiveFaultNotice (c : Fin 4096) (seq : BitVec 32) (addr : Word)
  /-- COLLECTIVE_COMPLETE (R90). A collective ends on a rank, and its engine deposits the completion message when notify is 1. -/
  | collectiveComplete (c : Fin 4096) (seq : BitVec 32)
  /-- REMOTE_REQUEST_ARRIVE (R94). A remote operation reaches the peer, which checks the handle's generation, tenant, permission and range before any byte moves. -/
  | remoteRequestArrive (n : Nat) (foreign : Option RemoteReq)
  /-- RST_CHUNK_LAND (R95). An RST chunk is checked against the generation, made visible at the peer, and its byte count is added to the buffer's trigger counter. -/
  | rstChunkLand (n k : Nat) (data : List Byte)
  /-- RFAA_PERFORM (R96). A remote fetch-and-add adds its value to the word at its home and returns the old value. -/
  | rfaaPerform (n : Nat)
  /-- RFENCE_FLAG_LAND (R97). A remote flag lands after every earlier RST chunk of the issuing core to that peer device. -/
  | rfenceFlagLand (n : Nat)
  /-- REMOTE_COMPLETION_ARRIVE (R395). A remote operation's completion word arrives as a message in the issuing thread's message register. -/
  | remoteCompletionArrive (n : Nat) (word : Word)
  /-- RIDGE_RELEASE (R116). When every member has arrived and its traffic has landed, all members are released together and COURSE advances at the level. -/
  | ridgeRelease (level : Fin 8) (core : Fin 4096)
  /-- EXCHANGE_FLIT_ARRIVE (R124). A timetabled flit reaches a receive port and is written by its receive entry, or is discarded as an exchange collision. -/
  | exchangeFlitArrive (n : Nat)
  /-- EXCHANGE_WINDOW_CLOSE (R123). The window reaches cycle window and closes, and lap-plan traffic resumes. -/
  | exchangeWindowClose (core : Fin 4096)
  /-- SLAB_LAND (R145). The last flit of a slab is written, and the slab leaves the in-flight mask. -/
  | slabLand (core : Fin 4096) (p : Fin 8) (slab : Fin 26)
  /-- SLICE_CONTRIBUTION_ARRIVE (R128). A contribution arrives at a slice and is checked, then applied, held or buffered. -/
  | sliceContributionArrive (n : Nat)
  /-- MESSAGE_ARRIVE (R170). A message fills its target message register and wakes a waiter, or enters the overflow buffer. -/
  | messageArrive (n : Nat)
  /-- MAILBOX_DEPOSIT (R172). A 16-byte entry is deposited in the core's mailbox, or waits at its source while the mailbox is full. -/
  | mailboxDeposit (n : Deposit)
  /-- QUEUE_UPDATE_ARRIVE (R174). A queue update from the peer end arrives and adjusts filled or free, in sequence order where seqord is 1. -/
  | queueUpdateArrive (n : Nat)
  /-- COPY_REQUEST_COMPLETE (R177). The copy engine ends a request and deposits its completion entry in the mailbox. -/
  | copyRequestComplete (core : Fin 4096)
  /-- CFET_LAND (R179). A segment fetch lands, loading the break bits and setting the segment valid, or fails and leaves it invalid. -/
  | cfetLand (core : Fin 4096)
  /-- LATE_FAULT (R231). A faulting vector or matrix command is reported at the thread's next boundary, and its later commands are discarded. -/
  | lateFault (core : Fin 4096) (ts : Fin 4)
  /-- SCOPE_MISS (R159). A scope-miss message arrives, and the thread takes 0xA2, whose handler reissues the ordering at S'. -/
  | scopeMiss (core : Fin 4096) (ts : Fin 4)
  /-- PER_CORE_PREEMPTION (R232). The control cores stop every thread set of one core, which saves its frames to a context slot. -/
  | perCorePreemption (core : Fin 4096)
  /-- PREEMPTION_RELEASE (R232). The control cores release a pre-empted core, which restores its frames and resumes. -/
  | preemptionRelease (core : Fin 4096)
  /-- MACHINE_CHECK (R225). An uncorrectable error or a bridge failure strikes a core, and the trap ends the crew. -/
  | machineCheck (core : Fin 4096) (code : BitVec 8)
  /-- GANG_MEMBER_LOST (R238). A machine check on one gang member makes the others take 0xC6, and the gang is dissolved. -/
  | gangMemberLost (core : Fin 4096)
  /-- CONTEXT_COPY_FAULT (R236). A copy into the context area faults; the control cores map the page and reissue the copy, or the task ends with 0xC7. -/
  | contextCopyFault (core : Fin 4096) (mapped : Bool)
  /-- REGISTER_WRITE (R5). A write to a device register that has no row of its own updates its fields under their access codes. -/
  | registerWrite (off : Nat) (v : Word)
  /-- VECTOR_COMMAND_COMPLETE (R332). The vector engine finishes performing a dispatched vector command, writing its register lanes and memory and setting the dispatching thread's flags. -/
  | vectorCommandComplete (core : Fin 4096)
  /-- MATRIX_COMMAND_COMPLETE (R360). The matrix engine finishes performing a dispatched matrix command, writing its accumulator or slot lanes and memory and setting the flags and ACCOVF. -/
  | matrixCommandComplete (core : Fin 4096)
  /-- RIDGE_TOKEN_ARRIVE (R116). A level-6 ridge token from another rank of the communicator arrives on virtual channel 1 and counts toward the release. -/
  | ridgeTokenArrive (c : Fin 4096) (rank : Nat) (errors : RidgeToken)
  /-- ILL (R288). Traps with cause 0x01 whatever its immediate. -/
  | ill (x : Pre) (imm : Word)
  /-- NOP (R288). Has no effect beyond its prefixes. -/
  | nop (x : Pre)
  /-- ADD (R269). Writes s[b] + s[c]. -/
  | add (x : Pre) (a : SReg) (b : SReg) (c : SReg)
  /-- ADDV (R269). Adds, and traps with 0x06 on signed overflow. -/
  | addv (x : Pre) (a : SReg) (b : SReg) (c : SReg)
  /-- SUB (R269). Writes s[b] - s[c]. -/
  | sub (x : Pre) (a : SReg) (b : SReg) (c : SReg)
  /-- SUBV (R269). Subtracts, and traps with 0x06 on signed overflow. -/
  | subv (x : Pre) (a : SReg) (b : SReg) (c : SReg)
  /-- AND (R269). Bitwise AND. -/
  | and (x : Pre) (a : SReg) (b : SReg) (c : SReg)
  /-- OR (R269). Bitwise OR. -/
  | or (x : Pre) (a : SReg) (b : SReg) (c : SReg)
  /-- XOR (R269). Bitwise XOR. -/
  | xor (x : Pre) (a : SReg) (b : SReg) (c : SReg)
  /-- SHL (R269). Shifts left by s[c] mod 64. -/
  | shl (x : Pre) (a : SReg) (b : SReg) (c : SReg)
  /-- SHR (R269). Shifts logically right by s[c] mod 64. -/
  | shr (x : Pre) (a : SReg) (b : SReg) (c : SReg)
  /-- SAR (R269). Shifts arithmetically right by s[c] mod 64. -/
  | sar (x : Pre) (a : SReg) (b : SReg) (c : SReg)
  /-- MUL (R269). Writes the low 64 bits of the product. -/
  | mul (x : Pre) (a : SReg) (b : SReg) (c : SReg)
  /-- MULH (R269). Writes the high 64 bits of the signed product. -/
  | mulh (x : Pre) (a : SReg) (b : SReg) (c : SReg)
  /-- MULHN (R269). Writes the high 64 bits of the unsigned product. -/
  | mulhn (x : Pre) (a : SReg) (b : SReg) (c : SReg)
  /-- DIV (R270). Signed division truncated toward zero, which never traps. -/
  | div (x : Pre) (a : SReg) (b : SReg) (c : SReg)
  /-- DIVN (R270). Unsigned division. -/
  | divn (x : Pre) (a : SReg) (b : SReg) (c : SReg)
  /-- REM (R270). Signed remainder, with the sign of the dividend. -/
  | rem (x : Pre) (a : SReg) (b : SReg) (c : SReg)
  /-- REMN (R270). Unsigned remainder. -/
  | remn (x : Pre) (a : SReg) (b : SReg) (c : SReg)
  /-- ADDI (R271). Adds a sign-extended immediate. -/
  | addi (x : Pre) (a : SReg) (b : SReg) (imm : Word)
  /-- ANDI (R271). ANDs with a sign-extended immediate. -/
  | andi (x : Pre) (a : SReg) (b : SReg) (imm : Word)
  /-- ORI (R271). ORs with a zero-extended immediate. -/
  | ori (x : Pre) (a : SReg) (b : SReg) (imm : Word)
  /-- XORI (R271). XORs with a zero-extended immediate. -/
  | xori (x : Pre) (a : SReg) (b : SReg) (imm : Word)
  /-- SHLI (R271). Shifts left by an immediate. -/
  | shli (x : Pre) (a : SReg) (b : SReg) (imm : Word)
  /-- SHRI (R271). Shifts logically right by an immediate. -/
  | shri (x : Pre) (a : SReg) (b : SReg) (imm : Word)
  /-- SARI (R271). Shifts arithmetically right by an immediate. -/
  | sari (x : Pre) (a : SReg) (b : SReg) (imm : Word)
  /-- LI (R272). Loads a sign-extended immediate. -/
  | li (x : Pre) (a : SReg) (imm : Word)
  /-- CMPEQ (R273). Writes 1 when the operands are equal, otherwise 0. -/
  | cmpeq (x : Pre) (a : SReg) (b : SReg) (c : SReg)
  /-- CMPNE (R273). Writes 1 when the operands differ, otherwise 0. -/
  | cmpne (x : Pre) (a : SReg) (b : SReg) (c : SReg)
  /-- CMPLT (R273). Signed less-than compare. -/
  | cmplt (x : Pre) (a : SReg) (b : SReg) (c : SReg)
  /-- CMPLTN (R273). Unsigned less-than compare. -/
  | cmpltn (x : Pre) (a : SReg) (b : SReg) (c : SReg)
  /-- CMPLE (R273). Signed less-or-equal compare. -/
  | cmple (x : Pre) (a : SReg) (b : SReg) (c : SReg)
  /-- CMPLEN (R273). Unsigned less-or-equal compare. -/
  | cmplen (x : Pre) (a : SReg) (b : SReg) (c : SReg)
  /-- SEL (R273). Selects s[b] when s[d] is non-zero, otherwise s[c]; requires XR. -/
  | sel (x : Pre) (a : SReg) (b : SReg) (c : SReg) (d : Fin 16)
  /-- LDB (R275). Loads a signed byte. -/
  | ldb (x : Pre) (a : SReg) (b : SReg) (imm : Word)
  /-- LDBN (R275). Loads an unsigned byte. -/
  | ldbn (x : Pre) (a : SReg) (b : SReg) (imm : Word)
  /-- LDH (R275). Loads a signed halfword. -/
  | ldh (x : Pre) (a : SReg) (b : SReg) (imm : Word)
  /-- LDHN (R275). Loads an unsigned halfword. -/
  | ldhn (x : Pre) (a : SReg) (b : SReg) (imm : Word)
  /-- LDW (R275). Loads a signed word. -/
  | ldw (x : Pre) (a : SReg) (b : SReg) (imm : Word)
  /-- LDWN (R275). Loads an unsigned word. -/
  | ldwn (x : Pre) (a : SReg) (b : SReg) (imm : Word)
  /-- LDD (R275). Loads a doubleword. -/
  | ldd (x : Pre) (a : SReg) (b : SReg) (imm : Word)
  /-- STB (R276). Stores a byte. -/
  | stb (x : Pre) (a : SReg) (b : SReg) (imm : Word)
  /-- STH (R276). Stores a halfword. -/
  | sth (x : Pre) (a : SReg) (b : SReg) (imm : Word)
  /-- STW (R276). Stores a word. -/
  | stw (x : Pre) (a : SReg) (b : SReg) (imm : Word)
  /-- STD (R276). Stores a doubleword. -/
  | std (x : Pre) (a : SReg) (b : SReg) (imm : Word)
  /-- BEQ (R278). Branches when the operands are equal. -/
  | beq (x : Pre) (a : SReg) (b : SReg) (imm : Word)
  /-- BNE (R278). Branches when the operands differ. -/
  | bne (x : Pre) (a : SReg) (b : SReg) (imm : Word)
  /-- BLT (R278). Branches on signed less-than. -/
  | blt (x : Pre) (a : SReg) (b : SReg) (imm : Word)
  /-- BGE (R278). Branches on signed greater-or-equal. -/
  | bge (x : Pre) (a : SReg) (b : SReg) (imm : Word)
  /-- BLTN (R278). Branches on unsigned less-than. -/
  | bltn (x : Pre) (a : SReg) (b : SReg) (imm : Word)
  /-- BGEN (R278). Branches on unsigned greater-or-equal. -/
  | bgen (x : Pre) (a : SReg) (b : SReg) (imm : Word)
  /-- BEQZ (R278). Branches when s[a] is zero. -/
  | beqz (x : Pre) (a : SReg) (imm : Word)
  /-- BNEZ (R278). Branches when s[a] is not zero. -/
  | bnez (x : Pre) (a : SReg) (imm : Word)
  /-- B (R279). Branches relative, unconditionally. -/
  | b (x : Pre) (imm : Word)
  /-- JMP (R279). Jumps to an absolute address. -/
  | jmp (x : Pre) (imm : Word)
  /-- CALL (R279). Branches relative and sets s31 to next. -/
  | call (x : Pre) (imm : Word)
  /-- JR (R280). Jumps to s[a] + offset. -/
  | jr (x : Pre) (a : SReg) (imm : Word)
  /-- CALLR (R280). Jumps to s[a] + offset and sets s31. -/
  | callr (x : Pre) (a : SReg) (imm : Word)
  /-- JMPF (R280). Jumps after checking and awaiting the target segment, and discards prefetched words. -/
  | jmpf (x : Pre) (a : SReg) (imm : Word)
  /-- CALLF (R280). Calls after checking the target segment, and discards prefetched words. -/
  | callf (x : Pre) (a : SReg) (imm : Word)
  /-- LOOP (R282). Starts a counted hardware loop. -/
  | loop (x : Pre) (a : SReg) (imm : Word)
  /-- CSRD (R285). Reads a control register. -/
  | csrd (x : Pre) (a : SReg) (imm : Word)
  /-- CSWR (R285). Writes a control register. -/
  | cswr (x : Pre) (a : SReg) (imm : Word)
  /-- TRAP (R286). Raises cause 0xE0 + n. -/
  | trap (x : Pre) (imm : Word)
  /-- ERET (R287). Returns from a trap handler to EPC. -/
  | eret (x : Pre)
  /-- CLZ (R269). Counts the leading zero bits. -/
  | clz (x : Pre) (a : SReg) (b : SReg)
  /-- CTZ (R269). Counts the trailing zero bits. -/
  | ctz (x : Pre) (a : SReg) (b : SReg)
  /-- POPC (R269). Counts the 1 bits. -/
  | popc (x : Pre) (a : SReg) (b : SReg)
  /-- MIN (R269). Signed minimum. -/
  | min (x : Pre) (a : SReg) (b : SReg) (c : SReg)
  /-- MINN (R269). Unsigned minimum. -/
  | minn (x : Pre) (a : SReg) (b : SReg) (c : SReg)
  /-- MAX (R269). Signed maximum. -/
  | max (x : Pre) (a : SReg) (b : SReg) (c : SReg)
  /-- MAXN (R269). Unsigned maximum. -/
  | maxn (x : Pre) (a : SReg) (b : SReg) (c : SReg)
  /-- SEXT (R274). Sign-extends from width n. -/
  | sext (x : Pre) (a : SReg) (b : SReg) (imm : Word)
  /-- ZEXT (R274). Zero-extends from width n. -/
  | zext (x : Pre) (a : SReg) (b : SReg) (imm : Word)
  /-- PCADDR (R284). Writes a PC-relative instruction address. -/
  | pcaddr (x : Pre) (a : SReg) (imm : Word)
  /-- FADD (R290). Scalar floating add. -/
  | fadd (x : Pre) (a : SReg) (b : SReg) (c : SReg)
  /-- FSUB (R290). Scalar floating subtract. -/
  | fsub (x : Pre) (a : SReg) (b : SReg) (c : SReg)
  /-- FMUL (R290). Scalar floating multiply. -/
  | fmul (x : Pre) (a : SReg) (b : SReg) (c : SReg)
  /-- FMA (R290). Scalar fused multiply-add with one rounding. -/
  | fma (x : Pre) (a : SReg) (b : SReg) (c : SReg)
  /-- FDIV (R290). Scalar floating divide. -/
  | fdiv (x : Pre) (a : SReg) (b : SReg) (c : SReg)
  /-- FSQRT (R290). Scalar floating square root. -/
  | fsqrt (x : Pre) (a : SReg) (b : SReg)
  /-- FMIN (R291). Scalar minimumNumber. -/
  | fmin (x : Pre) (a : SReg) (b : SReg) (c : SReg)
  /-- FMAX (R291). Scalar maximumNumber. -/
  | fmax (x : Pre) (a : SReg) (b : SReg) (c : SReg)
  /-- FCMPEQ (R291). Floating equality compare. -/
  | fcmpeq (x : Pre) (a : SReg) (b : SReg) (c : SReg)
  /-- FCMPLT (R291). Floating less-than compare. -/
  | fcmplt (x : Pre) (a : SReg) (b : SReg) (c : SReg)
  /-- FCMPLE (R291). Floating less-or-equal compare. -/
  | fcmple (x : Pre) (a : SReg) (b : SReg) (c : SReg)
  /-- FCVTI (R292). Converts floating to a signed integer. -/
  | fcvti (x : Pre) (a : SReg) (b : SReg)
  /-- FCVTIN (R292). Converts floating to an unsigned integer. -/
  | fcvtin (x : Pre) (a : SReg) (b : SReg)
  /-- FCVTF (R292). Converts a signed integer to floating. -/
  | fcvtf (x : Pre) (a : SReg) (b : SReg)
  /-- FCVTFN (R292). Converts an unsigned integer to floating. -/
  | fcvtfn (x : Pre) (a : SReg) (b : SReg)
  /-- FCVT (R292). Converts between floating formats; requires XT. -/
  | fcvt (x : Pre) (a : SReg) (b : SReg)
  /-- BSADD (R293). Adds block-sum pairs. -/
  | bsadd (x : Pre) (a : SReg) (b : SReg) (c : SReg)
  /-- BSCVT (R293). Converts a block-sum pair to f32. -/
  | bscvt (x : Pre) (a : SReg) (b : SReg)
  /-- VLD (R297). Loads a 64-byte vector. -/
  | vld (x : Pre) (a : VReg) (b : SReg) (imm : Word)
  /-- VST (R297). Stores a 64-byte vector. -/
  | vst (x : Pre) (a : VReg) (b : SReg) (imm : Word)
  /-- VLDS (R298). Strided vector load. -/
  | vlds (x : Pre) (a : VReg) (b : SReg) (c : SReg)
  /-- VSTS (R298). Strided vector store. -/
  | vsts (x : Pre) (a : VReg) (b : SReg) (c : SReg)
  /-- VLDG (R298). Indexed (gather) vector load. -/
  | vldg (x : Pre) (a : VReg) (b : SReg) (c : VReg)
  /-- VSTG (R298). Indexed (scatter) vector store. -/
  | vstg (x : Pre) (a : VReg) (b : SReg) (c : VReg)
  /-- VLDT (R299). Loads a 16 x 16 block of 32-bit elements transposed. -/
  | vldt (x : Pre) (a : VReg) (b : SReg) (c : SReg)
  /-- ST64S (R300). Submits a 64-byte record to a port and returns its code. -/
  | st64s (x : Pre) (a : SReg) (b : SReg) (c : SReg)
  /-- AMOADD (R301). Atomic add. -/
  | amoadd (x : Pre) (a : SReg) (b : SReg) (c : SReg)
  /-- AMOSWP (R301). Atomic swap. -/
  | amoswp (x : Pre) (a : SReg) (b : SReg) (c : SReg)
  /-- AMOCAS (R301). Atomic compare-and-swap; requires XR. -/
  | amocas (x : Pre) (a : SReg) (b : SReg) (c : SReg) (d : Fin 16)
  /-- AMOMIN (R301). Atomic signed minimum. -/
  | amomin (x : Pre) (a : SReg) (b : SReg) (c : SReg)
  /-- AMOMINN (R301). Atomic unsigned minimum. -/
  | amominn (x : Pre) (a : SReg) (b : SReg) (c : SReg)
  /-- AMOMAX (R301). Atomic signed maximum. -/
  | amomax (x : Pre) (a : SReg) (b : SReg) (c : SReg)
  /-- AMOMAXN (R301). Atomic unsigned maximum. -/
  | amomaxn (x : Pre) (a : SReg) (b : SReg) (c : SReg)
  /-- AMOAND (R301). Atomic AND. -/
  | amoand (x : Pre) (a : SReg) (b : SReg) (c : SReg)
  /-- AMOOR (R301). Atomic OR. -/
  | amoor (x : Pre) (a : SReg) (b : SReg) (c : SReg)
  /-- FENCE (R303). Orders the thread's accesses by its XS order, scope and strong bit. -/
  | fence (x : Pre)
  /-- QBIND (R304). Binds a queue handle to a descriptor, or unbinds it. -/
  | qbind (x : Pre) (a : QReg) (b : SReg)
  /-- QADVH (R305). Advances the consumer head and frees slots. -/
  | qadvh (x : Pre) (a : QReg) (b : SReg) (imm : Word)
  /-- QADVT (R305). Advances the producer tail and fills slots. -/
  | qadvt (x : Pre) (a : QReg) (b : SReg) (imm : Word)
  /-- QCNT (R306). Reads the filled count. -/
  | qcnt (x : Pre) (a : SReg) (b : QReg)
  /-- QFREE (R306). Reads the free count. -/
  | qfree (x : Pre) (a : SReg) (b : QReg)
  /-- QWAITF (R306). Waits for filled slots. -/
  | qwaitf (x : Pre) (a : QReg) (b : SReg) (imm : Word)
  /-- QWAITE (R306). Waits for free slots. -/
  | qwaite (x : Pre) (a : QReg) (b : SReg) (imm : Word)
  /-- SBIND (R307). Binds a vector register to a stream. -/
  | sbind (x : Pre) (a : VReg) (b : SReg)
  /-- SBINDS (R307). Binds a scalar register to a stream. -/
  | sbinds (x : Pre) (a : SReg) (b : SReg)
  /-- SUNBIND (R308). Unbinds a stream register. -/
  | sunbind (x : Pre) (a : SReg) (imm : Word)
  /-- SPOS (R308). Reads a stream's position. -/
  | spos (x : Pre) (a : SReg) (b : SReg) (c : Fin 8)
  /-- VROWLD (R310). Row-scope load of a whole row. -/
  | vrowld (x : Pre) (a : VReg) (b : SReg) (c : Fin 8)
  /-- VROWST (R310). Row-scope store of a whole row. -/
  | vrowst (x : Pre) (a : VReg) (b : SReg) (c : Fin 8)
  /-- VROWADD (R311). Row-scope add at the row's home. -/
  | vrowadd (x : Pre) (a : VReg) (b : SReg) (c : Fin 8)
  /-- VROWCAS (R312). Row-scope compare-and-swap. -/
  | vrowcas (x : Pre) (a : VReg) (b : SReg) (c : Fin 8)
  /-- CAPDEF (R313). Declares a capability region held by this core. -/
  | capdef (x : Pre) (b : SReg) (c : SReg)
  /-- CAPX (R314). Hands over or ends a capability region. -/
  | capx (x : Pre) (b : SReg) (c : SReg)
  /-- CAPQ (R315). Queries a region's holder. -/
  | capq (x : Pre) (a : SReg) (b : SReg)
  /-- MSEND (R316). Sends a message to a thread's message register. -/
  | msend (x : Pre) (a : SReg) (b : SReg) (imm : Word)
  /-- MRECV (R317). Waits for and receives a message. -/
  | mrecv (x : Pre) (a : SReg) (imm : Word)
  /-- MPOLL (R317). Reads the message full bits. -/
  | mpoll (x : Pre) (a : SReg)
  /-- MBWAIT (R318). Waits for at least n mailbox entries. -/
  | mbwait (x : Pre) (a : SReg) (imm : Word)
  /-- MBPOP (R318). Pops the oldest mailbox entry into a register pair. -/
  | mbpop (x : Pre) (a : SReg)
  /-- COPY (R319). Passes a request to the copy engine, stalling while the FIFO is full. -/
  | copy (x : Pre) (a : SReg) (b : SReg)
  /-- COPYB (R319). Passes a request to the copy engine, or returns 1 when the FIFO is full. -/
  | copyb (x : Pre) (a : SReg) (b : SReg)
  /-- CFET (R320). Fetches 4 KiB into an instruction segment. -/
  | cfet (x : Pre) (a : SReg) (b : SReg) (c : SReg)
  /-- CFETB (R320). Segment fetch that reports a full FIFO instead of stalling. -/
  | cfetb (x : Pre) (a : SReg) (b : SReg) (c : SReg)
  /-- GANG (R321). Forms a gang once every member has issued it. -/
  | gang (x : Pre) (imm : Word)
  /-- SPLIT (R322). Dissolves the gang. -/
  | split (x : Pre)
  /-- THSTART (R323). Starts a thread set of the crew. -/
  | thstart (x : Pre) (a : SReg) (b : SReg) (c : SReg)
  /-- THSTOP (R324). Stops a thread set. -/
  | thstop (x : Pre) (a : SReg)
  /-- YIELD (R325). Gives up the next issue cycle. -/
  | yield (x : Pre)
  /-- HALT (R324). Stops the issuing thread. -/
  | halt (x : Pre)
  /-- BRK (R326). Raises the breakpoint cause 0x07. -/
  | brk (x : Pre) (imm : Word)
  /-- TRACE (R326). Appends a marker record to the instruction trace. -/
  | trace (x : Pre) (a : SReg)
  /-- BGTRD (R327). Reads the thread-set states or the gang information. -/
  | bgtrd (x : Pre) (a : SReg) (imm : Word)
  /-- VADD (R333). Vector integer add. -/
  | vadd (x : Pre) (a : VReg) (b : VReg) (c : VReg)
  /-- VADD_SAT (R333). Saturating vector integer add. -/
  | vaddSat (x : Pre) (a : VReg) (b : VReg) (c : VReg)
  /-- VSUB (R333). Vector integer subtract. -/
  | vsub (x : Pre) (a : VReg) (b : VReg) (c : VReg)
  /-- VSUB_SAT (R333). Saturating vector integer subtract. -/
  | vsubSat (x : Pre) (a : VReg) (b : VReg) (c : VReg)
  /-- VMUL (R333). Vector integer multiply. -/
  | vmul (x : Pre) (a : VReg) (b : VReg) (c : VReg)
  /-- VMULH (R333). High half of the signed vector product. -/
  | vmulh (x : Pre) (a : VReg) (b : VReg) (c : VReg)
  /-- VMULHN (R333). High half of the unsigned vector product. -/
  | vmulhn (x : Pre) (a : VReg) (b : VReg) (c : VReg)
  /-- VMAD (R333). Vector multiply-add into the destination. -/
  | vmad (x : Pre) (a : VReg) (b : VReg) (c : VReg)
  /-- VADDW (R334). Widening add of the low source lanes; requires XT. -/
  | vaddw (x : Pre) (a : VReg) (b : VReg) (c : VReg)
  /-- VADDWH (R334). Widening add of the high source lanes; requires XT. -/
  | vaddwh (x : Pre) (a : VReg) (b : VReg) (c : VReg)
  /-- VDOT (R334). Four-way 8-bit dot product accumulated into 32-bit lanes; requires XT. -/
  | vdot (x : Pre) (a : VReg) (b : VReg) (c : VReg)
  /-- VAND (R333). Vector AND. -/
  | vand (x : Pre) (a : VReg) (b : VReg) (c : VReg)
  /-- VOR (R333). Vector OR. -/
  | vor (x : Pre) (a : VReg) (b : VReg) (c : VReg)
  /-- VXOR (R333). Vector XOR. -/
  | vxor (x : Pre) (a : VReg) (b : VReg) (c : VReg)
  /-- VSHL (R335). Vector shift left by lanes. -/
  | vshl (x : Pre) (a : VReg) (b : VReg) (c : VReg)
  /-- VSHR (R335). Vector logical shift right by lanes. -/
  | vshr (x : Pre) (a : VReg) (b : VReg) (c : VReg)
  /-- VSAR (R335). Vector arithmetic shift right by lanes. -/
  | vsar (x : Pre) (a : VReg) (b : VReg) (c : VReg)
  /-- VSHLI (R335). Vector shift left by an immediate. -/
  | vshli (x : Pre) (a : VReg) (b : VReg) (imm : Word)
  /-- VSHRI (R335). Vector logical shift right by an immediate. -/
  | vshri (x : Pre) (a : VReg) (b : VReg) (imm : Word)
  /-- VSARI (R335). Vector arithmetic shift right by an immediate. -/
  | vsari (x : Pre) (a : VReg) (b : VReg) (imm : Word)
  /-- VMIN (R333). Vector signed minimum. -/
  | vmin (x : Pre) (a : VReg) (b : VReg) (c : VReg)
  /-- VMINN (R333). Vector unsigned minimum. -/
  | vminn (x : Pre) (a : VReg) (b : VReg) (c : VReg)
  /-- VMAX (R333). Vector signed maximum. -/
  | vmax (x : Pre) (a : VReg) (b : VReg) (c : VReg)
  /-- VMAXN (R333). Vector unsigned maximum. -/
  | vmaxn (x : Pre) (a : VReg) (b : VReg) (c : VReg)
  /-- VABS (R333). Vector absolute value. -/
  | vabs (x : Pre) (a : VReg) (b : VReg)
  /-- VCMPEQ (R336). Vector equality compare into a mask. -/
  | vcmpeq (x : Pre) (a : KReg) (b : VReg) (c : VReg)
  /-- VCMPNE (R336). Vector inequality compare into a mask. -/
  | vcmpne (x : Pre) (a : KReg) (b : VReg) (c : VReg)
  /-- VCMPLT (R336). Vector signed less-than compare. -/
  | vcmplt (x : Pre) (a : KReg) (b : VReg) (c : VReg)
  /-- VCMPLTN (R336). Vector unsigned less-than compare. -/
  | vcmpltn (x : Pre) (a : KReg) (b : VReg) (c : VReg)
  /-- VCMPLE (R336). Vector signed less-or-equal compare. -/
  | vcmple (x : Pre) (a : KReg) (b : VReg) (c : VReg)
  /-- VCMPLEN (R336). Vector unsigned less-or-equal compare. -/
  | vcmplen (x : Pre) (a : KReg) (b : VReg) (c : VReg)
  /-- VSEL (R337). Selects lanes by a mask. -/
  | vsel (x : Pre) (a : VReg) (b : VReg) (c : VReg)
  /-- VBCAST (R337). Broadcasts a scalar to every lane. -/
  | vbcast (x : Pre) (a : VReg) (b : SReg)
  /-- VEXTR (R337). Extracts a lane into a scalar register. -/
  | vextr (x : Pre) (a : SReg) (b : VReg) (imm : Word)
  /-- VINS (R337). Inserts a scalar into a lane. -/
  | vins (x : Pre) (a : VReg) (b : SReg) (imm : Word)
  /-- VLANE (R337). Writes base + i into each lane. -/
  | vlane (x : Pre) (a : VReg) (imm : Word)
  /-- VFADD (R338). Vector floating add. -/
  | vfadd (x : Pre) (a : VReg) (b : VReg) (c : VReg)
  /-- VFSUB (R338). Vector floating subtract. -/
  | vfsub (x : Pre) (a : VReg) (b : VReg) (c : VReg)
  /-- VFMUL (R338). Vector floating multiply. -/
  | vfmul (x : Pre) (a : VReg) (b : VReg) (c : VReg)
  /-- VFMA (R338). Vector fused multiply-add. -/
  | vfma (x : Pre) (a : VReg) (b : VReg) (c : VReg)
  /-- VFNMA (R338). Vector fused negated multiply-add, z - x * y. -/
  | vfnma (x : Pre) (a : VReg) (b : VReg) (c : VReg)
  /-- VFMIN (R339). Vector minimumNumber. -/
  | vfmin (x : Pre) (a : VReg) (b : VReg) (c : VReg)
  /-- VFMAX (R339). Vector maximumNumber. -/
  | vfmax (x : Pre) (a : VReg) (b : VReg) (c : VReg)
  /-- VFABS (R339). Clears each lane's sign bit. -/
  | vfabs (x : Pre) (a : VReg) (b : VReg)
  /-- VFNEG (R339). Inverts each lane's sign bit. -/
  | vfneg (x : Pre) (a : VReg) (b : VReg)
  /-- VFCMPEQ (R339). Vector floating equality compare. -/
  | vfcmpeq (x : Pre) (a : KReg) (b : VReg) (c : VReg)
  /-- VFCMPLT (R339). Vector floating less-than compare. -/
  | vfcmplt (x : Pre) (a : KReg) (b : VReg) (c : VReg)
  /-- VFCMPLE (R339). Vector floating less-or-equal compare. -/
  | vfcmple (x : Pre) (a : KReg) (b : VReg) (c : VReg)
  /-- VFDIV (R202). Correctly rounded vector divide. -/
  | vfdiv (x : Pre) (a : VReg) (b : VReg) (c : VReg)
  /-- VFSQRT (R202). Correctly rounded vector square root. -/
  | vfsqrt (x : Pre) (a : VReg) (b : VReg)
  /-- VFRCP (R202). Correctly rounded vector reciprocal. -/
  | vfrcp (x : Pre) (a : VReg) (b : VReg)
  /-- VFRSQ (R202). Correctly rounded vector reciprocal square root. -/
  | vfrsq (x : Pre) (a : VReg) (b : VReg)
  /-- VCVT (R340). Converts lanes between types, part by part. -/
  | vcvt (x : Pre) (a : VReg) (b : VReg) (c : Fin 8)
  /-- VPACK (R341). Narrows two registers into one; requires XT. -/
  | vpack (x : Pre) (a : VReg) (b : VReg) (c : VReg)
  /-- VUNPK (R341). Widens the low half of a register; requires XT. -/
  | vunpk (x : Pre) (a : VReg) (b : VReg)
  /-- VUNPKH (R341). Widens the high half of a register; requires XT. -/
  | vunpkh (x : Pre) (a : VReg) (b : VReg)
  /-- VPERM (R342). Permutes lanes by an index vector. -/
  | vperm (x : Pre) (a : VReg) (b : VReg) (c : VReg)
  /-- VSLIDEUP (R342). Slides lanes up by n. -/
  | vslideup (x : Pre) (a : VReg) (b : VReg) (imm : Word)
  /-- VSLIDEDN (R342). Slides lanes down by n. -/
  | vslidedn (x : Pre) (a : VReg) (b : VReg) (imm : Word)
  /-- VZIP (R343). Interleaves the low halves of two registers. -/
  | vzip (x : Pre) (a : VReg) (b : VReg) (c : VReg)
  /-- VZIPH (R343). Interleaves the high halves of two registers. -/
  | vziph (x : Pre) (a : VReg) (b : VReg) (c : VReg)
  /-- VUNZIP (R343). Gathers the even lanes. -/
  | vunzip (x : Pre) (a : VReg) (b : VReg) (c : VReg)
  /-- VUNZIPO (R343). Gathers the odd lanes. -/
  | vunzipo (x : Pre) (a : VReg) (b : VReg) (c : VReg)
  /-- VTRN (R343). Transposes the even lane pairs. -/
  | vtrn (x : Pre) (a : VReg) (b : VReg) (c : VReg)
  /-- VTRN2 (R343). Transposes the odd lane pairs. -/
  | vtrn2 (x : Pre) (a : VReg) (b : VReg) (c : VReg)
  /-- VSCAN (R344). Inclusive prefix sum. -/
  | vscan (x : Pre) (a : VReg) (b : VReg)
  /-- VSCANX (R344). Exclusive prefix sum. -/
  | vscanx (x : Pre) (a : VReg) (b : VReg)
  /-- VRED (R345). Integer sum reduction into lane 0. -/
  | vred (x : Pre) (a : VReg) (b : VReg)
  /-- VREDW (R345). Widening integer sum reduction; requires XT. -/
  | vredw (x : Pre) (a : VReg) (b : VReg)
  /-- VREDMAX (R345). Signed maximum reduction. -/
  | vredmax (x : Pre) (a : VReg) (b : VReg)
  /-- VREDMAXN (R345). Unsigned maximum reduction. -/
  | vredmaxn (x : Pre) (a : VReg) (b : VReg)
  /-- VFRED (R346). Floating sum reduction by a pairwise tree. -/
  | vfred (x : Pre) (a : VReg) (b : VReg)
  /-- VFREDMAX (R346). Floating maximum reduction by a tree. -/
  | vfredmax (x : Pre) (a : VReg) (b : VReg)
  /-- KAND (R347). Mask AND. -/
  | kand (x : Pre) (a : KReg) (b : KReg) (c : KReg)
  /-- KOR (R347). Mask OR. -/
  | kor (x : Pre) (a : KReg) (b : KReg) (c : KReg)
  /-- KNOT (R347). Mask NOT. -/
  | knot (x : Pre) (a : KReg) (b : KReg)
  /-- KPOPC (R347). Counts the mask's 1 bits. -/
  | kpopc (x : Pre) (a : SReg) (b : KReg)
  /-- KFIRST (R347). Writes the index of the mask's lowest 1 bit. -/
  | kfirst (x : Pre) (a : SReg) (b : KReg)
  /-- KMOV (R347). Moves a scalar into a mask. -/
  | kmov (x : Pre) (a : KReg) (b : SReg)
  /-- KMOVS (R347). Moves a mask into a scalar. -/
  | kmovs (x : Pre) (a : SReg) (b : KReg)
  /-- YSEED (R369). Loads a key slot from a descriptor. -/
  | yseed (x : Pre) (a : Fin 8) (b : SReg)
  /-- YDRAW (R370). Draws 16 lazy-uniform lanes and advances DRAWCTR. -/
  | ydraw (x : Pre) (a : YReg) (b : Fin 8)
  /-- YCMP (R371). Decides U < threshold lane by lane into a mask. -/
  | ycmp (x : Pre) (a : KReg) (b : YReg) (c : VReg)
  /-- YCMPY (R372). Decides U_b < U_c lane by lane. -/
  | ycmpy (x : Pre) (a : KReg) (b : YReg) (c : YReg)
  /-- YRND (R373). Rounds lanes stochastically. -/
  | yrnd (x : Pre) (a : VReg) (b : VReg) (c : YReg)
  /-- YCVT (R374). Writes the f32 value of U. -/
  | ycvt (x : Pre) (a : VReg) (b : YReg)
  /-- YMOV (R374). Copies lazy-uniform lanes. -/
  | ymov (x : Pre) (a : YReg) (b : YReg)
  /-- YSTAT (R374). Writes the state of each lane into a vector. -/
  | ystat (x : Pre) (a : VReg) (b : YReg) (c : Fin 8)
  /-- YST (R375). Stores a lazy-uniform register as 512 bytes. -/
  | yst (x : Pre) (a : YReg) (b : SReg) (imm : Word)
  /-- YLD (R375). Loads and checks a lazy-uniform register. -/
  | yld (x : Pre) (a : YReg) (b : SReg) (imm : Word)
  /-- VEXP2 (R376). Vector exp2. -/
  | vexp2 (x : Pre) (a : VReg) (b : VReg)
  /-- VLOG2 (R376). Vector log2. -/
  | vlog2 (x : Pre) (a : VReg) (b : VReg)
  /-- VTANH (R376). Vector tanh. -/
  | vtanh (x : Pre) (a : VReg) (b : VReg)
  /-- VSINPI (R376). Vector sin(pi x). -/
  | vsinpi (x : Pre) (a : VReg) (b : VReg)
  /-- VCOSPI (R376). Vector cos(pi x). -/
  | vcospi (x : Pre) (a : VReg) (b : VReg)
  /-- OCLM (R353). Claims a range of operand slots. -/
  | oclm (x : Pre) (a : SReg) (b : OReg) (imm : Word)
  /-- OREL (R353). Releases operand slots. -/
  | orel (x : Pre) (b : OReg) (imm : Word)
  /-- OLD (R355). Loads a slot line by line with role A. -/
  | old (x : Pre) (a : OReg) (b : SReg) (c : SReg)
  /-- OLDB (R355). Loads a slot line by line with role B. -/
  | oldb (x : Pre) (a : OReg) (b : SReg) (c : SReg)
  /-- OLDT (R355). Loads a slot transposed with role A. -/
  | oldt (x : Pre) (a : OReg) (b : SReg) (c : SReg)
  /-- OLDTB (R355). Loads a slot transposed with role B. -/
  | oldtb (x : Pre) (a : OReg) (b : SReg) (c : SReg)
  /-- OSWAP (R356). Exchanges a slot with the mirrored core. -/
  | oswap (x : Pre) (a : OReg) (b : SReg)
  /-- OST (R355). Stores a slot. -/
  | ost (x : Pre) (a : OReg) (b : SReg) (c : SReg)
  /-- ZCLR (R357). Clears an accumulator. -/
  | zclr (x : Pre) (a : ZReg)
  /-- ZST (R357). Stores an accumulator. -/
  | zst (x : Pre) (a : ZReg) (b : SReg) (c : SReg)
  /-- ZLD (R357). Loads an accumulator. -/
  | zld (x : Pre) (a : ZReg) (b : SReg) (c : SReg)
  /-- ZMOVV (R358). Converts part of an accumulator row into a vector. -/
  | zmovv (x : Pre) (a : VReg) (b : ZReg) (c : SReg)
  /-- MWAIT (R362). Waits for the thread's earlier matrix commands and acquires their writes. -/
  | mwait (x : Pre)
  /-- MSTAT (R363). Reads matrix status. -/
  | mstat (x : Pre) (a : SReg) (imm : Word)
  /-- MMA_BF (R360). bf16 multiply-accumulate. -/
  | mmaBf (x : Pre) (a : ZReg) (b : OReg) (c : OReg)
  /-- MMA_BF_OW (R360). bf16 multiply with overwrite. -/
  | mmaBfOw (x : Pre) (a : ZReg) (b : OReg) (c : OReg)
  /-- MMA_HF (R360). f16 multiply-accumulate. -/
  | mmaHf (x : Pre) (a : ZReg) (b : OReg) (c : OReg)
  /-- MMA_HF_OW (R360). f16 multiply with overwrite. -/
  | mmaHfOw (x : Pre) (a : ZReg) (b : OReg) (c : OReg)
  /-- MMA_F32 (R360). f32 multiply-accumulate. -/
  | mmaF32 (x : Pre) (a : ZReg) (b : OReg) (c : OReg)
  /-- MMA_F32_OW (R360). f32 multiply with overwrite. -/
  | mmaF32Ow (x : Pre) (a : ZReg) (b : OReg) (c : OReg)
  /-- MMA_E4 (R360). e4m3 multiply-accumulate. -/
  | mmaE4 (x : Pre) (a : ZReg) (b : OReg) (c : OReg)
  /-- MMA_E4_OW (R360). e4m3 multiply with overwrite. -/
  | mmaE4Ow (x : Pre) (a : ZReg) (b : OReg) (c : OReg)
  /-- MMA_E5 (R360). e5m2 multiply-accumulate. -/
  | mmaE5 (x : Pre) (a : ZReg) (b : OReg) (c : OReg)
  /-- MMA_E5_OW (R360). e5m2 multiply with overwrite. -/
  | mmaE5Ow (x : Pre) (a : ZReg) (b : OReg) (c : OReg)
  /-- MMA_E45 (R360). e4m3 by e5m2 multiply-accumulate. -/
  | mmaE45 (x : Pre) (a : ZReg) (b : OReg) (c : OReg)
  /-- MMA_E45_OW (R360). e4m3 by e5m2 multiply with overwrite. -/
  | mmaE45Ow (x : Pre) (a : ZReg) (b : OReg) (c : OReg)
  /-- MMA_I8 (R360). 8-bit integer multiply-accumulate. -/
  | mmaI8 (x : Pre) (a : ZReg) (b : OReg) (c : OReg) (d : Fin 16)
  /-- MMA_I8_OW (R360). 8-bit integer multiply with overwrite. -/
  | mmaI8Ow (x : Pre) (a : ZReg) (b : OReg) (c : OReg) (d : Fin 16)
  /-- MMA_I4 (R360). 4-bit integer multiply-accumulate. -/
  | mmaI4 (x : Pre) (a : ZReg) (b : OReg) (c : OReg) (d : Fin 16)
  /-- MMA_I4_OW (R360). 4-bit integer multiply with overwrite. -/
  | mmaI4Ow (x : Pre) (a : ZReg) (b : OReg) (c : OReg) (d : Fin 16)
  /-- MMA_Q8 (R200). Scaled q8 multiply-accumulate; requires XR. -/
  | mmaQ8 (x : Pre) (a : ZReg) (b : OReg) (c : OReg) (d : Fin 16)
  /-- MMA_Q8_OW (R200). Scaled q8 multiply with overwrite; requires XR. -/
  | mmaQ8Ow (x : Pre) (a : ZReg) (b : OReg) (c : OReg) (d : Fin 16)
  /-- MMA_Q4Q8 (R200). Scaled q4 by q8 multiply-accumulate; requires XR. -/
  | mmaQ4q8 (x : Pre) (a : ZReg) (b : OReg) (c : OReg) (d : Fin 16)
  /-- MMA_Q4Q8_OW (R200). Scaled q4 by q8 multiply with overwrite; requires XR. -/
  | mmaQ4q8Ow (x : Pre) (a : ZReg) (b : OReg) (c : OReg) (d : Fin 16)
  /-- MMA_Q4 (R200). Scaled q4 multiply-accumulate; requires XR. -/
  | mmaQ4 (x : Pre) (a : ZReg) (b : OReg) (c : OReg) (d : Fin 16)
  /-- MMA_Q4_OW (R200). Scaled q4 multiply with overwrite; requires XR. -/
  | mmaQ4Ow (x : Pre) (a : ZReg) (b : OReg) (c : OReg) (d : Fin 16)
  /-- PDECL (R381). Declares a partition and builds its lap plan. -/
  | pdecl (x : Pre) (a : Fin 8) (b : SReg) (c : Fin 8)
  /-- PFREE (R382). Marks a partition for freeing. -/
  | pfree (x : Pre) (a : Fin 8)
  /-- PINFO (R385). Reads an item of partition information. -/
  | pinfo (x : Pre) (a : SReg) (b : Fin 8) (c : SReg)
  /-- LAPX (R383). Marks a partition for refresh. -/
  | lapx (x : Pre) (a : Fin 8)
  /-- LAPW (R384). Waits until the named slabs have landed. -/
  | lapw (x : Pre) (a : Fin 8) (b : SReg)
  /-- RIDGE (R386). Arrives at a ridge and waits for its release. -/
  | ridge (x : Pre) (a : SReg) (imm : Word) (d : Fin 16)
  /-- RIDGEA (R386). Arrives at a ridge and continues. -/
  | ridgea (x : Pre) (imm : Word) (d : Fin 16)
  /-- RIDGEW (R386). Waits for the core's latest arrival to be released and its window to close. -/
  | ridgew (x : Pre) (a : SReg) (imm : Word)
  /-- XTT (R388). Installs an exchange timetable. -/
  | xtt (x : Pre) (b : SReg)
  /-- SLDECL (R389). Declares or frees a slice reduce region. -/
  | sldecl (x : Pre) (b : SReg) (c : SReg)
  /-- RADD (R391). Sends one element contribution to a slice. -/
  | radd (x : Pre) (b : SReg) (c : SReg)
  /-- RADDV (R391). Sends a 64-byte vector contribution to a slice. -/
  | raddv (x : Pre) (b : SReg) (c : VReg)
  /-- AMRG (R392). Sends one chunk of an attention-merge contribution. -/
  | amrg (x : Pre) (a : SReg) (b : SReg) (c : VReg) (d : Fin 16)
  /-- RFOLD (R393). Folds a region's accumulators into memory. -/
  | rfold (x : Pre) (b : SReg)
  /-- RST (R396). Remote store into a peer's posted buffer. -/
  | rst (x : Pre) (b : SReg)
  /-- RFAA (R397). Remote fetch-and-add. -/
  | rfaa (x : Pre) (b : SReg)
  /-- RFENCE (R398). Remote flag write ordered after earlier RSTs to the peer. -/
  | rfence (x : Pre) (b : SReg)
  /-- TRIG (R399). Arms an operation on a counter threshold. -/
  | trig (x : Pre) (a : SReg) (b : SReg) (c : HReg) (d : Fin 16)
  /-- HCNT (R400). Adds to a trigger counter. -/
  | hcnt (x : Pre) (a : SReg) (b : SReg) (c : HReg)
  /-- HCNTS (R400). Subtracts from a trigger counter. -/
  | hcnts (x : Pre) (a : SReg) (b : SReg) (c : HReg)
  /-- HWAIT (R401). Waits for a counter to reach a threshold and acquires the counted chunks. -/
  | hwait (x : Pre) (a : SReg) (b : SReg) (c : HReg)
  /-- CPOST (R402). Posts a receive buffer and returns its handle. -/
  | cpost (x : Pre) (a : SReg) (b : SReg) (c : SReg)
  /-- CREVOKE (R403). Revokes a posted buffer. -/
  | crevoke (x : Pre) (a : SReg)
  deriving DecidableEq, Repr

end Sys2Proof
end

