-- ==== Sys2Proof/Machine/Forms.lean ====
section
/-!
DEFINITION. The opcode map of R263 with what each instruction accepts (R250 to R260, R268, R289, R295,
R329, R331, R351, R367, R379), and an instruction as its raw fields (`Raw`).
-/
namespace Sys2Proof

/-- The four base formats (R250). -/
inductive Fmt where
  | T | I | Z | L
  deriving DecidableEq, Repr

/-- What a field of the base word names (R251). `num n` is a number up to `n` and `level` one from 1 to 5 (R379); `no` must be zero;
`se` and `oe` are even register numbers (R293, R295, R351); `vt` is `v0` or `v16` (R299). -/
inductive Cls where
  | no | s | v | o | se | oe | m | q | h | k | y | z | vt | num (lim : Nat) | level
  deriving DecidableEq, Repr

/-- How an immediate is extended and bounded (R252 and the entries). -/
inductive ImmRule where
  /-- no immediate, or a field that must be zero -/
  | no
  /-- sign-extended -/
  | sext
  /-- zero-extended, between the bounds -/
  | zext (lo hi : Nat)
  /-- a field that the entry does not use and that may hold anything, so that no XI extends it (R260, R326) -/
  | ignored
  /-- zero-extended, below the width of `dtype` (R331) -/
  | width
  /-- zero-extended, below the lane count of `dtype` (R331) -/
  | lane
  /-- zero-extended, up to the lane count of `dtype` (R331) -/
  | slide
  deriving DecidableEq, Repr

/-- The fourth operand `d` of XR (R260, R379). -/
inductive DRule where
  /-- must be 0 -/
  | zero
  /-- XR is required -/
  | req
  /-- XR is required with `d` not 0 -/
  | nz
  /-- may be named -/
  | opt
  /-- may be named at level 6 -/
  | level6
  deriving DecidableEq, Repr

/-- The rounding modes accepted (R260). -/
inductive RndAcc where
  | rne | allButSr | all
  deriving DecidableEq, Repr

/-- What XM may name (R260). -/
inductive XmAcc where
  | no
  /-- the SR register only -/
  | yreg
  /-- a mask and `zero` -/
  | mask
  /-- a mask without `zero` (R337) -/
  | selector
  /-- a mask, `zero` and the SR register -/
  | both
  deriving DecidableEq, Repr

/-- What XS may say (R151, R260). -/
inductive XsAcc where
  | no | read | write | both | fence | row
  deriving DecidableEq, Repr

/-- What an instruction accepts of the prefixes (R260). -/
structure Acc where
  rnd : RndAcc := .rne
  sat : Bool := false
  ftzi : Bool := false
  ftzo : Bool := false
  xm : XmAcc := .no
  xt : Bool := false
  xs : XsAcc := .no
  xw : Bool := true
  deriving DecidableEq, Repr

/-- The type codes accepted (R258, R289, R297 to R311, R329, R358, R371, R373). -/
inductive TyRule where
  /-- both codes 0 -/
  | none
  /-- `dtype` of the list, `stype` 0 or equal -/
  | same (d : List Ty)
  /-- `dtype` of the list, `stype` equal -/
  | equal (d : List Ty)
  /-- each of its list -/
  | lists (d s : List Ty)
  | vaddw | vpack | vunpk | vredw | vcvt | rowAdd | ycmp | yrnd
  deriving DecidableEq, Repr

/-- One entry of the opcode map. -/
structure Row where
  op : Nat
  f : Bool
  fmt : Fmt
  a : Cls
  b : Cls
  c : Cls
  imm : ImmRule
  d : DRule
  acc : Acc
  ty : TyRule
  deriving DecidableEq, Repr

/-- An instruction as the fields of its words: page, opcode, register numbers, fourth operand, the
immediate after extension, and the prefix contents. -/
structure Raw where
  pre : Pre
  page : Nat
  op : Nat
  f : Bool
  a : Nat
  b : Nat
  c : Nat
  d : Nat
  imm : Word
  deriving DecidableEq, Repr


def accNone : Acc := {}
def accIll : Acc := { xw := false }
def accNoxw : Acc := { xw := false }
def accXsR : Acc := { xs := .read }
def accXsW : Acc := { xs := .write }
def accFpY : Acc := { rnd := .all, sat := true, ftzi := true, ftzo := true, xm := .yreg, xt := true }
def accFtziT : Acc := { ftzi := true, xt := true }
def accVmemR : Acc := { xm := .mask, xt := true, xs := .read }
def accVmemW : Acc := { xm := .mask, xt := true, xs := .write }
def accXtxsR : Acc := { xt := true, xs := .read }
def accXtxsRW : Acc := { xt := true, xs := .both }
def accFence : Acc := { xs := .fence }
def accRow : Acc := { xt := true, xs := .row }
def accRowadd : Acc := { rnd := .all, sat := true, ftzi := true, ftzo := true, xm := .yreg, xt := true, xs := .row }
def accMask : Acc := { xm := .mask, xt := true }
def accMaskSat : Acc := { sat := true, xm := .mask, xt := true }
def accMaskNoZ : Acc := { xm := .selector, xt := true }
def accMaskNoT : Acc := { xm := .mask }
def accXt : Acc := { xt := true }
def accVfp : Acc := { rnd := .all, sat := true, ftzi := true, ftzo := true, xm := .both, xt := true }
def accMaskFtzi : Acc := { ftzi := true, xm := .mask, xt := true }
def accScan : Acc := { rnd := .allButSr, sat := true, ftzi := true, ftzo := true, xm := .mask, xt := true }
def accRedI : Acc := { sat := true, xm := .mask, xt := true }
def accFred : Acc := { rnd := .allButSr, sat := true, ftzi := true, ftzo := true, xm := .mask, xt := true }
def accYrnd : Acc := { sat := true, ftzi := true, ftzo := true, xm := .mask, xt := true }
def accVtrans : Acc := { rnd := .all, sat := true, ftzi := true, ftzo := true, xm := .both, xt := true }
def accZmovv : Acc := { rnd := .allButSr, sat := true, ftzo := true, xt := true }
def accMmaF : Acc := { rnd := .allButSr, sat := true, ftzi := true, ftzo := true }
def accMmaI : Acc := { sat := true }

def tys0 : List Ty := [.dflt, .bf16, .f16, .f32]
def tys1 : List Ty := [.dflt, .i8, .i16, .i32, .i64]
def tys2 : List Ty := [.dflt, .bf16, .f16, .f32, .e4m3, .e5m2]
def tys3 : List Ty := [.dflt, .n8, .n16, .n32, .n64]
def tys4 : List Ty := [.bf16, .f16, .f32, .e4m3, .e5m2]
def tys5 : List Ty := [.dflt, .i8, .n8, .i16, .n16, .i32, .n32, .i64, .n64, .bf16, .f16, .f32, .e4m3, .e5m2, .i4, .n4]
def tys6 : List Ty := [.dflt, .i8, .n8, .i16, .n16, .i32, .n32, .i64, .n64, .bf16, .f16, .f32, .e4m3, .e5m2]
def tys7 : List Ty := [.dflt, .i32, .n32, .f32, .i64, .n64]
def tys8 : List Ty := [.dflt, .i32, .n32, .f32]
def tys9 : List Ty := [.dflt, .i64, .n64, .i32, .n32]
def tys10 : List Ty := [.dflt]
def tys11 : List Ty := [.dflt, .i8, .n8, .i16, .n16, .i32, .n32, .i64, .n64, .i4, .n4]
def tys12 : List Ty := [.dflt, .i8, .n8, .i16, .n16, .i32, .n32, .i64, .n64]
def tys13 : List Ty := [.dflt, .i32]
def tys14 : List Ty := [.i8, .n8]
def tys15 : List Ty := [.dflt, .i64, .f32]

/-- Page 0 of the opcode map. -/
def page0 : List Row := [
  ⟨0, false, .L, .no, .no, .no, (.zext 0 (2 ^ 40)), .zero, accIll, .none⟩,
  ⟨1, false, .L, .no, .no, .no, .no, .zero, accNone, .none⟩,
  ⟨2, false, .T, .s, .s, .s, .no, .zero, accNone, .none⟩,
  ⟨2, true, .T, .s, .s, .s, .no, .zero, accNone, .none⟩,
  ⟨3, false, .T, .s, .s, .s, .no, .zero, accNone, .none⟩,
  ⟨3, true, .T, .s, .s, .s, .no, .zero, accNone, .none⟩,
  ⟨4, false, .T, .s, .s, .s, .no, .zero, accNone, .none⟩,
  ⟨5, false, .T, .s, .s, .s, .no, .zero, accNone, .none⟩,
  ⟨6, false, .T, .s, .s, .s, .no, .zero, accNone, .none⟩,
  ⟨7, false, .T, .s, .s, .s, .no, .zero, accNone, .none⟩,
  ⟨8, false, .T, .s, .s, .s, .no, .zero, accNone, .none⟩,
  ⟨8, true, .T, .s, .s, .s, .no, .zero, accNone, .none⟩,
  ⟨9, false, .T, .s, .s, .s, .no, .zero, accNone, .none⟩,
  ⟨10, false, .T, .s, .s, .s, .no, .zero, accNone, .none⟩,
  ⟨10, true, .T, .s, .s, .s, .no, .zero, accNone, .none⟩,
  ⟨11, false, .T, .s, .s, .s, .no, .zero, accNone, .none⟩,
  ⟨11, true, .T, .s, .s, .s, .no, .zero, accNone, .none⟩,
  ⟨12, false, .T, .s, .s, .s, .no, .zero, accNone, .none⟩,
  ⟨12, true, .T, .s, .s, .s, .no, .zero, accNone, .none⟩,
  ⟨13, false, .I, .s, .s, .no, .sext, .zero, accNone, .none⟩,
  ⟨14, false, .I, .s, .s, .no, .sext, .zero, accNone, .none⟩,
  ⟨15, false, .I, .s, .s, .no, (.zext 0 (2 ^ 40)), .zero, accNone, .none⟩,
  ⟨16, false, .I, .s, .s, .no, (.zext 0 (2 ^ 40)), .zero, accNone, .none⟩,
  ⟨17, false, .I, .s, .s, .no, (.zext 0 63), .zero, accNone, .none⟩,
  ⟨18, false, .I, .s, .s, .no, (.zext 0 63), .zero, accNone, .none⟩,
  ⟨19, false, .I, .s, .s, .no, (.zext 0 63), .zero, accNone, .none⟩,
  ⟨20, false, .Z, .s, .no, .no, .sext, .zero, accNone, .none⟩,
  ⟨21, false, .T, .s, .s, .s, .no, .zero, accNone, .none⟩,
  ⟨21, true, .T, .s, .s, .s, .no, .zero, accNone, .none⟩,
  ⟨22, false, .T, .s, .s, .s, .no, .zero, accNone, .none⟩,
  ⟨22, true, .T, .s, .s, .s, .no, .zero, accNone, .none⟩,
  ⟨23, false, .T, .s, .s, .s, .no, .zero, accNone, .none⟩,
  ⟨23, true, .T, .s, .s, .s, .no, .zero, accNone, .none⟩,
  ⟨24, false, .T, .s, .s, .s, .no, .req, accNone, .none⟩,
  ⟨25, false, .I, .s, .s, .no, .sext, .zero, accXsR, .none⟩,
  ⟨26, false, .I, .s, .s, .no, .sext, .zero, accXsR, .none⟩,
  ⟨27, false, .I, .s, .s, .no, .sext, .zero, accXsR, .none⟩,
  ⟨28, false, .I, .s, .s, .no, .sext, .zero, accXsR, .none⟩,
  ⟨29, false, .I, .s, .s, .no, .sext, .zero, accXsR, .none⟩,
  ⟨30, false, .I, .s, .s, .no, .sext, .zero, accXsR, .none⟩,
  ⟨31, false, .I, .s, .s, .no, .sext, .zero, accXsR, .none⟩,
  ⟨32, false, .I, .s, .s, .no, .sext, .zero, accXsW, .none⟩,
  ⟨33, false, .I, .s, .s, .no, .sext, .zero, accXsW, .none⟩,
  ⟨34, false, .I, .s, .s, .no, .sext, .zero, accXsW, .none⟩,
  ⟨35, false, .I, .s, .s, .no, .sext, .zero, accXsW, .none⟩,
  ⟨36, false, .I, .s, .s, .no, .sext, .zero, accNone, .none⟩,
  ⟨37, false, .I, .s, .s, .no, .sext, .zero, accNone, .none⟩,
  ⟨38, false, .I, .s, .s, .no, .sext, .zero, accNone, .none⟩,
  ⟨39, false, .I, .s, .s, .no, .sext, .zero, accNone, .none⟩,
  ⟨40, false, .I, .s, .s, .no, .sext, .zero, accNone, .none⟩,
  ⟨41, false, .I, .s, .s, .no, .sext, .zero, accNone, .none⟩,
  ⟨42, false, .Z, .s, .no, .no, .sext, .zero, accNone, .none⟩,
  ⟨43, false, .Z, .s, .no, .no, .sext, .zero, accNone, .none⟩,
  ⟨44, false, .L, .no, .no, .no, .sext, .zero, accNone, .none⟩,
  ⟨45, false, .L, .no, .no, .no, (.zext 0 65535), .zero, accNone, .none⟩,
  ⟨46, false, .L, .no, .no, .no, .sext, .zero, accNone, .none⟩,
  ⟨47, false, .Z, .s, .no, .no, .sext, .zero, accNone, .none⟩,
  ⟨48, false, .Z, .s, .no, .no, .sext, .zero, accNone, .none⟩,
  ⟨49, false, .Z, .s, .no, .no, .sext, .zero, accNone, .none⟩,
  ⟨50, false, .Z, .s, .no, .no, .sext, .zero, accNone, .none⟩,
  ⟨51, false, .I, .s, .no, .no, (.zext 0 (2 ^ 40)), .zero, accNone, .none⟩,
  ⟨52, false, .Z, .s, .no, .no, (.zext 0 (2 ^ 40)), .zero, accNone, .none⟩,
  ⟨53, false, .Z, .s, .no, .no, (.zext 0 (2 ^ 40)), .zero, accNone, .none⟩,
  ⟨54, false, .L, .no, .no, .no, (.zext 0 31), .zero, accNoxw, .none⟩,
  ⟨55, false, .L, .no, .no, .no, .no, .zero, accNoxw, .none⟩]

/-- Page 1 of the opcode map. -/
def page1 : List Row := [
  ⟨0, false, .T, .s, .s, .no, .no, .zero, accNone, .none⟩,
  ⟨1, false, .T, .s, .s, .no, .no, .zero, accNone, .none⟩,
  ⟨2, false, .T, .s, .s, .no, .no, .zero, accNone, .none⟩,
  ⟨3, false, .T, .s, .s, .s, .no, .zero, accNone, .none⟩,
  ⟨3, true, .T, .s, .s, .s, .no, .zero, accNone, .none⟩,
  ⟨4, false, .T, .s, .s, .s, .no, .zero, accNone, .none⟩,
  ⟨4, true, .T, .s, .s, .s, .no, .zero, accNone, .none⟩,
  ⟨5, false, .I, .s, .s, .no, (.zext 0 63), .zero, accNone, .none⟩,
  ⟨6, false, .I, .s, .s, .no, (.zext 0 63), .zero, accNone, .none⟩,
  ⟨7, false, .Z, .s, .no, .no, .sext, .zero, accNone, .none⟩,
  ⟨8, false, .T, .s, .s, .s, .no, .zero, accFpY, (.equal tys0)⟩,
  ⟨9, false, .T, .s, .s, .s, .no, .zero, accFpY, (.equal tys0)⟩,
  ⟨10, false, .T, .s, .s, .s, .no, .zero, accFpY, (.equal tys0)⟩,
  ⟨11, false, .T, .s, .s, .s, .no, .zero, accFpY, (.equal tys0)⟩,
  ⟨12, false, .T, .s, .s, .s, .no, .zero, accFpY, (.equal tys0)⟩,
  ⟨13, false, .T, .s, .s, .no, .no, .zero, accFpY, (.equal tys0)⟩,
  ⟨14, false, .T, .s, .s, .s, .no, .zero, accFtziT, (.equal tys0)⟩,
  ⟨15, false, .T, .s, .s, .s, .no, .zero, accFtziT, (.equal tys0)⟩,
  ⟨16, false, .T, .s, .s, .s, .no, .zero, accFtziT, (.equal tys0)⟩,
  ⟨17, false, .T, .s, .s, .s, .no, .zero, accFtziT, (.equal tys0)⟩,
  ⟨18, false, .T, .s, .s, .s, .no, .zero, accFtziT, (.equal tys0)⟩,
  ⟨19, false, .T, .s, .s, .no, .no, .zero, accFpY, (.lists tys1 tys2)⟩,
  ⟨19, true, .T, .s, .s, .no, .no, .zero, accFpY, (.lists tys3 tys2)⟩,
  ⟨20, false, .T, .s, .s, .no, .no, .zero, accFpY, (.lists tys2 tys1)⟩,
  ⟨20, true, .T, .s, .s, .no, .no, .zero, accFpY, (.lists tys2 tys3)⟩,
  ⟨21, false, .T, .s, .s, .no, .no, .zero, accFpY, (.lists tys4 tys4)⟩,
  ⟨22, false, .T, .se, .se, .se, .no, .zero, accNone, .none⟩,
  ⟨23, false, .T, .s, .se, .no, .no, .zero, accNone, .none⟩]

/-- Page 2 of the opcode map. -/
def page2 : List Row := [
  ⟨0, false, .I, .v, .s, .no, .sext, .zero, accVmemR, (.same tys5)⟩,
  ⟨1, false, .I, .v, .s, .no, .sext, .zero, accVmemW, (.same tys5)⟩,
  ⟨2, false, .T, .v, .s, .s, .no, .zero, accVmemR, (.same tys6)⟩,
  ⟨3, false, .T, .v, .s, .s, .no, .zero, accVmemW, (.same tys6)⟩,
  ⟨4, false, .T, .v, .s, .v, .no, .zero, accVmemR, (.same tys7)⟩,
  ⟨5, false, .T, .v, .s, .v, .no, .zero, accVmemW, (.same tys7)⟩,
  ⟨6, false, .T, .vt, .s, .s, .no, .zero, accXtxsR, (.same tys8)⟩,
  ⟨7, false, .T, .s, .s, .s, .no, .zero, accNone, .none⟩,
  ⟨8, false, .T, .s, .s, .s, .no, .zero, accXtxsRW, (.lists tys9 tys10)⟩,
  ⟨9, false, .T, .s, .s, .s, .no, .zero, accXtxsRW, (.lists tys9 tys10)⟩,
  ⟨10, false, .T, .s, .s, .s, .no, .req, accXtxsRW, (.lists tys9 tys10)⟩,
  ⟨11, false, .T, .s, .s, .s, .no, .zero, accXtxsRW, (.lists tys9 tys10)⟩,
  ⟨11, true, .T, .s, .s, .s, .no, .zero, accXtxsRW, (.lists tys9 tys10)⟩,
  ⟨12, false, .T, .s, .s, .s, .no, .zero, accXtxsRW, (.lists tys9 tys10)⟩,
  ⟨12, true, .T, .s, .s, .s, .no, .zero, accXtxsRW, (.lists tys9 tys10)⟩,
  ⟨13, false, .T, .s, .s, .s, .no, .zero, accXtxsRW, (.lists tys9 tys10)⟩,
  ⟨14, false, .T, .s, .s, .s, .no, .zero, accXtxsRW, (.lists tys9 tys10)⟩,
  ⟨15, false, .Z, .no, .no, .no, .no, .zero, accFence, .none⟩,
  ⟨16, false, .T, .q, .s, .no, .no, .zero, accNone, .none⟩,
  ⟨17, false, .I, .q, .s, .no, (.zext 0 (2 ^ 40)), .zero, accNone, .none⟩,
  ⟨18, false, .I, .q, .s, .no, (.zext 0 (2 ^ 40)), .zero, accNone, .none⟩,
  ⟨19, false, .T, .s, .q, .no, .no, .zero, accNone, .none⟩,
  ⟨19, true, .T, .s, .q, .no, .no, .zero, accNone, .none⟩,
  ⟨20, false, .I, .q, .s, .no, (.zext 0 (2 ^ 40)), .zero, accNone, .none⟩,
  ⟨21, false, .I, .q, .s, .no, (.zext 0 (2 ^ 40)), .zero, accNone, .none⟩,
  ⟨22, false, .T, .v, .s, .no, .no, .zero, accNone, .none⟩,
  ⟨22, true, .T, .s, .s, .no, .no, .zero, accNone, .none⟩,
  ⟨23, false, .Z, .s, .no, .no, (.zext 0 1), .zero, accNone, .none⟩,
  ⟨24, false, .T, .s, .s, (.num 1), .no, .zero, accNone, .none⟩,
  ⟨25, false, .T, .v, .s, (.num 4), .no, .zero, accRow, (.lists tys10 tys10)⟩,
  ⟨26, false, .T, .v, .s, (.num 4), .no, .zero, accRow, (.lists tys10 tys10)⟩,
  ⟨27, false, .T, .v, .s, (.num 4), .no, .zero, accRowadd, .rowAdd⟩,
  ⟨28, false, .T, .v, .s, (.num 4), .no, .zero, accRow, (.lists tys10 tys10)⟩,
  ⟨29, false, .T, .no, .s, .s, .no, .zero, accNone, .none⟩,
  ⟨30, false, .T, .no, .s, .s, .no, .zero, accNone, .none⟩,
  ⟨31, false, .T, .s, .s, .no, .no, .zero, accNone, .none⟩]

/-- Page 3 of the opcode map. -/
def page3 : List Row := [
  ⟨0, false, .I, .s, .s, .no, (.zext 0 15), .zero, accNone, .none⟩,
  ⟨1, false, .I, .s, .no, .no, (.zext 0 15), .zero, accNone, .none⟩,
  ⟨2, false, .Z, .s, .no, .no, .no, .zero, accNone, .none⟩,
  ⟨3, false, .Z, .s, .no, .no, (.zext 0 64), .zero, accNone, .none⟩,
  ⟨4, false, .Z, .se, .no, .no, .no, .zero, accNone, .none⟩,
  ⟨5, false, .T, .s, .s, .no, .no, .zero, accNone, .none⟩,
  ⟨5, true, .T, .s, .s, .no, .no, .zero, accNone, .none⟩,
  ⟨6, false, .T, .s, .s, .s, .no, .zero, accNone, .none⟩,
  ⟨6, true, .T, .s, .s, .s, .no, .zero, accNone, .none⟩,
  ⟨7, false, .I, .no, .no, .no, (.zext 1 4), .zero, accNone, .none⟩,
  ⟨8, false, .Z, .no, .no, .no, .no, .zero, accNone, .none⟩,
  ⟨9, false, .T, .s, .s, .s, .no, .zero, accNone, .none⟩,
  ⟨10, false, .Z, .s, .no, .no, .no, .zero, accNone, .none⟩,
  ⟨11, false, .L, .no, .no, .no, .no, .zero, accNone, .none⟩,
  ⟨12, false, .L, .no, .no, .no, .no, .zero, accNone, .none⟩,
  ⟨13, false, .L, .no, .no, .no, .ignored, .zero, accNoxw, .none⟩,
  ⟨14, false, .Z, .s, .no, .no, .no, .zero, accNone, .none⟩,
  ⟨15, false, .Z, .s, .no, .no, (.zext 0 1), .zero, accNone, .none⟩]

/-- Page 4 of the opcode map. -/
def page4 : List Row := [
  ⟨0, false, .T, .v, .v, .v, .no, .zero, accMask, (.same tys11)⟩,
  ⟨0, true, .T, .v, .v, .v, .no, .zero, accMask, (.same tys11)⟩,
  ⟨1, false, .T, .v, .v, .v, .no, .zero, accMask, (.same tys11)⟩,
  ⟨1, true, .T, .v, .v, .v, .no, .zero, accMask, (.same tys11)⟩,
  ⟨2, false, .T, .v, .v, .v, .no, .zero, accMaskSat, (.same tys12)⟩,
  ⟨3, false, .T, .v, .v, .v, .no, .zero, accMask, (.same tys12)⟩,
  ⟨3, true, .T, .v, .v, .v, .no, .zero, accMask, (.same tys12)⟩,
  ⟨4, false, .T, .v, .v, .v, .no, .zero, accMaskSat, (.same tys12)⟩,
  ⟨5, false, .T, .v, .v, .v, .no, .zero, accMaskSat, .vaddw⟩,
  ⟨5, true, .T, .v, .v, .v, .no, .zero, accMaskSat, .vaddw⟩,
  ⟨6, false, .T, .v, .v, .v, .no, .zero, accMaskSat, (.lists tys13 tys14)⟩,
  ⟨7, false, .T, .v, .v, .v, .no, .zero, accMask, (.same tys5)⟩,
  ⟨8, false, .T, .v, .v, .v, .no, .zero, accMask, (.same tys5)⟩,
  ⟨9, false, .T, .v, .v, .v, .no, .zero, accMask, (.same tys5)⟩,
  ⟨10, false, .T, .v, .v, .v, .no, .zero, accMask, (.same tys12)⟩,
  ⟨11, false, .T, .v, .v, .v, .no, .zero, accMask, (.same tys12)⟩,
  ⟨11, true, .T, .v, .v, .v, .no, .zero, accMask, (.same tys12)⟩,
  ⟨12, false, .I, .v, .v, .no, .width, .zero, accMask, (.same tys12)⟩,
  ⟨13, false, .I, .v, .v, .no, .width, .zero, accMask, (.same tys12)⟩,
  ⟨14, false, .I, .v, .v, .no, .width, .zero, accMask, (.same tys12)⟩,
  ⟨15, false, .T, .v, .v, .v, .no, .zero, accMask, (.same tys12)⟩,
  ⟨15, true, .T, .v, .v, .v, .no, .zero, accMask, (.same tys12)⟩,
  ⟨16, false, .T, .v, .v, .v, .no, .zero, accMask, (.same tys12)⟩,
  ⟨16, true, .T, .v, .v, .v, .no, .zero, accMask, (.same tys12)⟩,
  ⟨17, false, .T, .v, .v, .no, .no, .zero, accMask, (.same tys12)⟩,
  ⟨18, false, .T, .k, .v, .v, .no, .zero, accMask, (.same tys12)⟩,
  ⟨18, true, .T, .k, .v, .v, .no, .zero, accMask, (.same tys12)⟩,
  ⟨19, false, .T, .k, .v, .v, .no, .zero, accMask, (.same tys12)⟩,
  ⟨19, true, .T, .k, .v, .v, .no, .zero, accMask, (.same tys12)⟩,
  ⟨20, false, .T, .k, .v, .v, .no, .zero, accMask, (.same tys12)⟩,
  ⟨20, true, .T, .k, .v, .v, .no, .zero, accMask, (.same tys12)⟩,
  ⟨21, false, .T, .v, .v, .v, .no, .zero, accMaskNoZ, (.same tys5)⟩,
  ⟨22, false, .T, .v, .s, .no, .no, .zero, accMask, (.same tys6)⟩,
  ⟨23, false, .I, .s, .v, .no, .lane, .zero, accXt, (.same tys6)⟩,
  ⟨24, false, .I, .v, .s, .no, .lane, .zero, accXt, (.same tys6)⟩,
  ⟨25, false, .Z, .v, .no, .no, .sext, .zero, accXt, (.same tys12)⟩]

/-- Page 5 of the opcode map. -/
def page5 : List Row := [
  ⟨0, false, .T, .v, .v, .v, .no, .zero, accVfp, (.same tys2)⟩,
  ⟨1, false, .T, .v, .v, .v, .no, .zero, accVfp, (.same tys2)⟩,
  ⟨2, false, .T, .v, .v, .v, .no, .zero, accVfp, (.same tys2)⟩,
  ⟨3, false, .T, .v, .v, .v, .no, .zero, accVfp, (.same tys2)⟩,
  ⟨4, false, .T, .v, .v, .v, .no, .zero, accVfp, (.same tys2)⟩,
  ⟨12, false, .T, .v, .v, .v, .no, .zero, accVfp, (.same tys2)⟩,
  ⟨5, false, .T, .v, .v, .v, .no, .zero, accMaskFtzi, (.same tys2)⟩,
  ⟨6, false, .T, .v, .v, .v, .no, .zero, accMaskFtzi, (.same tys2)⟩,
  ⟨7, false, .T, .v, .v, .no, .no, .zero, accMask, (.same tys2)⟩,
  ⟨8, false, .T, .v, .v, .no, .no, .zero, accMask, (.same tys2)⟩,
  ⟨9, false, .T, .k, .v, .v, .no, .zero, accMaskFtzi, (.same tys2)⟩,
  ⟨10, false, .T, .k, .v, .v, .no, .zero, accMaskFtzi, (.same tys2)⟩,
  ⟨11, false, .T, .k, .v, .v, .no, .zero, accMaskFtzi, (.same tys2)⟩,
  ⟨13, false, .T, .v, .v, .no, .no, .zero, accVfp, (.same tys2)⟩,
  ⟨14, false, .T, .v, .v, .no, .no, .zero, accVfp, (.same tys2)⟩,
  ⟨15, false, .T, .v, .v, .no, .no, .zero, accVfp, (.same tys2)⟩]

/-- Page 6 of the opcode map. -/
def page6 : List Row := [
  ⟨0, false, .T, .v, .v, (.num 7), .no, .zero, accVfp, .vcvt⟩,
  ⟨1, false, .T, .v, .v, .v, .no, .zero, accMaskSat, .vpack⟩,
  ⟨2, false, .T, .v, .v, .no, .no, .zero, accMask, .vunpk⟩,
  ⟨2, true, .T, .v, .v, .no, .no, .zero, accMask, .vunpk⟩,
  ⟨3, false, .T, .v, .v, .v, .no, .zero, accMask, (.same tys6)⟩,
  ⟨4, false, .I, .v, .v, .no, .slide, .zero, accMask, (.same tys6)⟩,
  ⟨5, false, .I, .v, .v, .no, .slide, .zero, accMask, (.same tys6)⟩,
  ⟨6, false, .T, .v, .v, .v, .no, .zero, accMask, (.same tys6)⟩,
  ⟨6, true, .T, .v, .v, .v, .no, .zero, accMask, (.same tys6)⟩,
  ⟨7, false, .T, .v, .v, .v, .no, .zero, accMask, (.same tys6)⟩,
  ⟨7, true, .T, .v, .v, .v, .no, .zero, accMask, (.same tys6)⟩,
  ⟨8, false, .T, .v, .v, .v, .no, .zero, accMask, (.same tys6)⟩,
  ⟨8, true, .T, .v, .v, .v, .no, .zero, accMask, (.same tys6)⟩,
  ⟨9, false, .T, .v, .v, .no, .no, .zero, accScan, (.same tys6)⟩,
  ⟨9, true, .T, .v, .v, .no, .no, .zero, accScan, (.same tys6)⟩,
  ⟨10, false, .T, .v, .v, .no, .no, .zero, accRedI, (.same tys12)⟩,
  ⟨10, true, .T, .v, .v, .no, .no, .zero, accRedI, .vredw⟩,
  ⟨11, false, .T, .v, .v, .no, .no, .zero, accMask, (.same tys12)⟩,
  ⟨11, true, .T, .v, .v, .no, .no, .zero, accMask, (.same tys12)⟩,
  ⟨12, false, .T, .v, .v, .no, .no, .zero, accFred, (.same tys2)⟩,
  ⟨13, false, .T, .v, .v, .no, .no, .zero, accMaskFtzi, (.same tys2)⟩,
  ⟨14, false, .T, .k, .k, .k, .no, .zero, accNone, .none⟩,
  ⟨15, false, .T, .k, .k, .k, .no, .zero, accNone, .none⟩,
  ⟨16, false, .T, .k, .k, .no, .no, .zero, accNone, .none⟩,
  ⟨17, false, .T, .s, .k, .no, .no, .zero, accNone, .none⟩,
  ⟨18, false, .T, .s, .k, .no, .no, .zero, accNone, .none⟩,
  ⟨19, false, .T, .k, .s, .no, .no, .zero, accNone, .none⟩,
  ⟨19, true, .T, .s, .k, .no, .no, .zero, accNone, .none⟩]

/-- Page 7 of the opcode map. -/
def page7 : List Row := [
  ⟨0, false, .T, (.num 7), .s, .no, .no, .zero, accNone, .none⟩,
  ⟨1, false, .T, .y, (.num 7), .no, .no, .zero, accNone, .none⟩,
  ⟨2, false, .T, .k, .y, .v, .no, .zero, accMaskFtzi, .ycmp⟩,
  ⟨3, false, .T, .k, .y, .y, .no, .zero, accMaskNoT, .none⟩,
  ⟨4, false, .T, .v, .v, .y, .no, .zero, accYrnd, .yrnd⟩,
  ⟨5, false, .T, .v, .y, .no, .no, .zero, accMaskNoT, .none⟩,
  ⟨6, false, .T, .y, .y, .no, .no, .zero, accMaskNoT, .none⟩,
  ⟨7, false, .T, .v, .y, (.num 2), .no, .zero, accNone, .none⟩,
  ⟨8, false, .I, .y, .s, .no, .sext, .zero, accNone, .none⟩,
  ⟨9, false, .I, .y, .s, .no, .sext, .zero, accNone, .none⟩,
  ⟨10, false, .T, .v, .v, .no, .no, .zero, accVtrans, (.same tys2)⟩,
  ⟨11, false, .T, .v, .v, .no, .no, .zero, accVtrans, (.same tys2)⟩,
  ⟨12, false, .T, .v, .v, .no, .no, .zero, accVtrans, (.same tys2)⟩,
  ⟨13, false, .T, .v, .v, .no, .no, .zero, accVtrans, (.same tys2)⟩,
  ⟨14, false, .T, .v, .v, .no, .no, .zero, accVtrans, (.same tys2)⟩]

/-- Page 8 of the opcode map. -/
def page8 : List Row := [
  ⟨0, false, .I, .s, .o, .no, (.zext 0 31), .zero, accNone, .none⟩,
  ⟨1, false, .I, .no, .o, .no, (.zext 0 31), .zero, accNone, .none⟩,
  ⟨2, false, .T, .o, .s, .s, .no, .zero, accNone, .none⟩,
  ⟨2, true, .T, .o, .s, .s, .no, .zero, accNone, .none⟩,
  ⟨3, false, .T, .o, .s, .s, .no, .zero, accNone, .none⟩,
  ⟨3, true, .T, .o, .s, .s, .no, .zero, accNone, .none⟩,
  ⟨4, false, .T, .o, .s, .no, .no, .zero, accNone, .none⟩,
  ⟨5, false, .T, .o, .s, .s, .no, .zero, accNone, .none⟩,
  ⟨6, false, .Z, .z, .no, .no, .no, .zero, accNone, .none⟩,
  ⟨7, false, .T, .z, .s, .s, .no, .zero, accNone, .none⟩,
  ⟨8, false, .T, .z, .s, .s, .no, .zero, accNone, .none⟩,
  ⟨9, false, .T, .v, .z, .s, .no, .zero, accZmovv, (.lists tys6 tys15)⟩,
  ⟨10, false, .L, .no, .no, .no, .no, .zero, accNone, .none⟩,
  ⟨11, false, .Z, .s, .no, .no, (.zext 0 3), .zero, accNone, .none⟩]

/-- Page 9 of the opcode map. -/
def page9 : List Row := [
  ⟨0, false, .T, .z, .o, .oe, .no, .zero, accMmaF, .none⟩,
  ⟨0, true, .T, .z, .o, .oe, .no, .zero, accMmaF, .none⟩,
  ⟨1, false, .T, .z, .o, .oe, .no, .zero, accMmaF, .none⟩,
  ⟨1, true, .T, .z, .o, .oe, .no, .zero, accMmaF, .none⟩,
  ⟨2, false, .T, .z, .o, .oe, .no, .zero, accMmaF, .none⟩,
  ⟨2, true, .T, .z, .o, .oe, .no, .zero, accMmaF, .none⟩,
  ⟨3, false, .T, .z, .o, .oe, .no, .zero, accMmaF, .none⟩,
  ⟨3, true, .T, .z, .o, .oe, .no, .zero, accMmaF, .none⟩,
  ⟨4, false, .T, .z, .o, .oe, .no, .zero, accMmaF, .none⟩,
  ⟨4, true, .T, .z, .o, .oe, .no, .zero, accMmaF, .none⟩,
  ⟨5, false, .T, .z, .o, .oe, .no, .zero, accMmaF, .none⟩,
  ⟨5, true, .T, .z, .o, .oe, .no, .zero, accMmaF, .none⟩,
  ⟨6, false, .T, .z, .o, .oe, .no, .opt, accMmaI, .none⟩,
  ⟨6, true, .T, .z, .o, .oe, .no, .opt, accMmaI, .none⟩,
  ⟨7, false, .T, .z, .o, .oe, .no, .opt, accMmaI, .none⟩,
  ⟨7, true, .T, .z, .o, .oe, .no, .opt, accMmaI, .none⟩,
  ⟨8, false, .T, .z, .o, .oe, .no, .nz, accMmaF, .none⟩,
  ⟨8, true, .T, .z, .o, .oe, .no, .nz, accMmaF, .none⟩,
  ⟨9, false, .T, .z, .o, .oe, .no, .nz, accMmaF, .none⟩,
  ⟨9, true, .T, .z, .o, .oe, .no, .nz, accMmaF, .none⟩,
  ⟨10, false, .T, .z, .o, .oe, .no, .nz, accMmaF, .none⟩,
  ⟨10, true, .T, .z, .o, .oe, .no, .nz, accMmaF, .none⟩]

/-- Page 10 of the opcode map. -/
def page10 : List Row := [
  ⟨0, false, .T, (.num 7), .s, .level, .no, .zero, accNone, .none⟩,
  ⟨1, false, .Z, (.num 7), .no, .no, .no, .zero, accNone, .none⟩,
  ⟨2, false, .T, .s, (.num 7), .s, .no, .zero, accNone, .none⟩,
  ⟨3, false, .Z, (.num 7), .no, .no, .no, .zero, accNone, .none⟩,
  ⟨4, false, .T, (.num 7), .s, .no, .no, .zero, accNone, .none⟩,
  ⟨5, false, .Z, .s, .no, .no, (.zext 1 6), .level6, accNone, .none⟩,
  ⟨6, false, .Z, .no, .no, .no, (.zext 1 6), .level6, accNone, .none⟩,
  ⟨7, false, .Z, .s, .no, .no, (.zext 1 6), .zero, accNone, .none⟩,
  ⟨8, false, .T, .no, .s, .no, .no, .zero, accNone, .none⟩,
  ⟨9, false, .T, .no, .s, .s, .no, .zero, accNone, .none⟩,
  ⟨10, false, .T, .no, .s, .s, .no, .zero, accNone, .none⟩,
  ⟨10, true, .T, .no, .s, .v, .no, .zero, accNone, .none⟩,
  ⟨11, false, .T, .s, .s, .v, .no, .opt, accNone, .none⟩,
  ⟨12, false, .T, .no, .s, .no, .no, .zero, accNone, .none⟩]

/-- Page 11 of the opcode map. -/
def page11 : List Row := [
  ⟨0, false, .T, .no, .s, .no, .no, .zero, accNone, .none⟩,
  ⟨1, false, .T, .no, .s, .no, .no, .zero, accNone, .none⟩,
  ⟨2, false, .T, .no, .s, .no, .no, .zero, accNone, .none⟩,
  ⟨3, false, .T, .s, .s, .h, .no, .opt, accNone, .none⟩,
  ⟨4, false, .T, .s, .s, .h, .no, .zero, accNone, .none⟩,
  ⟨4, true, .T, .s, .s, .h, .no, .zero, accNone, .none⟩,
  ⟨5, false, .T, .s, .s, .h, .no, .zero, accNone, .none⟩,
  ⟨6, false, .T, .s, .s, .s, .no, .zero, accNone, .none⟩,
  ⟨7, false, .Z, .s, .no, .no, .no, .zero, accNone, .none⟩]

/-- The opcode map (R263). -/
def pageRows : Nat → List Row
  | 0 => page0
  | 1 => page1
  | 2 => page2
  | 3 => page3
  | 4 => page4
  | 5 => page5
  | 6 => page6
  | 7 => page7
  | 8 => page8
  | 9 => page9
  | 10 => page10
  | 11 => page11
  | _ => []

/-- The entry of an opcode of a page with its f bit. -/
def rowOf (page op : Nat) (f : Bool) : Option Row :=
  (pageRows page).find? fun r => r.op == op && r.f == f

/-- An instruction as raw fields; a step of the device has none. -/
def toRaw : Instr → Option Raw
  | .ill x imm => some ⟨x, 0, 0, false, 0, 0, 0, 0, imm⟩
  | .nop x => some ⟨x, 0, 1, false, 0, 0, 0, 0, 0⟩
  | .add x a b c => some ⟨x, 0, 2, false, a.val, b.val, c.val, 0, 0⟩
  | .addv x a b c => some ⟨x, 0, 2, true, a.val, b.val, c.val, 0, 0⟩
  | .sub x a b c => some ⟨x, 0, 3, false, a.val, b.val, c.val, 0, 0⟩
  | .subv x a b c => some ⟨x, 0, 3, true, a.val, b.val, c.val, 0, 0⟩
  | .and x a b c => some ⟨x, 0, 4, false, a.val, b.val, c.val, 0, 0⟩
  | .or x a b c => some ⟨x, 0, 5, false, a.val, b.val, c.val, 0, 0⟩
  | .xor x a b c => some ⟨x, 0, 6, false, a.val, b.val, c.val, 0, 0⟩
  | .shl x a b c => some ⟨x, 0, 7, false, a.val, b.val, c.val, 0, 0⟩
  | .shr x a b c => some ⟨x, 0, 8, false, a.val, b.val, c.val, 0, 0⟩
  | .sar x a b c => some ⟨x, 0, 8, true, a.val, b.val, c.val, 0, 0⟩
  | .mul x a b c => some ⟨x, 0, 9, false, a.val, b.val, c.val, 0, 0⟩
  | .mulh x a b c => some ⟨x, 0, 10, false, a.val, b.val, c.val, 0, 0⟩
  | .mulhn x a b c => some ⟨x, 0, 10, true, a.val, b.val, c.val, 0, 0⟩
  | .div x a b c => some ⟨x, 0, 11, false, a.val, b.val, c.val, 0, 0⟩
  | .divn x a b c => some ⟨x, 0, 11, true, a.val, b.val, c.val, 0, 0⟩
  | .rem x a b c => some ⟨x, 0, 12, false, a.val, b.val, c.val, 0, 0⟩
  | .remn x a b c => some ⟨x, 0, 12, true, a.val, b.val, c.val, 0, 0⟩
  | .addi x a b imm => some ⟨x, 0, 13, false, a.val, b.val, 0, 0, imm⟩
  | .andi x a b imm => some ⟨x, 0, 14, false, a.val, b.val, 0, 0, imm⟩
  | .ori x a b imm => some ⟨x, 0, 15, false, a.val, b.val, 0, 0, imm⟩
  | .xori x a b imm => some ⟨x, 0, 16, false, a.val, b.val, 0, 0, imm⟩
  | .shli x a b imm => some ⟨x, 0, 17, false, a.val, b.val, 0, 0, imm⟩
  | .shri x a b imm => some ⟨x, 0, 18, false, a.val, b.val, 0, 0, imm⟩
  | .sari x a b imm => some ⟨x, 0, 19, false, a.val, b.val, 0, 0, imm⟩
  | .li x a imm => some ⟨x, 0, 20, false, a.val, 0, 0, 0, imm⟩
  | .cmpeq x a b c => some ⟨x, 0, 21, false, a.val, b.val, c.val, 0, 0⟩
  | .cmpne x a b c => some ⟨x, 0, 21, true, a.val, b.val, c.val, 0, 0⟩
  | .cmplt x a b c => some ⟨x, 0, 22, false, a.val, b.val, c.val, 0, 0⟩
  | .cmpltn x a b c => some ⟨x, 0, 22, true, a.val, b.val, c.val, 0, 0⟩
  | .cmple x a b c => some ⟨x, 0, 23, false, a.val, b.val, c.val, 0, 0⟩
  | .cmplen x a b c => some ⟨x, 0, 23, true, a.val, b.val, c.val, 0, 0⟩
  | .sel x a b c d => some ⟨x, 0, 24, false, a.val, b.val, c.val, d.val, 0⟩
  | .ldb x a b imm => some ⟨x, 0, 25, false, a.val, b.val, 0, 0, imm⟩
  | .ldbn x a b imm => some ⟨x, 0, 26, false, a.val, b.val, 0, 0, imm⟩
  | .ldh x a b imm => some ⟨x, 0, 27, false, a.val, b.val, 0, 0, imm⟩
  | .ldhn x a b imm => some ⟨x, 0, 28, false, a.val, b.val, 0, 0, imm⟩
  | .ldw x a b imm => some ⟨x, 0, 29, false, a.val, b.val, 0, 0, imm⟩
  | .ldwn x a b imm => some ⟨x, 0, 30, false, a.val, b.val, 0, 0, imm⟩
  | .ldd x a b imm => some ⟨x, 0, 31, false, a.val, b.val, 0, 0, imm⟩
  | .stb x a b imm => some ⟨x, 0, 32, false, a.val, b.val, 0, 0, imm⟩
  | .sth x a b imm => some ⟨x, 0, 33, false, a.val, b.val, 0, 0, imm⟩
  | .stw x a b imm => some ⟨x, 0, 34, false, a.val, b.val, 0, 0, imm⟩
  | .std x a b imm => some ⟨x, 0, 35, false, a.val, b.val, 0, 0, imm⟩
  | .beq x a b imm => some ⟨x, 0, 36, false, a.val, b.val, 0, 0, imm⟩
  | .bne x a b imm => some ⟨x, 0, 37, false, a.val, b.val, 0, 0, imm⟩
  | .blt x a b imm => some ⟨x, 0, 38, false, a.val, b.val, 0, 0, imm⟩
  | .bge x a b imm => some ⟨x, 0, 39, false, a.val, b.val, 0, 0, imm⟩
  | .bltn x a b imm => some ⟨x, 0, 40, false, a.val, b.val, 0, 0, imm⟩
  | .bgen x a b imm => some ⟨x, 0, 41, false, a.val, b.val, 0, 0, imm⟩
  | .beqz x a imm => some ⟨x, 0, 42, false, a.val, 0, 0, 0, imm⟩
  | .bnez x a imm => some ⟨x, 0, 43, false, a.val, 0, 0, 0, imm⟩
  | .b x imm => some ⟨x, 0, 44, false, 0, 0, 0, 0, imm⟩
  | .jmp x imm => some ⟨x, 0, 45, false, 0, 0, 0, 0, imm⟩
  | .call x imm => some ⟨x, 0, 46, false, 0, 0, 0, 0, imm⟩
  | .jr x a imm => some ⟨x, 0, 47, false, a.val, 0, 0, 0, imm⟩
  | .callr x a imm => some ⟨x, 0, 48, false, a.val, 0, 0, 0, imm⟩
  | .jmpf x a imm => some ⟨x, 0, 49, false, a.val, 0, 0, 0, imm⟩
  | .callf x a imm => some ⟨x, 0, 50, false, a.val, 0, 0, 0, imm⟩
  | .loop x a imm => some ⟨x, 0, 51, false, a.val, 0, 0, 0, imm⟩
  | .csrd x a imm => some ⟨x, 0, 52, false, a.val, 0, 0, 0, imm⟩
  | .cswr x a imm => some ⟨x, 0, 53, false, a.val, 0, 0, 0, imm⟩
  | .trap x imm => some ⟨x, 0, 54, false, 0, 0, 0, 0, imm⟩
  | .eret x => some ⟨x, 0, 55, false, 0, 0, 0, 0, 0⟩
  | .clz x a b => some ⟨x, 1, 0, false, a.val, b.val, 0, 0, 0⟩
  | .ctz x a b => some ⟨x, 1, 1, false, a.val, b.val, 0, 0, 0⟩
  | .popc x a b => some ⟨x, 1, 2, false, a.val, b.val, 0, 0, 0⟩
  | .min x a b c => some ⟨x, 1, 3, false, a.val, b.val, c.val, 0, 0⟩
  | .minn x a b c => some ⟨x, 1, 3, true, a.val, b.val, c.val, 0, 0⟩
  | .max x a b c => some ⟨x, 1, 4, false, a.val, b.val, c.val, 0, 0⟩
  | .maxn x a b c => some ⟨x, 1, 4, true, a.val, b.val, c.val, 0, 0⟩
  | .sext x a b imm => some ⟨x, 1, 5, false, a.val, b.val, 0, 0, imm⟩
  | .zext x a b imm => some ⟨x, 1, 6, false, a.val, b.val, 0, 0, imm⟩
  | .pcaddr x a imm => some ⟨x, 1, 7, false, a.val, 0, 0, 0, imm⟩
  | .fadd x a b c => some ⟨x, 1, 8, false, a.val, b.val, c.val, 0, 0⟩
  | .fsub x a b c => some ⟨x, 1, 9, false, a.val, b.val, c.val, 0, 0⟩
  | .fmul x a b c => some ⟨x, 1, 10, false, a.val, b.val, c.val, 0, 0⟩
  | .fma x a b c => some ⟨x, 1, 11, false, a.val, b.val, c.val, 0, 0⟩
  | .fdiv x a b c => some ⟨x, 1, 12, false, a.val, b.val, c.val, 0, 0⟩
  | .fsqrt x a b => some ⟨x, 1, 13, false, a.val, b.val, 0, 0, 0⟩
  | .fmin x a b c => some ⟨x, 1, 14, false, a.val, b.val, c.val, 0, 0⟩
  | .fmax x a b c => some ⟨x, 1, 15, false, a.val, b.val, c.val, 0, 0⟩
  | .fcmpeq x a b c => some ⟨x, 1, 16, false, a.val, b.val, c.val, 0, 0⟩
  | .fcmplt x a b c => some ⟨x, 1, 17, false, a.val, b.val, c.val, 0, 0⟩
  | .fcmple x a b c => some ⟨x, 1, 18, false, a.val, b.val, c.val, 0, 0⟩
  | .fcvti x a b => some ⟨x, 1, 19, false, a.val, b.val, 0, 0, 0⟩
  | .fcvtin x a b => some ⟨x, 1, 19, true, a.val, b.val, 0, 0, 0⟩
  | .fcvtf x a b => some ⟨x, 1, 20, false, a.val, b.val, 0, 0, 0⟩
  | .fcvtfn x a b => some ⟨x, 1, 20, true, a.val, b.val, 0, 0, 0⟩
  | .fcvt x a b => some ⟨x, 1, 21, false, a.val, b.val, 0, 0, 0⟩
  | .bsadd x a b c => some ⟨x, 1, 22, false, a.val, b.val, c.val, 0, 0⟩
  | .bscvt x a b => some ⟨x, 1, 23, false, a.val, b.val, 0, 0, 0⟩
  | .vld x a b imm => some ⟨x, 2, 0, false, a.val, b.val, 0, 0, imm⟩
  | .vst x a b imm => some ⟨x, 2, 1, false, a.val, b.val, 0, 0, imm⟩
  | .vlds x a b c => some ⟨x, 2, 2, false, a.val, b.val, c.val, 0, 0⟩
  | .vsts x a b c => some ⟨x, 2, 3, false, a.val, b.val, c.val, 0, 0⟩
  | .vldg x a b c => some ⟨x, 2, 4, false, a.val, b.val, c.val, 0, 0⟩
  | .vstg x a b c => some ⟨x, 2, 5, false, a.val, b.val, c.val, 0, 0⟩
  | .vldt x a b c => some ⟨x, 2, 6, false, a.val, b.val, c.val, 0, 0⟩
  | .st64s x a b c => some ⟨x, 2, 7, false, a.val, b.val, c.val, 0, 0⟩
  | .amoadd x a b c => some ⟨x, 2, 8, false, a.val, b.val, c.val, 0, 0⟩
  | .amoswp x a b c => some ⟨x, 2, 9, false, a.val, b.val, c.val, 0, 0⟩
  | .amocas x a b c d => some ⟨x, 2, 10, false, a.val, b.val, c.val, d.val, 0⟩
  | .amomin x a b c => some ⟨x, 2, 11, false, a.val, b.val, c.val, 0, 0⟩
  | .amominn x a b c => some ⟨x, 2, 11, true, a.val, b.val, c.val, 0, 0⟩
  | .amomax x a b c => some ⟨x, 2, 12, false, a.val, b.val, c.val, 0, 0⟩
  | .amomaxn x a b c => some ⟨x, 2, 12, true, a.val, b.val, c.val, 0, 0⟩
  | .amoand x a b c => some ⟨x, 2, 13, false, a.val, b.val, c.val, 0, 0⟩
  | .amoor x a b c => some ⟨x, 2, 14, false, a.val, b.val, c.val, 0, 0⟩
  | .fence x => some ⟨x, 2, 15, false, 0, 0, 0, 0, 0⟩
  | .qbind x a b => some ⟨x, 2, 16, false, a.val, b.val, 0, 0, 0⟩
  | .qadvh x a b imm => some ⟨x, 2, 17, false, a.val, b.val, 0, 0, imm⟩
  | .qadvt x a b imm => some ⟨x, 2, 18, false, a.val, b.val, 0, 0, imm⟩
  | .qcnt x a b => some ⟨x, 2, 19, false, a.val, b.val, 0, 0, 0⟩
  | .qfree x a b => some ⟨x, 2, 19, true, a.val, b.val, 0, 0, 0⟩
  | .qwaitf x a b imm => some ⟨x, 2, 20, false, a.val, b.val, 0, 0, imm⟩
  | .qwaite x a b imm => some ⟨x, 2, 21, false, a.val, b.val, 0, 0, imm⟩
  | .sbind x a b => some ⟨x, 2, 22, false, a.val, b.val, 0, 0, 0⟩
  | .sbinds x a b => some ⟨x, 2, 22, true, a.val, b.val, 0, 0, 0⟩
  | .sunbind x a imm => some ⟨x, 2, 23, false, a.val, 0, 0, 0, imm⟩
  | .spos x a b c => some ⟨x, 2, 24, false, a.val, b.val, c.val, 0, 0⟩
  | .vrowld x a b c => some ⟨x, 2, 25, false, a.val, b.val, c.val, 0, 0⟩
  | .vrowst x a b c => some ⟨x, 2, 26, false, a.val, b.val, c.val, 0, 0⟩
  | .vrowadd x a b c => some ⟨x, 2, 27, false, a.val, b.val, c.val, 0, 0⟩
  | .vrowcas x a b c => some ⟨x, 2, 28, false, a.val, b.val, c.val, 0, 0⟩
  | .capdef x b c => some ⟨x, 2, 29, false, 0, b.val, c.val, 0, 0⟩
  | .capx x b c => some ⟨x, 2, 30, false, 0, b.val, c.val, 0, 0⟩
  | .capq x a b => some ⟨x, 2, 31, false, a.val, b.val, 0, 0, 0⟩
  | .msend x a b imm => some ⟨x, 3, 0, false, a.val, b.val, 0, 0, imm⟩
  | .mrecv x a imm => some ⟨x, 3, 1, false, a.val, 0, 0, 0, imm⟩
  | .mpoll x a => some ⟨x, 3, 2, false, a.val, 0, 0, 0, 0⟩
  | .mbwait x a imm => some ⟨x, 3, 3, false, a.val, 0, 0, 0, imm⟩
  | .mbpop x a => some ⟨x, 3, 4, false, a.val, 0, 0, 0, 0⟩
  | .copy x a b => some ⟨x, 3, 5, false, a.val, b.val, 0, 0, 0⟩
  | .copyb x a b => some ⟨x, 3, 5, true, a.val, b.val, 0, 0, 0⟩
  | .cfet x a b c => some ⟨x, 3, 6, false, a.val, b.val, c.val, 0, 0⟩
  | .cfetb x a b c => some ⟨x, 3, 6, true, a.val, b.val, c.val, 0, 0⟩
  | .gang x imm => some ⟨x, 3, 7, false, 0, 0, 0, 0, imm⟩
  | .split x => some ⟨x, 3, 8, false, 0, 0, 0, 0, 0⟩
  | .thstart x a b c => some ⟨x, 3, 9, false, a.val, b.val, c.val, 0, 0⟩
  | .thstop x a => some ⟨x, 3, 10, false, a.val, 0, 0, 0, 0⟩
  | .yield x => some ⟨x, 3, 11, false, 0, 0, 0, 0, 0⟩
  | .halt x => some ⟨x, 3, 12, false, 0, 0, 0, 0, 0⟩
  | .brk x imm => some ⟨x, 3, 13, false, 0, 0, 0, 0, imm⟩
  | .trace x a => some ⟨x, 3, 14, false, a.val, 0, 0, 0, 0⟩
  | .bgtrd x a imm => some ⟨x, 3, 15, false, a.val, 0, 0, 0, imm⟩
  | .vadd x a b c => some ⟨x, 4, 0, false, a.val, b.val, c.val, 0, 0⟩
  | .vaddSat x a b c => some ⟨x, 4, 0, true, a.val, b.val, c.val, 0, 0⟩
  | .vsub x a b c => some ⟨x, 4, 1, false, a.val, b.val, c.val, 0, 0⟩
  | .vsubSat x a b c => some ⟨x, 4, 1, true, a.val, b.val, c.val, 0, 0⟩
  | .vmul x a b c => some ⟨x, 4, 2, false, a.val, b.val, c.val, 0, 0⟩
  | .vmulh x a b c => some ⟨x, 4, 3, false, a.val, b.val, c.val, 0, 0⟩
  | .vmulhn x a b c => some ⟨x, 4, 3, true, a.val, b.val, c.val, 0, 0⟩
  | .vmad x a b c => some ⟨x, 4, 4, false, a.val, b.val, c.val, 0, 0⟩
  | .vaddw x a b c => some ⟨x, 4, 5, false, a.val, b.val, c.val, 0, 0⟩
  | .vaddwh x a b c => some ⟨x, 4, 5, true, a.val, b.val, c.val, 0, 0⟩
  | .vdot x a b c => some ⟨x, 4, 6, false, a.val, b.val, c.val, 0, 0⟩
  | .vand x a b c => some ⟨x, 4, 7, false, a.val, b.val, c.val, 0, 0⟩
  | .vor x a b c => some ⟨x, 4, 8, false, a.val, b.val, c.val, 0, 0⟩
  | .vxor x a b c => some ⟨x, 4, 9, false, a.val, b.val, c.val, 0, 0⟩
  | .vshl x a b c => some ⟨x, 4, 10, false, a.val, b.val, c.val, 0, 0⟩
  | .vshr x a b c => some ⟨x, 4, 11, false, a.val, b.val, c.val, 0, 0⟩
  | .vsar x a b c => some ⟨x, 4, 11, true, a.val, b.val, c.val, 0, 0⟩
  | .vshli x a b imm => some ⟨x, 4, 12, false, a.val, b.val, 0, 0, imm⟩
  | .vshri x a b imm => some ⟨x, 4, 13, false, a.val, b.val, 0, 0, imm⟩
  | .vsari x a b imm => some ⟨x, 4, 14, false, a.val, b.val, 0, 0, imm⟩
  | .vmin x a b c => some ⟨x, 4, 15, false, a.val, b.val, c.val, 0, 0⟩
  | .vminn x a b c => some ⟨x, 4, 15, true, a.val, b.val, c.val, 0, 0⟩
  | .vmax x a b c => some ⟨x, 4, 16, false, a.val, b.val, c.val, 0, 0⟩
  | .vmaxn x a b c => some ⟨x, 4, 16, true, a.val, b.val, c.val, 0, 0⟩
  | .vabs x a b => some ⟨x, 4, 17, false, a.val, b.val, 0, 0, 0⟩
  | .vcmpeq x a b c => some ⟨x, 4, 18, false, a.val, b.val, c.val, 0, 0⟩
  | .vcmpne x a b c => some ⟨x, 4, 18, true, a.val, b.val, c.val, 0, 0⟩
  | .vcmplt x a b c => some ⟨x, 4, 19, false, a.val, b.val, c.val, 0, 0⟩
  | .vcmpltn x a b c => some ⟨x, 4, 19, true, a.val, b.val, c.val, 0, 0⟩
  | .vcmple x a b c => some ⟨x, 4, 20, false, a.val, b.val, c.val, 0, 0⟩
  | .vcmplen x a b c => some ⟨x, 4, 20, true, a.val, b.val, c.val, 0, 0⟩
  | .vsel x a b c => some ⟨x, 4, 21, false, a.val, b.val, c.val, 0, 0⟩
  | .vbcast x a b => some ⟨x, 4, 22, false, a.val, b.val, 0, 0, 0⟩
  | .vextr x a b imm => some ⟨x, 4, 23, false, a.val, b.val, 0, 0, imm⟩
  | .vins x a b imm => some ⟨x, 4, 24, false, a.val, b.val, 0, 0, imm⟩
  | .vlane x a imm => some ⟨x, 4, 25, false, a.val, 0, 0, 0, imm⟩
  | .vfadd x a b c => some ⟨x, 5, 0, false, a.val, b.val, c.val, 0, 0⟩
  | .vfsub x a b c => some ⟨x, 5, 1, false, a.val, b.val, c.val, 0, 0⟩
  | .vfmul x a b c => some ⟨x, 5, 2, false, a.val, b.val, c.val, 0, 0⟩
  | .vfma x a b c => some ⟨x, 5, 3, false, a.val, b.val, c.val, 0, 0⟩
  | .vfnma x a b c => some ⟨x, 5, 4, false, a.val, b.val, c.val, 0, 0⟩
  | .vfmin x a b c => some ⟨x, 5, 5, false, a.val, b.val, c.val, 0, 0⟩
  | .vfmax x a b c => some ⟨x, 5, 6, false, a.val, b.val, c.val, 0, 0⟩
  | .vfabs x a b => some ⟨x, 5, 7, false, a.val, b.val, 0, 0, 0⟩
  | .vfneg x a b => some ⟨x, 5, 8, false, a.val, b.val, 0, 0, 0⟩
  | .vfcmpeq x a b c => some ⟨x, 5, 9, false, a.val, b.val, c.val, 0, 0⟩
  | .vfcmplt x a b c => some ⟨x, 5, 10, false, a.val, b.val, c.val, 0, 0⟩
  | .vfcmple x a b c => some ⟨x, 5, 11, false, a.val, b.val, c.val, 0, 0⟩
  | .vfdiv x a b c => some ⟨x, 5, 12, false, a.val, b.val, c.val, 0, 0⟩
  | .vfsqrt x a b => some ⟨x, 5, 13, false, a.val, b.val, 0, 0, 0⟩
  | .vfrcp x a b => some ⟨x, 5, 14, false, a.val, b.val, 0, 0, 0⟩
  | .vfrsq x a b => some ⟨x, 5, 15, false, a.val, b.val, 0, 0, 0⟩
  | .vcvt x a b c => some ⟨x, 6, 0, false, a.val, b.val, c.val, 0, 0⟩
  | .vpack x a b c => some ⟨x, 6, 1, false, a.val, b.val, c.val, 0, 0⟩
  | .vunpk x a b => some ⟨x, 6, 2, false, a.val, b.val, 0, 0, 0⟩
  | .vunpkh x a b => some ⟨x, 6, 2, true, a.val, b.val, 0, 0, 0⟩
  | .vperm x a b c => some ⟨x, 6, 3, false, a.val, b.val, c.val, 0, 0⟩
  | .vslideup x a b imm => some ⟨x, 6, 4, false, a.val, b.val, 0, 0, imm⟩
  | .vslidedn x a b imm => some ⟨x, 6, 5, false, a.val, b.val, 0, 0, imm⟩
  | .vzip x a b c => some ⟨x, 6, 6, false, a.val, b.val, c.val, 0, 0⟩
  | .vziph x a b c => some ⟨x, 6, 6, true, a.val, b.val, c.val, 0, 0⟩
  | .vunzip x a b c => some ⟨x, 6, 7, false, a.val, b.val, c.val, 0, 0⟩
  | .vunzipo x a b c => some ⟨x, 6, 7, true, a.val, b.val, c.val, 0, 0⟩
  | .vtrn x a b c => some ⟨x, 6, 8, false, a.val, b.val, c.val, 0, 0⟩
  | .vtrn2 x a b c => some ⟨x, 6, 8, true, a.val, b.val, c.val, 0, 0⟩
  | .vscan x a b => some ⟨x, 6, 9, false, a.val, b.val, 0, 0, 0⟩
  | .vscanx x a b => some ⟨x, 6, 9, true, a.val, b.val, 0, 0, 0⟩
  | .vred x a b => some ⟨x, 6, 10, false, a.val, b.val, 0, 0, 0⟩
  | .vredw x a b => some ⟨x, 6, 10, true, a.val, b.val, 0, 0, 0⟩
  | .vredmax x a b => some ⟨x, 6, 11, false, a.val, b.val, 0, 0, 0⟩
  | .vredmaxn x a b => some ⟨x, 6, 11, true, a.val, b.val, 0, 0, 0⟩
  | .vfred x a b => some ⟨x, 6, 12, false, a.val, b.val, 0, 0, 0⟩
  | .vfredmax x a b => some ⟨x, 6, 13, false, a.val, b.val, 0, 0, 0⟩
  | .kand x a b c => some ⟨x, 6, 14, false, a.val, b.val, c.val, 0, 0⟩
  | .kor x a b c => some ⟨x, 6, 15, false, a.val, b.val, c.val, 0, 0⟩
  | .knot x a b => some ⟨x, 6, 16, false, a.val, b.val, 0, 0, 0⟩
  | .kpopc x a b => some ⟨x, 6, 17, false, a.val, b.val, 0, 0, 0⟩
  | .kfirst x a b => some ⟨x, 6, 18, false, a.val, b.val, 0, 0, 0⟩
  | .kmov x a b => some ⟨x, 6, 19, false, a.val, b.val, 0, 0, 0⟩
  | .kmovs x a b => some ⟨x, 6, 19, true, a.val, b.val, 0, 0, 0⟩
  | .yseed x a b => some ⟨x, 7, 0, false, a.val, b.val, 0, 0, 0⟩
  | .ydraw x a b => some ⟨x, 7, 1, false, a.val, b.val, 0, 0, 0⟩
  | .ycmp x a b c => some ⟨x, 7, 2, false, a.val, b.val, c.val, 0, 0⟩
  | .ycmpy x a b c => some ⟨x, 7, 3, false, a.val, b.val, c.val, 0, 0⟩
  | .yrnd x a b c => some ⟨x, 7, 4, false, a.val, b.val, c.val, 0, 0⟩
  | .ycvt x a b => some ⟨x, 7, 5, false, a.val, b.val, 0, 0, 0⟩
  | .ymov x a b => some ⟨x, 7, 6, false, a.val, b.val, 0, 0, 0⟩
  | .ystat x a b c => some ⟨x, 7, 7, false, a.val, b.val, c.val, 0, 0⟩
  | .yst x a b imm => some ⟨x, 7, 8, false, a.val, b.val, 0, 0, imm⟩
  | .yld x a b imm => some ⟨x, 7, 9, false, a.val, b.val, 0, 0, imm⟩
  | .vexp2 x a b => some ⟨x, 7, 10, false, a.val, b.val, 0, 0, 0⟩
  | .vlog2 x a b => some ⟨x, 7, 11, false, a.val, b.val, 0, 0, 0⟩
  | .vtanh x a b => some ⟨x, 7, 12, false, a.val, b.val, 0, 0, 0⟩
  | .vsinpi x a b => some ⟨x, 7, 13, false, a.val, b.val, 0, 0, 0⟩
  | .vcospi x a b => some ⟨x, 7, 14, false, a.val, b.val, 0, 0, 0⟩
  | .oclm x a b imm => some ⟨x, 8, 0, false, a.val, b.val, 0, 0, imm⟩
  | .orel x b imm => some ⟨x, 8, 1, false, 0, b.val, 0, 0, imm⟩
  | .old x a b c => some ⟨x, 8, 2, false, a.val, b.val, c.val, 0, 0⟩
  | .oldb x a b c => some ⟨x, 8, 2, true, a.val, b.val, c.val, 0, 0⟩
  | .oldt x a b c => some ⟨x, 8, 3, false, a.val, b.val, c.val, 0, 0⟩
  | .oldtb x a b c => some ⟨x, 8, 3, true, a.val, b.val, c.val, 0, 0⟩
  | .oswap x a b => some ⟨x, 8, 4, false, a.val, b.val, 0, 0, 0⟩
  | .ost x a b c => some ⟨x, 8, 5, false, a.val, b.val, c.val, 0, 0⟩
  | .zclr x a => some ⟨x, 8, 6, false, a.val, 0, 0, 0, 0⟩
  | .zst x a b c => some ⟨x, 8, 7, false, a.val, b.val, c.val, 0, 0⟩
  | .zld x a b c => some ⟨x, 8, 8, false, a.val, b.val, c.val, 0, 0⟩
  | .zmovv x a b c => some ⟨x, 8, 9, false, a.val, b.val, c.val, 0, 0⟩
  | .mwait x => some ⟨x, 8, 10, false, 0, 0, 0, 0, 0⟩
  | .mstat x a imm => some ⟨x, 8, 11, false, a.val, 0, 0, 0, imm⟩
  | .mmaBf x a b c => some ⟨x, 9, 0, false, a.val, b.val, c.val, 0, 0⟩
  | .mmaBfOw x a b c => some ⟨x, 9, 0, true, a.val, b.val, c.val, 0, 0⟩
  | .mmaHf x a b c => some ⟨x, 9, 1, false, a.val, b.val, c.val, 0, 0⟩
  | .mmaHfOw x a b c => some ⟨x, 9, 1, true, a.val, b.val, c.val, 0, 0⟩
  | .mmaF32 x a b c => some ⟨x, 9, 2, false, a.val, b.val, c.val, 0, 0⟩
  | .mmaF32Ow x a b c => some ⟨x, 9, 2, true, a.val, b.val, c.val, 0, 0⟩
  | .mmaE4 x a b c => some ⟨x, 9, 3, false, a.val, b.val, c.val, 0, 0⟩
  | .mmaE4Ow x a b c => some ⟨x, 9, 3, true, a.val, b.val, c.val, 0, 0⟩
  | .mmaE5 x a b c => some ⟨x, 9, 4, false, a.val, b.val, c.val, 0, 0⟩
  | .mmaE5Ow x a b c => some ⟨x, 9, 4, true, a.val, b.val, c.val, 0, 0⟩
  | .mmaE45 x a b c => some ⟨x, 9, 5, false, a.val, b.val, c.val, 0, 0⟩
  | .mmaE45Ow x a b c => some ⟨x, 9, 5, true, a.val, b.val, c.val, 0, 0⟩
  | .mmaI8 x a b c d => some ⟨x, 9, 6, false, a.val, b.val, c.val, d.val, 0⟩
  | .mmaI8Ow x a b c d => some ⟨x, 9, 6, true, a.val, b.val, c.val, d.val, 0⟩
  | .mmaI4 x a b c d => some ⟨x, 9, 7, false, a.val, b.val, c.val, d.val, 0⟩
  | .mmaI4Ow x a b c d => some ⟨x, 9, 7, true, a.val, b.val, c.val, d.val, 0⟩
  | .mmaQ8 x a b c d => some ⟨x, 9, 8, false, a.val, b.val, c.val, d.val, 0⟩
  | .mmaQ8Ow x a b c d => some ⟨x, 9, 8, true, a.val, b.val, c.val, d.val, 0⟩
  | .mmaQ4q8 x a b c d => some ⟨x, 9, 9, false, a.val, b.val, c.val, d.val, 0⟩
  | .mmaQ4q8Ow x a b c d => some ⟨x, 9, 9, true, a.val, b.val, c.val, d.val, 0⟩
  | .mmaQ4 x a b c d => some ⟨x, 9, 10, false, a.val, b.val, c.val, d.val, 0⟩
  | .mmaQ4Ow x a b c d => some ⟨x, 9, 10, true, a.val, b.val, c.val, d.val, 0⟩
  | .pdecl x a b c => some ⟨x, 10, 0, false, a.val, b.val, c.val, 0, 0⟩
  | .pfree x a => some ⟨x, 10, 1, false, a.val, 0, 0, 0, 0⟩
  | .pinfo x a b c => some ⟨x, 10, 2, false, a.val, b.val, c.val, 0, 0⟩
  | .lapx x a => some ⟨x, 10, 3, false, a.val, 0, 0, 0, 0⟩
  | .lapw x a b => some ⟨x, 10, 4, false, a.val, b.val, 0, 0, 0⟩
  | .ridge x a imm d => some ⟨x, 10, 5, false, a.val, 0, 0, d.val, imm⟩
  | .ridgea x imm d => some ⟨x, 10, 6, false, 0, 0, 0, d.val, imm⟩
  | .ridgew x a imm => some ⟨x, 10, 7, false, a.val, 0, 0, 0, imm⟩
  | .xtt x b => some ⟨x, 10, 8, false, 0, b.val, 0, 0, 0⟩
  | .sldecl x b c => some ⟨x, 10, 9, false, 0, b.val, c.val, 0, 0⟩
  | .radd x b c => some ⟨x, 10, 10, false, 0, b.val, c.val, 0, 0⟩
  | .raddv x b c => some ⟨x, 10, 10, true, 0, b.val, c.val, 0, 0⟩
  | .amrg x a b c d => some ⟨x, 10, 11, false, a.val, b.val, c.val, d.val, 0⟩
  | .rfold x b => some ⟨x, 10, 12, false, 0, b.val, 0, 0, 0⟩
  | .rst x b => some ⟨x, 11, 0, false, 0, b.val, 0, 0, 0⟩
  | .rfaa x b => some ⟨x, 11, 1, false, 0, b.val, 0, 0, 0⟩
  | .rfence x b => some ⟨x, 11, 2, false, 0, b.val, 0, 0, 0⟩
  | .trig x a b c d => some ⟨x, 11, 3, false, a.val, b.val, c.val, d.val, 0⟩
  | .hcnt x a b c => some ⟨x, 11, 4, false, a.val, b.val, c.val, 0, 0⟩
  | .hcnts x a b c => some ⟨x, 11, 4, true, a.val, b.val, c.val, 0, 0⟩
  | .hwait x a b c => some ⟨x, 11, 5, false, a.val, b.val, c.val, 0, 0⟩
  | .cpost x a b c => some ⟨x, 11, 6, false, a.val, b.val, c.val, 0, 0⟩
  | .crevoke x a => some ⟨x, 11, 7, false, a.val, 0, 0, 0, 0⟩
  | .powerOnReset => none
  | .bootFetchRetry => none
  | .bootImageReceived _ => none
  | .dieRelease _ => none
  | .bootgoWrite _ => none
  | .attestationRequest _ => none
  | .measurementExtend _ _ => none
  | .securityVersionRaise _ => none
  | .devnumWrite _ => none
  | .powerlimWrite _ => none
  | .portEnable _ _ => none
  | .portDisable _ _ => none
  | .portRestart _ _ => none
  | .trainingStepComplete _ _ => none
  | .trainingStepTimeout _ _ => none
  | .identityReportReceive _ _ _ => none
  | .identityChallenge _ _ => none
  | .flitReceive _ _ _ => none
  | .flitAckReceive _ _ => none
  | .flitResend _ _ => none
  | .creditGrant _ _ _ => none
  | .laneLoss _ => none
  | .rateFallback _ => none
  | .errorThreshold _ _ => none
  | .linkDown _ => none
  | .monitorUpdate _ => none
  | .droopHoldEnd _ => none
  | .hostApertureAccess _ _ _ _ => none
  | .hostSubmit _ _ _ _ => none
  | .submissionDecide _ => none
  | .schedulerIntake => none
  | .schedulerStart => none
  | .systemCopyComplete => none
  | .imageLoadComplete => none
  | .placement => none
  | .crewFinish _ => none
  | .trussReport _ => none
  | .energyDeferExpiry _ => none
  | .switchOutTrigger => none
  | .switchOutDrainPass => none
  | .switchOutComplete => none
  | .schendWrite _ => none
  | .dbggoWrite _ => none
  | .edgectlWrite _ _ => none
  | .budgetBoundary _ _ => none
  | .arbiterAgeLimit _ => none
  | .accessAtHome _ => none
  | .translationWalkComplete _ _ => none
  | .xlinvAll => none
  | .xlinvAsid _ => none
  | .xlinvPage _ _ => none
  | .xlinvNone => none
  | .xlinvComplete => none
  | .xlstatClear _ => none
  | .commEnable _ _ => none
  | .commDisable _ => none
  | .collectiveRequestTake _ => none
  | .collectiveMatch _ _ _ _ => none
  | .collectiveChunkArrive _ _ _ _ _ _ => none
  | .collectiveFaultNotice _ _ _ => none
  | .collectiveComplete _ _ => none
  | .remoteRequestArrive _ _ => none
  | .rstChunkLand _ _ _ => none
  | .rfaaPerform _ => none
  | .rfenceFlagLand _ => none
  | .remoteCompletionArrive _ _ => none
  | .ridgeRelease _ _ => none
  | .exchangeFlitArrive _ => none
  | .exchangeWindowClose _ => none
  | .slabLand _ _ _ => none
  | .sliceContributionArrive _ => none
  | .messageArrive _ => none
  | .mailboxDeposit _ => none
  | .queueUpdateArrive _ => none
  | .copyRequestComplete _ => none
  | .cfetLand _ => none
  | .lateFault _ _ => none
  | .scopeMiss _ _ => none
  | .perCorePreemption _ => none
  | .preemptionRelease _ => none
  | .machineCheck _ _ => none
  | .gangMemberLost _ => none
  | .contextCopyFault _ _ => none
  | .registerWrite _ _ => none
  | .vectorCommandComplete _ => none
  | .matrixCommandComplete _ => none
  | .ridgeTokenArrive _ _ _ => none

/-- The instructions of page 0 from raw fields. -/
def ofPage0 (r : Raw) : Option Instr :=
  match r.op, r.f with
  | 0, false => some (.ill r.pre r.imm)
  | 1, false => some (.nop r.pre)
  | 2, false => some (.add r.pre (Fin.ofNat 32 r.a) (Fin.ofNat 32 r.b) (Fin.ofNat 32 r.c))
  | 2, true => some (.addv r.pre (Fin.ofNat 32 r.a) (Fin.ofNat 32 r.b) (Fin.ofNat 32 r.c))
  | 3, false => some (.sub r.pre (Fin.ofNat 32 r.a) (Fin.ofNat 32 r.b) (Fin.ofNat 32 r.c))
  | 3, true => some (.subv r.pre (Fin.ofNat 32 r.a) (Fin.ofNat 32 r.b) (Fin.ofNat 32 r.c))
  | 4, false => some (.and r.pre (Fin.ofNat 32 r.a) (Fin.ofNat 32 r.b) (Fin.ofNat 32 r.c))
  | 5, false => some (.or r.pre (Fin.ofNat 32 r.a) (Fin.ofNat 32 r.b) (Fin.ofNat 32 r.c))
  | 6, false => some (.xor r.pre (Fin.ofNat 32 r.a) (Fin.ofNat 32 r.b) (Fin.ofNat 32 r.c))
  | 7, false => some (.shl r.pre (Fin.ofNat 32 r.a) (Fin.ofNat 32 r.b) (Fin.ofNat 32 r.c))
  | 8, false => some (.shr r.pre (Fin.ofNat 32 r.a) (Fin.ofNat 32 r.b) (Fin.ofNat 32 r.c))
  | 8, true => some (.sar r.pre (Fin.ofNat 32 r.a) (Fin.ofNat 32 r.b) (Fin.ofNat 32 r.c))
  | 9, false => some (.mul r.pre (Fin.ofNat 32 r.a) (Fin.ofNat 32 r.b) (Fin.ofNat 32 r.c))
  | 10, false => some (.mulh r.pre (Fin.ofNat 32 r.a) (Fin.ofNat 32 r.b) (Fin.ofNat 32 r.c))
  | 10, true => some (.mulhn r.pre (Fin.ofNat 32 r.a) (Fin.ofNat 32 r.b) (Fin.ofNat 32 r.c))
  | 11, false => some (.div r.pre (Fin.ofNat 32 r.a) (Fin.ofNat 32 r.b) (Fin.ofNat 32 r.c))
  | 11, true => some (.divn r.pre (Fin.ofNat 32 r.a) (Fin.ofNat 32 r.b) (Fin.ofNat 32 r.c))
  | 12, false => some (.rem r.pre (Fin.ofNat 32 r.a) (Fin.ofNat 32 r.b) (Fin.ofNat 32 r.c))
  | 12, true => some (.remn r.pre (Fin.ofNat 32 r.a) (Fin.ofNat 32 r.b) (Fin.ofNat 32 r.c))
  | 13, false => some (.addi r.pre (Fin.ofNat 32 r.a) (Fin.ofNat 32 r.b) r.imm)
  | 14, false => some (.andi r.pre (Fin.ofNat 32 r.a) (Fin.ofNat 32 r.b) r.imm)
  | 15, false => some (.ori r.pre (Fin.ofNat 32 r.a) (Fin.ofNat 32 r.b) r.imm)
  | 16, false => some (.xori r.pre (Fin.ofNat 32 r.a) (Fin.ofNat 32 r.b) r.imm)
  | 17, false => some (.shli r.pre (Fin.ofNat 32 r.a) (Fin.ofNat 32 r.b) r.imm)
  | 18, false => some (.shri r.pre (Fin.ofNat 32 r.a) (Fin.ofNat 32 r.b) r.imm)
  | 19, false => some (.sari r.pre (Fin.ofNat 32 r.a) (Fin.ofNat 32 r.b) r.imm)
  | 20, false => some (.li r.pre (Fin.ofNat 32 r.a) r.imm)
  | 21, false => some (.cmpeq r.pre (Fin.ofNat 32 r.a) (Fin.ofNat 32 r.b) (Fin.ofNat 32 r.c))
  | 21, true => some (.cmpne r.pre (Fin.ofNat 32 r.a) (Fin.ofNat 32 r.b) (Fin.ofNat 32 r.c))
  | 22, false => some (.cmplt r.pre (Fin.ofNat 32 r.a) (Fin.ofNat 32 r.b) (Fin.ofNat 32 r.c))
  | 22, true => some (.cmpltn r.pre (Fin.ofNat 32 r.a) (Fin.ofNat 32 r.b) (Fin.ofNat 32 r.c))
  | 23, false => some (.cmple r.pre (Fin.ofNat 32 r.a) (Fin.ofNat 32 r.b) (Fin.ofNat 32 r.c))
  | 23, true => some (.cmplen r.pre (Fin.ofNat 32 r.a) (Fin.ofNat 32 r.b) (Fin.ofNat 32 r.c))
  | 24, false => some (.sel r.pre (Fin.ofNat 32 r.a) (Fin.ofNat 32 r.b) (Fin.ofNat 32 r.c) (Fin.ofNat 16 r.d))
  | 25, false => some (.ldb r.pre (Fin.ofNat 32 r.a) (Fin.ofNat 32 r.b) r.imm)
  | 26, false => some (.ldbn r.pre (Fin.ofNat 32 r.a) (Fin.ofNat 32 r.b) r.imm)
  | 27, false => some (.ldh r.pre (Fin.ofNat 32 r.a) (Fin.ofNat 32 r.b) r.imm)
  | 28, false => some (.ldhn r.pre (Fin.ofNat 32 r.a) (Fin.ofNat 32 r.b) r.imm)
  | 29, false => some (.ldw r.pre (Fin.ofNat 32 r.a) (Fin.ofNat 32 r.b) r.imm)
  | 30, false => some (.ldwn r.pre (Fin.ofNat 32 r.a) (Fin.ofNat 32 r.b) r.imm)
  | 31, false => some (.ldd r.pre (Fin.ofNat 32 r.a) (Fin.ofNat 32 r.b) r.imm)
  | 32, false => some (.stb r.pre (Fin.ofNat 32 r.a) (Fin.ofNat 32 r.b) r.imm)
  | 33, false => some (.sth r.pre (Fin.ofNat 32 r.a) (Fin.ofNat 32 r.b) r.imm)
  | 34, false => some (.stw r.pre (Fin.ofNat 32 r.a) (Fin.ofNat 32 r.b) r.imm)
  | 35, false => some (.std r.pre (Fin.ofNat 32 r.a) (Fin.ofNat 32 r.b) r.imm)
  | 36, false => some (.beq r.pre (Fin.ofNat 32 r.a) (Fin.ofNat 32 r.b) r.imm)
  | 37, false => some (.bne r.pre (Fin.ofNat 32 r.a) (Fin.ofNat 32 r.b) r.imm)
  | 38, false => some (.blt r.pre (Fin.ofNat 32 r.a) (Fin.ofNat 32 r.b) r.imm)
  | 39, false => some (.bge r.pre (Fin.ofNat 32 r.a) (Fin.ofNat 32 r.b) r.imm)
  | 40, false => some (.bltn r.pre (Fin.ofNat 32 r.a) (Fin.ofNat 32 r.b) r.imm)
  | 41, false => some (.bgen r.pre (Fin.ofNat 32 r.a) (Fin.ofNat 32 r.b) r.imm)
  | 42, false => some (.beqz r.pre (Fin.ofNat 32 r.a) r.imm)
  | 43, false => some (.bnez r.pre (Fin.ofNat 32 r.a) r.imm)
  | 44, false => some (.b r.pre r.imm)
  | 45, false => some (.jmp r.pre r.imm)
  | 46, false => some (.call r.pre r.imm)
  | 47, false => some (.jr r.pre (Fin.ofNat 32 r.a) r.imm)
  | 48, false => some (.callr r.pre (Fin.ofNat 32 r.a) r.imm)
  | 49, false => some (.jmpf r.pre (Fin.ofNat 32 r.a) r.imm)
  | 50, false => some (.callf r.pre (Fin.ofNat 32 r.a) r.imm)
  | 51, false => some (.loop r.pre (Fin.ofNat 32 r.a) r.imm)
  | 52, false => some (.csrd r.pre (Fin.ofNat 32 r.a) r.imm)
  | 53, false => some (.cswr r.pre (Fin.ofNat 32 r.a) r.imm)
  | 54, false => some (.trap r.pre r.imm)
  | 55, false => some (.eret r.pre)
  | _, _ => none

/-- The instructions of page 1 from raw fields. -/
def ofPage1 (r : Raw) : Option Instr :=
  match r.op, r.f with
  | 0, false => some (.clz r.pre (Fin.ofNat 32 r.a) (Fin.ofNat 32 r.b))
  | 1, false => some (.ctz r.pre (Fin.ofNat 32 r.a) (Fin.ofNat 32 r.b))
  | 2, false => some (.popc r.pre (Fin.ofNat 32 r.a) (Fin.ofNat 32 r.b))
  | 3, false => some (.min r.pre (Fin.ofNat 32 r.a) (Fin.ofNat 32 r.b) (Fin.ofNat 32 r.c))
  | 3, true => some (.minn r.pre (Fin.ofNat 32 r.a) (Fin.ofNat 32 r.b) (Fin.ofNat 32 r.c))
  | 4, false => some (.max r.pre (Fin.ofNat 32 r.a) (Fin.ofNat 32 r.b) (Fin.ofNat 32 r.c))
  | 4, true => some (.maxn r.pre (Fin.ofNat 32 r.a) (Fin.ofNat 32 r.b) (Fin.ofNat 32 r.c))
  | 5, false => some (.sext r.pre (Fin.ofNat 32 r.a) (Fin.ofNat 32 r.b) r.imm)
  | 6, false => some (.zext r.pre (Fin.ofNat 32 r.a) (Fin.ofNat 32 r.b) r.imm)
  | 7, false => some (.pcaddr r.pre (Fin.ofNat 32 r.a) r.imm)
  | 8, false => some (.fadd r.pre (Fin.ofNat 32 r.a) (Fin.ofNat 32 r.b) (Fin.ofNat 32 r.c))
  | 9, false => some (.fsub r.pre (Fin.ofNat 32 r.a) (Fin.ofNat 32 r.b) (Fin.ofNat 32 r.c))
  | 10, false => some (.fmul r.pre (Fin.ofNat 32 r.a) (Fin.ofNat 32 r.b) (Fin.ofNat 32 r.c))
  | 11, false => some (.fma r.pre (Fin.ofNat 32 r.a) (Fin.ofNat 32 r.b) (Fin.ofNat 32 r.c))
  | 12, false => some (.fdiv r.pre (Fin.ofNat 32 r.a) (Fin.ofNat 32 r.b) (Fin.ofNat 32 r.c))
  | 13, false => some (.fsqrt r.pre (Fin.ofNat 32 r.a) (Fin.ofNat 32 r.b))
  | 14, false => some (.fmin r.pre (Fin.ofNat 32 r.a) (Fin.ofNat 32 r.b) (Fin.ofNat 32 r.c))
  | 15, false => some (.fmax r.pre (Fin.ofNat 32 r.a) (Fin.ofNat 32 r.b) (Fin.ofNat 32 r.c))
  | 16, false => some (.fcmpeq r.pre (Fin.ofNat 32 r.a) (Fin.ofNat 32 r.b) (Fin.ofNat 32 r.c))
  | 17, false => some (.fcmplt r.pre (Fin.ofNat 32 r.a) (Fin.ofNat 32 r.b) (Fin.ofNat 32 r.c))
  | 18, false => some (.fcmple r.pre (Fin.ofNat 32 r.a) (Fin.ofNat 32 r.b) (Fin.ofNat 32 r.c))
  | 19, false => some (.fcvti r.pre (Fin.ofNat 32 r.a) (Fin.ofNat 32 r.b))
  | 19, true => some (.fcvtin r.pre (Fin.ofNat 32 r.a) (Fin.ofNat 32 r.b))
  | 20, false => some (.fcvtf r.pre (Fin.ofNat 32 r.a) (Fin.ofNat 32 r.b))
  | 20, true => some (.fcvtfn r.pre (Fin.ofNat 32 r.a) (Fin.ofNat 32 r.b))
  | 21, false => some (.fcvt r.pre (Fin.ofNat 32 r.a) (Fin.ofNat 32 r.b))
  | 22, false => some (.bsadd r.pre (Fin.ofNat 32 r.a) (Fin.ofNat 32 r.b) (Fin.ofNat 32 r.c))
  | 23, false => some (.bscvt r.pre (Fin.ofNat 32 r.a) (Fin.ofNat 32 r.b))
  | _, _ => none

/-- The instructions of page 2 from raw fields. -/
def ofPage2 (r : Raw) : Option Instr :=
  match r.op, r.f with
  | 0, false => some (.vld r.pre (Fin.ofNat 32 r.a) (Fin.ofNat 32 r.b) r.imm)
  | 1, false => some (.vst r.pre (Fin.ofNat 32 r.a) (Fin.ofNat 32 r.b) r.imm)
  | 2, false => some (.vlds r.pre (Fin.ofNat 32 r.a) (Fin.ofNat 32 r.b) (Fin.ofNat 32 r.c))
  | 3, false => some (.vsts r.pre (Fin.ofNat 32 r.a) (Fin.ofNat 32 r.b) (Fin.ofNat 32 r.c))
  | 4, false => some (.vldg r.pre (Fin.ofNat 32 r.a) (Fin.ofNat 32 r.b) (Fin.ofNat 32 r.c))
  | 5, false => some (.vstg r.pre (Fin.ofNat 32 r.a) (Fin.ofNat 32 r.b) (Fin.ofNat 32 r.c))
  | 6, false => some (.vldt r.pre (Fin.ofNat 32 r.a) (Fin.ofNat 32 r.b) (Fin.ofNat 32 r.c))
  | 7, false => some (.st64s r.pre (Fin.ofNat 32 r.a) (Fin.ofNat 32 r.b) (Fin.ofNat 32 r.c))
  | 8, false => some (.amoadd r.pre (Fin.ofNat 32 r.a) (Fin.ofNat 32 r.b) (Fin.ofNat 32 r.c))
  | 9, false => some (.amoswp r.pre (Fin.ofNat 32 r.a) (Fin.ofNat 32 r.b) (Fin.ofNat 32 r.c))
  | 10, false => some (.amocas r.pre (Fin.ofNat 32 r.a) (Fin.ofNat 32 r.b) (Fin.ofNat 32 r.c) (Fin.ofNat 16 r.d))
  | 11, false => some (.amomin r.pre (Fin.ofNat 32 r.a) (Fin.ofNat 32 r.b) (Fin.ofNat 32 r.c))
  | 11, true => some (.amominn r.pre (Fin.ofNat 32 r.a) (Fin.ofNat 32 r.b) (Fin.ofNat 32 r.c))
  | 12, false => some (.amomax r.pre (Fin.ofNat 32 r.a) (Fin.ofNat 32 r.b) (Fin.ofNat 32 r.c))
  | 12, true => some (.amomaxn r.pre (Fin.ofNat 32 r.a) (Fin.ofNat 32 r.b) (Fin.ofNat 32 r.c))
  | 13, false => some (.amoand r.pre (Fin.ofNat 32 r.a) (Fin.ofNat 32 r.b) (Fin.ofNat 32 r.c))
  | 14, false => some (.amoor r.pre (Fin.ofNat 32 r.a) (Fin.ofNat 32 r.b) (Fin.ofNat 32 r.c))
  | 15, false => some (.fence r.pre)
  | 16, false => some (.qbind r.pre (Fin.ofNat 16 r.a) (Fin.ofNat 32 r.b))
  | 17, false => some (.qadvh r.pre (Fin.ofNat 16 r.a) (Fin.ofNat 32 r.b) r.imm)
  | 18, false => some (.qadvt r.pre (Fin.ofNat 16 r.a) (Fin.ofNat 32 r.b) r.imm)
  | 19, false => some (.qcnt r.pre (Fin.ofNat 32 r.a) (Fin.ofNat 16 r.b))
  | 19, true => some (.qfree r.pre (Fin.ofNat 32 r.a) (Fin.ofNat 16 r.b))
  | 20, false => some (.qwaitf r.pre (Fin.ofNat 16 r.a) (Fin.ofNat 32 r.b) r.imm)
  | 21, false => some (.qwaite r.pre (Fin.ofNat 16 r.a) (Fin.ofNat 32 r.b) r.imm)
  | 22, false => some (.sbind r.pre (Fin.ofNat 32 r.a) (Fin.ofNat 32 r.b))
  | 22, true => some (.sbinds r.pre (Fin.ofNat 32 r.a) (Fin.ofNat 32 r.b))
  | 23, false => some (.sunbind r.pre (Fin.ofNat 32 r.a) r.imm)
  | 24, false => some (.spos r.pre (Fin.ofNat 32 r.a) (Fin.ofNat 32 r.b) (Fin.ofNat 8 r.c))
  | 25, false => some (.vrowld r.pre (Fin.ofNat 32 r.a) (Fin.ofNat 32 r.b) (Fin.ofNat 8 r.c))
  | 26, false => some (.vrowst r.pre (Fin.ofNat 32 r.a) (Fin.ofNat 32 r.b) (Fin.ofNat 8 r.c))
  | 27, false => some (.vrowadd r.pre (Fin.ofNat 32 r.a) (Fin.ofNat 32 r.b) (Fin.ofNat 8 r.c))
  | 28, false => some (.vrowcas r.pre (Fin.ofNat 32 r.a) (Fin.ofNat 32 r.b) (Fin.ofNat 8 r.c))
  | 29, false => some (.capdef r.pre (Fin.ofNat 32 r.b) (Fin.ofNat 32 r.c))
  | 30, false => some (.capx r.pre (Fin.ofNat 32 r.b) (Fin.ofNat 32 r.c))
  | 31, false => some (.capq r.pre (Fin.ofNat 32 r.a) (Fin.ofNat 32 r.b))
  | _, _ => none

/-- The instructions of page 3 from raw fields. -/
def ofPage3 (r : Raw) : Option Instr :=
  match r.op, r.f with
  | 0, false => some (.msend r.pre (Fin.ofNat 32 r.a) (Fin.ofNat 32 r.b) r.imm)
  | 1, false => some (.mrecv r.pre (Fin.ofNat 32 r.a) r.imm)
  | 2, false => some (.mpoll r.pre (Fin.ofNat 32 r.a))
  | 3, false => some (.mbwait r.pre (Fin.ofNat 32 r.a) r.imm)
  | 4, false => some (.mbpop r.pre (Fin.ofNat 32 r.a))
  | 5, false => some (.copy r.pre (Fin.ofNat 32 r.a) (Fin.ofNat 32 r.b))
  | 5, true => some (.copyb r.pre (Fin.ofNat 32 r.a) (Fin.ofNat 32 r.b))
  | 6, false => some (.cfet r.pre (Fin.ofNat 32 r.a) (Fin.ofNat 32 r.b) (Fin.ofNat 32 r.c))
  | 6, true => some (.cfetb r.pre (Fin.ofNat 32 r.a) (Fin.ofNat 32 r.b) (Fin.ofNat 32 r.c))
  | 7, false => some (.gang r.pre r.imm)
  | 8, false => some (.split r.pre)
  | 9, false => some (.thstart r.pre (Fin.ofNat 32 r.a) (Fin.ofNat 32 r.b) (Fin.ofNat 32 r.c))
  | 10, false => some (.thstop r.pre (Fin.ofNat 32 r.a))
  | 11, false => some (.yield r.pre)
  | 12, false => some (.halt r.pre)
  | 13, false => some (.brk r.pre r.imm)
  | 14, false => some (.trace r.pre (Fin.ofNat 32 r.a))
  | 15, false => some (.bgtrd r.pre (Fin.ofNat 32 r.a) r.imm)
  | _, _ => none

/-- The instructions of page 4 from raw fields. -/
noncomputable def ofPage4 (r : Raw) : Option Instr :=
  match r.op, r.f with
  | 0, false => some (.vadd r.pre (Fin.ofNat 32 r.a) (Fin.ofNat 32 r.b) (Fin.ofNat 32 r.c))
  | 0, true => some (.vaddSat r.pre (Fin.ofNat 32 r.a) (Fin.ofNat 32 r.b) (Fin.ofNat 32 r.c))
  | 1, false => some (.vsub r.pre (Fin.ofNat 32 r.a) (Fin.ofNat 32 r.b) (Fin.ofNat 32 r.c))
  | 1, true => some (.vsubSat r.pre (Fin.ofNat 32 r.a) (Fin.ofNat 32 r.b) (Fin.ofNat 32 r.c))
  | 2, false => some (.vmul r.pre (Fin.ofNat 32 r.a) (Fin.ofNat 32 r.b) (Fin.ofNat 32 r.c))
  | 3, false => some (.vmulh r.pre (Fin.ofNat 32 r.a) (Fin.ofNat 32 r.b) (Fin.ofNat 32 r.c))
  | 3, true => some (.vmulhn r.pre (Fin.ofNat 32 r.a) (Fin.ofNat 32 r.b) (Fin.ofNat 32 r.c))
  | 4, false => some (.vmad r.pre (Fin.ofNat 32 r.a) (Fin.ofNat 32 r.b) (Fin.ofNat 32 r.c))
  | 5, false => some (.vaddw r.pre (Fin.ofNat 32 r.a) (Fin.ofNat 32 r.b) (Fin.ofNat 32 r.c))
  | 5, true => some (.vaddwh r.pre (Fin.ofNat 32 r.a) (Fin.ofNat 32 r.b) (Fin.ofNat 32 r.c))
  | 6, false => some (.vdot r.pre (Fin.ofNat 32 r.a) (Fin.ofNat 32 r.b) (Fin.ofNat 32 r.c))
  | 7, false => some (.vand r.pre (Fin.ofNat 32 r.a) (Fin.ofNat 32 r.b) (Fin.ofNat 32 r.c))
  | 8, false => some (.vor r.pre (Fin.ofNat 32 r.a) (Fin.ofNat 32 r.b) (Fin.ofNat 32 r.c))
  | 9, false => some (.vxor r.pre (Fin.ofNat 32 r.a) (Fin.ofNat 32 r.b) (Fin.ofNat 32 r.c))
  | 10, false => some (.vshl r.pre (Fin.ofNat 32 r.a) (Fin.ofNat 32 r.b) (Fin.ofNat 32 r.c))
  | 11, false => some (.vshr r.pre (Fin.ofNat 32 r.a) (Fin.ofNat 32 r.b) (Fin.ofNat 32 r.c))
  | 11, true => some (.vsar r.pre (Fin.ofNat 32 r.a) (Fin.ofNat 32 r.b) (Fin.ofNat 32 r.c))
  | 12, false => some (.vshli r.pre (Fin.ofNat 32 r.a) (Fin.ofNat 32 r.b) r.imm)
  | 13, false => some (.vshri r.pre (Fin.ofNat 32 r.a) (Fin.ofNat 32 r.b) r.imm)
  | 14, false => some (.vsari r.pre (Fin.ofNat 32 r.a) (Fin.ofNat 32 r.b) r.imm)
  | 15, false => some (.vmin r.pre (Fin.ofNat 32 r.a) (Fin.ofNat 32 r.b) (Fin.ofNat 32 r.c))
  | 15, true => some (.vminn r.pre (Fin.ofNat 32 r.a) (Fin.ofNat 32 r.b) (Fin.ofNat 32 r.c))
  | 16, false => some (.vmax r.pre (Fin.ofNat 32 r.a) (Fin.ofNat 32 r.b) (Fin.ofNat 32 r.c))
  | 16, true => some (.vmaxn r.pre (Fin.ofNat 32 r.a) (Fin.ofNat 32 r.b) (Fin.ofNat 32 r.c))
  | 17, false => some (.vabs r.pre (Fin.ofNat 32 r.a) (Fin.ofNat 32 r.b))
  | 18, false => some (.vcmpeq r.pre (Fin.ofNat 8 r.a) (Fin.ofNat 32 r.b) (Fin.ofNat 32 r.c))
  | 18, true => some (.vcmpne r.pre (Fin.ofNat 8 r.a) (Fin.ofNat 32 r.b) (Fin.ofNat 32 r.c))
  | 19, false => some (.vcmplt r.pre (Fin.ofNat 8 r.a) (Fin.ofNat 32 r.b) (Fin.ofNat 32 r.c))
  | 19, true => some (.vcmpltn r.pre (Fin.ofNat 8 r.a) (Fin.ofNat 32 r.b) (Fin.ofNat 32 r.c))
  | 20, false => some (.vcmple r.pre (Fin.ofNat 8 r.a) (Fin.ofNat 32 r.b) (Fin.ofNat 32 r.c))
  | 20, true => some (.vcmplen r.pre (Fin.ofNat 8 r.a) (Fin.ofNat 32 r.b) (Fin.ofNat 32 r.c))
  | 21, false => some (.vsel r.pre (Fin.ofNat 32 r.a) (Fin.ofNat 32 r.b) (Fin.ofNat 32 r.c))
  | 22, false => some (.vbcast r.pre (Fin.ofNat 32 r.a) (Fin.ofNat 32 r.b))
  | 23, false => some (.vextr r.pre (Fin.ofNat 32 r.a) (Fin.ofNat 32 r.b) r.imm)
  | 24, false => some (.vins r.pre (Fin.ofNat 32 r.a) (Fin.ofNat 32 r.b) r.imm)
  | 25, false => some (.vlane r.pre (Fin.ofNat 32 r.a) r.imm)
  | _, _ => none

/-- The instructions of page 5 from raw fields. -/
noncomputable def ofPage5 (r : Raw) : Option Instr :=
  match r.op, r.f with
  | 0, false => some (.vfadd r.pre (Fin.ofNat 32 r.a) (Fin.ofNat 32 r.b) (Fin.ofNat 32 r.c))
  | 1, false => some (.vfsub r.pre (Fin.ofNat 32 r.a) (Fin.ofNat 32 r.b) (Fin.ofNat 32 r.c))
  | 2, false => some (.vfmul r.pre (Fin.ofNat 32 r.a) (Fin.ofNat 32 r.b) (Fin.ofNat 32 r.c))
  | 3, false => some (.vfma r.pre (Fin.ofNat 32 r.a) (Fin.ofNat 32 r.b) (Fin.ofNat 32 r.c))
  | 4, false => some (.vfnma r.pre (Fin.ofNat 32 r.a) (Fin.ofNat 32 r.b) (Fin.ofNat 32 r.c))
  | 12, false => some (.vfdiv r.pre (Fin.ofNat 32 r.a) (Fin.ofNat 32 r.b) (Fin.ofNat 32 r.c))
  | 5, false => some (.vfmin r.pre (Fin.ofNat 32 r.a) (Fin.ofNat 32 r.b) (Fin.ofNat 32 r.c))
  | 6, false => some (.vfmax r.pre (Fin.ofNat 32 r.a) (Fin.ofNat 32 r.b) (Fin.ofNat 32 r.c))
  | 7, false => some (.vfabs r.pre (Fin.ofNat 32 r.a) (Fin.ofNat 32 r.b))
  | 8, false => some (.vfneg r.pre (Fin.ofNat 32 r.a) (Fin.ofNat 32 r.b))
  | 9, false => some (.vfcmpeq r.pre (Fin.ofNat 8 r.a) (Fin.ofNat 32 r.b) (Fin.ofNat 32 r.c))
  | 10, false => some (.vfcmplt r.pre (Fin.ofNat 8 r.a) (Fin.ofNat 32 r.b) (Fin.ofNat 32 r.c))
  | 11, false => some (.vfcmple r.pre (Fin.ofNat 8 r.a) (Fin.ofNat 32 r.b) (Fin.ofNat 32 r.c))
  | 13, false => some (.vfsqrt r.pre (Fin.ofNat 32 r.a) (Fin.ofNat 32 r.b))
  | 14, false => some (.vfrcp r.pre (Fin.ofNat 32 r.a) (Fin.ofNat 32 r.b))
  | 15, false => some (.vfrsq r.pre (Fin.ofNat 32 r.a) (Fin.ofNat 32 r.b))
  | _, _ => none

/-- The instructions of page 6 from raw fields. -/
noncomputable def ofPage6 (r : Raw) : Option Instr :=
  match r.op, r.f with
  | 0, false => some (.vcvt r.pre (Fin.ofNat 32 r.a) (Fin.ofNat 32 r.b) (Fin.ofNat 8 r.c))
  | 1, false => some (.vpack r.pre (Fin.ofNat 32 r.a) (Fin.ofNat 32 r.b) (Fin.ofNat 32 r.c))
  | 2, false => some (.vunpk r.pre (Fin.ofNat 32 r.a) (Fin.ofNat 32 r.b))
  | 2, true => some (.vunpkh r.pre (Fin.ofNat 32 r.a) (Fin.ofNat 32 r.b))
  | 3, false => some (.vperm r.pre (Fin.ofNat 32 r.a) (Fin.ofNat 32 r.b) (Fin.ofNat 32 r.c))
  | 4, false => some (.vslideup r.pre (Fin.ofNat 32 r.a) (Fin.ofNat 32 r.b) r.imm)
  | 5, false => some (.vslidedn r.pre (Fin.ofNat 32 r.a) (Fin.ofNat 32 r.b) r.imm)
  | 6, false => some (.vzip r.pre (Fin.ofNat 32 r.a) (Fin.ofNat 32 r.b) (Fin.ofNat 32 r.c))
  | 6, true => some (.vziph r.pre (Fin.ofNat 32 r.a) (Fin.ofNat 32 r.b) (Fin.ofNat 32 r.c))
  | 7, false => some (.vunzip r.pre (Fin.ofNat 32 r.a) (Fin.ofNat 32 r.b) (Fin.ofNat 32 r.c))
  | 7, true => some (.vunzipo r.pre (Fin.ofNat 32 r.a) (Fin.ofNat 32 r.b) (Fin.ofNat 32 r.c))
  | 8, false => some (.vtrn r.pre (Fin.ofNat 32 r.a) (Fin.ofNat 32 r.b) (Fin.ofNat 32 r.c))
  | 8, true => some (.vtrn2 r.pre (Fin.ofNat 32 r.a) (Fin.ofNat 32 r.b) (Fin.ofNat 32 r.c))
  | 9, false => some (.vscan r.pre (Fin.ofNat 32 r.a) (Fin.ofNat 32 r.b))
  | 9, true => some (.vscanx r.pre (Fin.ofNat 32 r.a) (Fin.ofNat 32 r.b))
  | 10, false => some (.vred r.pre (Fin.ofNat 32 r.a) (Fin.ofNat 32 r.b))
  | 10, true => some (.vredw r.pre (Fin.ofNat 32 r.a) (Fin.ofNat 32 r.b))
  | 11, false => some (.vredmax r.pre (Fin.ofNat 32 r.a) (Fin.ofNat 32 r.b))
  | 11, true => some (.vredmaxn r.pre (Fin.ofNat 32 r.a) (Fin.ofNat 32 r.b))
  | 12, false => some (.vfred r.pre (Fin.ofNat 32 r.a) (Fin.ofNat 32 r.b))
  | 13, false => some (.vfredmax r.pre (Fin.ofNat 32 r.a) (Fin.ofNat 32 r.b))
  | 14, false => some (.kand r.pre (Fin.ofNat 8 r.a) (Fin.ofNat 8 r.b) (Fin.ofNat 8 r.c))
  | 15, false => some (.kor r.pre (Fin.ofNat 8 r.a) (Fin.ofNat 8 r.b) (Fin.ofNat 8 r.c))
  | 16, false => some (.knot r.pre (Fin.ofNat 8 r.a) (Fin.ofNat 8 r.b))
  | 17, false => some (.kpopc r.pre (Fin.ofNat 32 r.a) (Fin.ofNat 8 r.b))
  | 18, false => some (.kfirst r.pre (Fin.ofNat 32 r.a) (Fin.ofNat 8 r.b))
  | 19, false => some (.kmov r.pre (Fin.ofNat 8 r.a) (Fin.ofNat 32 r.b))
  | 19, true => some (.kmovs r.pre (Fin.ofNat 32 r.a) (Fin.ofNat 8 r.b))
  | _, _ => none

/-- The instructions of page 7 from raw fields. -/
noncomputable def ofPage7 (r : Raw) : Option Instr :=
  match r.op, r.f with
  | 0, false => some (.yseed r.pre (Fin.ofNat 8 r.a) (Fin.ofNat 32 r.b))
  | 1, false => some (.ydraw r.pre (Fin.ofNat 8 r.a) (Fin.ofNat 8 r.b))
  | 2, false => some (.ycmp r.pre (Fin.ofNat 8 r.a) (Fin.ofNat 8 r.b) (Fin.ofNat 32 r.c))
  | 3, false => some (.ycmpy r.pre (Fin.ofNat 8 r.a) (Fin.ofNat 8 r.b) (Fin.ofNat 8 r.c))
  | 4, false => some (.yrnd r.pre (Fin.ofNat 32 r.a) (Fin.ofNat 32 r.b) (Fin.ofNat 8 r.c))
  | 5, false => some (.ycvt r.pre (Fin.ofNat 32 r.a) (Fin.ofNat 8 r.b))
  | 6, false => some (.ymov r.pre (Fin.ofNat 8 r.a) (Fin.ofNat 8 r.b))
  | 7, false => some (.ystat r.pre (Fin.ofNat 32 r.a) (Fin.ofNat 8 r.b) (Fin.ofNat 8 r.c))
  | 8, false => some (.yst r.pre (Fin.ofNat 8 r.a) (Fin.ofNat 32 r.b) r.imm)
  | 9, false => some (.yld r.pre (Fin.ofNat 8 r.a) (Fin.ofNat 32 r.b) r.imm)
  | 10, false => some (.vexp2 r.pre (Fin.ofNat 32 r.a) (Fin.ofNat 32 r.b))
  | 11, false => some (.vlog2 r.pre (Fin.ofNat 32 r.a) (Fin.ofNat 32 r.b))
  | 12, false => some (.vtanh r.pre (Fin.ofNat 32 r.a) (Fin.ofNat 32 r.b))
  | 13, false => some (.vsinpi r.pre (Fin.ofNat 32 r.a) (Fin.ofNat 32 r.b))
  | 14, false => some (.vcospi r.pre (Fin.ofNat 32 r.a) (Fin.ofNat 32 r.b))
  | _, _ => none

/-- The instructions of page 8 from raw fields. -/
noncomputable def ofPage8 (r : Raw) : Option Instr :=
  match r.op, r.f with
  | 0, false => some (.oclm r.pre (Fin.ofNat 32 r.a) (Fin.ofNat 32 r.b) r.imm)
  | 1, false => some (.orel r.pre (Fin.ofNat 32 r.b) r.imm)
  | 2, false => some (.old r.pre (Fin.ofNat 32 r.a) (Fin.ofNat 32 r.b) (Fin.ofNat 32 r.c))
  | 2, true => some (.oldb r.pre (Fin.ofNat 32 r.a) (Fin.ofNat 32 r.b) (Fin.ofNat 32 r.c))
  | 3, false => some (.oldt r.pre (Fin.ofNat 32 r.a) (Fin.ofNat 32 r.b) (Fin.ofNat 32 r.c))
  | 3, true => some (.oldtb r.pre (Fin.ofNat 32 r.a) (Fin.ofNat 32 r.b) (Fin.ofNat 32 r.c))
  | 4, false => some (.oswap r.pre (Fin.ofNat 32 r.a) (Fin.ofNat 32 r.b))
  | 5, false => some (.ost r.pre (Fin.ofNat 32 r.a) (Fin.ofNat 32 r.b) (Fin.ofNat 32 r.c))
  | 6, false => some (.zclr r.pre (Fin.ofNat 4 r.a))
  | 7, false => some (.zst r.pre (Fin.ofNat 4 r.a) (Fin.ofNat 32 r.b) (Fin.ofNat 32 r.c))
  | 8, false => some (.zld r.pre (Fin.ofNat 4 r.a) (Fin.ofNat 32 r.b) (Fin.ofNat 32 r.c))
  | 9, false => some (.zmovv r.pre (Fin.ofNat 32 r.a) (Fin.ofNat 4 r.b) (Fin.ofNat 32 r.c))
  | 10, false => some (.mwait r.pre)
  | 11, false => some (.mstat r.pre (Fin.ofNat 32 r.a) r.imm)
  | _, _ => none

/-- The instructions of page 9 from raw fields. -/
noncomputable def ofPage9 (r : Raw) : Option Instr :=
  match r.op, r.f with
  | 0, false => some (.mmaBf r.pre (Fin.ofNat 4 r.a) (Fin.ofNat 32 r.b) (Fin.ofNat 32 r.c))
  | 0, true => some (.mmaBfOw r.pre (Fin.ofNat 4 r.a) (Fin.ofNat 32 r.b) (Fin.ofNat 32 r.c))
  | 1, false => some (.mmaHf r.pre (Fin.ofNat 4 r.a) (Fin.ofNat 32 r.b) (Fin.ofNat 32 r.c))
  | 1, true => some (.mmaHfOw r.pre (Fin.ofNat 4 r.a) (Fin.ofNat 32 r.b) (Fin.ofNat 32 r.c))
  | 2, false => some (.mmaF32 r.pre (Fin.ofNat 4 r.a) (Fin.ofNat 32 r.b) (Fin.ofNat 32 r.c))
  | 2, true => some (.mmaF32Ow r.pre (Fin.ofNat 4 r.a) (Fin.ofNat 32 r.b) (Fin.ofNat 32 r.c))
  | 3, false => some (.mmaE4 r.pre (Fin.ofNat 4 r.a) (Fin.ofNat 32 r.b) (Fin.ofNat 32 r.c))
  | 3, true => some (.mmaE4Ow r.pre (Fin.ofNat 4 r.a) (Fin.ofNat 32 r.b) (Fin.ofNat 32 r.c))
  | 4, false => some (.mmaE5 r.pre (Fin.ofNat 4 r.a) (Fin.ofNat 32 r.b) (Fin.ofNat 32 r.c))
  | 4, true => some (.mmaE5Ow r.pre (Fin.ofNat 4 r.a) (Fin.ofNat 32 r.b) (Fin.ofNat 32 r.c))
  | 5, false => some (.mmaE45 r.pre (Fin.ofNat 4 r.a) (Fin.ofNat 32 r.b) (Fin.ofNat 32 r.c))
  | 5, true => some (.mmaE45Ow r.pre (Fin.ofNat 4 r.a) (Fin.ofNat 32 r.b) (Fin.ofNat 32 r.c))
  | 6, false => some (.mmaI8 r.pre (Fin.ofNat 4 r.a) (Fin.ofNat 32 r.b) (Fin.ofNat 32 r.c) (Fin.ofNat 16 r.d))
  | 6, true => some (.mmaI8Ow r.pre (Fin.ofNat 4 r.a) (Fin.ofNat 32 r.b) (Fin.ofNat 32 r.c) (Fin.ofNat 16 r.d))
  | 7, false => some (.mmaI4 r.pre (Fin.ofNat 4 r.a) (Fin.ofNat 32 r.b) (Fin.ofNat 32 r.c) (Fin.ofNat 16 r.d))
  | 7, true => some (.mmaI4Ow r.pre (Fin.ofNat 4 r.a) (Fin.ofNat 32 r.b) (Fin.ofNat 32 r.c) (Fin.ofNat 16 r.d))
  | 8, false => some (.mmaQ8 r.pre (Fin.ofNat 4 r.a) (Fin.ofNat 32 r.b) (Fin.ofNat 32 r.c) (Fin.ofNat 16 r.d))
  | 8, true => some (.mmaQ8Ow r.pre (Fin.ofNat 4 r.a) (Fin.ofNat 32 r.b) (Fin.ofNat 32 r.c) (Fin.ofNat 16 r.d))
  | 9, false => some (.mmaQ4q8 r.pre (Fin.ofNat 4 r.a) (Fin.ofNat 32 r.b) (Fin.ofNat 32 r.c) (Fin.ofNat 16 r.d))
  | 9, true => some (.mmaQ4q8Ow r.pre (Fin.ofNat 4 r.a) (Fin.ofNat 32 r.b) (Fin.ofNat 32 r.c) (Fin.ofNat 16 r.d))
  | 10, false => some (.mmaQ4 r.pre (Fin.ofNat 4 r.a) (Fin.ofNat 32 r.b) (Fin.ofNat 32 r.c) (Fin.ofNat 16 r.d))
  | 10, true => some (.mmaQ4Ow r.pre (Fin.ofNat 4 r.a) (Fin.ofNat 32 r.b) (Fin.ofNat 32 r.c) (Fin.ofNat 16 r.d))
  | _, _ => none

/-- The instructions of page 10 from raw fields. -/
noncomputable def ofPage10 (r : Raw) : Option Instr :=
  match r.op, r.f with
  | 0, false => some (.pdecl r.pre (Fin.ofNat 8 r.a) (Fin.ofNat 32 r.b) (Fin.ofNat 8 r.c))
  | 1, false => some (.pfree r.pre (Fin.ofNat 8 r.a))
  | 2, false => some (.pinfo r.pre (Fin.ofNat 32 r.a) (Fin.ofNat 8 r.b) (Fin.ofNat 32 r.c))
  | 3, false => some (.lapx r.pre (Fin.ofNat 8 r.a))
  | 4, false => some (.lapw r.pre (Fin.ofNat 8 r.a) (Fin.ofNat 32 r.b))
  | 5, false => some (.ridge r.pre (Fin.ofNat 32 r.a) r.imm (Fin.ofNat 16 r.d))
  | 6, false => some (.ridgea r.pre r.imm (Fin.ofNat 16 r.d))
  | 7, false => some (.ridgew r.pre (Fin.ofNat 32 r.a) r.imm)
  | 8, false => some (.xtt r.pre (Fin.ofNat 32 r.b))
  | 9, false => some (.sldecl r.pre (Fin.ofNat 32 r.b) (Fin.ofNat 32 r.c))
  | 10, false => some (.radd r.pre (Fin.ofNat 32 r.b) (Fin.ofNat 32 r.c))
  | 10, true => some (.raddv r.pre (Fin.ofNat 32 r.b) (Fin.ofNat 32 r.c))
  | 11, false => some (.amrg r.pre (Fin.ofNat 32 r.a) (Fin.ofNat 32 r.b) (Fin.ofNat 32 r.c) (Fin.ofNat 16 r.d))
  | 12, false => some (.rfold r.pre (Fin.ofNat 32 r.b))
  | _, _ => none

/-- The instructions of page 11 from raw fields. -/
noncomputable def ofPage11 (r : Raw) : Option Instr :=
  match r.op, r.f with
  | 0, false => some (.rst r.pre (Fin.ofNat 32 r.b))
  | 1, false => some (.rfaa r.pre (Fin.ofNat 32 r.b))
  | 2, false => some (.rfence r.pre (Fin.ofNat 32 r.b))
  | 3, false => some (.trig r.pre (Fin.ofNat 32 r.a) (Fin.ofNat 32 r.b) (Fin.ofNat 16 r.c) (Fin.ofNat 16 r.d))
  | 4, false => some (.hcnt r.pre (Fin.ofNat 32 r.a) (Fin.ofNat 32 r.b) (Fin.ofNat 16 r.c))
  | 4, true => some (.hcnts r.pre (Fin.ofNat 32 r.a) (Fin.ofNat 32 r.b) (Fin.ofNat 16 r.c))
  | 5, false => some (.hwait r.pre (Fin.ofNat 32 r.a) (Fin.ofNat 32 r.b) (Fin.ofNat 16 r.c))
  | 6, false => some (.cpost r.pre (Fin.ofNat 32 r.a) (Fin.ofNat 32 r.b) (Fin.ofNat 32 r.c))
  | 7, false => some (.crevoke r.pre (Fin.ofNat 32 r.a))
  | _, _ => none

/-- An instruction from raw fields; the fields have passed `Raw.ok`. The compiler has no room
for so many constructors with fields, so these functions are marked noncomputable; the kernel evaluates
them. -/
noncomputable def ofRaw (r : Raw) : Option Instr :=
  match r.page with
  | 0 => ofPage0 r
  | 1 => ofPage1 r
  | 2 => ofPage2 r
  | 3 => ofPage3 r
  | 4 => ofPage4 r
  | 5 => ofPage5 r
  | 6 => ofPage6 r
  | 7 => ofPage7 r
  | 8 => ofPage8 r
  | 9 => ofPage9 r
  | 10 => ofPage10 r
  | 11 => ofPage11 r
  | _ => none

end Sys2Proof
end

