-- ==== Sys2Proof/WellFormed.lean ====
section
/-!
DEFINITION. When an instruction is well formed (R185, R250 to R261 and the entries they point to): what the
device tests of a word once its base word is fetched, and whether the instruction fits in four prefixes.
-/
namespace Sys2Proof

/-- The code of a type (R258). -/
def Ty.code : Ty → Nat
  | .dflt => 0 | .i8 => 1 | .n8 => 2 | .i16 => 3 | .n16 => 4 | .i32 => 5 | .n32 => 6 | .i64 => 7 | .n64 => 8
  | .bf16 => 9 | .f16 => 10 | .f32 => 11 | .e4m3 => 12 | .e5m2 => 13 | .i4 => 14 | .n4 => 15

/-- Its width in bits; code 0 is 32 bits wide on the pages that ask (R329). -/
def Ty.width : Ty → Nat
  | .i4 | .n4 => 4
  | .i8 | .n8 | .e4m3 | .e5m2 => 8
  | .i16 | .n16 | .bf16 | .f16 => 16
  | .dflt | .i32 | .n32 | .f32 => 32
  | .i64 | .n64 => 64

/-- Whether it is a floating type. -/
def Ty.isFloat : Ty → Bool
  | .bf16 | .f16 | .f32 | .e4m3 | .e5m2 => true
  | _ => false

/-- Whether an integer type is read as signed (R329). -/
def Ty.isSigned : Ty → Bool
  | .dflt | .i8 | .i16 | .i32 | .i64 | .i4 => true
  | _ => false

/-- Lanes of a vector register (R329). -/
def Ty.lanes (t : Ty) : Nat := 512 / t.width

/-- Why a word is no instruction (R261). -/
inductive Illegal where
  /-- `0x0000` in the first word, or an opcode the page does not assign -/
  | unassigned
  /-- opcode 63 -/
  | reservedPrefix
  /-- a fifth prefix word or a fourth XI -/
  | tooManyPrefixes
  /-- a second prefix of one kind -/
  | repeatedPrefix
  /-- a non-zero reserved field -/
  | reservedField
  /-- XP page 12 to 15, or `rnd` 7 -/
  | badPage
  /-- a prefix or a control the instruction does not accept, or a required XR that is absent -/
  | prefixNotAccepted
  /-- a register or number outside its class -/
  | registerOutside
  /-- an immediate outside its range -/
  | immediateOutside
  /-- a type code the entry does not accept -/
  | typeNotAccepted
  /-- an order or scope that R151 forbids -/
  | orderingForbidden
  /-- more prefixes than four would be needed (R254) -/
  | doesNotFit
  /-- words missing after a prefix -/
  | cutShort
  deriving DecidableEq, Repr

/-- The class of a field holds number `n` (R251). -/
def Cls.ok : Cls → Nat → Bool
  | .no, n => n == 0
  | .s, n | .v, n | .o, n => n < 32
  | .se, n | .oe, n => n < 32 && n % 2 == 0
  | .m, n | .q, n | .h, n => n < 16
  | .k, n | .y, n => n < 8
  | .z, n => n < 4
  | .vt, n => n == 0 || n == 16
  | .num lim, n => n ≤ lim
  | .level, n => decide (1 ≤ n) && decide (n ≤ 5)

/-- The class names a register, so that XR is accepted (R260). -/
def Cls.isReg : Cls → Bool
  | .no | .num _ | .level => false
  | _ => true

/-- XR is accepted (R260). -/
def Row.xrOk (w : Row) : Bool := w.a.isReg || w.b.isReg || w.c.isReg || w.d != .zero

/-- The fourth operand is accepted (R260, R379). -/
def DRule.ok (rule : DRule) (d : Nat) (imm : Word) : Bool :=
  match rule with
  | .zero => d == 0
  | .req | .opt => d < 16
  | .nz => d != 0 && d < 16
  | .level6 => d == 0 || (d < 16 && imm == 6)

/-- The bits of the base immediate field (R250, R252). -/
def Fmt.immBits : Fmt → Nat
  | .T => 0 | .I => 4 | .Z => 7 | .L => 10

/-- The immediate is in its range (R252, R331). -/
def Row.immOk (w : Row) (x : Pre) (imm : Word) : Bool :=
  let n := imm.toNat
  let fits := n < 2 ^ (w.fmt.immBits + 30)
  match w.imm with
  | .no => imm == 0
  | .sext => sextInt n (w.fmt.immBits + 30) == imm.toInt
  | .zext lo hi => decide (lo ≤ n) && decide (n ≤ hi) && decide fits
  | .ignored => decide (n < 2 ^ w.fmt.immBits)
  | .width => decide (n < x.dtype.width) && decide fits
  | .lane => decide (n < x.dtype.lanes) && decide fits
  | .slide => decide (n ≤ x.dtype.lanes) && decide fits

/-- The rounding mode is accepted (R260, R203, R344, R345). -/
def Row.rndOk (w : Row) (page : Nat) (x : Pre) : Bool :=
  (match w.acc.rnd with
    | .rne => x.rnd == .rne
    | .allButSr => x.rnd != .sr
    | .all => true) &&
  !(page == 7 && w.acc.rnd == .all && (x.dtype == .dflt || x.dtype == .f32) && x.rnd != .rne) &&
  !(page == 6 && w.op == 9 && !x.dtype.isFloat && (x.rnd != .rne || x.ftzi || x.ftzo))

/-- The number of lanes that SR may ask of the lazy-uniform registers (R311, R330, R340). -/
def Raw.srLanes (r : Raw) : Nat :=
  match r.page, r.op with
  | 1, _ => 1
  | 2, _ => 512 * 2 ^ r.c / (if r.pre.dtype == .dflt then 32 else r.pre.dtype.width)
  | 6, 0 =>
    let wd := r.pre.dtype.width
    let ws := r.pre.stype.width
    512 / max wd ws * (if wd < ws then r.c + 1 else 1)
  | _, _ => r.pre.dtype.lanes

/-- The SR register and every further one exists, and none is named without SR (R185, R257, R330). -/
def Raw.srOk (r : Raw) : Bool :=
  if r.pre.rnd == .sr then r.pre.yreg.val + (r.srLanes + 15) / 16 ≤ 8 else r.pre.yreg == 0

/-- The type codes are accepted (R258 and the entries). -/
def TyRule.ok (rule : TyRule) (x : Pre) (c : Nat) : Bool :=
  let d := x.dtype
  let s := x.stype
  let eq0 := s == .dflt || s == d
  match rule with
  | .none => d == .dflt && s == .dflt
  | .same ds => ds.contains d && eq0
  | .equal ds => ds.contains d && s == d
  | .lists ds ss => ds.contains d && ss.contains s
  | .vaddw => decide (3 ≤ d.code ∧ d.code ≤ 8) && (decide (1 ≤ s.code ∧ s.code ≤ 6) || decide (14 ≤ s.code)) &&
      (d.width == 2 * s.width || d.width == 4 * s.width || d.width == 8 * s.width)
  | .vpack => (decide (1 ≤ d.code ∧ d.code ≤ 6) || decide (14 ≤ d.code)) && decide (1 ≤ s.code ∧ s.code ≤ 8) &&
      s.width == 2 * d.width
  | .vunpk => decide (3 ≤ d.code ∧ d.code ≤ 8) && (decide (1 ≤ s.code ∧ s.code ≤ 6) || decide (14 ≤ s.code)) &&
      d.width == 2 * s.width
  | .vredw => decide (3 ≤ d.code ∧ d.code ≤ 8) && decide (1 ≤ s.code ∧ s.code ≤ 6) && decide (s.width < d.width)
  | .vcvt =>
      let ratio := max d.width s.width / min d.width s.width
      decide (ratio ≤ 8) && decide (c < ratio)
  | .rowAdd => (d == .dflt || decide (5 ≤ d.code ∧ d.code ≤ 11)) && (eq0 || (s == .f32 && (d == .bf16 || d == .f16 || d == .dflt)))
  | .ycmp => [Ty.dflt, .f32, .bf16, .f16, .n32].contains s && (d == .dflt || d == s)
  | .yrnd =>
      (([Ty.dflt, .f32].contains s && [Ty.dflt, .bf16, .f16, .e4m3, .e5m2].contains d) ||
       ([Ty.bf16, .f16].contains s && [Ty.e4m3, .e5m2].contains d))

/-- The order, scope and `strong` bit are accepted (R151, R259, R309). -/
def XsAcc.ok (acc : XsAcc) (x : Pre) : Bool :=
  let none := x.scope == .core && x.order == .relaxed && !x.strong
  match acc with
  | .no => none
  | .read => x.scope != .row && x.order != .rel && x.order != .acqrel
  | .write => x.scope != .row && x.order != .acq && x.order != .acqrel
  | .both | .fence => x.scope != .row
  | .row => x.scope == .row && x.order == .relaxed && !x.strong

/-- The mask, `zero` and SR register are accepted (R257, R260). -/
def XmAcc.ok (acc : XmAcc) (x : Pre) : Bool :=
  match acc with
  | .no => x.mask == 0 && !x.zero && x.yreg == 0
  | .yreg => x.mask == 0 && !x.zero
  | .mask => x.yreg == 0
  | .selector => !x.zero && x.yreg == 0
  | .both => true

/-- The number of vector registers a row instruction names from `a` (R309 to R312). -/
def Raw.rowRegs (r : Raw) : Nat :=
  let k := 2 ^ r.c
  match r.op with
  | 27 =>
    let wd := if r.pre.dtype == .dflt then 32 else r.pre.dtype.width
    let ws := if r.pre.stype == .dflt then wd else r.pre.stype.width
    k * ws / wd
  | 28 => 2 * k
  | _ => k

/-- The registers a word names beyond its fields exist: row registers (R309), slot ranges (R351). -/
def Raw.rangeOk (r : Raw) : Bool :=
  match r.page with
  | 2 => if 25 ≤ r.op && r.op ≤ 28 then r.a + r.rowRegs ≤ 32 else true
  | 8 => if r.op ≤ 1 then r.b + r.imm.toNat ≤ 31 else true
  | _ => true

/-- The prefixes other than XI that the canonical form of an instruction needs (R265). -/
def Raw.prefixes (r : Raw) (w : Row) : Nat :=
  boolNat (r.page != 0 || r.pre.rnd != .rne || r.pre.sat || r.pre.ftzi || r.pre.ftzo) +
  boolNat (8 ≤ r.a || 8 ≤ r.b || 8 ≤ r.c || r.d != 0 || w.d == .req || w.d == .nz) +
  boolNat (r.pre.mask != 0 || r.pre.zero || r.pre.yreg != 0 || r.pre.rnd == .sr) +
  boolNat (r.pre.stype != .dflt || r.pre.dtype != .dflt) +
  boolNat (r.pre.scope != .core || r.pre.order != .relaxed || r.pre.strong) +
  boolNat r.pre.wait.isSome

/-- An immediate fits in the base field and `k` XI words (R252). -/
def Row.immFits (w : Row) (imm : Word) (k : Nat) : Bool :=
  match w.imm with
  | .no => true
  | .sext => sextInt imm.toNat (w.fmt.immBits + 10 * k) == imm.toInt
  | _ => imm.toNat < 2 ^ (w.fmt.immBits + 10 * k)

/-- The fewest XI words that hold an immediate (R265); 4 when three do not suffice. -/
def Row.xiWords (w : Row) (imm : Word) : Nat :=
  if w.immFits imm 0 then 0 else if w.immFits imm 1 then 1 else if w.immFits imm 2 then 2
  else if w.immFits imm 3 then 3 else 4

/-- The checks of R261 on the fields of an instruction, the first that fails. -/
def Raw.check (r : Raw) (w : Row) : Option Illegal :=
  if !(w.a.ok r.a && w.b.ok r.b && w.c.ok r.c && r.rangeOk) then some .registerOutside
  else if !w.d.ok r.d r.imm then some .prefixNotAccepted
  else if !w.immOk r.pre r.imm then some .immediateOutside
  else if !(w.rndOk r.page r.pre && (w.acc.sat || !r.pre.sat) && (w.acc.ftzi || !r.pre.ftzi) &&
      (w.acc.ftzo || !r.pre.ftzo)) then some .prefixNotAccepted
  else if !(w.acc.xm.ok r.pre && r.srOk) then some .prefixNotAccepted
  else if !w.ty.ok r.pre r.c then some .typeNotAccepted
  else if !w.acc.xs.ok r.pre then some .orderingForbidden
  else if !(match r.pre.wait with | none => true | some q => w.acc.xw && q.count.val != 0) then some .prefixNotAccepted
  else if 4 < r.prefixes w + w.xiWords r.imm then some .doesNotFit
  else none

/-- The check of an instruction as a term: `none` when it is well formed. A step of the device has no
words. -/
def Instr.check (i : Instr) : Option Illegal :=
  match toRaw i with
  | none => some .unassigned
  | some r =>
    match rowOf r.page r.op r.f with
    | none => some .unassigned
    | some w => r.check w

/-- A well-formed instruction. -/
def Instr.wf (i : Instr) : Bool := i.check.isNone

end Sys2Proof
end

