-- ==== Sys2Proof/Decode.lean ====
section
/-!
DEFINITION. Decoding a chain of words (R249 to R262), word by word, and the encoder that writes the fewest
prefix words in the order of R265.
-/
namespace Sys2Proof

/-- The prefix words read so far (R253, R254). `xi` is the concatenation of the XI bits, `k` their count. -/
structure Chain where
  n : Nat := 0
  k : Nat := 0
  xi : Nat := 0
  xr : Option (Nat × Nat × Nat × Nat) := none
  xp : Option (Nat × Rnd × Bool × Bool × Bool) := none
  xw : Option Wait := none
  xm : Option (KReg × Bool × YReg) := none
  xt : Option (Ty × Ty) := none
  xs : Option (Scope × Order × Bool) := none
  deriving DecidableEq, Repr

/-- The type with a code (R258). -/
def Ty.ofCode : Nat → Ty
  | 0 => .dflt | 1 => .i8 | 2 => .n8 | 3 => .i16 | 4 => .n16 | 5 => .i32 | 6 => .n32 | 7 => .i64 | 8 => .n64
  | 9 => .bf16 | 10 => .f16 | 11 => .f32 | 12 => .e4m3 | 13 => .e5m2 | 14 => .i4 | _ => .n4

/-- The rounding mode with a value (R185); 7 is reserved. -/
def Rnd.ofCode : Nat → Option Rnd
  | 0 => some .rne | 1 => some .rtz | 2 => some .rdn | 3 => some .rup | 4 => some .rna | 5 => some .sr
  | 6 => some .rod | _ => none

/-- The value of a rounding mode (R185). -/
def Rnd.code : Rnd → Nat
  | .rne => 0 | .rtz => 1 | .rdn => 2 | .rup => 3 | .rna => 4 | .sr => 5 | .rod => 6

/-- The scope with a value (R150). -/
def Scope.ofCode : Nat → Scope
  | 0 => .core | 1 => .tile | 2 => .group | 3 => .sgroup | 4 => .die | 5 => .pkg | 6 => .sys | _ => .row

/-- The value of a scope (R150). -/
def Scope.code : Scope → Nat
  | .core => 0 | .tile => 1 | .group => 2 | .sgroup => 3 | .die => 4 | .pkg => 5 | .sys => 6 | .row => 7

/-- The order with a value (R151). -/
def Order.ofCode : Nat → Order
  | 0 => .relaxed | 1 => .acq | 2 => .rel | _ => .acqrel

/-- The value of an order (R151). -/
def Order.code : Order → Nat
  | .relaxed => 0 | .acq => 1 | .rel => 2 | .acqrel => 3

/-- XI is accepted: the entry uses its immediate (R260). -/
def ImmRule.xiOk : ImmRule → Bool
  | .no | .ignored => false
  | _ => true

/-- The raw fields of an ended chain, with its address-independent checks (R260, R261). -/
def Chain.raw (ch : Chain) (w : Nat) : Except Illegal Raw :=
  let op := w / 1024
  let (page, rnd, sat, ftzi, ftzo) := ch.xp.getD (0, .rne, false, false, false)
  let (ah, bh, chi, d) := ch.xr.getD (0, 0, 0, 0)
  match rowOf page op false with
  | none => .error .unassigned
  | some r0 =>
    let fbit := r0.fmt == .T && bitOf w 0
    match rowOf page op fbit with
    | none => .error .reservedField
    | some row =>
      let nf := match row.fmt with | .T => 3 | .I => 2 | .Z => 1 | .L => 0
      let fa := if 1 ≤ nf then fieldOf w 9 7 else 0
      let fb := if 2 ≤ nf then fieldOf w 6 4 else 0
      let fc := if 3 ≤ nf then fieldOf w 3 1 else 0
      let b := row.fmt.immBits
      let bits := ch.xi * 2 ^ b + w % 2 ^ b
      let imm : Word := match row.imm with
        | .sext => wordOfInt (sextInt bits (b + 10 * ch.k))
        | _ => BitVec.ofNat 64 bits
      let (mask, zero, yreg) := ch.xm.getD (0, false, 0)
      let (st, dt) := ch.xt.getD (.dflt, .dflt)
      let (sc, od, sg) := ch.xs.getD (.core, .relaxed, false)
      let pre : Pre := {
        wait := ch.xw, rnd := rnd, sat := sat, ftzi := ftzi, ftzo := ftzo, mask := mask,
        zero := zero, yreg := yreg, stype := st, dtype := dt, scope := sc, order := od, strong := sg }
      let raw : Raw := {
        pre := pre, page := page, op := op, f := fbit, a := 8 * ah + fa, b := 8 * bh + fb,
        c := 8 * chi + fc, d := d, imm := imm }
      if (ch.xr.isSome && !row.xrOk) || (ch.xr.isNone && (row.d == .req || row.d == .nz)) ||
          (ch.k != 0 && !row.imm.xiOk) || (ch.xm.isSome && (row.acc.xm == .no || (row.acc.xm == .yreg && rnd != .sr))) ||
          (ch.xt.isSome && !row.acc.xt) || (ch.xs.isSome && row.acc.xs == .no) ||
          (rnd == .sr && ch.xm.isNone) then .error .prefixNotAccepted
      else match raw.check row with
        | some e => .error e
        | none => .ok raw

/-- The chain and base word with another immediate in their field and XI words. -/
def Chain.withImm (ch : Chain) (w b v : Nat) : Chain × Nat :=
  ({ ch with xi := v / 2 ^ b }, w / 2 ^ b * 2 ^ b + v % 2 ^ b)

/-- The words so far and a base word are an instruction, whatever its immediate (R46, R47): as it stands or with one of the
immediates that every entry's bounds take in. -/
def Chain.isInstr (ch : Chain) (w : Nat) : Bool :=
  let page := match ch.xp with | some (p, _) => p | none => 0
  let b := match rowOf page (w / 1024) false with | some r => r.fmt.immBits | none => 0
  [ch.xi * 2 ^ b + w % 2 ^ b, 0, 1, 6].any fun v =>
    let (c, w) := ch.withImm w b v
    match c.raw w with
    | .ok _ => true
    | .error _ => false

/-- The instruction an ended chain gives. -/
noncomputable def Chain.finish (ch : Chain) (w : Nat) : Except Illegal Instr :=
  match ch.raw w with
  | .error e => .error e
  | .ok raw =>
    match ofRaw raw with
    | some i => .ok i
    | none => .error .unassigned

/-- What a word does to a chain: a further word is needed, the chain is no instruction, or it ends. A
fault that the words so far reveal is taken at once (R262). -/
inductive Fed where
  | more (c : Chain)
  | bad (e : Illegal)
  | done (i : Instr)
  deriving DecidableEq, Repr

/-- One prefix word of opcode `op`, after the counts are checked (R253, R254). -/
def Chain.addPrefix (ch : Chain) (op w : Nat) : Except Illegal Chain :=
  let ch' := { ch with n := ch.n + 1 }
  if op == 57 then
    if ch.k == 3 then .error .tooManyPrefixes
    else .ok { ch' with k := ch.k + 1, xi := ch.xi * 1024 + w % 1024 }
  else if op == 56 then
    if ch.xr.isSome then .error .repeatedPrefix
    else .ok { ch' with xr := some (fieldOf w 9 8, fieldOf w 7 6, fieldOf w 5 4, fieldOf w 3 0) }
  else if op == 58 then
    if ch.xp.isSome then .error .repeatedPrefix
    else if 12 ≤ fieldOf w 9 6 then .error .badPage
    else match Rnd.ofCode (fieldOf w 5 3) with
      | none => .error .badPage
      | some r => .ok { ch' with xp := some (fieldOf w 9 6, r, bitOf w 2, bitOf w 1, bitOf w 0) }
  else if op == 59 then
    if ch.xw.isSome then .error .repeatedPrefix
    else .ok { ch' with xw := some ⟨Fin.ofNat 16 (fieldOf w 9 6), bitOf w 5, Fin.ofNat 33 (fieldOf w 4 0 + 1)⟩ }
  else if op == 60 then
    if ch.xm.isSome then .error .repeatedPrefix
    else if fieldOf w 2 0 != 0 then .error .reservedField
    else .ok { ch' with xm := some (Fin.ofNat 8 (fieldOf w 9 7), bitOf w 6, Fin.ofNat 8 (fieldOf w 5 3)) }
  else if op == 61 then
    if ch.xt.isSome then .error .repeatedPrefix
    else if fieldOf w 1 0 != 0 then .error .reservedField
    else .ok { ch' with xt := some (Ty.ofCode (fieldOf w 9 6), Ty.ofCode (fieldOf w 5 2)) }
  else if op == 62 then
    if ch.xs.isSome then .error .repeatedPrefix
    else if fieldOf w 3 0 != 0 then .error .reservedField
    else .ok { ch' with xs := some (Scope.ofCode (fieldOf w 9 7), Order.ofCode (fieldOf w 6 5), bitOf w 4) }
  else .error .reservedPrefix

/-- A fault that prefixes reveal whatever base word ends their chain (R262): scope 7 with an order or `strong` (R151), an SR
register without SR (R257), SR without XM (R185). The mode is known once XP has come or no further prefix may. -/
def Chain.revealed (ch : Chain) : Option Illegal :=
  let sr := match ch.xp with | some (_, r, _) => r == .sr | none => false
  let row : Bool := match ch.xs with | some (.row, o, strong) => o != .relaxed || strong | _ => false
  let yreg := match ch.xm with | some (_, _, y) => y != 0 | none => false
  if row then some .orderingForbidden
  else if (ch.xp.isSome || ch.n == 4) && !sr && yreg then some .prefixNotAccepted
  else if ch.n == 4 && sr && ch.xm.isNone then some .prefixNotAccepted
  else none

/-- One word (R249, R262). -/
noncomputable def Chain.feed (ch : Chain) (w : Nat) : Fed :=
  let op := w / 1024
  if op < 56 then
    match ch.finish w with
    | .ok i => .done i
    | .error e => .bad e
  else if op == 63 then .bad .reservedPrefix
  else if ch.n == 4 then .bad .tooManyPrefixes
  else match ch.addPrefix op w with
    | .error e => .bad e
    | .ok c =>
      match c.revealed with
      | some e => .bad e
      | none => .more c

/-- Decoding a list of words that begins with an instruction: the instruction and the words after it. -/
noncomputable def decodeChain : Chain → List Half → Except Illegal (Instr × List Half)
  | _, [] => .error .cutShort
  | ch, w :: ws =>
    match ch.feed w.toNat with
    | .more c => decodeChain c ws
    | .bad e => .error e
    | .done i => .ok (i, ws)

/-- Decoding from words in memory order. -/
noncomputable def decode (ws : List Half) : Except Illegal (Instr × List Half) := decodeChain {} ws

/-- Words of bytes, little-endian (R249); a last odd byte is left out. -/
def wordsOf : List Byte → List Half
  | a :: b :: bs => (b ++ a) :: wordsOf bs
  | _ => []

/-- Decoding from bytes in memory order. -/
noncomputable def decodeBytes (bs : List Byte) : Except Illegal (Instr × List Half) := decode (wordsOf bs)

/-- The base word of raw fields (R250). -/
def Raw.base (r : Raw) (w : Row) : Nat :=
  r.op * 1024 +
  match w.fmt with
  | .T => r.a % 8 * 128 + r.b % 8 * 16 + r.c % 8 * 2 + boolNat r.f
  | .I => r.a % 8 * 128 + r.b % 8 * 16 + r.imm.toNat % 16
  | .Z => r.a % 8 * 128 + r.imm.toNat % 128
  | .L => r.imm.toNat % 1024

/-- The `k` XI words above a base field of `b` bits, the most significant first (R252). -/
def xiList (v b : Nat) : Nat → List Nat
  | 0 => []
  | k + 1 => (57 * 1024 + v / 2 ^ (b + 10 * k) % 1024) :: xiList v b k

/-- The words of raw fields: XP, XR, XM, XT, XS, XW, the XI words, the base (R265). -/
def Raw.words (r : Raw) (w : Row) : List Nat :=
  let x := r.pre
  (if r.page != 0 || x.rnd != .rne || x.sat || x.ftzi || x.ftzo then
    [58 * 1024 + r.page * 64 + x.rnd.code * 8 + boolNat x.sat * 4 + boolNat x.ftzi * 2 + boolNat x.ftzo] else []) ++
  (if 8 ≤ r.a || 8 ≤ r.b || 8 ≤ r.c || r.d != 0 || w.d == .req || w.d == .nz then
    [56 * 1024 + r.a / 8 * 256 + r.b / 8 * 64 + r.c / 8 * 16 + r.d] else []) ++
  (if x.mask != 0 || x.zero || x.yreg != 0 || x.rnd == .sr then
    [60 * 1024 + x.mask.val * 128 + boolNat x.zero * 64 + x.yreg.val * 8] else []) ++
  (if x.stype != .dflt || x.dtype != .dflt then
    [61 * 1024 + x.stype.code * 64 + x.dtype.code * 4] else []) ++
  (if x.scope != .core || x.order != .relaxed || x.strong then
    [62 * 1024 + x.scope.code * 128 + x.order.code * 32 + boolNat x.strong * 16] else []) ++
  (match x.wait with
    | none => []
    | some q => [59 * 1024 + q.queue.val * 64 + boolNat q.free * 32 + (q.count.val - 1)]) ++
  xiList r.imm.toNat w.fmt.immBits (w.xiWords r.imm) ++
  [r.base w]

/-- The words of an instruction, in memory order; a step of the device has none. -/
def encode (i : Instr) : List Half :=
  match toRaw i with
  | none => []
  | some r =>
    match rowOf r.page r.op r.f with
    | none => []
    | some w => (r.words w).map (BitVec.ofNat 16)

/-- The longest instruction: four prefixes and a base word (R249). -/
def longestWords : Nat := 5

/-- The words of an instruction given as the table numbers its bits. The table writes a two-word row with
the prefix word, which stands first in memory, in bits 31 to 16; a high half that is no prefix word is read
as the second word. -/
def tableWords (nbits w : Nat) : List Half :=
  let lo : Half := BitVec.ofNat 16 w
  let hi : Half := BitVec.ofNat 16 (w / 2 ^ 16)
  if 16 < nbits then
    if 56 ≤ hi.toNat / 1024 then [hi, lo] else [lo, hi, 0, 0, 0]
  else [lo, 0, 0, 0, 0]

/-- The instruction the decoder reads from bits numbered as the table numbers them. -/
noncomputable def decodeTableWord (nbits w : Nat) : Option Instr :=
  match decode (tableWords nbits w) with
  | .ok (i, _) => some i
  | .error _ => none

end Sys2Proof
end

