-- ==== Sys2Proof/Machine/Float.lean ====
section
/-!
DEFINITION. Number formats and arithmetic (R181 to R208): floating values as exact numbers, one rounding with
the modes of R185, the special values of R190 to R192, the correctly rounded operations and the
transcendentals.
-/
namespace Sys2Proof.Machine
open Sys2Proof

/-- A floating format: exponent bits, fraction bits, bias (R183); `e4m3` has no infinity. -/
structure FFmt where
  eb : Nat
  p : Nat
  bias : Nat
  noInf : Bool
  deriving DecidableEq, Repr

def fmtF32 : FFmt := ⟨8, 23, 127, false⟩
def fmtF16 : FFmt := ⟨5, 10, 15, false⟩
def fmtBf16 : FFmt := ⟨8, 7, 127, false⟩
def fmtE5m2 : FFmt := ⟨5, 2, 15, false⟩
def fmtE4m3 : FFmt := ⟨4, 3, 7, true⟩

/-- The format of a floating type; code 0 is `f32`. -/
def ffmt : Ty → FFmt
  | .f16 => fmtF16 | .bf16 => fmtBf16 | .e5m2 => fmtE5m2 | .e4m3 => fmtE4m3 | _ => fmtF32

/-- Bits of a value of the format. -/
def FFmt.width (t : FFmt) : Nat := 1 + t.eb + t.p
/-- The exponent field of all ones. -/
def FFmt.ones (t : FFmt) : Nat := 2 ^ t.eb - 1
/-- The sign bit. -/
def FFmt.signBit (t : FFmt) : Nat := 2 ^ (t.eb + t.p)
/-- The canonical NaN (R184). -/
def FFmt.nan (t : FFmt) : Nat := if t.noInf then 2 ^ (t.eb + t.p) - 1 else t.ones * 2 ^ t.p + 2 ^ (t.p - 1)
/-- The largest finite value's bits without sign. -/
def FFmt.maxBits (t : FFmt) : Nat := if t.noInf then 2 ^ (t.eb + t.p) - 2 else t.ones * 2 ^ t.p - 1
/-- Positive infinity's bits (not of `e4m3`). -/
def FFmt.infBits (t : FFmt) : Nat := t.ones * 2 ^ t.p
/-- The exponent of the spacing of subnormals. -/
def FFmt.qmin (t : FFmt) : Int := 1 - (t.bias : Int) - t.p
/-- The exponent of ulp, the spacing at the top (R183). -/
def FFmt.qmax (t : FFmt) : Int := ((if t.noInf then t.ones else t.ones - 1 : Nat) : Int) - t.bias - t.p
/-- The significand of the largest finite value, in units of ulp. -/
def FFmt.maxSig (t : FFmt) : Nat := if t.noInf then 2 ^ (t.p + 1) - 2 else 2 ^ (t.p + 1) - 1

/-- Floating flags, as bits of `FPFLAGS` (R169, R188). -/
abbrev Flags := BitVec 6
def flagNX : Flags := 1
def flagUF : Flags := 2
def flagOF : Flags := 4
def flagDZ : Flags := 8
def flagNV : Flags := 16
def flagACCOVF : Flags := 32

/-- An exact value: NaN, infinity, or (−1)^neg × m × 2^e. Where an operation has no finite expansion, `m`
carries a last bit of 1 below every bit that a rounding can tell apart. -/
inductive XV where
  | nan
  | inf (neg : Bool)
  | fin (neg : Bool) (m : Nat) (e : Int)
  deriving DecidableEq, Repr

/-- The value of bits (R183), with whether they are a signalling NaN; subnormals read as zero under `ftzi`
(R187). -/
def unpackF (t : FFmt) (ftzi : Bool) (bits : Nat) : XV × Bool :=
  let neg := bits.testBit (t.eb + t.p)
  let ef := bits / 2 ^ t.p % 2 ^ t.eb
  let f := bits % 2 ^ t.p
  if t.noInf then
    if ef == t.ones && f == 2 ^ t.p - 1 then (.nan, false)
    else if ef == 0 then (.fin neg (if ftzi then 0 else f) t.qmin, false)
    else (.fin neg (2 ^ t.p + f) (t.qmin + ef - 1), false)
  else if ef == t.ones then
    if f == 0 then (.inf neg, false) else (.nan, !f.testBit (t.p - 1))
  else if ef == 0 then (.fin neg (if ftzi then 0 else f) t.qmin, false)
  else (.fin neg (2 ^ t.p + f) (t.qmin + ef - 1), false)

/-- An exact integer. -/
def XV.ofInt (v : Int) : XV := .fin (v < 0) v.natAbs 0

/-- The rounding controls of an instruction. -/
structure Ctl where
  rnd : Rnd := .rne
  sat : Bool := false
  ftzo : Bool := false
  deriving DecidableEq, Repr

/-- What a rounding gives: bits and flags, or, under SR, the fraction `num` / 2^`k` that a lazy-uniform
value is compared with (R185, R217) and the two results. -/
inductive RoundRes where
  | done (bits : Nat) (fl : Flags)
  | choose (num k lo hi : Nat) (flLo flHi : Flags)
  deriving DecidableEq, Repr

/-- The result for U below the fraction (`true`) or not. -/
def RoundRes.pick (r : RoundRes) (b : Bool) : Nat × Flags :=
  match r with
  | .done x f => (x, f)
  | .choose _ _ lo hi fl fh => if b then (hi, fh) else (lo, fl)

/-- A result without SR. -/
def RoundRes.get (r : RoundRes) : Nat × Flags := r.pick false

/-- Further flags of a result. -/
def RoundRes.orFlags (r : RoundRes) (g : Flags) : RoundRes :=
  match r with
  | .done x f => .done x (f ||| g)
  | .choose n k lo hi fl fh => .choose n k lo hi (fl ||| g) (fh ||| g)

/-- 2^k for an exponent of either sign: `m` × 2^`s` rounded down. -/
def shiftI (m : Nat) (s : Int) : Nat := if 0 ≤ s then m * 2 ^ s.toNat else m / 2 ^ (-s).toNat

/-- What an infinite result delivers (R186, R192, R439). -/
def infResult (t : FFmt) (sat neg : Bool) : Nat × Flags :=
  let s := if neg then t.signBit else 0
  if t.noInf then if sat then (s + t.maxBits, 0) else (t.nan, flagNV)
  else (s + t.infBits, 0)

/-- What an overflow delivers where R186 says ±∞. -/
def overflowInf (t : FFmt) (sat neg : Bool) : Nat :=
  let s := if neg then t.signBit else 0
  if sat then s + t.maxBits else if t.noInf then t.nan else s + t.infBits

/-- Whether the mode moves an inexact value away from zero, the significand `sig` below it, and `rem` of
2^`k` above (R185; SR apart). -/
def roundsUp (rnd : Rnd) (neg : Bool) (sig rem k : Nat) : Bool :=
  match rnd with
  | .rne => decide (2 * rem > 2 ^ k) || (2 * rem == 2 ^ k && sig % 2 == 1)
  | .rtz => false
  | .rdn => neg
  | .rup => !neg
  | .rna => decide (2 * rem ≥ 2 ^ k)
  | .sr => false
  | .rod => sig % 2 == 0

/-- Rounding a finite non-zero value (R185 to R188). -/
def roundFin (t : FFmt) (c : Ctl) (neg : Bool) (m : Nat) (e : Int) : RoundRes :=
  let s := if neg then t.signBit else 0
  let ex : Int := e + m.log2
  let tiny := decide (ex < 1 - (t.bias : Int))
  if tiny && c.ftzo then .done s (flagUF ||| flagNX)
  else
    let q : Int := max (ex - t.p) t.qmin
    let k := (q - e).toNat
    let sig := shiftI m (e - q)
    let rem := if 0 < k then m % 2 ^ k else 0
    -- above the largest finite value, counted in ulp
    let ku := (t.qmax - e).toNat
    let units := shiftI m (e - t.qmax)
    let urem := if 0 < ku then m % 2 ^ ku else 0
    let aboveMax := decide (units > t.maxSig) || (units == t.maxSig && urem != 0)
    let atNext := decide (units ≥ t.maxSig + 1)
    let atHalf := atNext || (units == t.maxSig && decide (2 * urem ≥ 2 ^ ku) && urem != 0)
    let big := s + t.maxBits
    let ovf := flagOF ||| flagNX
    if aboveMax then
      match c.rnd with
      | .rne | .rna => if atHalf then .done (overflowInf t c.sat neg) ovf else .done big flagNX
      | .rtz | .rod => if atNext then .done big ovf else .done big flagNX
      | .rdn =>
        if neg then .done (overflowInf t c.sat neg) ovf
        else if atNext then .done big ovf else .done big flagNX
      | .rup =>
        if !neg then .done (overflowInf t c.sat neg) ovf
        else if atNext then .done big ovf else .done big flagNX
      | .sr =>
        if atNext then .done (overflowInf t c.sat neg) ovf
        else .choose urem ku big (overflowInf t c.sat neg) flagNX ovf
    else
      let base := s + (q - t.qmin).toNat * 2 ^ t.p
      if rem == 0 then .done (base + sig) 0
      else
        let fl := if tiny then flagUF ||| flagNX else flagNX
        if c.rnd == .sr then .choose rem k (base + sig) (base + sig + 1) fl fl
        else .done (base + sig + boolNat (roundsUp c.rnd neg sig rem k)) fl

/-- Delivering an exact result in a floating format (R184 to R188, R439). -/
def deliver (t : FFmt) (c : Ctl) (v : XV) (fl : Flags) : RoundRes :=
  match v with
  | .nan => .done t.nan fl
  | .inf neg =>
    let (b, g) := infResult t c.sat neg
    .done b (fl ||| g)
  | .fin neg m e =>
    if m == 0 then .done (if neg then t.signBit else 0) fl
    else (roundFin t c neg m e).orFlags fl

/-- Delivering in an integer type (R192): rounded to an integer, then held in the type's range. -/
def deliverInt (w : Nat) (signed : Bool) (c : Ctl) (v : XV) (fl : Flags) : RoundRes :=
  let lo : Int := if signed then -(2 ^ (w - 1) : Nat) else 0
  let hi : Int := if signed then (2 ^ (w - 1) : Nat) - 1 else (2 ^ w : Nat) - 1
  let fit (x : Int) : Nat × Flags :=
    if x < lo then (wrapNat lo w, fl ||| (if c.sat then 0 else flagNV))
    else if hi < x then (wrapNat hi w, fl ||| (if c.sat then 0 else flagNV))
    else (wrapNat x w, fl ||| flagNX)
  match v with
  | .nan => .done 0 (fl ||| flagNV)
  | .inf neg => .done (wrapNat (if neg then lo else hi) w) (fl ||| (if c.sat then 0 else flagNV))
  | .fin neg m e =>
    let sg (n : Nat) : Int := if neg then -(n : Int) else n
    let k := (-e).toNat
    let q := shiftI m e
    let rem := if 0 < k then m % 2 ^ k else 0
    if rem == 0 then
      let (b, g) := fit (sg q)
      .done b (if lo ≤ sg q ∧ sg q ≤ hi then fl else g)
    else if c.rnd == .sr then
      let (b0, f0) := fit (sg q)
      let (b1, f1) := fit (sg (q + 1))
      .choose rem k b0 b1 f0 f1
    else
      let (b, g) := fit (sg (q + boolNat (roundsUp c.rnd neg q rem k)))
      .done b g

/-- The product and the flags of an invalid one (R190). -/
def mulX (x y : XV) : XV × Flags :=
  match x, y with
  | .nan, _ | _, .nan => (.nan, 0)
  | .inf a, .inf b => (.inf (a != b), 0)
  | .inf a, .fin b m _ => if m == 0 then (.nan, flagNV) else (.inf (a != b), 0)
  | .fin a m _, .inf b => if m == 0 then (.nan, flagNV) else (.inf (a != b), 0)
  | .fin a m e, .fin b n f => (.fin (a != b) (m * n) (e + f), 0)

/-- The exact sum of finite terms, with the sign of a zero sum (R190). -/
def addFin (rdn a : Bool) (m : Nat) (e : Int) (b : Bool) (n : Nat) (f : Int) : XV :=
  if m == 0 && n == 0 then .fin (if a == b then a else rdn) 0 e
  else if m == 0 then .fin b n f
  else if n == 0 then .fin a m e
  else
    let g := min e f
    let x : Int := (m * 2 ^ (e - g).toNat : Nat)
    let y : Int := (n * 2 ^ (f - g).toNat : Nat)
    let s := (if a then -x else x) + (if b then -y else y)
    if s == 0 then .fin rdn 0 g else .fin (s < 0) s.natAbs g

/-- The exact sum (R190). -/
def addX (rdn : Bool) (x y : XV) : XV × Flags :=
  match x, y with
  | .nan, _ | _, .nan => (.nan, 0)
  | .inf a, .inf b => if a == b then (.inf a, 0) else (.nan, flagNV)
  | .inf a, .fin _ _ _ => (.inf a, 0)
  | .fin _ _ _, .inf b => (.inf b, 0)
  | .fin a m e, .fin b n f => (addFin rdn a m e b n f, 0)

/-- A value with its sign inverted. -/
def XV.negate : XV → XV
  | .nan => .nan
  | .inf a => .inf (!a)
  | .fin a m e => .fin (!a) m e

/-- Flags of signalling operands (R184). -/
def sigFlags (l : List Bool) : Flags := if l.any id then flagNV else 0

/-- Bits kept beyond every rounding by an operation with no finite expansion. -/
def guardBits : Nat := 512

/-- The quotient of finite non-zero values, with a last sticky bit. -/
def divFin (neg : Bool) (m : Nat) (e : Int) (n : Nat) (f : Int) : XV :=
  let k := guardBits + n.log2
  let q := m * 2 ^ k / n
  let r := m * 2 ^ k % n
  if r == 0 then .fin neg q (e - f - k) else .fin neg (2 * q + 1) (e - f - k - 1)

/-- Division (R188, R190, R202). -/
def divX (x y : XV) : XV × Flags :=
  match x, y with
  | .nan, _ | _, .nan => (.nan, 0)
  | .inf _, .inf _ => (.nan, flagNV)
  | .inf a, .fin b _ _ => (.inf (a != b), 0)
  | .fin a _ _, .inf b => (.fin (a != b) 0 0, 0)
  | .fin a m e, .fin b n f =>
    if n == 0 then if m == 0 then (.nan, flagNV) else (.inf (a != b), flagDZ)
    else if m == 0 then (.fin (a != b) 0 0, 0)
    else (divFin (a != b) m e n f, 0)

/-- The integer square root by its bits from the top, `k` bits below `r`. -/
def isqrtFrom : Nat → Nat → Nat → Nat
  | 0, _, r => r
  | k + 1, n, r =>
    let t := r + 2 ^ k
    isqrtFrom k n (if t * t ≤ n then t else r)

/-- The integer square root. -/
def isqrt (n : Nat) : Nat := isqrtFrom (n.log2 / 2 + 1) n 0

/-- The square root (R190, R202). -/
def sqrtX (x : XV) : XV × Flags :=
  match x with
  | .nan => (.nan, 0)
  | .inf a => if a then (.nan, flagNV) else (.inf false, 0)
  | .fin a m e =>
    if m == 0 then (.fin a 0 e, 0)
    else if a then (.nan, flagNV)
    else
      let odd := e % 2 != 0
      let k := 2 * guardBits
      let n := (if odd then 2 * m else m) * 2 ^ k
      let e2 := (if odd then e - 1 else e) - k
      let r := isqrt n
      if r * r == n then (.fin false r (e2 / 2), 0) else (.fin false (2 * r + 1) (e2 / 2 - 1), 0)

/-- The reciprocal square root (R202). -/
def rsqrtX (x : XV) : XV × Flags :=
  match x with
  | .nan => (.nan, 0)
  | .inf a => if a then (.nan, flagNV) else (.fin false 0 0, 0)
  | .fin a m e =>
    if m == 0 then (.inf a, flagDZ)
    else if a then (.nan, flagNV)
    else
      -- 1 / sqrt (m 2^e) = sqrt (2^(2g) / (m 2^e')) with e' even
      let odd := e % 2 != 0
      let m2 := if odd then 2 * m else m
      let e2 := if odd then e - 1 else e
      let k := 2 * (guardBits + m2.log2)
      let n := 2 ^ k / m2
      let r := isqrt n
      if r * r * m2 == 2 ^ k then (.fin false r (-(e2 / 2) - k / 2), 0)
      else (.fin false (2 * r + 1) (-(e2 / 2) - k / 2 - 1), 0)

/-- The order of finite or infinite values as signed pairs: `true` when x is less than y, and +0 equals −0. -/
def ltX (x y : XV) : Bool :=
  match x, y with
  | .nan, _ | _, .nan => false
  | .inf a, .inf b => a && !b
  | .inf a, .fin _ _ _ => a
  | .fin _ _ _, .inf b => !b
  | .fin a m e, .fin b n f =>
    match addFin false a m e (!b) n f with
    | .fin s d _ => s && d != 0
    | _ => false

/-- Equality of values that are no NaN; +0 equals −0. -/
def eqX (x y : XV) : Bool :=
  match x, y with
  | .nan, _ | _, .nan => false
  | _, _ => !ltX x y && !ltX y x

/-- Whether a value has a negative sign. -/
def XV.isNeg : XV → Bool
  | .nan => false
  | .inf a => a
  | .fin a _ _ => a

/-- Whether a value is a NaN. -/
def XV.isNan : XV → Bool
  | .nan => true
  | _ => false

/-- minimumNumber or maximumNumber on bits (R191): the bits delivered and the flags. -/
def minMaxF (t : FFmt) (ftzi isMax : Bool) (x y : Nat) : Nat × Flags :=
  let (a, sa) := unpackF t ftzi x
  let (b, sb) := unpackF t ftzi y
  let fl := sigFlags [sa, sb]
  let flushed (v : XV) (bits : Nat) : Nat := match v with
    | .fin n 0 _ => if n then t.signBit else 0
    | _ => bits
  if a.isNan && b.isNan then (t.nan, fl)
  else if a.isNan then (flushed b y, fl)
  else if b.isNan then (flushed a x, fl)
  else
    let aLess := ltX a b || (eqX a b && a.isNeg && !b.isNeg)
    if aLess == isMax then (flushed b y, fl) else (flushed a x, fl)

/-- The relations of R191. -/
inductive FCmp where
  | eq | lt | le
  deriving DecidableEq, Repr

/-- A floating compare (R191). -/
def cmpF (t : FFmt) (ftzi : Bool) (r : FCmp) (x y : Nat) : Bool × Flags :=
  let (a, sa) := unpackF t ftzi x
  let (b, sb) := unpackF t ftzi y
  let anyNan := a.isNan || b.isNan
  match r with
  | .eq => (eqX a b, sigFlags [sa, sb])
  | .lt => (ltX a b, if anyNan then flagNV else 0)
  | .le => (ltX a b || eqX a b, if anyNan then flagNV else 0)

/-- The arithmetic of R338: each gives its exact result. -/
inductive FOp where
  | add | sub | mul | fma | fnma | div | sqrt | rcp | rsq
  deriving DecidableEq, Repr

/-- One operation of R338, on bits; `z` is the addend of the fused forms. -/
def fArith (t : FFmt) (ftzi : Bool) (c : Ctl) (op : FOp) (x y z : Nat) : RoundRes :=
  let (a, sa) := unpackF t ftzi x
  let (b, sb) := unpackF t ftzi y
  let (d, sd) := unpackF t ftzi z
  let rdn := c.rnd == .rdn
  let fin (r : XV × Flags) (l : List Bool) := deliver t c r.1 (r.2 ||| sigFlags l)
  match op with
  | .add => fin (addX rdn a b) [sa, sb]
  | .sub => fin (addX rdn a b.negate) [sa, sb]
  | .mul => fin (mulX a b) [sa, sb]
  | .fma =>
    let (p, f1) := mulX a b
    let (r, f2) := addX rdn p d
    fin (r, f1 ||| f2) [sa, sb, sd]
  | .fnma =>
    let (p, f1) := mulX a b
    let (r, f2) := addX rdn d p.negate
    fin (r, f1 ||| f2) [sa, sb, sd]
  | .div => fin (divX a b) [sa, sb]
  | .sqrt => fin (sqrtX a) [sa]
  | .rcp => fin (divX (.fin false 1 0) a) [sa]
  | .rsq => fin (rsqrtX a) [sa]

/-- A conversion between two types (R192), source bits to destination bits. -/
def convert (s d : Ty) (ftzi : Bool) (c : Ctl) (x : Nat) : RoundRes :=
  if s.isFloat then
    let (v, sn) := unpackF (ffmt s) ftzi x
    let fl := sigFlags [sn]
    if d.isFloat then deliver (ffmt d) c v fl else deliverInt d.width d.isSigned c v fl
  else
    let v : Int := if s.isSigned then sextInt x s.width else (x % 2 ^ s.width : Nat)
    if d.isFloat then deliver (ffmt d) c (.ofInt v) 0
    else if c.sat then
      let w := d.width
      let lo : Int := if d.isSigned then -(2 ^ (w - 1) : Nat) else 0
      let hi : Int := if d.isSigned then (2 ^ (w - 1) : Nat) - 1 else (2 ^ w : Nat) - 1
      .done (wrapNat (max lo (min hi v)) w) 0
    else .done (wrapNat v d.width) 0

/-- An integer fitted to a type of `w` bits: wrapped, or clamped (R182). -/
def fitInt (w : Nat) (signed sat : Bool) (v : Int) : Nat :=
  if sat then
    let lo : Int := if signed then -(2 ^ (w - 1) : Nat) else 0
    let hi : Int := if signed then (2 ^ (w - 1) : Nat) - 1 else (2 ^ w : Nat) - 1
    wrapNat (max lo (min hi v)) w
  else wrapNat v w

/-- A lane's integer value by its signedness. -/
def intVal (w : Nat) (signed : Bool) (x : Nat) : Int :=
  if signed then sextInt x w else (x % 2 ^ w : Nat)

/-! Block sums (R198). -/

/-- m / 2^k to the nearest integer, ties to even, and whether it is inexact. -/
def rneShift (m : Int) (k : Nat) : Int × Bool :=
  let q := m.natAbs / 2 ^ k
  let rem := m.natAbs % 2 ^ k
  let r := q + boolNat (0 < k && roundsUp .rne false q rem k && rem != 0)
  (if m < 0 then -(r : Int) else r, rem != 0)

/-- Halving until the mantissa is within 2^62 (R198). -/
def bsNorm : Nat → Int → Int → Bool → Int × Int × Bool
  | 0, s, e, nx => (s, e, nx)
  | n + 1, s, e, nx =>
    if s.natAbs > 2 ^ 62 then
      let (s', i) := rneShift s 1
      bsNorm n s' (e + 1) (nx || i)
    else (s, e, nx)

/-- The sum of two block-sum pairs (R198). -/
def bsAdd (pm pe qm qe : Int) : Int × Int × Flags :=
  if pm == 0 then (qm, qe, 0)
  else if qm == 0 then (pm, pe, 0)
  else
    let e := max pe qe
    let (a, i) := rneShift pm (e - pe).toNat
    let (b, j) := rneShift qm (e - qe).toNat
    let (s, e', nx) := bsNorm 4 (a + b) e (i || j)
    if e' > 2 ^ 31 - 1 then
      (if s < 0 then -(2 ^ 62) else 2 ^ 62, 2 ^ 31 - 1, flagOF ||| flagNX)
    else (s, e', if nx then flagNX else 0)

/-- A block-sum pair as `f32` (R198). -/
def bsCvt (m e : Int) : Nat × Flags := (deliver fmtF32 {} (.fin (m < 0) m.natAbs e) 0).get

/-! Transcendentals. -/

/-- Fixed-point digits of the exact functions. -/
def fixBits : Nat := 512
/-- π × 2^512. -/
def piFix : Nat := 42121870893450636219446821484559388105255997313489254605594685088103805782276098919793885372247726346443771296916333485327292916625599161542353774203832599
/-- ln 2 × 2^512. -/
def ln2Fix : Nat := 9293584264128987901384440660653081117630633404975079641076009770578364573633075645167623918067512986930843040596952636663673675798576024949780480621393957

/-- Σ x^n / n! from term `n` on, in fixed point, for 0 ≤ x < 1. -/
def expSeries : Nat → Nat → Nat → Nat → Nat
  | 0, _, _, _ => 0
  | fuel + 1, n, term, x =>
    if term == 0 then 0 else term + expSeries fuel (n + 1) (term * x / 2 ^ fixBits / (n + 1)) x

/-- 2^r in fixed point, for r of fixed point below 1. -/
def exp2Frac (r : Nat) : Nat := expSeries 200 0 (2 ^ fixBits) (r * ln2Fix / 2 ^ fixBits)

/-- Σ z^(2k+1) / (2k+1) in fixed point. -/
def atanhSeries : Nat → Nat → Nat → Nat → Nat
  | 0, _, _, _ => 0
  | fuel + 1, n, pw, z2 =>
    if pw == 0 then 0 else pw / n + atanhSeries fuel (n + 2) (pw * z2 / 2 ^ fixBits) z2

/-- log2 of m / 2^k for 2^k ≤ m < 2^(k+1), in fixed point. -/
def log2Frac (m k : Nat) : Nat :=
  let z := (m - 2 ^ k) * 2 ^ fixBits / (m + 2 ^ k)
  2 * atanhSeries 400 1 z (z * z / 2 ^ fixBits) * 2 ^ fixBits / ln2Fix

/-- Σ (−1)^k y^(2k) / (n..)!: the factor of sine (`n` = 1) or the cosine (`n` = 0), y² in fixed point. -/
def alternating : Nat → Nat → Int → Nat → Int
  | 0, _, _, _ => 0
  | fuel + 1, n, term, y2 =>
    if term == 0 then 0
    else term + alternating fuel (n + 2) (-(term * y2 / 2 ^ fixBits / ((n + 1) * (n + 2) : Nat))) y2

/-- A fixed-point approximation as an inexact value. -/
def stickyFix (neg : Bool) (m : Nat) (e : Int) : XV := .fin neg (2 * m + 1) (e - 1)

/-- The value of a finite number as floor(x × 2^`b`). -/
def toFix (neg : Bool) (m : Nat) (e : Int) (b : Nat) : Int :=
  let v : Int := if neg then -(m : Int) else m
  if 0 ≤ e + b then v * (2 ^ (e + b).toNat : Nat) else v / (2 ^ (-(e + b)).toNat : Nat)

/-- Exact 2^x of a finite x (R203); a huge |x| overflows or vanishes in every format. -/
def exp2X (neg : Bool) (m : Nat) (e : Int) : XV :=
  if m == 0 then .fin false 1 0
  else if 14 ≤ e + m.log2 then if neg then .fin false 1 (-100000) else .fin false 1 100000
  else
    let x := toFix neg m e fixBits
    let n := x / (2 ^ fixBits : Nat)
    let r := (x % (2 ^ fixBits : Nat)).toNat
    if r == 0 && toFix neg m e 0 * (2 ^ fixBits : Nat) == x then .fin false 1 n
    else stickyFix false (exp2Frac r) (n - fixBits)

/-- Exact log2 of a finite x above 0 (R203). -/
def log2X (m : Nat) (e : Int) : XV :=
  let k := m.log2
  let n := e + k
  if m == 2 ^ k then .ofInt n
  else
    let v : Int := n * (2 ^ fixBits : Nat) + log2Frac m k
    stickyFix (v < 0) v.natAbs (-(fixBits : Int))

/-- Exact tanh of a finite x other than 0 (R203), as a magnitude with x's sign. -/
def tanhX (neg : Bool) (m : Nat) (e : Int) : XV :=
  let top := e + m.log2
  if top < -60 then
    -- x − x³/3 + 2x⁵/15, over 15
    let g : Nat := 1024
    let x := m * 2 ^ g
    let x2 := m * m
    let s := (-2 * e).toNat
    let t3 := x * x2 / 2 ^ s
    let t5 := t3 * x2 / 2 ^ s
    stickyFix neg ((15 * x - 5 * t3 + 2 * t5) / 15 - 1) (e - g)
  else if 8 ≤ top then stickyFix neg (2 ^ 800 - 1) (-800)
  else
    -- (E − 1) / (E + 1) with E = 2^(2|x| / ln 2)
    let y := 2 * (toFix false m e (2 * fixBits)).toNat / ln2Fix
    let n := y / 2 ^ fixBits
    let f := exp2Frac (y % 2 ^ fixBits) * 2 ^ n
    stickyFix neg ((f - 2 ^ fixBits) * 2 ^ (2 * fixBits) / (f + 2 ^ fixBits)) (-(2 * fixBits : Nat))

/-- |x| as n / 2 + r with n the nearest integer to 2|x|, ties to even: n mod 4, and r = (−1)^neg × m' × 2^e'. -/
def halfReduce (m : Nat) (e : Int) : Nat × Bool × Nat × Int :=
  if 0 ≤ e + 1 then (m * 2 ^ (e + 1).toNat % 4, false, 0, 0)
  else
    let k := (-(e + 1)).toNat
    let q := m / 2 ^ k
    let rem := m % 2 ^ k
    if roundsUp .rne false q rem k && rem != 0 then ((q + 1) % 4, true, 2 ^ k - rem, e) else (q % 4, false, rem, e)

/-- sin(π r) and cos(π r) of r = (−1)^neg × m × 2^e with |r| ≤ 1/4, exactly as far as a rounding sees. -/
def sinCosPi (neg : Bool) (m : Nat) (e : Int) : XV × XV :=
  if m == 0 then (.fin false 0 0, .fin false 1 0)
  else
    let y2 := (toFix false (m * m * piFix * piFix) (2 * e - (2 * fixBits : Nat)) fixBits).toNat
    let one : Int := (2 ^ fixBits : Nat)
    let sf := (alternating 200 1 one y2).toNat
    let cf := (alternating 200 0 one y2).toNat
    (stickyFix neg (m * piFix * sf) (e - (2 * fixBits : Nat)), stickyFix false (if cf == 2 ^ fixBits then cf - 1 else cf) (-(fixBits : Int)))

/-- Exact sin(π x) of a finite x (R203, R208). -/
def sinpiX (neg : Bool) (m : Nat) (e : Int) : XV :=
  let (q, rn, rm, re) := halfReduce m e
  let (s, c) := sinCosPi rn rm re
  let v := match q with | 0 => s | 1 => c | 2 => s.negate | _ => c.negate
  let v := match v with | .fin _ 0 g => .fin false 0 g | w => w
  if neg then v.negate else v

/-- Exact cos(π x) of a finite x. -/
def cospiX (m : Nat) (e : Int) : XV :=
  let (q, rn, rm, re) := halfReduce m e
  let (s, c) := sinCosPi rn rm re
  let v := match q with | 0 => c | 1 => s.negate | 2 => c.negate | _ => s
  match v with | .fin _ 0 g => .fin false 0 g | w => w

/-- T[j] = 2^(j / 32) in `f32` (R204). -/
def tabT : List Nat :=
  [0x3F800000, 0x3F82CD87, 0x3F85AAC3, 0x3F88980F, 0x3F8B95C2, 0x3F8EA43A, 0x3F91C3D3, 0x3F94F4F0] ++
  [0x3F9837F0, 0x3F9B8D3A, 0x3F9EF532, 0x3FA27043, 0x3FA5FED7, 0x3FA9A15B, 0x3FAD583F, 0x3FB123F6] ++
  [0x3FB504F3, 0x3FB8FBAF, 0x3FBD08A4, 0x3FC12C4D, 0x3FC5672A, 0x3FC9B9BE, 0x3FCE248C, 0x3FD2A81E] ++
  [0x3FD744FD, 0x3FDBFBB8, 0x3FE0CCDF, 0x3FE5B907, 0x3FEAC0C7, 0x3FEFE4BA, 0x3FF5257D, 0x3FFA83B3]

/-- RC[j] = 32 / (32 + j) in `f32` (R204). -/
def tabRC : List Nat :=
  [0x3F800000, 0x3F783E10, 0x3F70F0F1, 0x3F6A0EA1, 0x3F638E39, 0x3F5D67C9, 0x3F579436, 0x3F520D21] ++
  [0x3F4CCCCD, 0x3F47CE0C, 0x3F430C31, 0x3F3E82FA, 0x3F3A2E8C, 0x3F360B61, 0x3F321643, 0x3F2E4C41] ++
  [0x3F2AAAAB, 0x3F272F05, 0x3F23D70A, 0x3F20A0A1, 0x3F1D89D9, 0x3F1A90E8, 0x3F17B426, 0x3F14F209] ++
  [0x3F124925, 0x3F0FB824, 0x3F0D3DCB, 0x3F0AD8F3, 0x3F088889, 0x3F064B8A, 0x3F042108, 0x3F020821]

/-- LT[j] = −log2 RC[j] in `f32` (R204). -/
def tabLT : List Nat :=
  [0x00000000, 0x3D35D690, 0x3DB31FB7, 0x3E0462C4, 0x3E2E00D1, 0x3E567AEF, 0x3E7DE0B5, 0x3E92203D] ++
  [0x3EA4D3C2, 0x3EB71110, 0x3EC8DDD3, 0x3EDA3F60, 0x3EEB3A9E, 0x3EFBD42A, 0x3F060828, 0x3F0DF98A] ++
  [0x3F15C01A, 0x3F1D5DA0, 0x3F24D3C3, 0x3F2C2410, 0x3F335004, 0x3F3A58FE, 0x3F41404E, 0x3F480731] ++
  [0x3F4EAECF, 0x3F553847, 0x3F5BA4A5, 0x3F61F4E5, 0x3F6829FA, 0x3F6E44CF, 0x3F744636, 0x3F7A2F03]

/-- fma32 of R204, on bits. -/
def fma32 (a b c : Nat) : Nat := (fArith fmtF32 false {} .fma a b c).get.1
/-- mul32 of R204, on bits. -/
def mul32 (a b : Nat) : Nat := (fArith fmtF32 false {} .mul a b 0).get.1
/-- `f32` bits with the sign inverted. -/
def neg32 (a : Nat) : Nat := if a.testBit 31 then a - 2 ^ 31 else a + 2 ^ 31
/-- The `f32` of an exact value under RNE. -/
def rne32 (v : XV) : Nat := (deliver fmtF32 {} v 0).get.1

/-- The exact value y × 2^n of EXP2_F32 (R205) before its last rounding. -/
def exp2F32X (neg : Bool) (m : Nat) (e : Int) : XV :=
  if m != 0 && 14 ≤ e + m.log2 then if neg then .fin false 1 (-100000) else .fin false 1 100000
  else
    let (k, _) :=
      if 0 ≤ e + 5 then ((if neg then -((m * 2 ^ (e + 5).toNat : Nat) : Int) else ((m * 2 ^ (e + 5).toNat : Nat) : Int)), false)
      else rneShift (if neg then -(m : Int) else m) (-(e + 5)).toNat
    let j := (k % 32).toNat
    let n : Int := (k - j) / 32
    let r := match addFin false neg m e (0 < k) k.natAbs (-5) with
      | .fin s d g => (deliver fmtF32 {} (.fin (s && d != 0) d g) 0).get.1
      | _ => 0
    let t := fma32 0x3C1D955B r 0x3D635847
    let t := fma32 t r 0x3E75FDF0
    let t := fma32 t r 0x3F317218
    let t := mul32 t r
    let tj := tabT.getD j 0
    let y := fma32 tj t tj
    match (unpackF fmtF32 false y).1 with
    | .fin s d g => .fin s d (g + n)
    | v => v

/-- The exact sum of LOG2_F32 (R206) before its last rounding. -/
def log2F32X (m : Nat) (e : Int) : XV :=
  let k := m.log2
  let ex := e + k
  let mb := rne32 (.fin false m (-(k : Int)))
  let j := (m - 2 ^ k) * 32 / 2 ^ k
  let r := fma32 mb (tabRC.getD j 0) 0xBF800000
  let q := fma32 0xBEB8AA3B r 0x3EF6384F
  let q := fma32 q r 0xBF38AA3B
  let q := fma32 q r 0x3FB8AA3B
  let q := mul32 q r
  let v := fun b => (unpackF fmtF32 false b).1
  (addX false (addX false (.ofInt ex) (v (tabLT.getD j 0))).1 (v q)).1

/-- TANH_F32 (R207) of a finite x other than 0: the result's bits before the flush of results. -/
def tanhF32 (ftzo : Bool) (x : Nat) (m : Nat) (e : Int) : Nat :=
  let neg := x.testBit 31
  let ax := if neg then x - 2 ^ 31 else x
  let s := if neg then 2 ^ 31 else 0
  if !ltX (.fin false m e) (.fin false 9 0) then s + 0x3F800000
  else if e + m.log2 < -12 then x
  else
    let u := mul32 ax 0xC038AA3B
    let t := match (unpackF fmtF32 false u).1 with
      | .fin n d g => rne32 (exp2F32X n d g)
      | _ => 0
    let one : XV := .fin false 1 0
    let tv := (unpackF fmtF32 false t).1
    let a := rne32 (addX false one tv.negate).1
    let b := rne32 (addX false one tv).1
    let q := (fArith fmtF32 false { ftzo := ftzo } .div a b 0).get.1
    s + q

/-- CORE of R208. -/
def sinCosCore (m : Nat) (e : Int) : Nat × Nat × Nat :=
  let (q, rn, rm, re) := halfReduce m e
  let r := rne32 (.fin (rn && rm != 0) rm re)
  let u := mul32 r r
  let s := mul32 (fma32 (fma32 (fma32 0xBF196966 u 0x402335E3) u 0xC0A55DE7) u 0x40490FDB) r
  let c := fma32 (fma32 (fma32 0xBFAAE9E4 u 0x4081E0F8) u 0xC09DE9E6) u 0x3F800000
  (q, s, c)

/-- The five transcendentals. -/
inductive FTrans where
  | exp2 | log2 | tanh | sinpi | cospi
  deriving DecidableEq, Repr

/-- A finite operand's exact cases (R203). -/
def exactCase (op : FTrans) (m : Nat) (e : Int) : Bool :=
  let multOf (k : Int) : Bool := m == 0 || 0 ≤ e - k || m % 2 ^ (k - e).toNat == 0
  match op with
  | .exp2 => multOf 0
  | .log2 => m == 2 ^ m.log2
  | .tanh => m == 0
  | .sinpi | .cospi => multOf (-1)

/-- Special operands of R203: the result and its flags. -/
def specialTrans (op : FTrans) (v : XV) : Option (XV × Flags) :=
  match op, v with
  | _, .nan => some (.nan, 0)
  | .exp2, .inf a => some (if a then .fin false 0 0 else .inf false, 0)
  | .log2, .inf a => some (if a then (.nan, flagNV) else (.inf false, 0))
  | .log2, .fin a m _ => if m == 0 then some (.inf true, flagDZ) else if a then some (.nan, flagNV) else none
  | .tanh, .inf a => some (.fin a 1 0, 0)
  | .tanh, .fin a 0 e => some (.fin a 0 e, 0)
  | .sinpi, .inf _ | .cospi, .inf _ => some (.nan, flagNV)
  | _, _ => none

/-- The exact function of a finite operand. -/
def transX (op : FTrans) (neg : Bool) (m : Nat) (e : Int) : XV :=
  match op with
  | .exp2 => exp2X neg m e
  | .log2 => log2X m e
  | .tanh => tanhX neg m e
  | .sinpi => sinpiX neg m e
  | .cospi => cospiX m e

/-- The `f32` algorithms with the flags of R203 and R204. -/
def transF32 (op : FTrans) (c : Ctl) (x : Nat) (neg : Bool) (m : Nat) (e : Int) : RoundRes :=
  let c' : Ctl := { c with rnd := .rne }
  let noSat : Ctl := { c' with sat := false }
  let asV (b : Nat) : XV := (unpackF fmtF32 false b).1
  let posZero (v : XV) : XV := match v with | .fin _ 0 g => .fin false 0 g | w => w
  -- the value handed to the last rounding, and the controls of that rounding
  let (v, k) : XV × Ctl := match op with
    | .exp2 => (exp2F32X neg m e, c')
    | .log2 => (log2F32X m e, noSat)
    | .tanh => (asV (tanhF32 c.ftzo x m e), noSat)
    | .sinpi =>
      let (q, s, co) := sinCosCore m e
      let v := posZero (asV (match q with | 0 => s | 1 => co | 2 => neg32 s | _ => neg32 co))
      (if neg then v.negate else v, noSat)
    | .cospi =>
      let (q, s, co) := sinCosCore m e
      (posZero (asV (match q with | 0 => co | 1 => neg32 s | 2 => neg32 co | _ => s)), noSat)
  let unflushed := (deliver fmtF32 { k with ftzo := false } v 0).get.1 % 2 ^ 31
  let (b, fl) := (deliver fmtF32 k v 0).get
  let exact := exactCase op m e &&
    (op != .exp2 || (match exp2X neg m e with | .fin _ _ n => decide (-149 ≤ n ∧ n ≤ 127) | _ => false))
  if exact then .done b fl
  else
    let tiny := if unflushed < 2 ^ 23 then flagUF else 0
    .done b ((fl &&& (flagOF ||| flagUF)) ||| flagNX ||| tiny)

/-- One transcendental on bits (R203). -/
def fTrans (t : FFmt) (ftzi : Bool) (c : Ctl) (op : FTrans) (x : Nat) : RoundRes :=
  let (v, sn) := unpackF t ftzi x
  let sf := sigFlags [sn]
  match specialTrans op v with
  | some (r, fl) => deliver t c r (fl ||| sf)
  | none =>
    match v with
    | .fin neg m e =>
      if t == fmtF32 then transF32 op c (if m == 0 then (if neg then 2 ^ 31 else 0) else x) neg m e
      else deliver t c (transX op neg m e) 0
    | _ => .done t.nan sf

end Sys2Proof.Machine
end

