-- ==== Sys2Proof/Machine/Memory.lean ====
section
/-!
DEFINITION. Memory as a list of addresses and bytes in one canonical form, and the key space of the on-chip
SRAM (R100). An address that is not listed reads 0 (assumption log 4).
-/
namespace Sys2Proof.Machine
open Sys2Proof

/-- Addresses and bytes, addresses rising, no byte 0. -/
abbrev Memory := List Host.Cell

/-- The canonical form: addresses strictly rising and no byte equal to what an unlisted address reads. -/
def Memory.wf : Memory → Bool
  | [] => true
  | [c] => c.2 != 0
  | c :: d :: r => c.2 != 0 && decide (c.1 < d.1) && Memory.wf (d :: r)

/-- What an address that is not listed reads. -/
def emptyByte : Byte := 0

/-- One byte. -/
def readByte : Memory → Nat → Byte
  | [], _ => emptyByte
  | c :: r, a => if c.1 = a then c.2 else readByte r a

/-- `n` bytes from an address. -/
def readSpan : Nat → Nat → Memory → List Byte
  | 0, _, _ => []
  | n + 1, a, m =>
    let r := m.dropWhile (fun c => decide (c.1 < a))
    (match r with
      | c :: _ => if c.1 = a then c.2 else emptyByte
      | [] => emptyByte) :: readSpan n (a + 1) r

/-- The cells of bytes written at an address. -/
def cellsAt : Nat → List Byte → Memory
  | _, [] => []
  | a, b :: bs => if b = emptyByte then cellsAt (a + 1) bs else (a, b) :: cellsAt (a + 1) bs

/-- Bytes written at an address. -/
def writeSpan (m : Memory) (a : Nat) (bs : List Byte) : Memory :=
  m.takeWhile (fun c => decide (c.1 < a)) ++ cellsAt a bs ++ m.dropWhile (fun c => decide (c.1 < a + bs.length))

/-- `n` bytes from an address set to what an unlisted address reads. -/
def clearSpan (m : Memory) (a n : Nat) : Memory :=
  m.takeWhile (fun c => decide (c.1 < a)) ++ m.dropWhile (fun c => decide (c.1 < a + n))

/-- A little-endian value of `n` bytes (R2). -/
def readLE (m : Memory) (a n : Nat) : Nat := leNat (readSpan n a m)

/-- A little-endian value written in `n` bytes (R2). -/
def writeLE (m : Memory) (a n v : Nat) : Memory := writeSpan m a (leBytes n v)

/-- First key of a scratchpad, by package core (R100). -/
def padKey (core : Nat) : Nat := core * 0x40000
/-- First key of a tile bank, by package tile. -/
def tileKey (t : Nat) : Nat := 0x40000000 + t * 0x80000
/-- First key of a group bank, by package group. -/
def groupKey (g : Nat) : Nat := 0x60000000 + g * 0x200000
/-- First key of a super-group bank, by package super-group. -/
def sgroupKey (g : Nat) : Nat := 0x80000000 + g * 0x800000

/-- First key of an operand slot (R350), by package core and slot. -/
def slotKey (core slot : Nat) : Nat := core * 0x40000 + slot * 0x1000
/-- Key of an accumulator lane of six bytes (R196), by package core, accumulator, row and lane. -/
def laneKey (core z row lane : Nat) : Nat := core * 0x40000 + 0x20000 + ((z * 32 + row) * 64 + lane) * 6
/-- Key of an instruction address, by package core. -/
def codeKey (core : Nat) (a : Nat) : Nat := core * 0x10000 + a

end Sys2Proof.Machine
end

