-- ==== Sys2Proof/Machine/Table.lean ====
section
/-!
DEFINITION. Sparse tables by number: plain data with a default for what is not listed.
-/
namespace Sys2Proof.Machine

/-- A table by number; numbers rise, and an absent one reads as the table's default. -/
abbrev Tbl (α : Type) := List (Nat × α)

/-- The entry of a number. -/
def tblGet {α : Type} (t : Tbl α) (k : Nat) (dflt : α) : α :=
  match t with
  | [] => dflt
  | (j, v) :: r => if j = k then v else tblGet r k dflt

/-- The table with an entry. -/
def tblSet {α : Type} (t : Tbl α) (k : Nat) (v : α) : Tbl α :=
  match t with
  | [] => [(k, v)]
  | (j, w) :: r => if k < j then (k, v) :: (j, w) :: r else if j = k then (k, v) :: r else (j, w) :: tblSet r k v

/-- Sum of a list. -/
def sumNat (l : List Nat) : Nat := l.foldl (· + ·) 0

end Sys2Proof.Machine
end

