-- ==== Sys2Proof/Machine/State.lean ====
section
/-!
DEFINITION. The state of the SRN-TG4096-A as plain data, and its reset value (R10 and on).
-/
namespace Sys2Proof.Machine
open Sys2Proof

/-- Why the machine stops. -/
inductive Fault where
  /-- An instruction is executed while no thread is at issue (`State.fetch` is `none`). `exec` raises it;
  `step` never does, since it sets the latch first. Safe: the machine stops where no rule gives a step. -/
  | noThread
  deriving DecidableEq, Repr

/-- Why an instruction has no meaning. -/
inductive Refusal where
  /-- An instruction whose meaning is not written; raised by its arm of `exec`. Safe. -/
  | notModelled (mnemonic : String)
  deriving DecidableEq, Repr

/-! ## Threads -/

/-- One lane of a lazy-uniform register (R209): the chunks known (chunk 0 in the top 32 bits). -/
structure YLane where
  known : BitVec 192 := 0
  len : Nat := 0
  index : BitVec 48 := 0
  slot : Fin 8 := 0
  exh : Bool := false
  deriving DecidableEq, Repr

/-- A lazy-uniform register. -/
abbrev YVec := Vector YLane 16

/-- A message register and its full bit (R168, R170). -/
structure MReg where
  val : Word := 0
  full : Bool := false
  deriving DecidableEq, Repr

/-- The hardware copy of a bound queue descriptor (R173); `addr` is its local address, `held` the updates
above `seq` that wait for their turn (R174). -/
structure QCopy where
  addr : Nat
  base : Word
  nslot : Nat
  ssize : Nat
  seqord : Bool
  role : Fin 4
  peer : Nat
  head : BitVec 32
  tail : BitVec 32
  filled : BitVec 32
  free : BitVec 32
  seq : BitVec 32
  pdesc : Nat
  held : List (BitVec 32 × BitVec 32) := []
  deriving DecidableEq, Repr

/-- A stream binding (R175): direction 0 read, 1 write, 2 read from a queue, 3 write to a queue. -/
structure Stream where
  base : Word
  count0 : Nat
  stride0 : Int
  count1 : Nat
  stride1 : Int
  dir : Fin 4
  queue : QReg
  /-- the count of the queue's end at binding: the slot of element 0 (assumption log 30) -/
  start : BitVec 32 := 0
  pos : Nat := 0
  deriving DecidableEq, Repr

/-- The state of a counted loop (R282). -/
structure LoopState where
  start : BitVec 16
  stop : BitVec 16
  remaining : Word
  deriving DecidableEq, Repr

/-- What a thread set does (R51, R233, R323). -/
inductive Run where
  /-- not allotted to a crew -/
  | off
  | stopped
  | running
  /-- in a wait that its instruction makes again at each issue -/
  | waiting
  /-- held in the resident handler until released: pre-emption, debug or replay stop -/
  | parked
  deriving DecidableEq, Repr

/-- A fault of a vector or matrix command (R231), another fault delivered late, or a stale lap read (R132). -/
structure LateFault where
  seq : BitVec 16
  cause : BitVec 8
  info : Word
  /-- of a command, so that the oldest command's replaces it (R231) -/
  ofCmd : Bool
  deriving DecidableEq, Repr

/-- A stripped access (R159): kind 0 load, 1 store, 2 atomic; `elems` are the accesses that a reissue makes, by
address, size and value (R160); `scope` is S', and `at_` its place in the order of issue. -/
structure Miss where
  kind : Fin 3
  addr : Word
  elems : List (Word × Nat × Word)
  scope : Scope
  order : Order
  strong : Bool
  at_ : Nat
  deriving DecidableEq, Repr

/-- Events that wait for an instruction boundary (R228). -/
structure Due where
  lates : List LateFault := []
  stales : List LateFault := []
  switchOut : Bool := false
  preempt : Bool := false
  peerStopped : Bool := false
  debug : Bool := false
  replay : Bool := false
  misses : List Miss := []
  /-- the reissue of the first of them has been made and is not yet performed (R160, R419) -/
  made : Bool := false
  /-- faults of reissues of scope misses (R160) -/
  reissues : List LateFault := []
  /-- "gang member lost" (R238), with the lost member's number -/
  lost : Option Nat := none
  deriving DecidableEq, Repr

/-- The resume mark of a `RIDGE` that has made its arrival (R386): the level and number of the release it waits on, its address,
and the status word that the release gave. -/
structure Mark where
  level : Nat
  release : Nat
  addr : BitVec 16
  word : Option Word := none
  deriving DecidableEq, Repr

/-- A thread set (R168, R169). -/
structure Thread where
  s : Vector Word 32
  v : Vector VWord 32
  k : Vector Word 8
  y : Vector YVec 8
  m : Vector MReg 16
  q : Vector (Option QCopy) 16
  /-- bindings of `s24` to `s31` -/
  ss : Vector (Option Stream) 8
  /-- bindings of `v24` to `v31` -/
  sv : Vector (Option Stream) 8
  pc : BitVec 16
  loop : Option LoopState
  drawctr : BitVec 48
  epc : BitVec 16
  cause : BitVec 8
  einfo : Word
  estat : Word
  fpflags : BitVec 6
  yxcyc : BitVec 48
  yexh : BitVec 48
  gwidth : Nat
  gpos : Nat
  run : Run
  stopReq : Bool
  due : Due
  /-- resume marks, of the program and of a handler that has interrupted it (R386) -/
  marks : List Mark
  /-- the level and number of the release the thread waits on in `RIDGE` or `RIDGEW` (R387), and the status word
  that release gave a `RIDGEW` -/
  rwait : Option (Nat × Nat)
  rword : Option Word
  /-- the thread has issued `GANG` and waits for the block, with the width and the address after it (R321) -/
  joining : Option (Nat × BitVec 16)
  /-- the address of the load of the instruction at issue that has been counted as waiting for a slab (R147) -/
  lapWait : Option Word
  /-- the release of a partition's level whose refresh the `LAPW` at issue waits for (R384) -/
  lapFor : Option Nat
  /-- the thread waits in `MWAIT`: a late fault is taken at the boundary after it (R362) -/
  matWait : Bool
  /-- table requests of the extension at issue that have left the port while another is held there (R71, R215) -/
  drew : Nat
  /-- the place in the order of issue of the message that waits for room at its source (R171) -/
  sending : Option Nat
  /-- the records that `ST64S` at an address has presented, and their answers where there is one (R41) -/
  asked : List (BitVec 16 × Option Word)
  /-- `EPC`, `CAUSE`, `EINFO`, `ESTAT` saved by the resident handler around a system action (R230) -/
  saved : Option (BitVec 16 × BitVec 8 × Word × Word)
  digest : Word
  /-- matrix writes not yet folded into the digest (R248) -/
  unfolded : List (Word × List Byte)
  /-- stores that enter the digest behind a vector store, by its place in the order of issue (R248) -/
  behind : List (Nat × Word × List Byte)
  retired : BitVec 32
  lastTrace : BitVec 16
  /-- the step in which the thread set last issued, counted from 1 (R167) -/
  issued : Nat
  deriving DecidableEq, Repr

/-- A thread set of a core without a crew. -/
def Thread.reset : Thread where
  s := Vector.replicate 32 0
  v := Vector.replicate 32 0
  k := Vector.replicate 8 0
  y := Vector.replicate 8 (Vector.replicate 16 {})
  m := Vector.replicate 16 {}
  q := Vector.replicate 16 none
  ss := Vector.replicate 8 none
  sv := Vector.replicate 8 none
  pc := 0
  loop := none
  drawctr := 0
  epc := 0
  cause := 0
  einfo := 0
  estat := 0
  fpflags := 0
  yxcyc := 0
  yexh := 0
  gwidth := 1
  gpos := 0
  run := .off
  stopReq := false
  due := {}
  marks := []
  rwait := none
  rword := none
  joining := none
  lapWait := none
  lapFor := none
  matWait := false
  drew := 0
  sending := none
  asked := []
  saved := none
  digest := 0
  unfolded := []
  behind := []
  retired := 0
  lastTrace := 0
  issued := 0

/-! ## Package: ports, boot, monitors -/

/-- The state of a port (R20); a retraining port carries its step. -/
inductive PortState where
  | disabled | detect | equalise | pair | deskew | agree | identify | up
  | retrainEqualise | retrainAgree | retrainIdentify | failed
  deriving DecidableEq, Repr

/-- What the outside sees the device send: answers to the host, messages to Hjelril partners, messages to
other devices. -/
inductive OutMsg where
  /-- an attestation report to the requester (R27) -/
  | report (bytes : List Byte)
  /-- an identity challenge or report on a port (R18) -/
  | challenge (p : Nat) (nonce : BitVec 256)
  | identity (p : Nat) (bytes : List Byte)
  /-- a flit sent, an acknowledgement, a report of an uncorrectable flit (R13) -/
  | flit (p : Nat) (f : Flit)
  | ack (p : Nat) (seq : BitVec 12)
  | nak (p : Nat) (seq : BitVec 12)
  /-- credits that a port grants its partner on a virtual channel (R14) -/
  | credit (p : Nat) (vc : Fin 8) (n : Nat)
  /-- a read answered with bytes; a write or submission completed; Completer Abort (all ones for a read);
  Request Retry Status (R33, R40) -/
  | readData (bytes : List Byte)
  | completed
  | abort
  | retryStatus
  /-- an operation sent to another device with its issuing core and tenant; a chunk, of no bytes once the source has
  faulted; that a handle has passed its checks; an answer; a collective's words (R82, R94 to R97, R396) -/
  | remote (dev : Nat) (n core tenant : Nat) (words : List Word)
  | remoteChunk (dev : Nat) (n k : Nat) (bytes : List Byte)
  | checked (dev : Nat) (ref : Nat)
  | answer (dev : Nat) (ref : Nat) (word : Word)
  | chunk (dev : Nat) (comm : Nat) (seq : BitVec 32) (stage off : Nat) (bytes : List Byte)
  | notice (dev : Nat) (comm : Nat) (seq : BitVec 32) (addr : Word)
  | token (dev : Nat) (comm : Nat) (rank : Nat) (errors : BitVec 16) (digest : Word)
  deriving DecidableEq, Repr

/-- A message that waits for a port: its virtual channel, the flits it has still to send, what it says, whether a flit of it
has been sent, and whether it is a chunk that a link event re-plans (R13, R14, R89). -/
structure Parcel where
  vc : Fin 8
  flits : Nat
  msg : OutMsg
  begun : Bool := false
  moves : Bool := false
  deriving DecidableEq, Repr

/-- A Hjelril port (R13 to R22). `ctl` is `HLPCTL` without `restart`; `idStep` is `HLPIDEXP` as the present step 6 takes it and
`idDev` the device number that its report was checked against; `retry` holds sent flits until they are acknowledged, oldest
first, and `outq` the messages that wait for credit; `granted` once the port has granted its partner credits, and `withheld`
those it keeps back on each channel (R91); `sentWin` and `resentWin` count the flits sent and resent in the present window of
2^24 and `threshold` says that it has raised kind 3. `down` holds the partner before a link that went down, until training
ends; `was` the partner before a restart. -/
structure LinkPort where
  ctl : BitVec 8 := 0x82
  state : PortState := .disabled
  failCode : BitVec 8 := 0
  identOk : Bool := false
  fecDeep : Bool := false
  rate512 : Bool := false
  width2 : Bool := false
  peer : BitVec 16 := 0xFFFF
  idHash : BitVec 256 := 0
  idExp : BitVec 256 := 0
  idStep : BitVec 256 := 0
  idDev : Option (BitVec 16) := none
  errLimit : BitVec 16 := 64
  attempt : Nat := 0
  nonce : BitVec 256 := 0
  lane0 : Bool := false
  lane1 : Bool := false
  retry : List Flit := []
  outq : List Parcel := []
  sendSeq : BitVec 12 := 0
  recvSeq : BitVec 12 := 0
  credits : Vector Nat 8 := Vector.replicate 8 0
  granted : Bool := false
  withheld : Vector Nat 8 := Vector.replicate 8 0
  sentWin : Nat := 0
  resentWin : Nat := 0
  threshold : Bool := false
  delivered : List Flit := []
  down : Option (BitVec 16) := none
  was : Option (BitVec 16) := none
  deriving DecidableEq, Repr

/-- Where the boot stands (R25). -/
inductive BootPhase where
  /-- before power-on reset has run -/
  | off
  /-- the ROM fetches from source `i` of its list, attempt `n` -/
  | fetching (i n : Nat)
  /-- every attempt failed -/
  | dead
  /-- stage 0 runs -/
  | stage0
  /-- a sensor stopped the package (R29) -/
  | thermal
  deriving DecidableEq, Repr

/-- Boot, measurement and the registers of R31 and R34. -/
structure Boot where
  phase : BootPhase := .off
  released : Vector Bool 4 := Vector.replicate 4 false
  maintenance : Bool := true
  bootLen : BitVec 32 := 0
  bootGo : Bool := false
  bootStat : Nat := 0
  minVersion : BitVec 32
  hostSource : Bool := false
  meas : Vector (BitVec 256) 8 := Vector.replicate 8 0
  devnum : BitVec 16 := 0xFFFF
  powerLim : BitVec 16 := 2400
  twarn : BitVec 16 := 1600
  temps : Tbl (BitVec 16) := []
  droopMin : Tbl (BitVec 16) := []
  droopCount : Tbl (BitVec 32) := []
  /-- thresholds written; an absent one is the fused value -/
  droopThr : Tbl (BitVec 16) := []
  process : Tbl (BitVec 16) := []
  /-- super-groups whose issue is held for droop (R29) -/
  droopHeld : List Nat := []
  /-- the event log: record `n` in slot `n` mod 256 (R23) -/
  log : Tbl (BitVec 128) := []
  logCnt : BitVec 32 := 0
  logOvf : BitVec 32 := 0
  deriving DecidableEq, Repr


/-- A key slot (R211). -/
structure KeySlot where
  kind : Nat := 0
  tbase : Word := 0
  ibase : Nat := 0
  entries : Nat := 0
  key : BitVec 256 := 0
  deriving DecidableEq, Repr


/-! ## Engine commands (R176, R177) -/

/-- Integer lane operations of R333 and R335. -/
inductive VInt where
  | add | sub | mul | mulh | mulhn | mad | and | or | xor | min | minn | max | maxn | shl | shr | sar
  deriving DecidableEq, Repr

/-- Relations of the compares (R336, R339). -/
inductive VRel where
  | eq | ne | lt | ltn | le | len
  deriving DecidableEq, Repr

/-- Floating lane operations of R338. -/
inductive VFlt where
  | add | sub | mul | fma | fnma | div | sqrt | rcp | rsq
  deriving DecidableEq, Repr

/-- Rearrangements of R343. -/
inductive VMix where
  | zip | ziph | unzip | unzipo | trn | trn2
  deriving DecidableEq, Repr

/-- Format pairs of R359. -/
inductive MFmt where
  | bf | hf | f32 | e4 | e5 | e45 | i8 | i4 | q8 | q4q8 | q4
  deriving DecidableEq, Repr

/-- What a vector or matrix command does. -/
inductive EKind where
  | vld | vst | vlds | vsts | vldg | vstg | vldt
  | rowld | rowst | rowadd | rowcas
  | int (o : VInt) (sat : Bool) | shiftImm (o : VInt) | addw (high : Bool) | dot | abs | cmp (r : VRel)
  | sel | bcast | extr | ins | lane
  | flt (o : VFlt) | fminmax (max : Bool) | fabs | fneg | fcmp (r : VRel)
  | cvt | pack | unpk (high : Bool) | perm | slide (up : Bool) | mix (o : VMix)
  | scan (excl : Bool) | red (wide : Bool) | redmax (signed : Bool) | fred | fredmax
  | kand | kor | knot | kpopc | kfirst | kmov | kmovs
  | yseed (slot : KeySlot) | ydraw (first : BitVec 48) | ycmp | ycmpy | yrnd | ycvt | ymov | ystat | yst | yld
  | trans (o : FTrans)
  | orel | old (roleB : Bool) | oldt (roleB : Bool) | oswap (nth : Nat) | ost | zclr | zst | zld | zmovv | mstat
  | mma (f : MFmt) (ow : Bool)
  deriving DecidableEq, Repr

/-- Where bytes live: a key of on-chip SRAM, or a physical cell. -/
inductive Loc where
  | sram (key : Nat)
  | cell (a : Nat)
  deriving DecidableEq, Repr

/-- Where an element is appended, checked at dispatch (R332): the bound register, a scalar one from 32 on; the address, its
place, its target, and whether it is in the own scratchpad. -/
structure Append where
  reg : Nat
  addr : Word
  loc : Loc
  home : Nat
  own : Bool
  deriving DecidableEq, Repr

/-- A dispatched command: its place in the machine's order of issue, its thread, sequence number, prefixes and
register fields; the scalars, stream elements and address captured at dispatch (R332, R361). -/
structure Cmd where
  id : Nat
  ts : Fin 4
  seq : BitVec 16
  x : Pre
  kind : EKind
  a : Nat := 0
  b : Nat := 0
  c : Nat := 0
  imm : Word := 0
  s1 : Word := 0
  s2 : Word := 0
  /-- elements popped from bound vector registers, and where bound destinations append (R175, R332) -/
  pops : List (Nat × VWord) := []
  apps : List Append := []
  /-- a lap load of it has been counted as waiting (R147) -/
  parked : Bool := false
  /-- its global requests that have left the port (R71) -/
  paid : Nat := 0
  deriving DecidableEq, Repr

/-- A request of the copy engine's queue: a copy's four words, or a segment fetch (R177, R179). `sys` is set for
one issued from segment 0. -/
structure CopyReq where
  id : Nat
  ts : Fin 4
  sys : Bool
  words : List Word
  cfet : Option (Fin 16 × Word) := none
  /-- source blocks counted as waiting for a slab (R147), and bytes whose requests have left the port (R71) -/
  parked : List Word := []
  paid : Nat := 0
  deriving DecidableEq, Repr

/-! ## Cores -/

/-- An entry of the coprocessor ring (R176, R169). -/
structure RingEntry where
  seq : BitVec 16 := 0
  pc : BitVec 16 := 0
  words : List Half := []
  deriving DecidableEq, Repr

/-- A message (R170): target thread set and register, the value, and its sender's domain-relative core (R246). -/
structure Msg where
  ts : Fin 4
  reg : Fin 16
  val : Word
  src : Nat
  deriving DecidableEq, Repr

/-- An armed `TRIG` (R98, R99): its descriptor's four words, counter and threshold. -/
structure Armed where
  slot : Nat
  words : List Word
  h : HReg
  threshold : Word
  ts : Fin 4
  deriving DecidableEq, Repr

/-- The state of an operand slot (R350). -/
structure OSlot where
  owner : Option (Fin 4) := none
  roleB : Bool := false
  deriving DecidableEq, Repr

/-- A transfer of a lap plan into a core (R143): its slab, source owner, the plan cycle in which its first flit arrives, and
its flits. -/
structure LapMove where
  slab : Nat
  owner : Nat
  first : Nat
  flits : Nat
  deriving DecidableEq, Repr

/-- A declared partition on one core (R133 to R149). `desc` and `splits` are the words read at `PDECL`; the marks are
those made (R383, R382) and those the last arrival carries (R380); `flight` and `stale` are the masks of R146,
`dirty` the owned cells written since the snapshot, by their place in the block; `plan` the transfers that it receives, and
`clock` the plan cycles that the present refresh has run (R143, R145). -/
structure Part where
  level : Nat
  desc : List Word
  splits : List (BitVec 32)
  hash : BitVec 64
  confirmed : Bool := false
  refreshMark : Bool := false
  freeMark : Bool := false
  sentHash : Bool := false
  sentRefresh : Bool := false
  sentFree : Bool := false
  flight : BitVec 26 := 0
  stale : BitVec 26 := 0
  dirty : List Nat := []
  refreshed : BitVec 48 := 0xFFFFFFFFFFFF
  plan : List LapMove := []
  clock : Nat := 0
  deriving DecidableEq, Repr

/-- An entry of an exchange timetable (R121). -/
structure TTEntry where
  offset : Nat
  recv : Bool
  peer : Nat
  len : Nat
  addr : Nat
  deriving DecidableEq, Repr

/-- An exchange timetable of one level: window length and entries. -/
structure TimeTable where
  window : Nat
  entries : List TTEntry
  deriving DecidableEq, Repr

/-- An exchange window open at a core: the release that opened it, its first and last cycle, the receive entries
that serve it, and the 16-byte units whose receive entry covered a lap range at its opening (R123, R124). -/
structure Window where
  release : Nat
  start : Nat
  stop : Nat
  entries : List TTEntry
  blocked : List Nat
  deriving DecidableEq, Repr

/-- A cause that a release has left to its core, and the thread that is to take it (R387). -/
structure Owed where
  release : Nat
  cause : BitVec 8
  taker : Option (Fin 4) := none
  deriving DecidableEq, Repr

/-- The ridge state of a core at one level (R115 to R124, R386, R387): arrivals made and released; the cycle, order
and communicator of the last arrival; the cycle of the last release; error bits and collisions of the course;
the status word of the last release and the store digests it combined; causes owed (R387). -/
structure RidgeSt where
  arrivals : Nat := 0
  released : Nat := 0
  at_ : Nat := 0
  order : Nat := 0
  comm : Nat := 0
  since : Nat := 0
  errors : BitVec 16 := 0
  coll : Bool := false
  status : Word := 0
  digest : Word := 0
  owed : List Owed := []
  windows : List Window := []
  table : Option TimeTable := none
  deriving DecidableEq, Repr

/-- A crew (R50, R66): its task, domain-relative number, and its report so far. `clean` is cleared by a thread that
stopped otherwise than by `HALT`, `THSTOP` or the exit address. -/
structure Crew where
  task : Nat
  rel : Nat
  errors : BitVec 8 := 0
  cause : BitVec 8 := 0
  clean : Bool := true
  finished : Bool := false
  deriving DecidableEq, Repr

/-- A per-core pre-emption under way (R232): the first MiB of its context slot once it has one, and a fault of a copy
into it (R236). -/
structure Preempt where
  slot : Option Nat := none
  faulted : Bool := false
  deriving DecidableEq, Repr

/-- A core (R10, R168). -/
structure Core where
  thr : Vector Thread 4
  crew : Option Crew
  /-- levels 1 to 6 in bits 1 to 6, as written and in effect (R114) -/
  dommask : BitVec 7
  domEff : BitVec 7
  course : Vector (BitVec 48) 7
  cpseq : BitVec 16
  ring : Vector RingEntry 32
  ringSel : Fin 32
  mailbox : List (Word × Word)
  /-- writes of copies by their completion entries, to be folded into a digest at the pop (R248) -/
  unfolded : List ((Word × Word) × List (Word × List Byte))
  deposits : BitVec 32
  mbHeld : Bool
  overflow : List Msg
  h : Vector Word 16
  armed : List Armed
  vq : List Cmd
  mq : List Cmd
  copyq : List CopyReq
  /-- how many `OSWAP` each mask has dispatched (R356) -/
  swaps : Tbl Nat
  keys : Vector KeySlot 8
  slots : Vector OSlot 32
  arrayCycles : BitVec 48
  parts : Vector (Option Part) 8
  /-- the stale-read and in-flight-wait counters of each partition number (R147) -/
  staleCounts : Vector (BitVec 48) 8
  waitCounts : Vector (BitVec 48) 8
  ridge : Vector RidgeSt 7
  segValid : BitVec 16
  /-- segments with fetches in flight (a count), and the failures of the last fetch (R103, R179) -/
  segFetch : Vector Nat 16
  segFail : Vector (Option (BitVec 8 × Word)) 16
  /-- addresses whose word carries a break bit (R244) -/
  breaks : List (BitVec 16)
  breakPending : Bool
  ehold : Bool
  bhold : Bool
  heldCycles : BitVec 32
  brkmap : Word
  trctl : Word
  imbCount : Word
  imbLost : Word
  trBytes : Word
  trLost : Word
  /-- records lost since the last record, records since the last sync, the core's last record's cycle (R243) -/
  trGap : Nat
  trSince : Nat
  trTime : Nat
  /-- writes of the trace in its staging buffer, oldest first, by their address (R241) -/
  trStaged : List (Nat × List Byte)
  preempt : Option Preempt
  /-- a pre-emption raised during a switch-out waits for the restore (R232) -/
  preemptWaits : Bool
  /-- log entries consumed under REPLAY, by type (R247) -/
  replayPos : Tbl Nat
  deriving DecidableEq, Repr

/-- A core without a crew. -/
def Core.reset : Core where
  thr := Vector.replicate 4 Thread.reset
  crew := none
  dommask := 0
  domEff := 0
  course := Vector.replicate 7 0
  cpseq := 0
  ring := Vector.replicate 32 {}
  ringSel := 0
  mailbox := []
  unfolded := []
  deposits := 0
  mbHeld := false
  overflow := []
  h := Vector.replicate 16 0
  armed := []
  vq := []
  mq := []
  copyq := []
  swaps := []
  keys := Vector.replicate 8 {}
  slots := Vector.replicate 32 {}
  arrayCycles := 0
  parts := Vector.replicate 8 none
  staleCounts := Vector.replicate 8 0
  waitCounts := Vector.replicate 8 0
  ridge := Vector.replicate 7 {}
  segValid := 0
  segFetch := Vector.replicate 16 0
  segFail := Vector.replicate 16 none
  breaks := []
  breakPending := false
  ehold := false
  bhold := false
  heldCycles := 0
  brkmap := 0
  trctl := 0
  imbCount := 0
  imbLost := 0
  trBytes := 0
  trLost := 0
  trGap := 0
  trSince := 0
  trTime := 0
  trStaged := []
  preempt := none
  preemptWaits := false
  replayPos := []

/-! ## Memory -/

/-- The memories of the package: physical (R107), on-chip SRAM (R100), instruction memory (R179), operand memory
and accumulators (R168), the boot staging buffer (R34), control-core memory (R24). -/
structure Mem where
  phys : Memory := []
  sram : Memory := []
  code : Memory := []
  operand : Memory := []
  stage : Memory := []
  control : Memory := []
  deriving DecidableEq, Repr

/-! ## Translation (R104 to R106) -/

/-- A cached translation of one page of one ASID. -/
structure TlbEntry where
  asid : BitVec 16
  page : Nat
  log : Nat
  pa : Nat
  w : Bool
  pin : Bool
  deriving DecidableEq, Repr

/-- An accepted `XLINV` under way; `root` is the value of `XLROOT` when it was accepted. -/
structure Inval where
  what : Nat
  va : Nat
  asid : BitVec 16
  root : Word
  deriving DecidableEq, Repr

/-- The registers of R106 and the caches of the 64 stations, most recently used first. -/
structure Xlat where
  rootW : Word := 0
  rootE : Word := 0
  inval : Option Inval := none
  dropped : Bool := false
  tlb : Tbl (List TlbEntry) := []
  deriving DecidableEq, Repr

/-! ## Host interface, scheduler, budgets (R32 to R80) -/

/-- Who made a submission: the host, with a deferrable or posted write, or a thread set with its `ST64S` at an address. -/
inductive Submitter where
  | host (deferrable : Bool)
  | thread (core : Nat) (ts : Fin 4) (addr : BitVec 16)
  deriving DecidableEq, Repr

/-- A submission held at its port until its cycle (R35); `whole` is false for a host write that is not one
aligned 64-byte write, `cyc` the cycle in which it reached the port. -/
structure Submission where
  who : Submitter
  cyc : Nat
  whole : Bool
  bytes : List Byte
  deriving DecidableEq, Repr

/-- A submission port (R35 to R38). -/
structure SubPort where
  ctl : Word := 0
  held : List Submission := []
  refusals : BitVec 16 := 0
  code : BitVec 8 := 0
  accepted : BitVec 32 := 0
  occupied : Nat := 0
  deriving DecidableEq, Repr

/-- Where an accepted record stands (R35, R52). -/
inductive RecPhase where
  /-- accepted, not yet at the scheduler's intake -/
  | accepted
  | waiting
  /-- started: the loader reads its image -/
  | loading
  /-- loaded, waiting for a domain -/
  | loaded
  /-- its task runs, or its collective or copy is under way -/
  | running
  /-- switched out, or being switched out -/
  | switchedOut
  deriving DecidableEq, Repr

/-- An accepted launch record (R36, R43). `words` are its eight words; `t0` of R54; `deferred` the cycle since
which it has been deferred for energy (R76); `prio` the running priority; `inSlot` whether it occupies a slot of
its port. -/
structure Rec where
  id : Nat
  port : Nat
  words : List Word
  stamp : Nat
  t0 : Nat
  phase : RecPhase
  deferred : Option Nat := none
  prio : Nat := 0
  startedAt : Nat := 0
  inSlot : Bool := true
  deriving DecidableEq, Repr

/-- A copy that the system copy engine is to perform (R44): its record and the request's words. -/
structure SysCopy where
  id : Nat
  words : List Word
  deriving DecidableEq, Repr

/-- What the loader keeps of a loaded image for crew start (R46, R229, R240, R246). -/
structure Image where
  /-- resident segments: number and 4 KiB of bytes, by address pairs -/
  resident : List (Nat × List Byte)
  entry : BitVec 16
  ktrap : Option (BitVec 16)
  trctl : Word
  kbrk : Word
  /-- log base, bytes per crew, `onfail` (R246) -/
  replay : Option (Word × Word × Word)
  deriving DecidableEq, Repr

/-- A thread set and core as a switch-out or pre-emption saves them (R233 to R235). -/
structure SavedCore where
  rel : Nat
  core : Core
  pad : Memory
  operand : Memory
  code : Memory
  deriving DecidableEq, Repr

/-- A task (R49): the record it came from, its domain, and what its truss has gathered (R65, R66). -/
structure Task where
  id : Nat
  tenant : Nat
  asid : BitVec 16
  base : Nat
  level : Nat
  crews : Nat
  threads : Nat
  gang : Nat
  stream : BitVec 32
  kind : Nat
  det : Bool
  trace : Bool
  record : Bool
  replay : Bool
  image : Image
  placedAt : Nat
  /-- reports at the leaders: core and (crews_done, errors, err_core, cause) -/
  reports : Tbl (Nat × BitVec 16 × Nat × BitVec 8) := []
  /-- ended by `SCHEND` (R67) -/
  ended : Bool := false
  /-- replay enforcement is over (R248) -/
  replayOff : Bool := false
  course : BitVec 48 := 0
  deriving DecidableEq, Repr

/-- A task switched out: its cores, banks and in-flight work, and its place in the context space (R77, R235). -/
structure SavedTask where
  task : Task
  cores : List SavedCore
  banks : List Memory
  ctxOff : Nat
  ctxLen : Nat
  deriving DecidableEq, Repr

/-- An edge (R58). -/
structure Edge where
  held : Nat := 0
  filled : Nat := 0
  tenant : Nat := 0
  enable : Bool := false
  capacity : Nat := 0
  deriving DecidableEq, Repr

/-- A tenant's error log (R68): entries of 32 bytes by slot, and `SELOGCNT`. -/
structure ErrLog where
  entries : Tbl (List Byte) := []
  count : BitVec 32 := 0
  deriving DecidableEq, Repr

/-- A switch-out under way (R78): the victim, whether its cores have stopped, the passes that read zero, and where its context
goes. -/
structure SwitchOut where
  task : Nat
  stopped : Bool := false
  passes : Nat := 0
  ctxOff : Nat
  /-- the core whose copy into the context area faulted (R236) -/
  faulted : Option Nat := none
  deriving DecidableEq, Repr

/-- The host interface and the scheduler. -/
structure Sched where
  hapBase : Word := 0
  hapAsid : BitVec 16 := 0
  ports : Tbl SubPort := []
  recs : List Rec := []
  nextRec : Nat := 0
  images : Tbl Image := []
  tasks : List Task := []
  saved : List SavedTask := []
  copies : List SysCopy := []
  edges : Tbl Edge := []
  errlogs : Tbl ErrLog := []
  switch : Option SwitchOut := none
  /-- the record X of R56 and the cycle since which its conditions have held -/
  pressure : Option (Nat × Nat) := none
  deriving DecidableEq, Repr

/-- A bucket pair of a tenant on a die (R70). -/
structure Bucket where
  energy : Int := 0
  bandwidth : Int := 0
  eActive : Bool := false
  bActive : Bool := false
  /-- entitlement at the last boundary (R76) -/
  entitled : Nat := 0
  deriving DecidableEq, Repr

/-- Budgets (R70 to R77): pools by die, shares as written and in effect by tenant, context spaces, buckets by die
× 64 + tenant, coefficients by die × 16 + class, residues by core. -/
structure Budgets where
  bpool : Tbl (BitVec 32) := []
  bpoolE : Tbl (BitVec 32) := []
  epool : Tbl (BitVec 32) := []
  tbud : Tbl Word := []
  tbudE : Tbl Word := []
  tctx : Tbl Word := []
  buckets : Tbl Bucket := []
  ecoef : Tbl (BitVec 32) := []
  residue : Tbl Nat := []
  /-- the last boundary taken: its number -/
  period : Nat := 0
  /-- coefficients and energy pools that wait for a boundary, and the cycle of the last new coefficients (R75) -/
  coefNext : List (BitVec 32) := []
  coefAt : Nat := 0
  epoolNext : List (BitVec 32) := []
  /-- context slots in use: tenant, first MiB, count (R77, R232) -/
  ctxUsed : List (Nat × Nat × Nat) := []
  deriving DecidableEq, Repr

/-! ## What is under way -/

/-- A contribution to a slice region (R127): its element address in absolute near form, and its data. -/
inductive ContribData where
  | elem (v : Word)
  | vec (v : VWord)
  | merge (chunk : Nat) (m l : BitVec 32) (o : VWord)
  deriving DecidableEq, Repr

/-- A contribution with its source: task, domain-relative core and thread set. -/
structure Contrib where
  id : Nat
  task : Nat
  src : Nat
  core : Nat
  ts : Fin 4
  addr : Word
  data : ContribData
  deriving DecidableEq, Repr

/-- A remote operation under way (R94 to R99). `words` is its descriptor; `foreign` is set for one that came from
another device, with that device, its reference and its core; `checked` once the peer has checked the handle; `cut` once its
source has faulted while chunks of it are kept (R404). -/
structure RemoteOp where
  kind : Fin 4
  dev : BitVec 16
  words : List Word
  tenant : Nat
  task : Nat
  mreg : Fin 16
  foreign : Option (BitVec 16 × Nat × Nat) := none
  checked : Bool := false
  cut : Bool := false
  sent : Bool := false
  landed : List Nat := []
  waiting : List Nat := []
  bytes : Nat := 0
  status : Option (BitVec 8) := none
  result : Word := 0
  deriving DecidableEq, Repr

/-- How a store is ordered: its target, a bank, a scratchpad or an eaves station (R102); whether an order holds it behind
every earlier store of its thread (R155); whether the vector or matrix engine made it (R163); and its address in absolute form
(R109). -/
structure StoreTag where
  home : Nat
  after : Bool
  eng : Bool
  addr : Word
  deriving DecidableEq, Repr

/-- What is under way. -/
inductive FlyKind where
  /-- a store whose checks have passed (R103) -/
  | store (loc : Loc) (bytes : List Byte) (tag : StoreTag)
  | msg (dst : Nat) (m : Msg)
  /-- a mailbox entry; `eng` when the copy engine or a collective engine made it -/
  | deposit (dst : Nat) (w0 w1 : Word) (eng : Bool)
  /-- a queue update for the descriptor at a local address: filled or free slots (R174) -/
  | qupd (dst : Nat) (pdesc : Nat) (filled : Bool) (n carried : BitVec 32)
  | contrib (c : Contrib)
  | remote (r : RemoteOp)
  deriving DecidableEq, Repr

/-- Something under way: its place in the order of issue, the sending core and thread set, the cycle it reached
its arbiter, and whether it has waited there 1,024 cycles (R55). -/
structure Fly where
  id : Nat
  core : Nat
  ts : Fin 4
  cyc : Nat
  what : FlyKind
  aged : Bool := false
  deriving DecidableEq, Repr

/-- A timetabled flit (R123): its sender and receiver by package core, the local address it is read from, its level,
the cycles in which it leaves and arrives, and its bytes once it has left. -/
structure XFlit where
  id : Nat
  src : Nat
  dst : Nat
  addr : Nat
  level : Nat
  leaves : Nat
  at_ : Nat
  data : Option (List Byte) := none
  deriving DecidableEq, Repr

/-- A capability region (R109): near regions by absolute near address. -/
structure CapRegion where
  task : Nat
  asid : BitVec 16
  base : Word
  log : Nat
  holder : Nat
  deriving DecidableEq, Repr

/-- A reduce region (R126). `acc` holds accumulators by element or row: one number for an add region, m, l and the
lanes for a merge region. `buffered` are the contributions not yet applied: those of the course in deterministic
mode, else merge chunks of incomplete contributions. -/
structure SliceRegion where
  task : Nat
  base : Word
  size : Nat
  kind : Nat
  level : Nat
  declarer : Nat
  det : Bool
  acc : Tbl (List Nat) := []
  buffered : List Contrib := []
  flags : BitVec 6 := 0
  deriving DecidableEq, Repr

/-- A posted-buffer slot (R93). -/
structure PostSlot where
  gen : BitVec 8 := 0
  live : Bool := false
  task : Nat := 0
  tenant : Nat := 0
  asid : BitVec 16 := 0
  addr : Word := 0
  len : Nat := 0
  st : Bool := false
  faa : Bool := false
  /-- domain-relative core that posted it, and its counter -/
  core : Nat := 0
  ctr : Fin 16 := 0
  deriving DecidableEq, Repr

/-- A communicator (R81): `ranks` is the copied map; `tokens` holds the error bits and digests of ridge tokens that
arrived and were not yet taken, by rank; `sent` is set while this device's token for the next release is out (R116). -/
structure Comm where
  ctl : Word := 0
  map : Word := 0
  ranks : List (BitVec 16) := []
  tokens : Tbl (List (BitVec 16 × Word)) := []
  sent : Bool := false
  deriving DecidableEq, Repr

/-- Where a collective request stands on this device. -/
inductive CollPhase where
  | queued | taken | matched
  deriving DecidableEq, Repr

/-- A collective request (R82 to R92). `task` is the submitting task; `rcd` the launch record of a kind-2
request. `early` and `got` are chunks that arrived: rank, stage, offset and bytes. `finished` are the units of the
result that are done, `bad` the ranks whose kind-6 counts differ (R85), `routes` the port to each device (R88). -/
structure Coll where
  engine : Fin 2
  words : List Word
  asid : BitVec 16
  tenant : Nat
  task : Option Nat
  rcd : Option Nat
  phase : CollPhase := .queued
  early : List (Nat × Nat × Nat × List Byte) := []
  got : List (Nat × Nat × Nat × List Byte) := []
  finished : List Nat := []
  bad : List Nat := []
  routes : List (Nat × Nat) := []
  written : Nat := 0
  /-- the own kind-6 count table, read at the match (R86) -/
  table : List Byte := []
  /-- the other ranks are told that this one is done, and those that have said so (R90) -/
  told : Bool := false
  doneRanks : List Nat := []
  /-- the cycle in which it entered the queue (R55) -/
  since : Nat := 0
  ending : Option (BitVec 8 × Word) := none
  deriving DecidableEq, Repr

/-- A link degrade event delivered to the collective engines (R23, R89): the port, its partner, whether the port has
Failed. -/
structure LinkNote where
  port : Nat
  peer : BitVec 16
  failed : Bool
  deriving DecidableEq, Repr

/-- What has reached a posted buffer of a task that is switched out and waits in the early-arrival store (R404): the
operation, its chunk and its bytes. -/
structure Kept where
  op : Nat
  k : Nat
  data : List Byte
  deriving DecidableEq, Repr

/-- A request of a thread set, an engine or a transfer that waits at arbiters (R55): who makes it, its core, its place in the order
of issue, the cycle in which it arrived, the arbiters, and whether it is marked as having waited 1,024 cycles. -/
structure Ask where
  who : Nat × Nat
  core : Nat
  id : Nat
  cyc : Nat
  at_ : List (Nat × Nat)
  aged : Bool := false
  deriving DecidableEq, Repr

/-- What is under way between cores and devices, and the regions, slots and communicators it concerns. -/
structure Fabric where
  nextId : Nat := 0
  fly : List Fly := []
  /-- what is held for tasks that are switched out, by task, with domain-relative cores (R78) -/
  parked : List (Nat × Fly) := []
  flits : List XFlit := []
  caps : List CapRegion := []
  slices : List SliceRegion := []
  posts : Tbl PostSlot := []
  comms : Tbl Comm := []
  colls : List Coll := []
  notes : List LinkNote := []
  kept : List Kept := []
  /-- arrivals that found no room in the early-arrival store, by channel and size: they wait there (R91) -/
  stuck : List (Fin 8 × Nat) := []
  asks : List Ask := []
  deriving DecidableEq, Repr

/-! ## The machine -/

/-- The instruction at issue: the thread, its address, the address after it and its words (R267); for a gang's follower, where
the leader goes (R180). -/
structure Ctx where
  core : Nat
  ts : Fin 4
  addr : BitVec 16
  next : BitVec 16
  words : List Half
  lead : Option (BitVec 16) := none
  deriving DecidableEq, Repr

/-- The whole device. `agenda` is what the environment does next, `runq` the thread sets in the order of
their turns, `fetch` the instruction at issue, `pops` the stream elements it has popped, `touched` the arbiters that
the accesses of this step have passed, `pace` the cycles each step takes, `turn` the count of steps that tells whether threads
(even) or what is under way (odd) come first, `fresh` the counter of free values: these are the model's own fields (assumption log 2). -/
structure State where
  agenda : List Instr
  runq : List (Nat × Fin 4)
  fetch : Option Ctx
  pops : List (Bool × Nat × VWord)
  touched : List (Nat × Nat)
  pace : Nat
  turn : Nat
  fresh : Nat
  out : List OutMsg
  cycle : Nat
  boot : Boot
  ports : Tbl LinkPort
  cores : Tbl Core
  mem : Mem
  xl : Xlat
  fab : Fabric
  sched : Sched
  bud : Budgets
  deriving DecidableEq, Repr

/-- The machine right after reset: the boot ROM has not run (R25); every register at the value the spec gives, or
zero where it gives none (assumption log 3). -/
def State.reset : State where
  agenda := []
  runq := []
  fetch := none
  pops := []
  touched := []
  pace := 1
  turn := 0
  fresh := 0
  out := []
  cycle := 0
  boot := { minVersion := Config.minSecurityVersion }
  ports := []
  cores := []
  mem := {}
  xl := {}
  fab := {}
  sched := {}
  bud := {}

end Sys2Proof.Machine
end

