-- ==== Sys2Proof/Machine/Links.lean ====
section
/-!
DEFINITION. The Hjelril ports: registers, training, flits, credits and link degrade events (R13 to R23).
-/
namespace Sys2Proof.Machine
open Sys2Proof

/-- The outcome of a step of the machine. -/
abbrev Res := Host.Outcome State Fault Refusal

/-- A field of the `i`-th word of a record. -/
def recField (ws : List Word) (i hi lo : Nat) : Nat := fieldOf (ws.getD i 0).toNat hi lo

/-- A port (R13). -/
def State.port (s : State) (p : Nat) : LinkPort := tblGet s.ports p {}

/-- The state with a port. -/
def State.setPort (s : State) (p : Nat) (v : LinkPort) : State := { s with ports := tblSet s.ports p v }

/-- The device sends a message to the outside. -/
def State.send (s : State) (m : OutMsg) : State := { s with out := s.out ++ [m] }

/-- `require_ident`, `deep_fec`, `allow_512`, `enable` and the attempts of `HLPCTL` (R19). -/
def LinkPort.enabled (l : LinkPort) : Bool := l.ctl.getLsbD 0
def LinkPort.allow512 (l : LinkPort) : Bool := l.ctl.getLsbD 1
def LinkPort.deepFec (l : LinkPort) : Bool := l.ctl.getLsbD 2
def LinkPort.requireIdent (l : LinkPort) : Bool := l.ctl.getLsbD 3
def LinkPort.attempts (l : LinkPort) : Nat := max 1 (fieldOf l.ctl.toNat 7 4)

/-- The port carries traffic: Up, or Retrain (R20). -/
def LinkPort.inService (l : LinkPort) : Bool :=
  match l.state with
  | .up | .retrainEqualise | .retrainAgree | .retrainIdentify => true
  | _ => false

/-- The 4-bit code of a port's state (R20). -/
def PortState.code : PortState → Nat
  | .disabled => 0 | .detect => 1 | .equalise => 2 | .pair => 3 | .deskew => 4 | .agree => 5 | .identify => 6
  | .up => 7 | .retrainEqualise | .retrainAgree | .retrainIdentify => 8 | .failed => 9

/-- `HLPSTAT` (R20). -/
def LinkPort.stat (l : LinkPort) : BitVec 32 :=
  let b (x : Bool) := boolNat (x && l.inService)
  BitVec.ofNat 32 (l.state.code * 2 ^ 28 + l.failCode.toNat * 2 ^ 20 + b l.identOk * 2 ^ 19 + b l.fecDeep * 2 ^ 18 +
    b l.rate512 * 2 ^ 17 + b l.width2 * 2 ^ 16 + (if l.inService then l.peer.toNat else 0xFFFF))

/-- A record of the event log (R23). -/
def logRecord (cycle : Nat) (peer : BitVec 16) (port kind : Nat) (fail : BitVec 8) (rate width : Bool)
    (resends : BitVec 32) : BitVec 128 :=
  BitVec.ofNat 128 (cycle % 2 ^ 48 * 2 ^ 80 + peer.toNat * 2 ^ 64 + port % 256 * 2 ^ 56 + kind % 256 * 2 ^ 48 +
    fail.toNat * 2 ^ 40 + boolNat rate * 2 ^ 33 + boolNat width * 2 ^ 32 + resends.toNat)

/-- A record appended to the log (R23). -/
def Boot.append (b : Boot) (r : BitVec 128) : Boot :=
  let full := b.log.length == 256
  { b with log := tblSet b.log (b.logCnt.toNat % 256) r, logCnt := b.logCnt + 1,
           logOvf := if full then b.logOvf + 1 else b.logOvf }

/-- Flits resent in the present window: what a record says (assumption log 96). -/
def LinkPort.resends (l : LinkPort) : BitVec 32 := BitVec.ofNat 32 l.resentWin

/-- A link degrade event of a port (R22, R23): its record in the log, and with the collective engines. The rate and width are those
of the last agreement, also while the port stands in Detect or Failed (assumption log 101). -/
def State.linkEvent (s : State) (p : Nat) (peer : BitVec 16) (kind : Nat) (fail : BitVec 8) : State :=
  let l := s.port p
  { s with
    boot := s.boot.append (logRecord s.cycle peer p kind fail l.rate512 l.width2 l.resends)
    fab := { s.fab with notes := s.fab.notes ++ [⟨p, peer, l.state == .failed⟩] } }

/-! ## Pending collectives (R83, R92) -/

/-- The sequence number and communicator of a request. -/
def clSeq (ws : List Word) : BitVec 32 := BitVec.ofNat 32 (recField ws 0 63 32)
def clComm (ws : List Word) : Nat := recField ws 0 31 20

/-- A pending request of a communicator and sequence number. -/
def State.coll (s : State) (c : Nat) (seq : BitVec 32) : Option Coll :=
  s.fab.colls.find? fun q => clComm q.words == c && clSeq q.words == seq

/-- A request goes on; one whose task is switched out, or being switched out, is held (R92). -/
def State.collRuns (s : State) (q : Coll) : Bool :=
  match q.task with
  | none => true
  | some t => !s.sched.saved.any (·.task.id == t) && (match s.sched.switch with | some w => w.task != t | none => true)

/-! ## Messages that wait for a port (R14, R22, R89) -/

/-- Flits of a message: one for what it says and one for every 64 bytes it carries (assumption log 95). -/
def OutMsg.flits : OutMsg → Nat
  | .chunk _ _ _ _ _ bs | .remoteChunk _ _ _ bs => 1 + (bs.length + 63) / 64
  | _ => 1

/-- A port of those given that satisfies a test. -/
def portWhere (t : Tbl LinkPort) (f : LinkPort → Bool) : Option Nat := (t.find? fun (_, l) => f l).map (·.1)

/-- The lowest port that is Up to a device (R88). -/
def State.routeTo (s : State) (dev : BitVec 16) : Option Nat := portWhere s.ports fun l => l.peer == dev && l.state == .up

/-- The port that a message to a device waits for: one that is Up, else one that retrains, else one that trains again
after it was Up to that device (R14, R22). -/
def State.wayTo (s : State) (dev : BitVec 16) : Option Nat :=
  (s.routeTo dev).or ((portWhere s.ports fun l => l.peer == dev && l.inService).or
    (portWhere s.ports fun l => l.down == some dev || l.was == some dev))

/-- A message waits for a port. -/
def State.queueOn (s : State) (p : Nat) (q : Parcel) : State :=
  s.setPort p { s.port p with outq := (s.port p).outq ++ [q] }

/-- A message to a device waits for a port that leads to it; without one it goes nowhere. -/
def State.post (s : State) (dev : BitVec 16) (vc : Fin 8) (m : OutMsg) (moves : Bool := false) : State :=
  match s.wayTo dev with
  | some p => s.queueOn p { vc := vc, flits := m.flits, msg := m, moves := moves }
  | none => s

/-- A chunk of a collective whose task is held stays where it is unless it is being sent (R92). -/
def State.parcelHeld (s : State) (q : Parcel) : Bool :=
  !q.begun &&
  match q.msg with
  | .chunk _ c seq _ _ _ => match s.coll c seq with | some r => !s.collRuns r | none => false
  | _ => false

/-- A message that another port may take when its own has failed: all but a chunk of a `det` request, whose route is fixed
(R88, R89). -/
def Parcel.free (q : Parcel) : Bool := match q.msg with | .chunk _ _ _ _ _ _ => q.moves | _ => true

/-- The messages of a port that have not begun and that `f` names go to another port that is Up to the device, if there
is one (R89). -/
def State.replanPort (s : State) (p : Nat) (peer : BitVec 16) (f : Parcel → Bool) : State :=
  match s.routeTo peer with
  | none => s
  | some r =>
    if r == p then s
    else
      let go (q : Parcel) : Bool := !q.begun && f q
      let l := s.port p
      let s := s.setPort p { l with outq := l.outq.filter fun q => !go q }
      (l.outq.filter go).foldl (fun s q => s.queueOn r q) s

/-! ## Training -/

/-- Training from step 1 with a fresh attempt count (R16). -/
def LinkPort.begin (l : LinkPort) : LinkPort := { l with state := .detect, attempt := 1, identOk := false }

/-- The partner of a port that is Up or in Retrain, or was before its training began. -/
def LinkPort.partner (l : LinkPort) : Option (BitVec 16) := if l.inService then some l.peer else l.was

/-- A write to `HLPCTL` (R19): a restart clears the fail code (R20), a restart or an enable the latched digest (R21). -/
def State.hlpctlWrite (s : State) (p : Nat) (v : BitVec 32) : State :=
  let old := s.port p
  let l := { old with ctl := v.setWidth 8 }
  if !l.enabled then s.setPort p { l with state := .disabled, down := none, was := none }
  else if v.getLsbD 8 then
    let s := s.setPort p { l.begin with failCode := 0, idHash := 0, was := old.partner }
    if old.state == .up then s.linkEvent p old.peer 4 0 else s
  else if old.enabled then s.setPort p l
  else s.setPort p { l.begin with idHash := 0 }

/-- The last attempt fails: Failed (R16). After a link that went down, or a restart of a port that was Up, this ends kind 5:
the flits not acknowledged are discarded, and messages that wait go another way or are discarded (R22). The sequence numbers go
on from where they stood (assumption log 126). -/
def State.portFails (s : State) (p : Nat) (l : LinkPort) : State :=
  let s := s.setPort p { l with state := .failed, down := none, was := none }
  match l.down.or l.was with
  | none => s
  | some peer =>
    let s := s.replanPort p peer Parcel.free
    (s.setPort p { s.port p with retry := [], outq := [] }).linkEvent p peer 5 l.failCode

/-- An attempt ends with a fail code: the next attempt, or Failed (R16). A failed retrain is a link down
event (R22). -/
def State.trainFail (s : State) (p : Nat) (code : BitVec 8) : State :=
  let l := { s.port p with failCode := code }
  match l.state with
  | .retrainEqualise | .retrainAgree | .retrainIdentify => s.setPort p { l.begin with down := some l.peer }
  | .detect | .equalise | .pair | .deskew | .agree | .identify =>
    if l.attempt < l.attempts then s.setPort p { l with state := .detect, attempt := l.attempt + 1 } else s.portFails p l
  | _ => s

/-- Credits on every virtual channel, when a port first comes Up (R14, R16). -/
def State.grantFirst (s : State) (p : Nat) : State :=
  let l := s.port p
  if l.granted then s
  else (List.finRange 8).foldl (fun s vc => s.send (.credit p vc (Config.recvCredits vc))) (s.setPort p { l with granted := true })

/-- Flits sent again, which the window counts (R13, R22). -/
def State.sendAgain (s : State) (p : Nat) (fs : List Flit) : State :=
  let l := s.port p
  fs.foldl (fun s f => s.send (.flit p f)) (s.setPort p { l with resentWin := l.resentWin + fs.length })

/-- The attempt reaches Up: the flits not acknowledged go again, so that training loses none (R14); a link that was down logs
its kind 5 event now (R22, R23). -/
def State.trainUp (s : State) (p : Nat) (l : LinkPort) (peer : BitVec 16) : State :=
  let s := ((s.setPort p { l with state := .up, peer := peer, down := none, was := none }).grantFirst p).sendAgain p l.retry
  match l.down with
  | some before => s.linkEvent p before 5 0
  | none => s

/-- The agreement rule of step 5 (R17); a retraining port offers only 256 Gb/s (R22). -/
def LinkPort.agreeWith (l : LinkPort) (o : Partner) (only256 : Bool) : Option LinkPort :=
  let r512 := l.allow512 && !only256 && o.rate512
  if !(r512 || o.rate256) then none
  else if o.width2 && l.lane0 && l.lane1 then
    some { l with rate512 := r512, width2 := true, fecDeep := l.deepFec || o.deep }
  else if o.width1 && (l.lane0 || l.lane1) then
    some { l with rate512 := r512, width2 := false, fecDeep := l.deepFec || o.deep }
  else none

/-- Entering step 6 (R18, R21): `HLPIDEXP` as it stands applies to this step, and a fresh nonce goes to the partner when
identity is required. -/
def State.enterIdentify (s : State) (p : Nat) (l : LinkPort) (st : PortState) : State :=
  let l := { l with state := st, identOk := false, idStep := l.idExp, idDev := none }
  if l.requireIdent then
    let n := Config.nonce s.fresh
    ({ s with fresh := s.fresh + 1 }.setPort p { l with nonce := n }).send (.challenge p n)
  else s.setPort p l

/-- The device numbers of step 6 end the attempt (R15, R18). -/
def State.badNumbers (s : State) (dev : BitVec 16) : Bool :=
  dev == 0xFFFF || s.boot.devnum == 0xFFFF || dev == s.boot.devnum

/-- The end of step 6: device numbers, then the identity when required (R15, R18). -/
def State.finishIdentify (s : State) (p : Nat) (l : LinkPort) (o : Partner) : State :=
  if s.badNumbers o.devnum then s.trainFail p 0x06
  else if l.requireIdent && !l.identOk then s.trainFail p 0x08
  else if l.requireIdent && l.idDev != some o.devnum then s.trainFail p 0x07
  else s.trainUp p l o.devnum

/-- A training step is done (R16, R17, R18). -/
def State.trainStep (s : State) (p : Nat) (o : Partner) : State :=
  let l := s.port p
  match l.state with
  | .detect =>
    if o.lane0 || o.lane1 then s.setPort p { l with state := .equalise, lane0 := o.lane0, lane1 := o.lane1 }
    else s.trainFail p 0x01
  | .equalise => s.setPort p { l with state := .pair }
  | .pair =>
    let l := { l with lane0 := l.lane0 && o.lane0, lane1 := l.lane1 && o.lane1 }
    if l.lane0 || l.lane1 then s.setPort p { l with state := .deskew } else s.trainFail p 0x03
  | .deskew =>
    let l := { l with lane0 := l.lane0 && o.lane0, lane1 := l.lane1 && o.lane1 }
    if l.lane0 || l.lane1 then s.setPort p { l with state := .agree } else s.trainFail p 0x04
  | .agree =>
    match l.agreeWith o false with
    | some l => s.enterIdentify p l .identify
    | none => s.trainFail p 0x05
  | .identify => s.finishIdentify p l o
  | .retrainEqualise => s.setPort p { l with state := .retrainAgree }
  | .retrainAgree =>
    match l.agreeWith o true with
    | some l => s.enterIdentify p l .retrainIdentify
    | none => s.trainFail p 0x05
  | .retrainIdentify => s.finishIdentify p l o
  | _ => s

/-- Bytes `n` to `n + k − 1` of a message. -/
def slice (bs : List Byte) (n k : Nat) : List Byte := (bs.drop n).take k

/-- SM3's output as a register value: its first byte is byte 0 (R21, R31). -/
def digestValue (d : BitVec 256) : BitVec 256 := BitVec.ofNat 256 (leNat (beBytes 32 d.toNat))

/-- The checks of step 3 of R18 on a partner's report: the digest of its key where they pass. -/
def checkReport (l : LinkPort) (devnum : BitVec 16) (r : List Byte) : Option (BitVec 256) :=
  let key := slice r 0x140 64
  if r.length == 0x1C0 && leNat (slice r 0 4) == 0x41545347 && leNat (slice r 4 2) == 1 &&
      Config.sm2Verify (BitVec.ofNat 512 (beNat key)) (slice r 0 0x180) (BitVec.ofNat 512 (beNat (slice r 0x180 64))) &&
      BitVec.ofNat 256 (leNat (slice r 0x20 32)) == l.nonce && leNat (slice r 0x1E 2) == devnum.toNat then
    some (digestValue (sm3 key))
  else none

/-- A partner's report arrives at step 6 (R18): first the device numbers, then step 3; the digest is latched, and compared
with the expected one unless that is zero. -/
def State.identityReport (s : State) (p : Nat) (devnum : BitVec 16) (r : List Byte) : State :=
  let l := s.port p
  if !l.requireIdent then s
  else
    match l.state with
    | .identify | .retrainIdentify =>
      if s.badNumbers devnum then s.trainFail p 0x06
      else
        match checkReport l devnum r with
        | none => s.trainFail p 0x07
        | some d =>
          let ok := l.idStep == 0 || d == l.idStep
          let s := s.setPort p { l with identOk := ok, idHash := d, idDev := some devnum }
          if ok then s else s.trainFail p 0x07
    | _ => s

/-- The fail code of a step that reaches its limit or fails (R16): fixed by the step up to step 5. In step 6 it is 0x08
where a report is required and none has come, unless the step named the device numbers, else 0x06; a report that fails ends the
attempt by itself (R18). -/
def State.stepCode (s : State) (l : LinkPort) (named : BitVec 8) : BitVec 8 :=
  match l.state with
  | .detect => 0x01
  | .equalise | .retrainEqualise => 0x02
  | .pair => 0x03
  | .deskew => 0x04
  | .agree | .retrainAgree => 0x05
  | _ =>
    if s.boot.devnum == 0xFFFF || !l.requireIdent || l.identOk || named == 0x06 then 0x06 else 0x08

/-- A credit for a flit that has been delivered goes back, or is kept back (R14, R91). -/
def State.giveBack (s : State) (p : Nat) (vc : Fin 8) (keep : Bool) : State :=
  if keep then
    let l := s.port p
    s.setPort p { l with withheld := l.withheld.set vc (l.withheld[vc] + 1) }
  else s.send (.credit p vc 1)

/-- A flit arrives (R13): delivered once and in order, acknowledged, and its credit given back or, when `keep`, kept; an
uncorrectable one, and one that comes ahead of a flit not yet delivered, is reported, so that the sender sends again from there
(R14). A duplicate is not acknowledged again, and a flit that comes while the port is not Up is dropped (assumption log 97). -/
def State.flitArrives (s : State) (p : Nat) (f : Flit) (good keep : Bool) : State :=
  let l := s.port p
  if l.state != .up then s
  else if !good then s.send (.nak p l.recvSeq)
  else if f.seq == l.recvSeq then
    ((s.setPort p { l with recvSeq := l.recvSeq + 1, delivered := l.delivered ++ [f] }).send (.ack p f.seq)).giveBack p f.vc keep
  else if (f.seq - l.recvSeq).toNat < 2048 then s.send (.nak p l.recvSeq)
  else s

/-- The flits of the retry buffer after an acknowledged one (R13): it acknowledges those before it too (assumption log 97). -/
def afterAck (seq : BitVec 12) (l : List Flit) : List Flit :=
  if l.any (·.seq == seq) then (l.dropWhile (·.seq != seq)).drop 1 else l

/-- The windows of 2^24 flits in which resends count (R22). -/
def LinkPort.countSent (l : LinkPort) : LinkPort :=
  if l.sentWin + 1 < 2 ^ 24 then { l with sentWin := l.sentWin + 1 }
  else { l with sentWin := 0, resentWin := 0, threshold := false }

/-- A port may send a flit on a virtual channel: it is Up, holds a credit and has room in its retry buffer (R13, R14). -/
def LinkPort.maySend (l : LinkPort) (vc : Fin 8) : Bool := l.state == .up && l.credits[vc] != 0 && l.retry.length < 512

/-- The device sends a flit on a virtual channel (R13, R14). -/
def State.transmit (s : State) (p : Nat) (vc : Fin 8) (data : VWord) : State :=
  let l := s.port p
  if l.maySend vc then
    let f : Flit := { seq := l.sendSeq, vc := vc, data := data }
    (s.setPort p { l.countSent with sendSeq := l.sendSeq + 1, retry := l.retry ++ [f],
                                    credits := l.credits.set vc (l.credits[vc] - 1) }).send (.flit p f)
  else s

/-- Flits of one message sent while the port may: what is left of it. -/
def State.sendParcel (p : Nat) : Nat → Parcel → State → Parcel × State
  | 0, q, s => (q, s)
  | n + 1, q, s =>
    if q.flits != 0 && (s.port p).maySend q.vc then
      let s := { s with fresh := s.fresh + 1 }.transmit p q.vc (Config.flitData s.fresh)
      State.sendParcel p n { q with flits := q.flits - 1, begun := true } s
    else (q, s)

/-- The messages of a port in order, each behind the earlier ones of its virtual channel only (R14), those of
held collectives not at all (R92): those left. -/
def State.sendQueue (p : Nat) : List Parcel → List (Fin 8) → State → List Parcel × State
  | [], _, s => ([], s)
  | q :: r, held, s =>
    if held.contains q.vc || s.parcelHeld q then
      let (l, s) := State.sendQueue p r held s
      (q :: l, s)
    else
      let (q, s) := State.sendParcel p q.flits q s
      if q.flits == 0 then State.sendQueue p r held (s.send q.msg)
      else
        let (l, s) := State.sendQueue p r (q.vc :: held) s
        (q :: l, s)

/-- A port sends what its credits allow. -/
def State.pumpPort (s : State) (p : Nat) : State :=
  let l := s.port p
  if l.state != .up || l.outq.isEmpty then s
  else
    let (q, s) := State.sendQueue p l.outq [] s
    s.setPort p { s.port p with outq := q }

/-- Every port sends what its credits allow (R14). -/
def State.pump (s : State) : State := s.ports.foldl (fun s (p, _) => s.pumpPort p) s

/-- The credits kept back on a virtual channel go out again (R91). -/
def State.releaseChannel (s : State) (vc : Fin 8) : State :=
  s.ports.foldl (fun s (p, l) =>
    if l.withheld[vc] == 0 then s
    else (s.setPort p { l with withheld := l.withheld.set vc 0 }).send (.credit p vc l.withheld[vc])) s

/-- The credits of every channel that is not held any more go out again (R91). -/
def State.releaseCredits (s : State) (held : Fin 8 → Bool) : State :=
  (List.finRange 8).foldl (fun s vc => if held vc then s else s.releaseChannel vc) s

/-- The sender sends again from a flit onward (R13). -/
def State.resend (s : State) (p : Nat) (seq : BitVec 12) : State :=
  let l := s.port p
  if l.state != .up then s else s.sendAgain p (l.retry.dropWhile (·.seq != seq))

/-- More flits than `err_limit` allows have been resent in the window, and the port has not said so (R22). -/
def LinkPort.overThreshold (l : LinkPort) : Bool :=
  l.state == .up && !l.threshold && decide (l.errLimit.toNat < l.resentWin)

/-! The steps. -/

/-- PORT_ENABLE: `HLPCTL` is written with `enable` 1 (R19). -/
def execPortEnable (p : Fin 128) (v : BitVec 32) (s : State) : Res := .next (s.hlpctlWrite p.val (v ||| 1))

/-- PORT_DISABLE: `HLPCTL` is written with `enable` 0 (R19). -/
def execPortDisable (p : Fin 128) (v : BitVec 32) (s : State) : Res := .next (s.hlpctlWrite p.val (v &&& ~~~1))

/-- PORT_RESTART: `HLPCTL` is written with `restart` 1 (R19). -/
def execPortRestart (p : Fin 128) (v : BitVec 32) (s : State) : Res := .next (s.hlpctlWrite p.val (v ||| 0x100))

/-- TRAINING_STEP_COMPLETE (R16). -/
def execTrainingStepComplete (p : Fin 128) (o : Partner) (s : State) : Res := .next (s.trainStep p.val o)

/-- TRAINING_STEP_TIMEOUT (R16). -/
def execTrainingStepTimeout (p : Fin 128) (code : BitVec 8) (s : State) : Res :=
  .next (s.trainFail p.val (s.stepCode (s.port p.val) code))

/-- IDENTITY_REPORT_RECEIVE (R18). -/
def execIdentityReportReceive (p : Fin 128) (devnum : BitVec 16) (report : List Byte) (s : State) : Res :=
  .next (s.identityReport p.val devnum report)

/-- Bytes in the early-arrival store: `EASTAT` (R91, R404). -/
def State.earlyBytes (s : State) : Nat :=
  sumNat (s.fab.colls.map fun q => sumNat (q.early.map fun (_, _, _, bs) => bs.length)) +
  sumNat (s.fab.kept.map fun k => k.data.length)

/-- The early-arrival store is full. -/
def State.earlyFull (s : State) : Bool := decide (2 ^ 28 ≤ s.earlyBytes)

/-- The early-arrival store has room for some bytes more. -/
def State.roomFor (s : State) (n : Nat) : Bool := decide (s.earlyBytes + n ≤ 2 ^ 28)

/-- An arrival of a channel waits for room in the early-arrival store, and with it everything behind it on the channel (R91). -/
def State.channelFull (s : State) (vc : Fin 8) : Bool := s.fab.stuck.any fun (v, n) => v == vc && !s.roomFor n

/-- An arrival finds no room in the early-arrival store and waits on its channel (R91). -/
def State.stick (s : State) (vc : Fin 8) (n : Nat) : State :=
  if s.fab.stuck.contains (vc, n) then s else { s with fab := { s.fab with stuck := s.fab.stuck ++ [(vc, n)] } }

/-- Arrivals that find room now wait no more. -/
def State.unstick (s : State) : State :=
  if s.fab.stuck.isEmpty then s
  else { s with fab := { s.fab with stuck := s.fab.stuck.filter fun (_, n) => !s.roomFor n } }

/-- FLIT_ACK_RECEIVE (R13). -/
def execFlitAckReceive (p : Fin 128) (seq : BitVec 12) (s : State) : Res :=
  .next (s.setPort p.val { s.port p.val with retry := afterAck seq (s.port p.val).retry })

/-- FLIT_RESEND (R13). -/
def execFlitResend (p : Fin 128) (seq : BitVec 12) (s : State) : Res := .next (s.resend p.val seq)

/-- CREDIT_GRANT (R14). -/
def execCreditGrant (p : Fin 128) (vc : Fin 8) (n : Nat) (s : State) : Res :=
  let l := s.port p.val
  .next (s.setPort p.val { l with credits := l.credits.set vc (l.credits[vc] + n) })

/-- LANE_LOSS: width 1 without retraining, and the flits not acknowledged again (R22). Both lanes stay marked as passed, so a later
Retrain may agree on width 2 again (assumption log 126). -/
def execLaneLoss (p : Fin 128) (s : State) : Res :=
  let l := s.port p.val
  if l.state == .up && l.width2 then
    let s := (s.setPort p.val { l with width2 := false }).sendAgain p.val l.retry
    .next (s.linkEvent p.val l.peer 1 0)
  else .next s

/-- RATE_FALLBACK: Retrain offering only 256 Gb/s (R22). -/
def execRateFallback (p : Fin 128) (s : State) : Res :=
  let l := s.port p.val
  if l.state == .up && l.rate512 then
    let s := s.setPort p.val { l with state := .retrainEqualise, rate512 := false }
    .next (s.linkEvent p.val l.peer 2 0)
  else .next s

/-- ERROR_THRESHOLD (R22): the window's count, which the event names, is over `err_limit`; once in a window. -/
def execErrorThreshold (p : Fin 128) (resends : BitVec 32) (s : State) : Res :=
  let l := s.port p.val
  if l.overThreshold && resends == l.resends then .next ((s.setPort p.val { l with threshold := true }).linkEvent p.val l.peer 3 0) else .next s

/-- LINK_DOWN: training from step 1; the event is logged when training ends (R22, R23). -/
def execLinkDown (p : Fin 128) (s : State) : Res :=
  let l := s.port p.val
  if l.inService then .next (s.setPort p.val { l.begin with down := some l.peer }) else .next s

end Sys2Proof.Machine
end

