-- ==== Sys2Proof/Machine/Boot.lean ====
section
/-!
DEFINITION. Boot, measurement, attestation, monitors and power (R24 to R31).
-/
namespace Sys2Proof.Machine
open Sys2Proof

/-- Bytes of a 256-bit value, byte j at offset j (R31). -/
def bytes256 (v : BitVec 256) : List Byte := leBytes 32 v.toNat

/-- Extending a measurement register (R26). -/
def Boot.extend (b : Boot) (m : Fin 8) (d : BitVec 256) : Boot :=
  { b with meas := b.meas.set m (digestValue (sm3 (bytes256 b.meas[m] ++ bytes256 d))) }

/-- The list of image sources by the fused field (R25): `true` is the host link. -/
def bootSources : BitVec 2 → List Bool
  | 0 => [false, true]
  | 1 => [true]
  | 2 => [false]
  | _ => [true, false]

/-- The header's stage entries: offset and length. -/
def stageTable (img : List Byte) (n : Nat) : List (Nat × Nat) :=
  (List.range n).map fun i => (leNat (slice img (0x90 + 16 * i) 8), leNat (slice img (0x98 + 16 * i) 4))

/-- The check of step 4 that an image fails first, or 0 (R24, R25, R34). -/
def imageCheck (b : Boot) (img : List Byte) : Nat :=
  let key := slice img 0x10 64
  let n := leNat (slice img 0xC 4)
  let stages := stageTable img n
  let bounds := 0x110 ≤ img.length && stages.all (fun (o, l) => o + l ≤ img.length) &&
    (slice img (0x90 + 16 * n) (16 * (8 - n))).all (· == 0)
  let header := slice img 0 0x50 ++ List.replicate 64 0 ++ slice img 0x90 128
  let bodies := (stages.map fun (o, l) => slice img o l).flatten
  if sm3 key != Config.rootKeyHash then 1
  else if !(leNat (slice img 0 4) == 0x4E475954 && leNat (slice img 4 4) == 1 && 1 ≤ n && n ≤ 8 && bounds) then 2
  else if leNat (slice img 8 4) < b.minVersion.toNat then 3
  else if !Config.sm2Verify (BitVec.ofNat 512 (beNat key)) (beBytes 32 (sm3 (header ++ bodies)).toNat)
      (BitVec.ofNat 512 (beNat (slice img 0x50 64))) then 4
  else 0

/-- An attempt ends without an image: the next attempt, source, or none (R25). -/
def Boot.nextAttempt (b : Boot) : Boot :=
  match b.phase with
  | .fetching i n =>
    if n + 1 < 16 then { b with phase := .fetching i (n + 1) }
    else if i + 1 < (bootSources Config.bootSource).length then { b with phase := .fetching (i + 1) 0 }
    else { b with phase := .dead }
  | _ => b

/-- The source being tried, when the ROM fetches: `true` for the host link. -/
def Boot.source (b : Boot) : Option Bool :=
  match b.phase with
  | .fetching i _ => (bootSources Config.bootSource)[i]?
  | _ => none

/-- A fetched image is verified, measured and started, or discarded (R25). Stage 0's own extension of `MEAS3`, in step 6, is
taken with its start (assumption log 98). -/
def Boot.receive (b : Boot) (host : Bool) (img : List Byte) : Boot :=
  let c := imageCheck b img
  let b := { b with bootGo := if host then false else b.bootGo }
  if c != 0 then { b.nextAttempt with bootStat := c }
  else
    let n := leNat (slice img 0xC 4)
    let b := b.extend 1 (digestValue (sm3 (slice img 0 0x110)))
    let b := (stageTable img n).foldl (fun b (o, l) => b.extend 2 (digestValue (sm3 (slice img o l)))) b
    { b.extend 3 Config.trainingDigest with phase := .stage0, hostSource := host }

/-- The load addresses of an image's stages (R24). -/
def stageAddrs (img : List Byte) (n : Nat) : List Nat := (List.range n).map fun i => leNat (slice img (0x9C + 16 * i) 4)

/-- The stages' bodies put into control-core memory (R25, step 5). -/
def loadStages (m : Memory) (img : List Byte) : Memory :=
  let n := leNat (slice img 0xC 4)
  ((stageTable img n).zip (stageAddrs img n)).foldl (fun m ((o, l), a) => writeSpan m a (slice img o l)) m

/-- An image reaches the ROM: its stages are loaded when it is accepted. -/
def State.bootFrom (s : State) (host : Bool) (img : List Byte) : State :=
  let s := if imageCheck s.boot img == 0 then { s with mem := { s.mem with control := loadStages s.mem.control img } } else s
  { s with boot := s.boot.receive host img }

/-- The attestation report (R27). Its image source reads 0 until an image has been accepted (assumption log 99). -/
def Boot.report (b : Boot) (fresh : Nat) (nonce : BitVec 256) : List Byte :=
  let body := leBytes 4 0x41545347 ++ leBytes 2 1 ++ leBytes 2 (boolNat b.maintenance) ++ leBytes 16 Config.serial.toNat ++
    leBytes 4 b.minVersion.toNat ++ leBytes 2 (boolNat b.hostSource) ++ leBytes 2 b.devnum.toNat ++ bytes256 nonce ++
    (b.meas.toList.map bytes256).flatten ++ beBytes 64 Config.identityKey.toNat
  body ++ beBytes 64 (Config.sm2Sign fresh body).toNat

/-- Steps 1 to 3 of R25. -/
def Boot.start (b : Boot) : Boot :=
  { b with meas := Vector.replicate 8 0, maintenance := true, phase := .fetching 0 0 }.extend 0 Config.romDigest

/-- What a power-on reset leaves: the state of reset, with the fused minimum security version, what the outside has seen and will
do, and the count of the values drawn (R26, R18). -/
def State.powerCycle (s : State) : State :=
  { State.reset with agenda := s.agenda, out := s.out, fresh := s.fresh, pace := s.pace, turn := s.turn,
                     boot := { State.reset.boot with minVersion := s.boot.minVersion } }

/-- POWER_ON_RESET (R25, steps 1 to 3). -/
def execPowerOnReset (s : State) : Res :=
  let s := if s.boot.phase == .off then s else s.powerCycle
  .next { s with boot := s.boot.start }

/-- MEASUREMENT_EXTEND: firmware extends `MEAS4` to `MEAS7` (R26), and no more after a thermal stop (assumption log 80). -/
def execMeasurementExtend (m : Fin 8) (d : BitVec 256) (s : State) : Res :=
  if s.boot.phase == .stage0 && 4 ≤ m.val then .next { s with boot := s.boot.extend m d } else .next s

/-- SECURITY_VERSION_RAISE: it rises and never falls (R26), and no more after a thermal stop (assumption log 80). -/
def execSecurityVersionRaise (v : BitVec 32) (s : State) : Res :=
  if s.boot.phase == .stage0 && s.boot.minVersion.toNat < v.toNat then
    .next { s with boot := { s.boot with minVersion := v } }
  else .next s

/-- ATTESTATION_REQUEST (R27). -/
def execAttestationRequest (nonce : BitVec 256) (s : State) : Res :=
  .next ({ s with fresh := s.fresh + 1 }.send (.report (s.boot.report s.fresh nonce)))

/-- IDENTITY_CHALLENGE: the port answers with a report over the partner's nonce (R18). -/
def execIdentityChallenge (p : Fin 128) (nonce : BitVec 256) (s : State) : Res :=
  .next ({ s with fresh := s.fresh + 1 }.send (.identity p.val (s.boot.report s.fresh nonce)))

/-- DEVNUM_WRITE: taken only while every port's `enable` is 0 (R31). -/
def execDevnumWrite (v : BitVec 16) (s : State) : Res :=
  if s.ports.all (fun (_, l) => !l.enabled) then .next { s with boot := { s.boot with devnum := v } } else .next s

/-- POWERLIM_WRITE: clamped to 1,200 to 2,400 W (R30). -/
def execPowerlimWrite (v : BitVec 16) (s : State) : Res :=
  .next { s with boot := { s.boot with powerLim := BitVec.ofNat 16 (max 1200 (min 2400 v.toNat)) } }

/-- DROOP_HOLD_END: issue resumes in the super-group (R29). -/
def execDroopHoldEnd (sg : Fin 64) (s : State) : Res :=
  .next { s with boot := { s.boot with droopHeld := s.boot.droopHeld.filter (· != sg.val) } }

/-- The droop threshold of a super-group (R31). -/
def Boot.threshold (b : Boot) (g : Nat) : BitVec 16 := tblGet b.droopThr g (Config.droopThreshold g)

/-- Values by position as a table. -/
def tblOf {α : Type} (l : List α) : Tbl α := l.zipIdx.map fun (v, i) => (i, v)

/-- New readings of the droop monitors: the responses of R29. -/
def Boot.droops (b : Boot) (l : List (BitVec 16)) : Boot :=
  (tblOf (l.take 64)).foldl (fun b (g, v) =>
    if v.toNat < (b.threshold g).toNat then
      { b with droopCount := tblSet b.droopCount g (tblGet b.droopCount g 0 + 1),
               droopHeld := b.droopHeld.filter (· != g) ++ [g] }
    else b) { b with droopMin := tblOf (l.take 64) }

/-- The lowest sensor above a temperature, with its reading. -/
def hottest (l : List (BitVec 16)) (limit : Int) : Option (Nat × BitVec 16) :=
  ((tblOf l).find? fun (_, v) => decide (limit < v.toInt))

end Sys2Proof.Machine
end

