-- ==== Sys2Proof/Machine/Translate.lean ====
section
/-!
DEFINITION. Physical memory and translation (R104 to R108), and accesses under an ASID that no core makes.
-/
namespace Sys2Proof.Machine
open Sys2Proof

/-- The end of LPDDR (R107). -/
def lpddrEnd : Nat := 0x18000000000

/-- A physical address lies in a populated range (R107). -/
def physOk (pa : Nat) : Bool :=
  pa < lpddrEnd || (0x200000000000 ≤ pa && pa < 0x400000000000 && Config.expanderPopulated pa) ||
  (0x8000000000000 ≤ pa && pa < 0x10000000000000)

/-- Page tables lie in LPDDR or expander memory (R107). -/
def tableOk (pa : Nat) : Bool := physOk pa && pa < 0x8000000000000

/-- The DRAM cell of an address, named by its address in the interleaved view: the die-local view of a pinned
page names the same cells otherwise (R108). -/
def dramCell (pa : Nat) (pin : Bool) : Nat :=
  if pin && pa < lpddrEnd then
    let d := pa / 0x6000000000
    let u := pa % 0x6000000000 / 4096
    (u / 48 * 192 + 48 * d + u % 48) * 4096 + pa % 4096
  else pa

/-- The physical address that names a cell in a view (R108). -/
def cellAddr (c : Nat) (pin : Bool) : Nat :=
  if pin && c < lpddrEnd then
    let v := c / 4096
    (v % 192 / 48) * 0x6000000000 + (v / 192 * 48 + v % 48) * 4096 + c % 4096
  else c

/-- A bit of a page-table entry. -/
def pteBit (e : Nat) (n : Nat) : Bool := e.testBit n

/-- A leaf found by a walk. -/
structure Leaf where
  log : Nat
  pa : Nat
  w : Bool
  pin : Bool
  deriving DecidableEq, Repr

/-- One level of a walk (R105): levels below `n` remain after this one. The result is a leaf or the cause. -/
def walkFrom (m : Memory) (va : Nat) : Nat → Nat → Except (BitVec 8) Leaf
  | 0, _ => .error 0x66
  | n + 1, node =>
    let lvl := n
    let at_ := node + va / 2 ^ (16 + 10 * lvl) % 1024 * 8
    if !tableOk at_ then .error 0x66
    else
      let e := readLE m at_ 8
      let pa := e / 2 ^ 13 % 2 ^ 39 * 2 ^ 13
      let leaf := pteBit e 1
      let log := 16 + 10 * lvl
      if !pteBit e 0 then .error 0x65
      else if e / 2 ^ 52 != 0 || e / 2 ^ 4 % 2 ^ 9 != 0 then .error 0x66
      else if leaf then
        if lvl == 3 || pa % 2 ^ log != 0 || (pteBit e 3 && lpddrEnd < pa + 2 ^ log) then .error 0x66
        else .ok ⟨log, pa, pteBit e 2, pteBit e 3⟩
      else if lvl == 0 || pteBit e 3 || pteBit e 2 then .error 0x66
      else walkFrom m va n pa

/-- A walk from the ASID table of a value of `XLROOT` (R105, R106). -/
def walk (m : Memory) (root : Word) (asid : BitVec 16) (va : Nat) : Except (BitVec 8) Leaf :=
  if !root.getLsbD 0 then .error 0x65
  else
    let at_ := fieldOf root.toNat 51 19 * 2 ^ 19 + asid.toNat * 8
    if !tableOk at_ then .error 0x66
    else
      let e := readLE m at_ 8
      if !pteBit e 0 then .error 0x65
      else if e / 2 ^ 52 != 0 || e / 2 % 2 ^ 12 != 0 then .error 0x66
      else walkFrom m va 4 (e / 2 ^ 13 % 2 ^ 39 * 2 ^ 13)

/-- The translation home of a virtual address, among the package's 64 stations (R104). -/
def stationOf (va : Nat) : Nat := fieldOf va 21 20 * 16 + fieldOf va 19 16

/-- Whether a cached translation covers an address. -/
def TlbEntry.covers (e : TlbEntry) (asid : BitVec 16) (va : Nat) : Bool :=
  e.asid == asid && va / 2 ^ e.log == e.page / 2 ^ e.log

/-- A translation put in front of its station's cache of 8,192 (R104). -/
def Xlat.touch (x : Xlat) (va : Nat) (e : TlbEntry) : Xlat :=
  let st := stationOf va
  let l := (tblGet x.tlb st []).filter (· != e)
  { x with tlb := tblSet x.tlb st ((e :: l).take 8192) }

/-- The translation of a virtual address, from the cache or by a walk that fills it. -/
def State.translate (s : State) (asid : BitVec 16) (va : Nat) : Except (BitVec 8) (TlbEntry × State) :=
  match (tblGet s.xl.tlb (stationOf va) []).find? (·.covers asid va) with
  | some e => .ok (e, { s with xl := s.xl.touch va e })
  | none =>
    match walk s.mem.phys s.xl.rootE asid va with
    | .error c => .error c
    | .ok l =>
      let e : TlbEntry := ⟨asid, va / 2 ^ l.log * 2 ^ l.log, l.log, l.pa, l.w, l.pin⟩
      .ok (e, { s with xl := s.xl.touch va e })

/-- Checks 5 to 9 of R101 on a global address, and the DRAM cell or physical address it names. -/
def State.globalCell (s : State) (asid : BitVec 16) (a : Word) (write : Bool) : Except (BitVec 8) (Nat × State) :=
  if fieldOf a.toNat 62 56 != 0 then .error 0x64
  else
    let va := a.toNat % 2 ^ 56
    match s.translate asid va with
    | .error c => .error c
    | .ok (e, s) =>
      let pa := e.pa + va % 2 ^ e.log
      if write && !e.w then .error 0x67
      else if !physOk pa then .error 0x6B
      else .ok (dramCell pa e.pin, s)

/-- Bytes left in the 4 KiB unit of an address: consecutive cells go no further (R108). -/
def unitLeft (a : Nat) : Nat := 4096 - a % 4096

/-- What a faulting access leaves: its translation is cached where a later check failed (R104). -/
def State.walked (s : State) (asid : BitVec 16) (a : Word) (cause : BitVec 8) : State :=
  if a.getLsbD 63 && (cause == 0x67 || cause == 0x68 || cause == 0x6B) then
    match s.translate asid (a.toNat % 2 ^ 56) with
    | .ok (_, s) => s
    | .error _ => s
  else s

/-- Bytes of global memory under an ASID, unit by unit; a fault with its address, and the state with the translations that have
been made (R101, R104). -/
def State.globalRead : Nat → State → BitVec 16 → Word → Nat → Except ((BitVec 8 × Word) × State) (List Byte × State)
  | 0, s, _, _, _ => .ok ([], s)
  | fuel + 1, s, asid, a, n =>
    if n == 0 then .ok ([], s)
    else if !a.getLsbD 63 then .error ((0x61, a), s)
    else
      match s.globalCell asid a false with
      | .error c => .error ((c, a), s.walked asid a c)
      | .ok (cell, s) =>
        let k := min n (unitLeft a.toNat)
        let bs := readSpan k cell s.mem.phys
        match State.globalRead fuel s asid (a + BitVec.ofNat 64 k) (n - k) with
        | .error e => .error e
        | .ok (r, s) => .ok (bs ++ r, s)

/-- Bytes of physical memory replaced. -/
def State.writePhys (s : State) (a : Nat) (bs : List Byte) : State :=
  { s with mem := { s.mem with phys := writeSpan s.mem.phys a bs } }

/-- The cells a write of bytes goes to, all checked before any is written. -/
def State.globalTargets : Nat → State → BitVec 16 → Word → List Byte →
    Except ((BitVec 8 × Word) × State) (List (Nat × List Byte) × State)
  | 0, s, _, _, _ => .ok ([], s)
  | fuel + 1, s, asid, a, bs =>
    if bs.isEmpty then .ok ([], s)
    else if !a.getLsbD 63 then .error ((0x61, a), s)
    else
      match s.globalCell asid a true with
      | .error c => .error ((c, a), s.walked asid a c)
      | .ok (cell, s) =>
        let k := min bs.length (unitLeft a.toNat)
        match State.globalTargets fuel s asid (a + BitVec.ofNat 64 k) (bs.drop k) with
        | .error e => .error e
        | .ok (r, s) => .ok ((cell, bs.take k) :: r, s)

/-- Bytes written to global memory under an ASID. -/
def State.globalWrite (s : State) (asid : BitVec 16) (a : Word) (bs : List Byte) :
    Except ((BitVec 8 × Word) × State) State :=
  match State.globalTargets (bs.length / 4096 + 2) s asid a bs with
  | .error e => .error e
  | .ok (l, s) => .ok (l.foldl (fun s (c, b) => s.writePhys c b) s)

/-- Bytes read from global memory under an ASID. -/
def State.globalBytes (s : State) (asid : BitVec 16) (a : Word) (n : Nat) :
    Except ((BitVec 8 × Word) × State) (List Byte × State) := State.globalRead (n / 4096 + 2) s asid a n

/-! Invalidation (R106). -/

/-- An `XLINV` write: accepted unless one is under way, when it is dropped; `what` 3 has no effect. -/
def State.xlinvWrite (s : State) (what : Nat) (va : Nat) (asid : BitVec 16) : State :=
  if what == 3 then s
  else if s.xl.inval.isSome then { s with xl := { s.xl with dropped := true } }
  else { s with xl := { s.xl with inval := some ⟨what, va, asid, s.xl.rootW⟩ } }

/-- Whether an invalidation names a cached translation. -/
def Inval.names (i : Inval) (e : TlbEntry) : Bool :=
  match i.what with
  | 0 => true
  | 1 => e.asid == i.asid
  | _ => e.covers i.asid i.va

/-- The invalidation under way completes; with `what` 0 the value of `XLROOT` written before its acceptance takes
effect (R106). -/
def State.xlinvComplete (s : State) : State :=
  match s.xl.inval with
  | none => s
  | some i =>
    { s with xl := { s.xl with inval := none,
                               rootE := if i.what == 0 then i.root else s.xl.rootE,
                               tlb := s.xl.tlb.map fun (k, l) => (k, l.filter fun e => !i.names e) } }

/-- TRANSLATION_WALK_COMPLETE: a walk fills its station's cache (R104); one that faults fills nothing. -/
def execTranslationWalkComplete (asid : BitVec 16) (va : Word) (s : State) : Res :=
  match s.translate asid (va.toNat % 2 ^ 56) with
  | .ok (_, s) => .next s
  | .error _ => .next s

/-- XLINV_ALL: an `XLINV` write with `what` 0 (R106). -/
def execXlinvAll (s : State) : Res := .next (s.xlinvWrite 0 0 0)

/-- XLINV_ASID: `what` 1. -/
def execXlinvAsid (asid : BitVec 16) (s : State) : Res := .next (s.xlinvWrite 1 0 asid)

/-- XLINV_PAGE: `what` 2; bits [55:16] of the address name the page. -/
def execXlinvPage (asid : BitVec 16) (va : Word) (s : State) : Res :=
  .next (s.xlinvWrite 2 (fieldOf va.toNat 55 16 * 2 ^ 16) asid)

/-- XLINV_NONE: `what` 3 has no effect. -/
def execXlinvNone (s : State) : Res := .next (s.xlinvWrite 3 0 0)

/-- A place lies in the page of a cached translation. -/
def TlbEntry.reaches (e : TlbEntry) (l : Loc) : Bool :=
  match l with
  | .cell c => decide (e.pa ≤ cellAddr c e.pin ∧ cellAddr c e.pin < e.pa + 2 ^ e.log)
  | .sram _ => false

/-- A request translated by an entry is on its way: a store, or an element that a dispatched command is to append (R106). -/
def State.onItsWay (s : State) (e : TlbEntry) : Bool :=
  (s.fab.fly.any fun f => match f.what with | .store l _ _ => e.reaches l | _ => false) ||
  s.cores.any fun (_, c) => (c.vq ++ c.mq).any fun d => d.apps.any fun p => e.reaches p.loc

/-- A request on its way was translated by an entry that the invalidation drops (R106). -/
def State.invalWaits (s : State) (i : Inval) : Bool := s.xl.tlb.any fun (_, l) => l.any fun e => i.names e && s.onItsWay e

/-- The invalidation under way may complete. -/
def State.invalReady (s : State) : Bool := match s.xl.inval with | some i => !s.invalWaits i | none => false

/-- XLINV_COMPLETE (R106): no request translated by a dropped entry remains on its way. -/
def execXlinvComplete (s : State) : Res := if s.invalReady then .next s.xlinvComplete else .next s

/-- XLSTAT_CLEAR: `dropped` is cleared by writing 1 (R106). -/
def execXlstatClear (v : Word) (s : State) : Res :=
  .next { s with xl := { s.xl with dropped := s.xl.dropped && !v.getLsbD 1 } }

end Sys2Proof.Machine
end

