-- ==== Sys2Proof/Machine/Host.lean ====
section
/-!
DEFINITION. The host interface: aperture, boot staging, submission ports, launch records and completion records
(R32 to R45), and the boot steps that read the staging buffer.
-/
namespace Sys2Proof.Machine
open Sys2Proof

/-- Words of a record, little-endian. -/
def wordsOf64 : Nat → List Byte → List Word
  | 0, _ => []
  | n + 1, bs => BitVec.ofNat 64 (leNat (bs.take 8)) :: wordsOf64 n (bs.drop 8)

/-- Fields of the launch record (R43). -/
def lrCrews (ws : List Word) : Nat := recField ws 0 60 48
def lrAsid (ws : List Word) : BitVec 16 := BitVec.ofNat 16 (recField ws 0 47 32)
def lrTenant (ws : List Word) : Nat := recField ws 0 29 24
def lrCeiling (ws : List Word) : Nat := recField ws 0 22 16
def lrPriority (ws : List Word) : Nat := recField ws 0 14 8
def lrReplay (ws : List Word) : Bool := (ws.getD 0 0).getLsbD 6
def lrRecord (ws : List Word) : Bool := (ws.getD 0 0).getLsbD 5
def lrTrace (ws : List Word) : Bool := (ws.getD 0 0).getLsbD 4
def lrDet (ws : List Word) : Bool := (ws.getD 0 0).getLsbD 3
def lrKind (ws : List Word) : Nat := recField ws 0 2 0
def lrEntry (ws : List Word) : Nat := recField ws 1 63 32
def lrGang (ws : List Word) : Nat := recField ws 1 12 8
def lrLevel (ws : List Word) : Nat := recField ws 1 5 3
def lrThreads (ws : List Word) : Nat := recField ws 1 2 0
def lrCode (ws : List Word) : Word := ws.getD 2 0
def lrArgs (ws : List Word) : Word := ws.getD 3 0
def lrOut (ws : List Word) : List Nat := [recField ws 4 47 32, recField ws 4 63 48]
def lrIn (ws : List Word) : List Nat := [recField ws 4 15 0, recField ws 4 31 16]
def lrDone (ws : List Word) : Word := ws.getD 5 0
def lrStream (ws : List Word) : BitVec 32 := BitVec.ofNat 32 (recField ws 6 63 32)
def lrEnergy (ws : List Word) : Nat := recField ws 6 31 0
def lrSeq (ws : List Word) : Nat := recField ws 7 31 0

/-- The record is a task: kind 0 or 1 with crews (R49). -/
def lrIsTask (ws : List Word) : Bool := lrKind ws < 2 && lrCrews ws != 0

/-- Cores of a domain level: tile, group, super-group, die, package (R49). -/
def levelCores : Nat → Nat
  | 0 => 1 | 1 => 4 | 2 => 16 | 3 => 64 | 4 => 1024 | _ => 4096

/-- The domain level of a task (R49). -/
def lrDomain (ws : List Word) : Nat :=
  if lrLevel ws != 0 then lrLevel ws
  else if lrCrews ws ≤ 4 then 1 else if lrCrews ws ≤ 16 then 2 else if lrCrews ws ≤ 64 then 3
  else if lrCrews ws ≤ 1024 then 4 else 5

/-- A global address in canonical form. -/
def canonical (a : Word) : Bool := a.getLsbD 63 && fieldOf a.toNat 62 56 == 0

/-- A record that R43 calls malformed. -/
def lrMalformed (ws : List Word) : Bool :=
  let k := lrKind ws
  let crews := lrCrews ws
  let reserved := recField ws 0 63 61 != 0 || recField ws 0 31 30 != 0 || recField ws 0 23 23 != 0 ||
    recField ws 0 15 15 != 0 || recField ws 0 7 7 != 0 || recField ws 1 31 13 != 0 || recField ws 1 7 6 != 0 ||
    recField ws 7 63 32 != 0
  let badEdge (e : Nat) := decide (0x1000 ≤ e ∧ e ≤ 0xFFFE)
  reserved || decide (5 ≤ k) || (lrRecord ws && lrReplay ws) || decide (lrCeiling ws < lrPriority ws) ||
  !(canonical (lrDone ws) && (lrDone ws).toNat % 64 == 0) ||
  (lrIsTask ws && !(canonical (lrCode ws) && (lrCode ws).toNat % 8 == 0)) ||
  (lrArgs ws != 0 && !(canonical (lrArgs ws) &&
    (lrArgs ws).toNat % (if k == 2 then 64 else if k == 3 then 32 else 1) == 0)) ||
  (lrIn ws).any badEdge || (lrOut ws).any badEdge || decide (4096 < crews) ||
  (lrIsTask ws && (lrThreads ws == 0 || decide (4 < lrThreads ws) || !([1, 2, 4, 8, 16].contains (lrGang ws)) ||
    decide (5 < lrLevel ws) || crews % lrGang ws != 0 ||
    (lrLevel ws != 0 && decide (levelCores (lrLevel ws) < crews)) ||
    (lrEntry ws != 0 && (lrEntry ws % 2 == 1 || decide (lrEntry ws < 0x1000) || decide (0xFFFF < lrEntry ws))))) ||
  (decide (2 ≤ k) && (crews != 0 || lrThreads ws != 0 || lrLevel ws != 0 || lrGang ws != 0 || lrEntry ws != 0 ||
    lrCode ws != 0)) ||
  (k == 1 && !lrDet ws)

/-! ## Submission (R35 to R41) -/

/-- A submission port. -/
def State.sub (s : State) (p : Nat) : SubPort := tblGet s.sched.ports p {}
/-- The state with a submission port. -/
def State.setSub (s : State) (p : Nat) (v : SubPort) : State :=
  { s with sched := { s.sched with ports := tblSet s.sched.ports p v } }

/-- The core's entry of the core table. -/
def State.core (s : State) (c : Nat) : Core := tblGet s.cores c Core.reset
/-- The state with a core. -/
def State.setCore (s : State) (c : Nat) (v : Core) : State := { s with cores := tblSet s.cores c v }
/-- A thread set of a core. -/
def State.thread (s : State) (c : Nat) (t : Fin 4) : Thread := (s.core c).thr[t]
/-- The state with a thread set. -/
def State.setThread (s : State) (c : Nat) (t : Fin 4) (v : Thread) : State :=
  s.setCore c { s.core c with thr := (s.core c).thr.set t v }
/-- The task of a core's crew. -/
def State.taskOf (s : State) (c : Nat) : Option Task :=
  match (s.core c).crew with
  | none => none
  | some w => s.sched.tasks.find? (·.id == w.task)

/-- The ports's place of a submission: after those of earlier cycles, the host first, then ascending cores (R35). -/
def Submission.rank (u : Submission) : Nat :=
  match u.who with
  | .host _ => 0
  | .thread c t _ => 1 + 4 * c + t.val

/-- A submission put in the port's order. -/
def insertSub (u : Submission) : List Submission → List Submission
  | [] => [u]
  | v :: r => if u.cyc == v.cyc && u.rank < v.rank then u :: v :: r else v :: insertSub u r

/-- A submission reaches its port (R35). -/
def State.present (s : State) (p : Nat) (who : Submitter) (whole : Bool) (bytes : List Byte) : State :=
  let q := s.sub p
  s.setSub p { q with held := insertSub ⟨who, s.cycle, whole, bytes⟩ q.held }

/-- The undecided submissions of a thread set whose wait is abandoned are withdrawn (R324). -/
def State.withdraw (s : State) (core : Nat) (ts : Fin 4) : State :=
  let mine (u : Submission) : Bool := match u.who with | .thread c t _ => c == core && t == ts | .host _ => false
  if s.sched.ports.any fun (_, q) => q.held.any mine then
    { s with sched := { s.sched with ports := s.sched.ports.map fun (p, q) => (p, { q with held := q.held.filter (!mine ·) }) } }
  else s

/-- What has come of the record that the `ST64S` at an address has presented (R41). -/
def Thread.askedAt (t : Thread) (a : BitVec 16) : Option (Option Word) := (t.asked.find? (·.1 == a)).map (·.2)

/-- The tenant of a submitting thread's task (R39). -/
def State.submitterTenant (s : State) : Submitter → Option Nat
  | .host _ => none
  | .thread c _ _ => (s.taskOf c).map (·.tenant)

/-- The code of R39 for a submission on a port. -/
def State.submissionCode (s : State) (q : SubPort) (u : Submission) : Nat :=
  let ws := wordsOf64 8 u.bytes
  let pf (hi lo : Nat) := fieldOf q.ctl.toNat hi lo
  if s.boot.maintenance then 5
  else if !q.ctl.getLsbD 0 then 4
  else if !u.whole || lrMalformed ws then 2
  else if lrTenant ws != pf 6 1 || (lrAsid ws).toNat != pf 63 48 || !(pf 36 32).testBit (lrKind ws) ||
      decide (pf 24 18 < lrPriority ws) || decide (pf 24 18 < lrCeiling ws) ||
      ((lrTrace ws || lrRecord ws || lrReplay ws) && !q.ctl.getLsbD 17) ||
      (match s.submitterTenant u.who with | some t => t != pf 6 1 | none => false) then 3
  else if 64 ≤ q.occupied then 1
  else 0

/-- The answer goes to the submitter (R40, R41). -/
def State.answerSubmitter (s : State) (who : Submitter) (code : Nat) : State :=
  match who with
  | .host d => if d then s.send (if code == 0 then .completed else .retryStatus) else s
  | .thread c t a =>
    let h := s.thread c t
    s.setThread c t { h with asked := h.asked.map fun (b, w) => if b == a then (b, some (BitVec.ofNat 64 code)) else (b, w) }

/-- The port decides its oldest held submission (R35, R36, R39). -/
def State.decideSubmission (s : State) (p : Nat) : State :=
  let q := s.sub p
  match q.held with
  | [] => s
  | u :: r =>
    let code := s.submissionCode q u
    let q := { q with held := r }
    if code == 0 then
      let rec' : Rec := { id := s.sched.nextRec, port := p, words := wordsOf64 8 u.bytes, stamp := s.cycle,
                          t0 := s.cycle, phase := .accepted }
      let s := s.setSub p { q with accepted := q.accepted + 1, occupied := q.occupied + 1 }
      let s := { s with sched := { s.sched with recs := s.sched.recs ++ [rec'], nextRec := s.sched.nextRec + 1 } }
      s.answerSubmitter u.who 0
    else
      (s.setSub p { q with refusals := q.refusals + 1, code := BitVec.ofNat 8 code }).answerSubmitter u.who code

/-- HOST_SUBMIT: a host write at an offset of a port's page (R38, R40); offsets beyond `SUBMIT` take no write. -/
def execHostSubmit (p : Fin 256) (off : BitVec 12) (data : List Byte) (deferrable : Bool) (s : State) : Res :=
  if off.toNat < 64 then .next (s.present p.val (.host deferrable) (off == 0 && data.length == 64) data)
  else .next s

/-- SUBMISSION_DECIDE (R39). -/
def execSubmissionDecide (p : Fin 256) (s : State) : Res := .next (s.decideSubmission p.val)

/-! ## The aperture (R33, R34) -/

/-- The size of the boot staging buffer (R34). -/
def stageSize : Nat := 0x4000000

/-- HOST_APERTURE_ACCESS (R33, R34). A write is not checked against capability regions, which R111 does not name it under
(assumption log 122). -/
def execHostApertureAccess (write : Bool) (off : BitVec 36) (n : Nat) (data : List Byte) (s : State) : Res :=
  let o := off.toNat
  if s.boot.maintenance then
    let len := if write then data.length else n
    if stageSize < o + len then .next (s.send .abort)
    else if write then .next ({ s with mem := { s.mem with stage := writeSpan s.mem.stage o data } }.send .completed)
    else .next (s.send (.readData (readSpan n o s.mem.stage)))
  else if !s.sched.hapBase.getLsbD 63 then .next (s.send .abort)
  else
    let a := s.sched.hapBase + BitVec.ofNat 64 o
    if write then
      match s.globalWrite s.sched.hapAsid a data with
      | .ok s => .next (s.send .completed)
      | .error (_, s) => .next (s.send .abort)
    else
      match s.globalBytes s.sched.hapAsid a n with
      | .ok (bs, s) => .next (s.send (.readData bs))
      | .error (_, s) => .next (s.send .abort)

/-! ## Boot from the staging buffer (R25, R34) -/

/-- The image a host-link attempt takes, when `BOOTGO` and `BOOTLEN` allow it. -/
def State.stagedImage (s : State) : Option (List Byte) :=
  let n := s.boot.bootLen.toNat
  if s.boot.bootGo && 0 < n && n ≤ stageSize then some (readSpan n 0 s.mem.stage) else none

/-- BOOT_FETCH_RETRY: an attempt on the source being tried (R25). A host-link attempt takes the staged image or
fails at once; a management attempt that no image ends fails. -/
def execBootFetchRetry (s : State) : Res :=
  match s.boot.source with
  | some true =>
    match s.stagedImage with
    | some img => .next (s.bootFrom true img)
    | none => .next { s with boot := s.boot.nextAttempt }
  | some false => .next { s with boot := s.boot.nextAttempt }
  | none => .next s

/-- BOOT_IMAGE_RECEIVED: an image from the management port, or the staged one (R25). -/
def execBootImageReceived (image : List Byte) (s : State) : Res :=
  match s.boot.source with
  | some true =>
    match s.stagedImage with
    | some img => .next (s.bootFrom true img)
    | none => .next { s with boot := s.boot.nextAttempt }
  | some false => .next (s.bootFrom false image)
  | none => .next s

/-- BOOTGO_WRITE (R34). -/
def execBootgoWrite (v : BitVec 32) (s : State) : Res := .next { s with boot := { s.boot with bootGo := v.getLsbD 0 } }

/-- DIE_RELEASE: a compute die whose channels have trained; the fourth ends maintenance (R25, step 7). -/
def execDieRelease (die : Fin 4) (s : State) : Res :=
  match s.boot.phase with
  | .stage0 =>
    let rel := s.boot.released.set die true
    .next { s with boot := { s.boot with released := rel, maintenance := s.boot.maintenance && !rel.toList.all id } }
  | _ => .next s

/-! ## Completion (R45, R60, R61, R68) -/

/-- An entry of a tenant's error log (R68). -/
def State.logError (s : State) (tenant kind port : Nat) (ws : List Word) (info : Word) : State :=
  let l := tblGet s.sched.errlogs tenant {}
  let e := leBytes 6 s.cycle ++ leBytes 1 kind ++ leBytes 1 port ++ leBytes 4 (lrSeq ws) ++
    leBytes 4 (lrStream ws).toNat ++ leBytes 8 info.toNat ++ leBytes 8 0
  let l := { l with entries := tblSet l.entries (l.count.toNat % 32) e, count := l.count + 1 }
  { s with sched := { s.sched with errlogs := tblSet s.sched.errlogs tenant l } }

/-- What a completion record says (R45). -/
structure Outcome where
  crewsDone : Nat := 0
  errCore : Nat := 0
  cause : BitVec 8 := 0
  errors : BitVec 16 := 0
  course : BitVec 48 := 0
  deriving DecidableEq, Repr

/-- The completion record's bytes (R45). -/
def completionBytes (r : Rec) (cycle : Nat) (o : Outcome) : List Byte :=
  leBytes 8 (o.crewsDone * 2 ^ 48 + o.errCore * 2 ^ 32 + o.cause.toNat * 2 ^ 16 + o.errors.toNat) ++
  leBytes 8 (cycle % 2 ^ 48) ++
  leBytes 8 ((lrStream r.words).toNat * 2 ^ 32 + lrSeq r.words) ++
  leBytes 8 (2 ^ 63 + r.port * 2 ^ 48 + o.course.toNat)

/-- The record leaves its port slot (R35). -/
def State.freeSlot (s : State) (r : Rec) : State :=
  if r.inSlot then
    let q := s.sub r.port
    s.setSub r.port { q with occupied := q.occupied - 1 }
  else s

/-- An edge. -/
def State.edge (s : State) (e : Nat) : Edge := tblGet s.sched.edges e {}
/-- The state with an edge. -/
def State.setEdge (s : State) (e : Nat) (v : Edge) : State :=
  { s with sched := { s.sched with edges := tblSet s.sched.edges e v } }

/-- Real edges of a list: `0xFFFF` is none (R58). -/
def realEdges (l : List Nat) : List Nat := l.filter (· < 0x1000)

/-- The tokens of a completed record's outputs (R61). -/
def State.placeTokens (s : State) (r : Rec) : State :=
  (realEdges (lrOut r.words)).foldl (fun s e =>
    let g := s.edge e
    s.setEdge e { g with held := g.held - 1, filled := g.filled + 1 }) s

/-- The record is known no longer. -/
def State.dropRec (s : State) (r : Rec) : State :=
  { s with sched := { s.sched with recs := s.sched.recs.filter (·.id != r.id) } }

/-- A record replaced by its later state. -/
def State.putRec (s : State) (r : Rec) : State :=
  { s with sched := { s.sched with recs := s.sched.recs.map fun q => if q.id == r.id then r else q } }

/-- Completion of a record (R45, R61): an optional 16- or 32-byte result at `done` + 32, the completion record,
the tokens where it had started. A write that faults is logged (R45). -/
def State.complete (s : State) (r : Rec) (result : List Byte) (o : Outcome) (started : Bool) : State :=
  let asid := lrAsid r.words
  let done := lrDone r.words
  let s := if result.isEmpty then s else
    match s.globalWrite asid (done + 32) result with
    | .ok s => s
    | .error (_, s) => s
  let s := match s.globalWrite asid done (completionBytes r s.cycle o) with
    | .ok s => s
    | .error (_, s) => s.logError (lrTenant r.words) 1 r.port r.words done
  let s := if started then s.placeTokens r else s
  (s.freeSlot r).dropRec r

end Sys2Proof.Machine
end

