-- ==== Sys2Proof/Machine/Budget.lean ====
section
/-!
DEFINITION. Budgets: buckets, debits, boundaries, energy admission and context space (R70 to R77, R437).
-/
namespace Sys2Proof.Machine
open Sys2Proof

/-- A share field; values above 256 read as 256 (R74). -/
def shareOf (w : Word) (energy : Bool) : Nat := min 256 (if energy then fieldOf w.toNat 24 16 else fieldOf w.toNat 8 0)

/-- The sum of the shares in effect of a kind. -/
def Budgets.shares (b : Budgets) (energy : Bool) : Nat := sumNat (b.tbudE.map fun (_, w) => shareOf w energy)

/-- A budget kind is enforced while some share is not zero (R437). -/
def Budgets.enforced (b : Budgets) (energy : Bool) : Bool := b.shares energy != 0

/-- A bucket of a die and tenant. -/
def Budgets.bucket (b : Budgets) (die tenant : Nat) : Bucket := tblGet b.buckets (die * 64 + tenant) {}
/-- The budgets with a bucket. -/
def Budgets.setBucket (b : Budgets) (die tenant : Nat) (v : Bucket) : Budgets :=
  { b with buckets := tblSet b.buckets (die * 64 + tenant) v }

/-- The compute die of a package core (R10). -/
def dieOf (core : Nat) : Nat := core / 1024

/-- The bandwidth pool of a die in effect (R74). -/
def Budgets.bpoolOf (b : Budgets) (die : Nat) : Nat := (tblGet b.bpoolE die 30161).toNat
/-- The energy pool of a die (R74). -/
def Budgets.epoolOf (b : Budgets) (die : Nat) : Nat := (tblGet b.epool die 558545).toNat

/-- The pool's level after a boundary (R73): `tenants` are all 64 with their shares and activity. -/
def refill (pool : Nat) (tenants : List (Nat × Bool × Int)) : List (Int × Nat) :=
  let total := max 256 (sumNat (tenants.map (·.1)))
  let base (sh : Nat) : Nat := pool * sh / total
  let idle := sumNat (tenants.map fun (sh, act, _) => if act then 0 else base sh)
  let active := sumNat (tenants.map fun (sh, act, _) => if act then sh else 0)
  tenants.map fun (sh, act, level) =>
    if act then
      let got := base sh + (if 0 < active then idle * sh / active else 0)
      (min (level + got) (2 * got), got)
    else (min level (2 * base sh), base sh)

/-- One kind of one die at a boundary (R73, R437). -/
def Budgets.refillKind (b : Budgets) (was : Bool) (die : Nat) (energy : Bool) : Budgets :=
  let ts := List.range 64
  let on := b.enforced energy
  let rows := ts.map fun t =>
    let k := b.bucket die t
    let level := if was then (if energy then k.energy else k.bandwidth) else 0
    (shareOf (tblGet b.tbudE t 0) energy, if energy then k.eActive else k.bActive, level)
  let out := refill (if energy then b.epoolOf die else b.bpoolOf die) rows
  (ts.zip out).foldl (fun b (t, lv, got) =>
    let k := b.bucket die t
    let lv' : Int := if on then (if was then lv else 0) else 0
    let k' := if energy then { k with energy := lv', eActive := false, entitled := got }
              else { k with bandwidth := lv', bActive := false }
    if k' == k then b else b.setBucket die t k') b

/-- The coefficients that the control cores have set take effect, unless the last change is less than 2^16 cycles old (R75). -/
def Budgets.recalibrate (b : Budgets) (cycle : Nat) : Budgets :=
  if b.coefNext.isEmpty || (b.coefAt != 0 && decide (cycle < b.coefAt + 2 ^ 16)) then b
  else { b with ecoef := tblOf (b.coefNext.take 64), coefNext := [], coefAt := cycle }

/-- The tenant a core's debits are charged to (R70). -/
def State.tenantOf (s : State) (core : Nat) : Option Nat := (s.taskOf core).map (·.tenant)

/-- Whether issue on a core is held for energy (R72). -/
def State.energyHeld (s : State) (core : Nat) : Bool :=
  match s.tenantOf core with
  | none => false
  | some t => s.bud.enforced true && decide ((s.bud.bucket (dieOf core) t).energy ≤ 0)

/-- A core is held for a kind: it says so, or for energy a thread of it could issue (R72, R73). -/
def State.heldFor (s : State) (core : Nat) (c : Core) (energy : Bool) : Bool :=
  if energy then
    c.ehold || (s.energyHeld core &&
      c.thr.toList.any fun t => (t.run == .running || t.run == .waiting) && !t.estat.getLsbD 8)
  else c.bhold

/-- The tenants of the cores that are held at the boundary are active, whether or not a thread has had its turn (R73). -/
def State.noteHolds (s : State) : State :=
  s.cores.foldl (fun s (n, c) =>
    match s.tenantOf n with
    | none => s
    | some t =>
      let k := s.bud.bucket (dieOf n) t
      let k' := { k with eActive := k.eActive || s.heldFor n c true, bActive := k.bActive || s.heldFor n c false }
      if k' == k then s else { s with bud := s.bud.setBucket (dieOf n) t k' }) s

/-- A boundary: written shares and pools take effect, and every bucket refills (R73, R74, R437). -/
def State.boundary (s : State) : State :=
  let b := s.noteHolds.bud
  let wasE := b.enforced true
  let wasB := b.enforced false
  let b := { b with tbudE := b.tbud, bpoolE := b.bpool, period := b.period + 1,
                    epool := if b.epoolNext.isEmpty then b.epool else tblOf (b.epoolNext.take 4), epoolNext := [] }
  let b := (List.range 4).foldl (fun b d => (b.refillKind wasE d true).refillKind wasB d false) (b.recalibrate s.cycle)
  { s with bud := b }

/-- A boundary has been reached that has not been taken (R70). -/
def State.boundaryDue (s : State) : Bool := decide (s.bud.period < s.cycle / 1024)

/-- Boundaries taken one after the other. -/
def State.boundaries : Nat → State → State
  | 0, s => s
  | n + 1, s => State.boundaries n s.boundary

/-- BUDGET_BOUNDARY (R70, R73): the coefficients (die × 16 + class) and energy pools that the control cores set wait for a
boundary; each one whose cycle has come is taken. -/
def execBudgetBoundary (coefs epools : List (BitVec 32)) (s : State) : Res :=
  let b := s.bud
  let s := { s with bud := { b with coefNext := if coefs.isEmpty then b.coefNext else coefs,
                                    epoolNext := if epools.isEmpty then b.epoolNext else epools } }
  .next (if s.boundaryDue then State.boundaries (s.cycle / 1024 - s.bud.period) s else s)

/-- `n` nJ debited at a core's die (R72, R437); its tenant is active, whether or not a whole nJ is reached (R73). -/
def State.debitEnergy (s : State) (core : Nat) (n : Nat) : State :=
  match s.tenantOf core with
  | none => s
  | some t =>
    let k := s.bud.bucket (dieOf core) t
    let k := { k with eActive := true, energy := if s.bud.enforced true then k.energy - n else k.energy }
    { s with bud := s.bud.setBucket (dieOf core) t k }

/-- A class coefficient debited into the core's residue (R72, R75). One that is 0 is no debit: the tenant does not become active by
it (assumption log 121). -/
def State.debitClass (s : State) (core : Nat) (cls : Nat) (times : Nat) : State :=
  let coef := (tblGet s.bud.ecoef (dieOf core * 16 + cls) 0).toNat
  let r := tblGet s.bud.residue core 0 + coef * times
  if coef == 0 then s else { s with bud := { s.bud with residue := tblSet s.bud.residue core (r % 256) } }.debitEnergy core (r / 256)

/-- Whether a global request of a core is held for bandwidth (R71). -/
def State.bandwidthHeld (s : State) (core : Nat) : Bool :=
  match s.tenantOf core with
  | none => false
  | some t => s.bud.enforced false && decide ((s.bud.bucket (dieOf core) t).bandwidth ≤ 0)

/-- A global request of `n` bytes leaves the core's port (R71). -/
def State.debitBandwidth (s : State) (core : Nat) (n : Nat) : State :=
  match s.tenantOf core with
  | none => s
  | some t =>
    let k := s.bud.bucket (dieOf core) t
    let tok : Int := ((n + 63) / 64 : Nat)
    let k := { k with bActive := true, bandwidth := if s.bud.enforced false then k.bandwidth - tok else k.bandwidth }
    { s with bud := s.bud.setBucket (dieOf core) t k }

/-- A core held for energy counts as held (R72, R73) and debits class 15. -/
def State.noteHeld (s : State) (core : Nat) (energy : Bool) : State :=
  let c := s.core core
  let s := s.setCore core { c with ehold := c.ehold || energy, bhold := c.bhold || !energy,
                                   heldCycles := c.heldCycles + BitVec.ofNat 32 s.pace }
  match s.tenantOf core with
  | none => s
  | some t =>
    let k := s.bud.bucket (dieOf core) t
    let k := if energy then { k with eActive := true } else { k with bActive := true }
    let s := { s with bud := s.bud.setBucket (dieOf core) t k }
    s.debitClass core 15 s.pace

/-- The holds of a core end (R169). -/
def State.clearHeld (s : State) (core : Nat) : State :=
  let c := s.core core
  if c.ehold || c.bhold then s.setCore core { c with ehold := false, bhold := false } else s

/-- Whether a waiting record is deferred for energy (R76). -/
def State.energyDeferred (s : State) (r : Rec) : Bool :=
  let e := lrEnergy r.words
  let t := lrTenant r.words
  let sum : Int := (List.range 4).foldl (fun a d =>
    let k := s.bud.bucket d t
    a + k.energy + 64 * (k.entitled : Int)) 0
  s.bud.enforced true && e != 0 && decide (sum < (e * 1000 : Nat)) &&
  (match r.deferred with | some c => decide (s.cycle < c + 2 ^ 20) | none => true)

/-- ENERGY_DEFER_EXPIRY: record `n`, deferred without a break for 2^20 cycles, is deferred no longer (R76). -/
def execEnergyDeferExpiry (n : Nat) (s : State) : Res :=
  .next { s with sched := { s.sched with recs := s.sched.recs.map fun r =>
    match r.deferred with
    | some c => if r.id == n && c + 2 ^ 20 ≤ s.cycle then { r with deferred := some (s.cycle - 2 ^ 20) } else r
    | none => r } }

/-- The first offset in MiB of a tenant's context space where `n` MiB are free (R77). -/
def ctxFree (used : List (Nat × Nat × Nat)) (t mib n : Nat) : Nat → Nat → Option Nat
  | 0, _ => none
  | fuel + 1, off =>
    if mib < off + n then none
    else
      match used.find? (fun (u, o, k) => u == t && o < off + n && off < o + k) with
      | none => some off
      | some (_, o, k) => ctxFree used t mib n fuel (o + k)

/-- The context space a task of a tenant could take (R77). -/
def Budgets.context (b : Budgets) (t n : Nat) : Option Nat :=
  let w := tblGet b.tctx t 0
  if !w.getLsbD 63 then none else ctxFree b.ctxUsed t (fieldOf w.toNat 11 0) n (b.ctxUsed.length + 1) 0

end Sys2Proof.Machine
end

