-- ==== Sys2Proof/Machine/Geometry.lean ====
section
/-!
DEFINITION. The geometry of partitioned tensors: blocks, local arrays, slabs and the sources of lap cells (R135 to
R142).
-/
namespace Sys2Proof.Machine
open Sys2Proof

/-- One dimension of a partition: extent, depths, split points, and the block a core owns in it. -/
structure Dim where
  extent : Nat
  lo : Nat
  hi : Nat
  periodic : Bool
  points : List Nat
  blk : Nat := 0
  deriving DecidableEq, Repr

/-- Blocks of a dimension. -/
def Dim.blocks (d : Dim) : Nat := d.points.length + 1
/-- First index of a block (R136). -/
def Dim.startOf (d : Dim) (b : Nat) : Nat := if b = 0 then 0 else d.points.getD (b - 1) 0
/-- Size of a block. -/
def Dim.sizeOf (d : Dim) (b : Nat) : Nat := d.points.getD b d.extent - d.startOf b
/-- The block that holds an index. -/
def Dim.blockOf (d : Dim) (g : Nat) : Nat := (d.points.filter (· ≤ g)).length
/-- The size of the own block. -/
def Dim.own (d : Dim) : Nat := d.sizeOf d.blk
/-- Cells of the local array in a dimension (R137). -/
def Dim.cells (d : Dim) : Nat := d.lo + d.own + d.hi

/-- A field of a word of a partition descriptor (R135). -/
def pdField (desc : List Word) (i hi lo : Nat) : Nat := fieldOf (desc.getD i 0).toNat hi lo

/-- The dimensions a descriptor declares; the others have extent 1 and one block (R135). -/
def pdDims (desc : List Word) (splits : List (BitVec 32)) : List Dim :=
  let n := pdField desc 0 1 0
  let go (d : Nat) (skip : Nat) : Dim :=
    if d < n then
      { extent := pdField desc (d + 1) 63 32, lo := pdField desc (d + 1) 3 0, hi := pdField desc (d + 1) 7 4,
        periodic := bitOf (pdField desc 0 6 4) d,
        points := ((splits.drop skip).take (pdField desc (d + 1) 19 16)).map (·.toNat) }
    else { extent := 1, lo := 0, hi := 0, periodic := false, points := [] }
  let k (d : Nat) : Nat := if d < n then pdField desc (d + 1) 19 16 else 0
  [go 0 0, go 1 (k 0), go 2 (k 0 + k 1)]

/-- The core that owns block 0 (R136). -/
def pdBase (desc : List Word) : Nat := pdField desc 0 27 16
/-- Element size in bytes. -/
def pdEsize (desc : List Word) : Nat := 2 ^ pdField desc 0 3 2
/-- Stale-read policy. -/
def pdPolicy (desc : List Word) : Nat := pdField desc 0 11 10
/-- Address of the local array. -/
def pdArray (desc : List Word) : Nat := pdField desc 5 17 0
/-- Address of the send shadow. -/
def pdShadow (desc : List Word) : Nat := pdField desc 6 17 0

/-- Product over the dimensions. -/
def dimProd (f : Dim → Nat) (ds : List Dim) : Nat := ds.foldl (fun a d => a * f d) 1

/-- The linear place of coordinates, dimension 0 fastest (R137). -/
def linear : List Nat → List Nat → Nat
  | n :: ns, i :: is => i + n * linear ns is
  | _, _ => 0

/-- Coordinates of a linear place. -/
def coords : List Nat → Nat → List Nat
  | [], _ => []
  | n :: ns, k => (k % n) :: coords ns (k / n)

/-- The dimensions with the blocks that a core owns; none when it owns no block. -/
def ownDims (desc : List Word) (ds : List Dim) (rel : Nat) : Option (List Dim) :=
  if rel < pdBase desc then none
  else
    let k := rel - pdBase desc
    if dimProd Dim.blocks ds ≤ k then none
    else some ((ds.zip (coords (ds.map Dim.blocks) k)).map fun (d, b) => { d with blk := b })

/-- The geometry of a partition at a core. -/
structure Geom where
  desc : List Word
  dims : List Dim
  deriving DecidableEq, Repr

/-- A declared partition's geometry at the core with a domain-relative number. -/
def Part.geom (p : Part) (rel : Nat) : Option Geom := (ownDims p.desc (pdDims p.desc p.splits) rel).map (⟨p.desc, ·⟩)

/-- Cells of the local array, and of the owned block. -/
def Geom.cells (g : Geom) : Nat := dimProd Dim.cells g.dims
def Geom.owned (g : Geom) : Nat := dimProd Dim.own g.dims
/-- Bytes of the local array, and of the shadow. -/
def Geom.arrayBytes (g : Geom) : Nat := g.cells * pdEsize g.desc
def Geom.shadowBytes (g : Geom) : Nat := g.owned * pdEsize g.desc

/-- The side of a coordinate in a dimension: 0 low lap, 1 owned, 2 high lap. -/
def Dim.side (d : Dim) (i : Nat) : Nat := if i < d.lo then 0 else if i < d.lo + d.own then 1 else 2

/-- Number of the slab of three sides (R141); none for the owned block. -/
def slabNo : List Nat → Option Nat
  | [0, 1, 1] => some 0 | [2, 1, 1] => some 1 | [1, 0, 1] => some 2 | [1, 2, 1] => some 3
  | [1, 1, 0] => some 4 | [1, 1, 2] => some 5
  | [x, y, 1] => if x != 1 && y != 1 then some (6 + x / 2 + 2 * (y / 2)) else none
  | [x, 1, z] => if x != 1 && z != 1 then some (10 + x / 2 + 2 * (z / 2)) else none
  | [1, y, z] => if y != 1 && z != 1 then some (14 + y / 2 + 2 * (z / 2)) else none
  | [x, y, z] => some (18 + x / 2 + 2 * (y / 2) + 4 * (z / 2))
  | _ => none

/-- The sides of a cell of the local array. -/
def Geom.sides (g : Geom) (cell : Nat) : List Nat :=
  (g.dims.zip (coords (g.dims.map Dim.cells) cell)).map fun (d, i) => d.side i

/-- The slab of a cell; none for an owned cell. -/
def Geom.slabOf (g : Geom) (cell : Nat) : Option Nat := slabNo (g.sides cell)

/-- The source coordinate in one dimension (R139). -/
def Dim.source (d : Dim) (i : Nat) : Option Nat :=
  let gd : Int := (d.startOf d.blk : Int) - d.lo + i
  if 0 ≤ gd ∧ gd < d.extent then some gd.toNat
  else if d.periodic then some (gd % d.extent).toNat
  else none

/-- Every value, or none. -/
def allSome {α : Type} : List (Option α) → Option (List α)
  | [] => some []
  | none :: _ => none
  | some a :: r => (allSome r).map (a :: ·)

/-- The source of a cell: its owner and place in the owner's block; none for a boundary cell (R139). -/
def Geom.source (g : Geom) (cell : Nat) : Option (Nat × Nat) :=
  match allSome ((g.dims.zip (coords (g.dims.map Dim.cells) cell)).map fun (d, i) => d.source i) with
  | none => none
  | some gs =>
    let bs := (g.dims.zip gs).map fun (d, x) => d.blockOf x
    let sz := (g.dims.zip bs).map fun (d, b) => d.sizeOf b
    let at_ := ((g.dims.zip bs).zip gs).map fun ((d, b), x) => x - d.startOf b
    some (pdBase g.desc + linear (g.dims.map Dim.blocks) bs, linear sz at_)

/-- The lap cells of a slab in the order of the local array. -/
def Geom.slabCells (g : Geom) (slab : Nat) : List Nat :=
  (List.range g.cells).filter fun c => g.slabOf c == some slab

/-- The slabs that have a sourced cell (R141). -/
def Geom.liveSlabs (g : Geom) : BitVec 26 :=
  (List.range g.cells).foldl (fun m c =>
    match g.slabOf c with
    | some k => if (g.source c).isSome then m ||| (1 <<< k) else m
    | none => m) 0

/-- Address of a cell of the local array. -/
def Geom.cellAddr (g : Geom) (cell : Nat) : Nat := pdArray g.desc + pdEsize g.desc * cell
/-- Address in the shadow of a place of the owned block. -/
def Geom.shadowAddr (g : Geom) (k : Nat) : Nat := pdShadow g.desc + pdEsize g.desc * k
/-- The cell of the local array at a place of the owned block. -/
def Geom.ownCell (g : Geom) (k : Nat) : Nat :=
  linear (g.dims.map Dim.cells) ((g.dims.zip (coords (g.dims.map Dim.own) k)).map fun (d, i) => d.lo + i)
/-- The place in the owned block of an owned cell. -/
def Geom.placeOf (g : Geom) (cell : Nat) : Nat :=
  linear (g.dims.map Dim.own) ((g.dims.zip (coords (g.dims.map Dim.cells) cell)).map fun (d, i) => i - d.lo)

/-- The cells of the local array that bytes of the scratchpad touch. -/
def Geom.touched (g : Geom) (off n : Nat) : List Nat :=
  let b := pdArray g.desc
  let lo := max off b
  let hi := min (off + n) (b + g.arrayBytes)
  if hi ≤ lo then []
  else
    let first := (lo - b) / pdEsize g.desc
    (List.range ((hi - 1 - b) / pdEsize g.desc + 1 - first)).map (· + first)

/-- Bytes of the scratchpad touch the shadow. -/
def Geom.inShadow (g : Geom) (off n : Nat) : Bool :=
  off < pdShadow g.desc + g.shadowBytes && pdShadow g.desc < off + n

/-- The sourced lap cells that one core receives, with their sources. -/
def Geom.incoming (g : Geom) : List (Nat × Nat × Nat) :=
  (List.range g.cells).filterMap fun c =>
    match g.slabOf c, g.source c with
    | some _, some (o, k) => some (c, o, k)
    | _, _ => none

/-- Pairs of an owner and a slab: the sub-slabs a core receives (R142). -/
def Geom.subSlabs (g : Geom) : List (Nat × Nat) :=
  ((List.range g.cells).filterMap fun c =>
    match g.slabOf c, g.source c with
    | some k, some (o, _) => some (o, k)
    | _, _ => none).eraseDups

end Sys2Proof.Machine
end

