-- ==== Sys2Proof/Machine/Access.lean ====
section
/-!
DEFINITION. Addresses and accesses: the three spaces and their checks (R100, R101), capability and lap rules (R109 to
R111, R140, R147), homes and scopes (R150, R152, R159), and the landing of stores (R103, R146).
-/
namespace Sys2Proof.Machine
open Sys2Proof

/-! ## Cores, domains and units -/

/-- The domain-relative number of a core (R50). -/
def State.relOf (s : State) (core : Nat) : Nat := match (s.core core).crew with | some w => w.rel | none => 0

/-- A domain-relative core of a task carries a crew (R50). -/
def Task.carries (t : Task) (rel : Nat) : Bool := rel < t.crews

/-- The package core of a domain-relative number. -/
def Task.coreAt (t : Task) (rel : Nat) : Nat := t.base + rel

/-- A thread set is allotted to a crew of the task (R51). -/
def Task.allotted (t : Task) (ts : Nat) : Bool := ts < t.threads

/-- The least scope that contains two cores: core 0, tile 1, group 2, super-group 3, die 4, package 5 (R150). -/
def commonScope (a b : Nat) : Nat :=
  if a == b then 0 else if a / 4 == b / 4 then 1 else if a / 16 == b / 16 then 2 else if a / 64 == b / 64 then 3
  else if a / 1024 == b / 1024 then 4 else 5

/-! ## Where an address lies (R100) -/

/-- What an address names: a scratchpad byte, a bank byte (level 1 to 3, package unit), or global memory. -/
inductive Place where
  | pad (core off : Nat)
  | bank (level unit off : Nat)
  | glob (a : Word)
  deriving DecidableEq, Repr

/-- Bytes of a bank of a level (R100). -/
def bankSize : Nat → Nat
  | 1 => 0x80000 | 2 => 0x200000 | _ => 0x800000

/-- The key of a bank byte. -/
def bankKey (level unit off : Nat) : Nat :=
  (match level with | 1 => tileKey unit | 2 => groupKey unit | _ => sgroupKey unit) + off

/-- The system-reserved top of a scratchpad. -/
def sysReserved : Nat := 0x3C000

/-- An absolute window of banks: first address, level, count of units in the package. -/
def bankWindow (a : Nat) : Option (Nat × Nat × Nat) :=
  if 0x300000000 ≤ a ∧ a < 0x320000000 then some (1, (a - 0x300000000) / 0x80000, (a - 0x300000000) % 0x80000)
  else if 0x320000000 ≤ a ∧ a < 0x340000000 then some (2, (a - 0x320000000) / 0x200000, (a - 0x320000000) % 0x200000)
  else if 0x340000000 ≤ a ∧ a < 0x360000000 then some (3, (a - 0x340000000) / 0x800000, (a - 0x340000000) % 0x800000)
  else none

/-- A relative window: level and offset. -/
def relWindow (a : Nat) : Option (Nat × Nat) :=
  if 0x100000000 ≤ a ∧ a < 0x100080000 then some (1, a - 0x100000000)
  else if 0x100100000 ≤ a ∧ a < 0x100300000 then some (2, a - 0x100100000)
  else if 0x100400000 ≤ a ∧ a < 0x100C00000 then some (3, a - 0x100400000)
  else none

/-- Checks 2 to 5 of R101 on an address of a core, up to translation; `sys` is the resident handler at its save
block. -/
def State.place (s : State) (core : Nat) (a : Word) (sys : Bool) : Except (BitVec 8) Place :=
  let n := a.toNat
  match s.taskOf core with
  | none =>
    if n < 0x40000 then (if sysReserved ≤ n ∧ !sys then .error 0x62 else .ok (.pad core n))
    else if a.getLsbD 63 then (if fieldOf n 62 56 != 0 then .error 0x64 else .ok (.glob a))
    else .error 0x61
  | some t =>
    if n < 0x40000 then (if sysReserved ≤ n ∧ !sys then .error 0x62 else .ok (.pad core n))
    else if a.getLsbD 63 then (if fieldOf n 62 56 != 0 then .error 0x64 else .ok (.glob a))
    else
      match relWindow n with
      | some (l, off) =>
        if t.level < l then .error 0x63 else .ok (.bank l (core / levelCores l) off)
      | none =>
        if 0x200000000 ≤ n ∧ n < 0x240000000 then
          let c := (n - 0x200000000) / 0x40000
          let off := (n - 0x200000000) % 0x40000
          if sysReserved ≤ off ∧ !sys then .error 0x62
          else if levelCores t.level ≤ c || !t.carries c then .error 0x63
          else .ok (.pad (t.coreAt c) off)
        else
          match bankWindow n with
          | some (l, u, off) =>
            if t.level < l || levelCores t.level ≤ u * levelCores l then .error 0x63
            else .ok (.bank l (t.base / levelCores l + u) off)
          | none => .error 0x61

/-- The absolute near form of a place, domain-relative, by which capability and slice regions are named; a global
address names itself (R109). -/
def State.absAddr (s : State) (core : Nat) (p : Place) : Word :=
  let base := match s.taskOf core with | some t => t.base | none => core
  match p with
  | .pad c off => BitVec.ofNat 64 (0x200000000 + (c - base) * 0x40000 + off)
  | .bank l u off =>
    BitVec.ofNat 64 ((match l with | 1 => 0x300000000 | 2 => 0x320000000 | _ => 0x340000000) +
      (u - base / levelCores l) * bankSize l + off)
  | .glob a => a

/-- The least scope that contains a core and the home of a place (R150, R152); host memory is at system scope. -/
def State.homeScope (core : Nat) (p : Place) (loc : Loc) : Nat :=
  match p with
  | .pad c _ => commonScope core c
  | .bank l u _ => max l (commonScope core (u * levelCores l + core % levelCores l))
  | .glob a =>
    match loc with
    | .cell pa => if 0x8000000000000 ≤ pa then 6 else if fieldOf a.toNat 21 20 == core / 1024 then 4 else 5
    | .sram _ => 5

/-! ## Capability regions (R109 to R111) -/

/-- A region lies over some of `n` bytes from an address in absolute form: a near region for accesses of its task, a global one
for those under its ASID (R109). -/
def CapRegion.meets (r : CapRegion) (task : Nat) (asid : BitVec 16) (a : Word) (n : Nat) : Bool :=
  (if r.base.getLsbD 63 then r.asid == asid else r.task == task) &&
  decide (a.toNat < r.base.toNat + 2 ^ r.log ∧ r.base.toNat < a.toNat + n)

/-- The region that contains an address. -/
def State.capAt (s : State) (task : Nat) (asid : BitVec 16) (a : Word) : Option CapRegion :=
  s.fab.caps.find? (·.meets task asid a 1)

/-- A near address of another core's scratchpad than a domain-relative core's (R110). -/
def otherPad (rel : Nat) (a : Word) : Bool :=
  decide (0x200000000 ≤ a.toNat ∧ a.toNat < 0x240000000) && (a.toNat - 0x200000000) / 0x40000 != rel

/-- A store to a byte is refused: it lies in a region that the writer, a task's domain-relative core or no core, does not hold,
or in no region and in another core's scratchpad (R110, R111). -/
def State.byteRefused (s : State) (who : Option (Nat × Nat)) (asid : BitVec 16) (a : Word) : Bool :=
  let rs := s.fab.caps.filter (·.meets ((who.map (·.1)).getD 0) asid a 1)
  if rs.isEmpty then (match who with | some (_, rel) => otherPad rel a | none => false)
  else rs.any fun r => who != some (r.task, r.holder)

/-- The first of `n` bytes that a store is refused at: it is the first byte, or a region's first or the one after it. -/
def State.capRefusal (s : State) (who : Option (Nat × Nat)) (asid : BitVec 16) (a : Word) (n : Nat) : Option Word :=
  let rs := s.fab.caps.filter (·.meets ((who.map (·.1)).getD 0) asid a n)
  let edges := a :: rs.flatMap fun r => [r.base, r.base + BitVec.ofNat 64 (2 ^ r.log)]
  ((edges.filter fun e => decide (a.toNat ≤ e.toNat ∧ e.toNat < a.toNat + n) && s.byteRefused who asid e).foldl
    (fun m e => match m with | none => some e | some d => some (if e.toNat < d.toNat then e else d)) none)

/-- A store of a domain-relative core to `n` bytes from an absolute address is allowed (R110, R111). -/
def State.mayStore (s : State) (task rel : Nat) (asid : BitVec 16) (a : Word) (n : Nat) : Bool :=
  (s.capRefusal (some (task, rel)) asid a n).isNone

/-- The ASID of a core's task. -/
def State.asidOf (s : State) (core : Nat) : BitVec 16 := match s.taskOf core with | some t => t.asid | none => 0

/-- The task of a core by number. -/
def State.taskNo (s : State) (core : Nat) : Nat := match s.taskOf core with | some t => t.id | none => 0

/-- Bytes written to global memory as stores of a core, or of no core: every check of R101 on all of them first, the
capability last (R111). -/
def State.checkedWrite (s : State) (who : Option (Nat × Nat)) (asid : BitVec 16) (a : Word) (bs : List Byte) :
    Except ((BitVec 8 × Word) × State) State :=
  match s.globalWrite asid a bs with
  | .error e => .error e
  | .ok s' =>
    match s.capRefusal who asid a bs.length with
    | some e => .error ((0x68, e), { s with xl := s'.xl })
    | none => .ok s'

/-- Checks 6 to 9 of R101, and the place in memory. -/
def State.locate (s : State) (core : Nat) (p : Place) (write : Bool) : Except (BitVec 8) (Loc × State) :=
  match p with
  | .pad c off => .ok (.sram (padKey c + off), s)
  | .bank l u off => .ok (.sram (bankKey l u off), s)
  | .glob a =>
    match s.globalCell (s.asidOf core) a write with
    | .ok (c, s) => .ok (.cell c, s)
    | .error e => .error e

/-! ## Laps (R140, R147) -/

/-- The confirmed or declared partitions of a core with their geometry. -/
def State.partsOf (s : State) (core : Nat) : List (Fin 8 × Part × Geom) :=
  (List.finRange 8).filterMap fun i =>
    match (s.core core).parts[i] with
    | some p => (p.geom (s.relOf core)).map fun g => (i, p, g)
    | none => none

/-- Bytes of a scratchpad lie in a lap cell or a send shadow of a partition there (R140). -/
def State.lapProtected (s : State) (core off n : Nat) : Bool :=
  (s.partsOf core).any fun (_, _, g) =>
    g.inShadow off n || (g.touched off n).any fun c => (g.slabOf c).isSome

/-- A touched lap cell that is sourced, by partition. -/
def touchedSlabs (g : Geom) (off n : Nat) : BitVec 26 :=
  (g.touched off n).foldl (fun m c =>
    match g.slabOf c with
    | some k => if (g.source c).isSome then m ||| (1 <<< k) else m
    | none => m) 0

/-- What the lap check of a load says (R147). -/
inductive LapCheck where
  | plain
  /-- touched slabs of these partitions are in flight -/
  | park (ps : List (Fin 8))
  /-- touched slabs of these partitions are stale, under the strictest of their policies -/
  | stale (ps : List (Fin 8)) (policy : Nat)
  deriving DecidableEq, Repr

/-- The lap check of a load of the owning core. -/
def State.lapCheck (s : State) (core off n : Nat) : LapCheck :=
  let l := s.partsOf core
  let parked := l.filter fun (_, p, g) => touchedSlabs g off n &&& p.flight != 0
  let stale := l.filter fun (_, p, g) => touchedSlabs g off n &&& p.stale != 0
  if !parked.isEmpty then .park (parked.map (·.1))
  else if !stale.isEmpty then .stale (stale.map (·.1)) ((stale.map fun (_, _, g) => pdPolicy g.desc).foldl max 0)
  else .plain

/-- The lap check of a load of a place: only of the core's own scratchpad. -/
def State.lapCheckAt (s : State) (core : Nat) (p : Place) (n : Nat) : LapCheck :=
  match p with
  | .pad c off => if c == core then s.lapCheck core off n else .plain
  | _ => .plain

/-- A partition of a core changed. -/
def State.modPart (s : State) (core : Nat) (p : Fin 8) (f : Part → Part) : State :=
  let c := s.core core
  match c.parts[p] with
  | some q => s.setCore core { c with parts := c.parts.set p (some (f q)) }
  | none => s

/-- What the lap checks of several pieces say together: a wait before all, else every stale partition. -/
def LapCheck.join : LapCheck → LapCheck → LapCheck
  | .park a, .park b => .park (a ++ b).eraseDups
  | .park a, _ | _, .park a => .park a
  | .stale a k, .stale b m => .stale (a ++ b).eraseDups (max k m)
  | .stale a k, .plain | .plain, .stale a k => .stale a k
  | .plain, .plain => .plain

/-- A stale read is counted (R147). -/
def State.countStale (s : State) (core : Nat) (p : Fin 8) : State :=
  let c := s.core core
  s.setCore core { c with staleCounts := c.staleCounts.set p (c.staleCounts[p] + 1) }
/-- One of each of these partitions. -/
def State.countStales (s : State) (core : Nat) (ps : List (Fin 8)) : State := ps.foldl (fun s p => s.countStale core p) s
/-- A wait for a slab is counted (R147). -/
def State.countWait (s : State) (core : Nat) (p : Fin 8) : State :=
  let c := s.core core
  s.setCore core { c with waitCounts := c.waitCounts.set p (c.waitCounts[p] + 1) }
/-- One of each of these partitions. -/
def State.countWaits (s : State) (core : Nat) (ps : List (Fin 8)) : State := ps.foldl (fun s p => s.countWait core p) s

/-! ## Bytes -/

/-- Bytes at a place in memory. -/
def State.bytesAt (s : State) (l : Loc) (n : Nat) : List Byte :=
  match l with
  | .sram k => readSpan n k s.mem.sram
  | .cell a => readSpan n a s.mem.phys

/-- Bytes put over others where they overlap. -/
def overlay (base : Nat) (old : List Byte) (at_ : Nat) (bs : List Byte) : List Byte :=
  old.zipIdx.map fun (b, i) => if at_ ≤ base + i ∧ base + i < at_ + bs.length then bs.getD (base + i - at_) b else b

/-- A store under way laid over bytes. -/
def Fly.laidOn (f : Fly) (l : Loc) (bs : List Byte) : List Byte :=
  match f.what, l with
  | .store (.sram k) w _, .sram a => overlay a bs k w
  | .store (.cell k) w _, .cell a => overlay a bs k w
  | _, _ => bs

/-- An engine made a store under way. -/
def Fly.byEngine (f : Fly) : Bool := match f.what with | .store _ _ g => g.eng | _ => false

/-- It is a store under way. -/
def Fly.isStore (f : Fly) : Bool := match f.what with | .store _ _ _ => true | _ => false

/-- `n` bytes of a place and `k` bytes of another have one in common. -/
def Loc.meets (l : Loc) (n : Nat) (m : Loc) (k : Nat) : Bool :=
  match l, m with
  | .sram a, .sram b | .cell a, .cell b => decide (a < b + k ∧ b < a + n)
  | _, _ => false

/-- A store under way writes some of `n` bytes of a place. -/
def Fly.over (f : Fly) (l : Loc) (n : Nat) : Bool :=
  match f.what with
  | .store m w _ => m.meets w.length l n
  | _ => false

/-- Bytes as a thread sees them: its own stores that have not landed lie over memory, oldest first (R153); those of its engine
commands are not among them (R163). -/
def State.seenBytes (s : State) (core : Nat) (ts : Fin 4) (l : Loc) (n : Nat) : List Byte :=
  s.fab.fly.foldl (fun bs f => if f.core == core && f.ts == ts && !f.byEngine then f.laidOn l bs else bs) (s.bytesAt l n)

/-- A store that a read of `n` bytes of a place by an engine of the core sees has not landed: one of an engine of the core, or
one that the command's thread made before the command's place `id` in the order of issue. The read waits for it and is then
satisfied at the home (R154, R158, R163). -/
def State.behindStore (s : State) (core : Nat) (ts : Fin 4) (id : Nat) (l : Loc) (n : Nat) : Bool :=
  s.fab.fly.any fun f => f.core == core && (f.byEngine || (f.ts == ts && decide (f.id < id))) && f.over l n

/-- A write to source cells of a partition marks them changed (R146). -/
def State.markDirty (s : State) (core off n : Nat) : State :=
  (s.partsOf core).foldl (fun s (i, p, g) =>
    if p.confirmed then
      let ks := ((g.touched off n).filter fun c => (g.slabOf c).isNone).map g.placeOf
      if ks.isEmpty then s else s.modPart core i fun q => { q with dirty := (q.dirty ++ ks).eraseDups }
    else s) s

/-- Bytes of on-chip SRAM replaced. -/
def State.writeSram (s : State) (k : Nat) (bs : List Byte) : State :=
  { s with mem := { s.mem with sram := writeSpan s.mem.sram k bs } }

/-- Bytes land in memory; in a scratchpad they mark the cells they change (R146). -/
def State.land (s : State) (l : Loc) (bs : List Byte) : State :=
  match l with
  | .cell a => s.writePhys a bs
  | .sram k =>
    let s := s.writeSram k bs
    if k < 0x40000000 then s.markDirty (k / 0x40000) (k % 0x40000) bs.length else s

/-- A new number in the order of issue. -/
def State.bumpId (s : State) : State := { s with fab := { s.fab with nextId := s.fab.nextId + 1 } }

/-- Something more is under way. -/
def State.launch (s : State) (core : Nat) (ts : Fin 4) (w : FlyKind) : State :=
  { s with fab := { s.fab with nextId := s.fab.nextId + 1,
                               fly := s.fab.fly ++ [{ id := s.fab.nextId, core := core, ts := ts, cyc := s.cycle, what := w }] } }

/-- Something is under way no longer. -/
def State.landed (s : State) (id : Nat) : State :=
  { s with fab := { s.fab with fly := s.fab.fly.filter (·.id != id) } }

/-- Stores of a thread set that have not landed. -/
def State.storesOf (s : State) (core : Nat) (ts : Fin 4) : List Fly :=
  s.fab.fly.filter fun f => f.core == core && f.ts == ts && f.isStore

/-! ## Checked accesses -/

/-- A checked access of a core: its place, where it lies, and the state after translation. -/
structure Access where
  place : Place
  loc : Loc
  scope : Nat
  deriving DecidableEq, Repr

/-- The checks of R101 on an access of `n` bytes, aligned to `al`; a store is checked under R110, R111 and R140 too. -/
def State.access (s : State) (core : Nat) (a : Word) (n al : Nat) (write sys : Bool) :
    Except (BitVec 8) (Access × State) :=
  if a.toNat % al != 0 then .error 0x60
  else
    match s.place core a sys with
    | .error e => .error e
    | .ok p =>
      let tail := match p with
        | .pad _ off => off + n ≤ 0x40000
        | .bank l _ off => off + n ≤ bankSize l
        | .glob b => fieldOf b.toNat 55 0 + n ≤ 2 ^ 56
      if !tail then .error 0x61
      else
        match s.locate core p write with
        | .error e => .error e
        | .ok (l, s') =>
          if write && !sys && !s.mayStore (s.taskNo core) (s.relOf core) (s.asidOf core) (s.absAddr core p) n then .error 0x68
          else
            match p with
            | .pad c off =>
              if write && !sys && s.lapProtected c off n then .error 0x84
              else .ok (⟨p, l, State.homeScope core p l⟩, s')
            | _ => .ok (⟨p, l, State.homeScope core p l⟩, s')

/-- The access is of global space. -/
def Place.isGlobal : Place → Bool
  | .glob _ => true
  | _ => false

/-- The access is of the core's own scratchpad. -/
def Place.isOwn (p : Place) (core : Nat) : Bool :=
  match p with
  | .pad c _ => c == core
  | _ => false

/-- The scope with a number (R150). -/
def scopeAt : Nat → Scope
  | 0 => .core | 1 => .tile | 2 => .group | 3 => .sgroup | 4 => .die | 5 => .pkg | _ => .sys

/-- The number of a scope. -/
def scopeNo : Scope → Nat
  | .core => 0 | .tile => 1 | .group => 2 | .sgroup => 3 | .die => 4 | .pkg => 5 | .sys => 6 | .row => 7

/-- An access carries an order that its scope does not reach (R159). -/
def missesScope (x : Pre) (home : Nat) : Bool :=
  (x.order != .relaxed || x.strong) && x.scope != .row && scopeNo x.scope < home

/-- A thread set changed. -/
def State.modThread (s : State) (core : Nat) (ts : Fin 4) (f : Thread → Thread) : State :=
  s.setThread core ts (f (s.thread core ts))

/-- A late fault or a scope miss comes to a thread; in the resident handler `mpend` says that it waits (R227, R228). -/
def Thread.pend (t : Thread) (f : Due → Due) : Thread :=
  { t with due := f t.due, estat := if t.estat.getLsbD 8 then t.estat ||| 0x400 else t.estat }

/-- A scope miss takes its place among those that wait, in the order of their accesses (R159). -/
def placeMiss (m : Miss) : List Miss → List Miss
  | [] => [m]
  | e :: r => if m.at_ < e.at_ then m :: e :: r else e :: placeMiss m r

/-- A scope miss comes to a thread; the one that the resident handler settles stays first. -/
def Thread.miss (t : Thread) (m : Miss) : Thread :=
  t.pend fun d =>
    match t.estat.getLsbD 8 && t.cause == 0xA2, d.misses with
    | true, h :: r => { d with misses := h :: placeMiss m r }
    | _, l => { d with misses := placeMiss m l }

/-- The scope-miss message of a stripped access (R159). -/
def State.missed (s : State) (core : Nat) (ts : Fin 4) (x : Pre) (kind : Fin 3) (a : Word) (n : Nat) (v : Word)
    (home : Nat) : State :=
  if missesScope x home then
    s.modThread core ts fun t => t.miss ⟨kind, a, [(a, n, v)], scopeAt home, x.order, x.strong, s.fab.nextId⟩
  else s

/-- The digest of R248 takes in a store: eight bytes of address, one of size, the data. -/
def digestStore (d : Word) (a : Word) (bs : List Byte) : Word :=
  crc64 d (leBytes 8 a.toNat ++ leBytes 1 bs.length ++ bs)

/-- A digest takes in stores. -/
def digestStores (d : Word) (ws : List (Word × List Byte)) : Word := ws.foldl (fun d (a, bs) => digestStore d a bs) d

/-- A vector command stores: itself, or through a bound register (R175). -/
def Cmd.vectorStore (d : Cmd) : Bool :=
  !d.apps.isEmpty ||
  (match d.kind with
   | .vst | .vsts | .vstg | .rowst | .rowadd | .rowcas | .yst => true
   | _ => false)

/-- The newest vector store of a thread set that has not completed. -/
def Core.storing (c : Core) (ts : Fin 4) : Option Nat :=
  ((c.vq.filter fun d => d.ts == ts && d.vectorStore).getLast?).map (·.id)

/-- The digest is kept while the task records or replays (R246, R248). -/
def State.digests (s : State) (core : Nat) : Bool :=
  match s.taskOf core with
  | some t => t.record || t.replay
  | none => false

/-- Stores enter a thread's digest in program order: behind a vector store that has not completed they wait (R248). -/
def State.foldWrites (s : State) (core : Nat) (ts : Fin 4) (ws : List (Word × List Byte)) : State :=
  if !s.digests core then s
  else
    match (s.core core).storing ts with
    | some n => s.modThread core ts fun h => { h with behind := h.behind ++ ws.map fun (a, bs) => (n, a, bs) }
    | none => s.modThread core ts fun h => { h with digest := digestStores h.digest ws }

/-- A scalar store enters the digest. -/
def State.foldDigest (s : State) (core : Nat) (ts : Fin 4) (a : Word) (bs : List Byte) : State :=
  s.foldWrites core ts [(a, bs)]

/-- A store of the vector command that completes enters the digest. -/
def State.foldVector (s : State) (core : Nat) (ts : Fin 4) (a : Word) (bs : List Byte) : State :=
  if s.digests core then s.modThread core ts fun h => { h with digest := digestStore h.digest a bs } else s

/-- The stores that waited behind vector stores that are no longer outstanding enter the digest. -/
def Thread.foldBehind (t : Thread) (live : List Nat) : Thread :=
  { t with digest := digestStores t.digest ((t.behind.takeWhile fun e => !live.contains e.1).map (·.2)),
           behind := t.behind.dropWhile fun e => !live.contains e.1 }

/-- The digest of a thread set goes on after its vector queue has changed. -/
def State.foldOn (s : State) (core : Nat) (ts : Fin 4) : State :=
  if (s.thread core ts).behind.isEmpty then s
  else s.modThread core ts fun h => h.foldBehind ((s.core core).vq.map (·.id))

/-- The scratchpad or bank of an SRAM key. -/
def sramUnit (k : Nat) : Nat :=
  if k < 0x40000000 then k / 0x40000
  else if k < 0x60000000 then 0x10000 + (k - 0x40000000) / 0x80000
  else if k < 0x80000000 then 0x20000 + (k - 0x60000000) / 0x200000
  else 0x30000 + (k - 0x80000000) / 0x800000

/-- The target that an access arrives at: a scratchpad, a bank, or an eaves station (R102). -/
def Access.home (a : Access) : Nat :=
  match a.place, a.loc with
  | .glob g, _ => 0x40000 + stationOf (g.toNat % 2 ^ 56)
  | _, .sram k => sramUnit k
  | _, .cell _ => 0x40000

/-- The arbiters of the networks between a core and what lies at a distance from it: the tile, group and super-group levels, and
the die crossbar (R55). -/
def pathOf (core scope : Nat) : List (Nat × Nat) :=
  ((List.range (min scope 3)).map fun l => (l + 1, core / levelCores (l + 1))) ++ (if 4 ≤ scope then [(4, core / 1024)] else [])

/-- How far a home lies from a core, as the networks count it: a scratchpad, a bank of a level, or a station (R55, R150). -/
def reachOf (core home : Nat) : Nat :=
  let bank (l u : Nat) : Nat := max l (commonScope core (u * levelCores l + core % levelCores l))
  if home < 0x10000 then commonScope core home
  else if home < 0x20000 then bank 1 (home - 0x10000)
  else if home < 0x30000 then bank 2 (home - 0x20000)
  else if home < 0x40000 then bank 3 (home - 0x30000)
  else 4

/-- The arbiter of a home: a bank or a station; a scratchpad has none (R55). -/
def homeArbiter (home : Nat) : List (Nat × Nat) := if 0x10000 ≤ home then [(0, home)] else []

/-- The arbiters that an access of a core passes (R55). -/
def Access.arbiters (a : Access) (core : Nat) : List (Nat × Nat) := pathOf core a.scope ++ homeArbiter a.home

/-- Arbiters passed in this step. -/
def State.touchAt (s : State) (l : List (Nat × Nat)) : State := if l.isEmpty then s else { s with touched := s.touched ++ l }

/-- The access of a core passes its arbiters (R55). -/
def State.touch (s : State) (core : Nat) (a : Access) : State := s.touchAt (a.arbiters core)

/-- What is under way is a store of a core that lands before one made after it by a thread set to `n` bytes of a place: of the
same thread when it goes to the same target or to a byte of it, or when an order holds the later one behind all (R102, R153,
R155); and every one of the core's engines before a later one of theirs (R163). -/
def Fly.leads (g : Fly) (core : Nat) (ts : Fin 4) (l : Loc) (n : Nat) (t : StoreTag) : Bool :=
  g.core == core &&
    (match g.what with
     | .store m w u => (g.ts == ts && (t.after || u.home == t.home || m.meets w.length l n)) || (u.eng && t.eng)
     | _ => false)

/-- A store must land before one that the thread set makes now. -/
def State.storeAhead (s : State) (core : Nat) (ts : Fin 4) (l : Loc) (n : Nat) (t : StoreTag) : Bool :=
  s.fab.fly.any fun g => g.leads core ts l n t

/-- A store whose checks have passed: into the own scratchpad at once when nothing is ahead of it, else under way to its
home (R103). -/
def State.storeTo (s : State) (core : Nat) (ts : Fin 4) (own : Bool) (l : Loc) (bs : List Byte) (t : StoreTag) : State :=
  if own && !s.storeAhead core ts l bs.length t then s.land l bs else s.launch core ts (.store l bs t)

/-- A store of a checked access. -/
def State.store (s : State) (core : Nat) (ts : Fin 4) (acc : Access) (bs : List Byte) (after eng : Bool) : State :=
  s.storeTo core ts (acc.place.isOwn core) acc.loc bs ⟨acc.home, after, eng, s.absAddr core acc.place⟩

/-- The store `f` may land: every earlier one that it lands behind has landed (R102, R153, R155, R163). -/
def State.mayLand (s : State) (f : Fly) : Bool :=
  match f.what with
  | .store l bs t => !(s.fab.fly.any fun g => decide (g.id < f.id) && g.leads f.core f.ts l bs.length t)
  | _ => true

/-- ACCESS_AT_HOME: a store under way is performed at its home (R103, R154). -/
def execAccessAtHome (n : Nat) (s : State) : Res :=
  match s.fab.fly.find? (·.id == n) with
  | some f =>
    match f.what with
    | .store l bs _ => if s.mayLand f then .next ((s.landed n).land l bs) else .next s
    | _ => .next s
  | none => .next s

/-- ARBITER_AGE_LIMIT: a request has waited 1,024 cycles at its arbiter, and is served before every request that arrived
there after it (R55). -/
def execArbiterAgeLimit (n : Nat) (s : State) : Res :=
  let late (f : Fly) : Fly := { f with aged := f.aged || (f.id == n && decide (f.cyc + 1024 ≤ s.cycle)) }
  .next { s with fab := { s.fab with fly := s.fab.fly.map late } }

end Sys2Proof.Machine
end

