-- ==== Sys2Proof/Machine/Ops.lean ====
section
/-!
DEFINITION. The shared operations of instructions: issue and retirement, traps and returns, registers, streams,
scalar accesses and flags (R167 to R175, R224 to R230, R267, R282).
-/
namespace Sys2Proof.Machine
open Sys2Proof

/-- Why an instruction does not retire: it waits, without or with an effect kept; it traps, exactly, exactly with an
effect kept, or with `EPC` naming the next instruction. -/
inductive Stop where
  | hold
  | holdIn (f : State → State)
  | trap (cause : BitVec 8) (info : Word)
  | trapIn (f : State → State) (cause : BitVec 8) (info : Word)
  | trapNext (s : State) (cause : BitVec 8) (info : Word)

/-- Where an instruction that retires goes on: the next address, a transfer, or a transfer that keeps the loop state
(calls and `LOOP`, R283). -/
inductive Flow where
  | next
  | jump (t : BitVec 16)
  | call (t : BitVec 16)
  deriving DecidableEq, Repr

/-- What an instruction does: a new state and a value, or a reason why it does not retire. -/
abbrev M := StateT State (Except Stop)

/-- The instruction waits. -/
def hold {α : Type} : M α := fun _ => .error .hold
/-- The instruction traps exactly. -/
def trap {α : Type} (cause : BitVec 8) (info : Word := 0) : M α := fun _ => .error (.trap cause info)
/-- The instruction waits unless a condition holds. -/
def holdUnless (b : Bool) : M Unit := fun s => if b then .ok ((), s) else .error .hold
/-- The instruction traps when a condition holds. -/
def trapIf (b : Bool) (cause : BitVec 8) (info : Word := 0) : M Unit :=
  fun s => if b then .error (.trap cause info) else .ok ((), s)
/-- The thread at issue. -/
def getThr (c : Ctx) : M Thread := fun s => .ok (s.thread c.core c.ts, s)
/-- The core at issue. -/
def getCore (c : Ctx) : M Core := fun s => .ok (s.core c.core, s)
/-- The state. -/
def getState : M State := fun s => .ok (s, s)
/-- The state changed. -/
def modState (f : State → State) : M Unit := fun s => .ok ((), f s)
/-- The thread at issue changed. -/
def modThr (c : Ctx) (f : Thread → Thread) : M Unit := modState fun s => s.modThread c.core c.ts f
/-- The core at issue changed. -/
def modCore (c : Ctx) (f : Core → Core) : M Unit := modState fun s => s.setCore c.core (f (s.core c.core))
/-- The next instruction. -/
def goOn : M Flow := fun s => .ok (.next, s)

/-! ## Status fields (R227) -/

/-- `inh`: the resident handler runs. -/
def Thread.inh (t : Thread) : Bool := t.estat.getLsbD 8
/-- `phand`: the program handler runs. -/
def Thread.phand (t : Thread) : Bool := t.estat.getLsbD 9

/-- `ESTAT` from its fields. -/
def estatOf (cpseq : BitVec 16) (late mpend phand inh : Bool) : Word :=
  BitVec.ofNat 64 (cpseq.toNat * 2 ^ 48 + boolNat late * 2 ^ 11 + boolNat mpend * 2 ^ 10 + boolNat phand * 2 ^ 9 +
    boolNat inh * 2 ^ 8)

/-- The segment of an instruction address (R179). -/
def segOf (a : BitVec 16) : Nat := a.toNat / 4096

/-- `THREADID` of a thread set of a domain-relative core (R169). -/
def Thread.idWord (t : Thread) (rel : Nat) (ts : Fin 4) : Word :=
  BitVec.ofNat 64 (t.gwidth * 2 ^ 24 + t.gpos * 2 ^ 16 + rel * 4 + ts.val)

/-- The instruction at issue runs in segment 0 (R169). -/
def Ctx.resident (c : Ctx) : Bool := segOf c.addr == 0

/-! ## Errors and the end of crews (R66, R225) -/

/-- A crew raises error bits (R45, R66, R118). -/
def State.raise (s : State) (core : Nat) (bits : BitVec 16) (cause : BitVec 8) : State :=
  let c := s.core core
  let crew := c.crew.map fun w =>
    { w with errors := w.errors ||| bits.setWidth 8, cause := if w.errors == 0 then cause else w.cause }
  s.setCore core { c with crew := crew, ridge := c.ridge.map fun r => { r with errors := r.errors ||| bits } }

/-- A thread set joins the order of turns. -/
def State.enqueue (s : State) (core : Nat) (ts : Fin 4) : State :=
  if s.runq.contains (core, ts) then s else { s with runq := s.runq ++ [(core, ts)] }

/-- A thread set stops; its claims go when its matrix commands have completed (R353). -/
def Thread.stop (t : Thread) : Thread :=
  { t with run := if t.run == .off then .off else .stopped, stopReq := false, due := {}, joining := none, rwait := none,
           rword := none, lapWait := none, lapFor := none, matWait := false, drew := 0, sending := none, asked := [],
           estat := t.estat &&& ~~~(0x300 : Word) }

/-- The submissions of a core's thread sets that no port has decided are withdrawn (R324). -/
def State.withdrawAll (s : State) (core : Nat) : State := (List.finRange 4).foldl (fun s ts => s.withdraw core ts) s

/-- A trap ends the crew: every thread stops, its engine commands that have not completed are discarded, and it will
report error bit 0, or bit 1 for a machine check, and the cause (R225). -/
def State.endCrew (s : State) (core : Nat) (bits : BitVec 16) (cause : BitVec 8) : State :=
  let s := (s.raise core bits cause).withdrawAll core
  let c := s.core core
  s.setCore core
    { c with thr := c.thr.map Thread.stop, vq := [], mq := [], copyq := [],
             crew := c.crew.map fun w => { w with clean := false },
             slots := c.slots.map fun o => { o with owner := none } }

/-- Error bit of a cause that ends a crew (R225). -/
def errorBit (cause : BitVec 8) : BitVec 16 := if 0xC0 ≤ cause.toNat && cause.toNat ≤ 0xDF then 2 else 1

/-! ## Record and replay logs (R246) -/

/-- An entry of a crew's log at an address: counts of entries written and lost, then the entries. -/
def State.logEntry (s : State) (core : Nat) (w0 w1 : Word) : State :=
  match s.taskOf core with
  | none => s
  | some t =>
    match t.record, t.image.replay with
    | true, some (base, per, _) =>
      let area := base + BitVec.ofNat 64 (s.relOf core) * per
      match s.globalBytes t.asid area 16 with
      | .error (_, s) => s
      | .ok (h, s) =>
        let n := leNat (h.take 8)
        let lost := leNat (h.drop 8)
        let room := 16 + 16 * n + 16 ≤ per.toNat
        let bs := if room then leBytes 8 (n + 1) ++ leBytes 8 lost else leBytes 8 n ++ leBytes 8 (lost + 1)
        let s := match s.globalWrite t.asid area bs with | .ok s => s | .error (_, s) => s
        if room then
          match s.globalWrite t.asid (area + BitVec.ofNat 64 (16 + 16 * n)) (leBytes 8 w0.toNat ++ leBytes 8 w1.toNat) with
          | .ok s => s
          | .error (_, s) => s
        else s
    | _, _ => s

/-- The course of a core at its task's domain level (R239). -/
def State.courseOf (s : State) (core : Nat) : BitVec 48 :=
  match s.taskOf core with
  | some t => (s.core core).course.toList.getD t.level 0
  | none => 0

/-- A log entry of a type, from a source core, for a thread set (R246). -/
def State.record (s : State) (core : Nat) (ty src : Nat) (ts : Fin 4) (detail : Nat) : State :=
  s.logEntry core (BitVec.ofNat 64 (ty * 2 ^ 60 + src % 4096 * 2 ^ 48 + (s.courseOf core).toNat))
    (BitVec.ofNat 64 ((s.thread core ts).retired.toNat * 2 ^ 32 + ts.val * 2 ^ 30 + detail % 2 ^ 30))

/-! ## Traps (R224 to R230) -/

/-- Dispositions of R225. -/
inductive Disp where
  | system | program | ends
  deriving DecidableEq, Repr

/-- The disposition of a cause (R224). -/
def dispOf (cause : BitVec 8) : Disp :=
  let n := cause.toNat
  if n == 0x09 then .ends
  else if 0xA0 ≤ n && n ≤ 0xA5 then .system
  else if 0xC0 ≤ n && n ≤ 0xC9 && n != 0xC6 then .ends
  else .program

/-- Further late faults or scope misses wait (R227). -/
def Due.more (d : Due) : Bool := !d.lates.isEmpty || !d.misses.isEmpty

/-- A thread takes a trap in one step (R226): the saved registers, the status and the program counter. A wait in `GANG` is
over, and its instruction is made again (R321); a record that `ST64S` has presented stays presented (R41). -/
def State.enter (s : State) (core : Nat) (ts : Fin 4) (cause : BitVec 8) (info : Word) (epc : BitVec 16)
    (late : Bool) (cpseq : BitVec 16) : State :=
  s.modThread core ts fun t =>
    { t with
      saved := if dispOf cause == .system && t.phand then some (t.epc, t.cause, t.einfo, t.estat) else t.saved
      epc := epc, cause := cause, einfo := info
      estat := estatOf cpseq late t.due.more t.phand true
      pc := 0x20, run := .running, rwait := none, rword := none,
      lapWait := none, lapFor := none, matWait := false, drew := 0, sending := none, joining := none }

/-- An exact trap: in the resident handler it ends the crew with 0x09 and `EINFO` the cause not taken (R228). -/
def State.exactTrap (s : State) (core : Nat) (ts : Fin 4) (cause : BitVec 8) (info : Word) (epc : BitVec 16) : State :=
  let t := s.thread core ts
  if t.inh then
    (s.modThread core ts fun t => { t with einfo := cause.setWidth 64 }).endCrew core (errorBit 0x09) 0x09
  else s.enter core ts cause info epc false 0

/-- `ERET` (R230): to `EPC`; it clears `inh`, or `phand` when `inh` is 0. A system action that the program handler
was under gives it back its own saved registers. -/
def Thread.eret (t : Thread) : Thread :=
  if t.inh then
    match t.saved with
    | some (epc, cause, einfo, estat) =>
      { t with pc := t.epc, epc := epc, cause := cause, einfo := einfo, estat := estat &&& ~~~(0x100 : Word), saved := none }
    | none => { t with pc := t.epc, estat := t.estat &&& ~~~(0x100 : Word) }
  else { t with pc := t.epc, estat := t.estat &&& ~~~(0x200 : Word) }

/-! ## Retirement (R189, R282, R283) -/

/-- The loop rule on an instruction that retires without a taken transfer (R282). -/
def Thread.loopNext (t : Thread) (next : BitVec 16) : Thread :=
  match t.loop with
  | some l =>
    if l.stop == next then
      if 1 < l.remaining.toNat then { t with pc := l.start, loop := some { l with remaining := l.remaining - 1 } }
      else { t with pc := next, loop := none }
    else { t with pc := next }
  | none => { t with pc := next }

/-- An address lies in the body of a loop. -/
def LoopState.covers (l : LoopState) (a : BitVec 16) : Bool := l.start.toNat ≤ a.toNat && a.toNat < l.stop.toNat

/-- The thread goes on as an instruction at `addr` says. -/
def Thread.follow (t : Thread) (addr next : BitVec 16) : Flow → Thread
  | .next => t.loopNext next
  | .call u => { t with pc := u }
  | .jump u =>
    match t.loop with
    | some l => { t with pc := u, loop := if l.covers addr && !l.covers u then none else t.loop }
    | none => { t with pc := u }

/-- A thread's instruction retires: counted, running, its waits over. -/
def Thread.retire (t : Thread) (addr next : BitVec 16) (f : Flow) : Thread :=
  let t := t.follow addr next f
  { t with run := if t.run == .waiting then .running else t.run, retired := t.retired + 1, lapWait := none,
           lapFor := none, matWait := false, drew := 0, sending := none, rwait := none, rword := none, asked := t.asked.filter (·.1 != addr) }

/-- An instruction retires. -/
def State.retire (s : State) (c : Ctx) (f : Flow) : State := s.modThread c.core c.ts fun t => t.retire c.addr c.next f

/-- A thread waits; its instruction is made again at its next issue (R69). -/
def State.waits (s : State) (c : Ctx) : State :=
  s.modThread c.core c.ts fun t => { t with run := .waiting }

/-- What an instruction's body came to, taken on one thread. -/
def State.settle (s : State) (c : Ctx) : Except Stop (Flow × State) → State
  | .ok (f, s') => s'.retire c f
  | .error .hold => s.waits c
  | .error (.holdIn f) => (f s).waits c
  | .error (.trap cause info) => s.exactTrap c.core c.ts cause info c.addr
  | .error (.trapIn f cause info) => (f s).exactTrap c.core c.ts cause info c.addr
  | .error (.trapNext s' cause info) =>
    let s := s'.retire c .next
    s.exactTrap c.core c.ts cause info (s.thread c.core c.ts).pc

/-! ## Queues (R174, R256) -/

/-- A thread's bound queue. -/
def State.queue (s : State) (c : Ctx) (q : QReg) : Option QCopy := (s.thread c.core c.ts).q[q]

/-- XW: the instruction waits until the queue shows enough slots; an unbound handle traps (R256). -/
def waitXw (c : Ctx) (x : Pre) : M Unit := fun s =>
  match x.wait with
  | none => .ok ((), s)
  | some w =>
    match s.queue c w.queue with
    | none => .error (.trap 0x03 0)
    | some q => if w.count.val ≤ (if w.free then q.free else q.filled).toNat then .ok ((), s) else .error .hold

/-! ## Issue -/

/-- The members of a gang with the thread that issues (R62, R180): its contexts, the leader first. -/
def State.gangOf (s : State) (c : Ctx) : List Ctx :=
  let t := s.thread c.core c.ts
  (List.range t.gwidth).map fun k => { c with core := c.core - t.gpos + k }

/-- The state in which the instruction at issue has popped no stream element. -/
def State.unpopped (s : State) : State := { s with pops := [] }

/-- One instruction of one thread outside a gang. -/
def State.issueOne (s : State) (c : Ctx) (x : Pre) (body : Ctx → M Flow) : State :=
  s.unpopped.settle c ((do waitXw c x; body c) s.unpopped)

/-- The thread counts as stopped for a trap of a gang. -/
def Stop.isTrap : Stop → Bool
  | .hold | .holdIn _ => false
  | _ => true

/-- Where the leader goes, as its followers take it (R180): they make no check of their own target. -/
def Ctx.leads (c : Ctx) : Except Stop Flow → BitVec 16
  | .ok (.jump u) | .ok (.call u) => u
  | _ => c.next

/-- What each follower of a gang comes to, from one state on. -/
def followersRun (x : Pre) (body : Ctx → M Flow) : List Ctx → State → List (Ctx × Except Stop Flow) × State
  | [], s => ([], s)
  | c :: cs, s =>
    match (do waitXw c x; body c) { s with pops := [], fetch := some c } with
    | .ok (f, s') => let (r, s'') := followersRun x body cs s'; ((c, .ok f) :: r, s'')
    | .error e => let (r, s'') := followersRun x body cs s; ((c, .error e) :: r, s'')

/-- What each member of a gang comes to, the leader first. -/
def gangRun (x : Pre) (body : Ctx → M Flow) : List Ctx → State → List (Ctx × Except Stop Flow) × State
  | [], s => ([], s)
  | c :: cs, s =>
    let (r, s') : Except Stop Flow × State :=
      match (do waitXw c x; body c) { s with pops := [], fetch := some c } with
      | .ok (f, s') => (.ok f, s')
      | .error e => (.error e, s)
    let (rs, s'') := followersRun x body (cs.map fun m => { m with lead := some (c.leads r) }) s'
    ((c, r) :: rs, s'')

/-- A gang's instruction (R180): every member executes it and the leader decides transfers. When a member traps, that
member takes its trap and the others stop at the same boundary with 0xA4; when a member waits, all wait. -/
def State.issueGang (s : State) (cs : List Ctx) (x : Pre) (body : Ctx → M Flow) : State :=
  let (rs, done) := gangRun x body cs s
  let stops := rs.filterMap fun (c, r) => match r with | .error e => some (c, e) | .ok _ => none
  if stops.any fun (_, e) => e.isTrap then
    rs.foldl (fun s (c, r) =>
      match r with
      | .error (.trapNext _ a b) => s.settle c (.error (.trapNext s a b))
      | .error e =>
        if e.isTrap then s.settle c (.error e)
        else s.modThread c.core c.ts fun t => { t with due := { t.due with peerStopped := true } }
      | .ok _ => s.modThread c.core c.ts fun t => { t with due := { t.due with peerStopped := true } }) s
  else if !stops.isEmpty then stops.foldl (fun s (c, e) => s.settle c (.error e)) s
  else
    match rs with
    | (lead, .ok f) :: _ =>
      let s := done.retire lead f
      let l := s.thread lead.core lead.ts
      (cs.drop 1).foldl (fun s c => (s.retire c f).modThread c.core c.ts fun t => { t with pc := l.pc, loop := l.loop }) s
    | _ => s

/-- The thread issues alone: outside a gang, or in a handler, where forwarding is suspended (R180). -/
def Thread.alone (t : Thread) : Bool := t.gwidth ≤ 1 || t.inh || t.phand

/-- An instruction is issued by the thread at issue, with its gang when it has one. -/
def issue (x : Pre) (body : Ctx → M Flow) (s : State) : Res :=
  match s.fetch with
  | none => .fault .noThread
  | some c =>
    if (s.thread c.core c.ts).alone then .next (s.issueOne c x body)
    else .next { s.issueGang (s.gangOf c) x body with fetch := s.fetch }

/-! ## Scalar accesses (R103, R275, R276) -/

/-- The access is one of the resident handler's at its save block (R101). -/
def sysAccess (c : Ctx) (t : Thread) : Bool := c.resident && t.inh

/-- The energy class of an access: by the space of its address, local, near or global (R75, R100). -/
def spaceClass (a : Word) : Nat := if a.toNat < 0x40000 then 2 else if a.getLsbD 63 then 4 else 3

/-- The issue of an access at an address debits its class, except in the resident handler (R72, R75). -/
def State.debitSpace (s : State) (c : Ctx) (a : Word) : State :=
  if (s.thread c.core c.ts).inh then s else s.debitClass c.core (spaceClass a) 1

/-- A global request waits while the tenant's bandwidth level is not above 0 (R71). -/
def State.portHeld (s : State) (c : Ctx) (p : Place) : Bool :=
  p.isGlobal && !(s.thread c.core c.ts).inh && s.bandwidthHeld c.core

/-- What the request of `n` bytes that leaves costs at the port, except in the resident handler (R71). -/
def State.debitPort (s : State) (c : Ctx) (p : Place) (n : Nat) : State :=
  if p.isGlobal && !(s.thread c.core c.ts).inh then s.debitBandwidth c.core n else s

/-- What a scalar access costs: its request and its issue (R71, R72, R75). -/
def State.debitAccess (s : State) (c : Ctx) (a : Word) (p : Place) (n : Nat) : State := (s.debitPort c p n).debitSpace c a

/-- A vector command of the thread with an acquire order has not completed (R296). -/
def State.acquiring (s : State) (core : Nat) (ts : Fin 4) : Bool :=
  (s.core core).vq.any fun d => d.ts == ts && (d.x.order == .acq || d.x.order == .acqrel)

/-- A faulting access of a thread traps exactly; a translation that it made stays cached (R103, R104). -/
def accessFault (c : Ctx) (a : Word) (e : BitVec 8) : Stop := .trapIn (fun s => s.walked (s.asidOf c.core) a e) e a

/-- A faulting access of an instruction that is an access debits its class too: it has issued (R72). -/
def accessTrap (c : Ctx) (a : Word) (e : BitVec 8) : Stop :=
  .trapIn (fun s => (s.walked (s.asidOf c.core) a e).debitSpace c a) e a

/-- A load that is `strong` and does not miss its scope is satisfied at its home: the thread's own stores to its bytes land
first (R158, R159). -/
def State.strongHolds (s : State) (c : Ctx) (x : Pre) (acc : Access) (n : Nat) : Bool :=
  x.strong && !missesScope x acc.scope && (s.storesOf c.core c.ts).any fun f => f.over acc.loc n

/-- A load of `n` bytes, aligned to `al`, with its lap check and its scope (R275, R147, R159). -/
def loadMem (c : Ctx) (x : Pre) (a : Word) (n al : Nat) : M (List Byte) := fun s =>
  match s.access c.core a n al false (sysAccess c (s.thread c.core c.ts)) with
  | .error e => .error (accessTrap c a e)
  | .ok (acc, s1) =>
    if s.acquiring c.core c.ts || s.strongHolds c x acc n then .error .hold
    else if s.portHeld c acc.place then .error (.holdIn fun s => s.noteHeld c.core false)
    else
      let read (s : State) : State × List Byte :=
        (((s.debitAccess c a acc.place n).touch c.core acc).missed c.core c.ts x 0 a n 0 acc.scope,
          s.seenBytes c.core c.ts acc.loc n)
      match s1.lapCheckAt c.core acc.place n with
      | .plain => let (s2, v) := read s1; .ok (v, s2)
      | .park ps =>
        if (s.thread c.core c.ts).lapWait == some a then .error .hold
        else .error (.holdIn fun s => (s.countWaits c.core ps).modThread c.core c.ts fun t => { t with lapWait := some a })
      | .stale ps policy =>
        let s2 := s1.countStales c.core ps
        if policy == 2 then .error (.trapIn (fun s => (s.countStales c.core ps).debitSpace c a) 0x86 a)
        else
          let (s3, v) := read s2
          let s3 := if policy == 1 then s3.modThread c.core c.ts fun t =>
            { t with due := { t.due with stales := t.due.stales ++ [⟨0, 0x85, a, false⟩] } } else s3
          .ok (v, s3)

/-- The order of a store holds it behind earlier stores (R155, R158), unless the store misses its scope: it is then delivered
relaxed (R159). -/
def orderedStore (x : Pre) (home : Nat) : Bool :=
  (x.order == .rel || x.order == .acqrel || x.strong) && !missesScope x home

/-- A store of bytes, aligned to `al` (R276): all checks at once, landing later outside the own scratchpad. -/
def storeMem (c : Ctx) (x : Pre) (a : Word) (bs : List Byte) (al : Nat) : M Unit := fun s =>
  match s.access c.core a bs.length al true (sysAccess c (s.thread c.core c.ts)) with
  | .error e => .error (accessTrap c a e)
  | .ok (acc, s1) =>
    if s.acquiring c.core c.ts then .error .hold
    else if s.portHeld c acc.place then .error (.holdIn fun s => s.noteHeld c.core false)
    else
      let s2 := s1.store c.core c.ts acc bs (orderedStore x acc.scope) false
      let s3 := (s2.debitAccess c a acc.place bs.length).foldDigest c.core c.ts a bs
      .ok ((), s3.missed c.core c.ts x 1 a bs.length (BitVec.ofNat 64 (leNat bs)) acc.scope)

/-! ## Streams (R175) -/

/-- Address of element `k` of a stream. -/
def Stream.addr (st : Stream) (k : Nat) : Word :=
  st.base + wordOfInt (((k % st.count0 : Nat) : Int) * st.stride0 + ((k / st.count0 : Nat) : Int) * st.stride1)

/-- Elements of a stream. -/
def Stream.total (st : Stream) : Nat := st.count0 * st.count1

/-- Address of the next element; in a queue direction it waits for one slot and lies in the queue's slots (R175). -/
def streamNext (c : Ctx) (st : Stream) (write : Bool) : M Word := fun s =>
  if (st.dir.val % 2 == 1) != write then .error (.trap 0x02 0)
  else if st.total ≤ st.pos then .error (.trap 0x04 0)
  else if st.dir.val < 2 then .ok (st.addr st.pos, s)
  else
    match s.queue c st.queue with
    | none => .error (.trap 0x03 0)
    | some q =>
      if (if write then q.free else q.filled) == 0 then .error .hold
      else .ok (q.base + BitVec.ofNat 64 ((st.start.toNat + st.pos) % 2 ^ 32 % q.nslot * (q.ssize * 16)), s)

/-- The position of a thread's stream moves by one. -/
def Thread.advance (t : Thread) (vec : Bool) (n : Fin 8) : Thread :=
  if vec then { t with sv := t.sv.set n (t.sv[n].map fun st => { st with pos := st.pos + 1 }) }
  else { t with ss := t.ss.set n (t.ss[n].map fun st => { st with pos := st.pos + 1 }) }

/-- The binding of a stream register, when it is one of the last eight of its class. -/
def Thread.stream (t : Thread) (vec : Bool) (n : Fin 32) : Option (Fin 8 × Stream) :=
  if h : 24 ≤ n.val then
    let k : Fin 8 := ⟨n.val - 24, by omega⟩
    (if vec then t.sv[k] else t.ss[k]).map fun st => (k, st)
  else none

/-- The element an instruction pops from a stream register: one, however many operands name it. -/
def popStream (c : Ctx) (vec : Bool) (k : Fin 8) (st : Stream) : M VWord := do
  let s ← getState
  match s.pops.find? fun (v, n, _) => v == vec && n == k.val with
  | some (_, _, w) => return w
  | none =>
    let a ← streamNext c st false
    let n := if vec then 64 else 8
    let bs ← loadMem c {} a n n
    let w : VWord := BitVec.ofNat 512 (leNat bs)
    modThr c fun t => t.advance vec k
    modState fun s => { s with pops := s.pops ++ [(vec, k.val, w)] }
    return w

/-! ## Registers (R168, R267) -/

/-- A command dispatched writes a scalar register (R332, R363). -/
def Cmd.writesScalar (d : Cmd) : Bool :=
  match d.kind with
  | .extr | .kpopc | .kfirst | .kmovs | .mstat => true
  | _ => false

/-- A command of the thread will write a scalar register. -/
def State.scalarBusy (s : State) (c : Ctx) (n : Nat) : Bool :=
  let k := s.core c.core
  (k.vq.any fun d => d.ts == c.ts && d.writesScalar && d.a == n) ||
  (k.mq.any fun d => d.ts == c.ts && d.writesScalar && d.a == n)

/-- A scalar register read: `s0` is 0; a read stream pops; a register that a command will write waits. -/
def readS (c : Ctx) (n : SReg) : M Word := fun s =>
  if n = 0 then .ok (0, s)
  else if s.scalarBusy c n.val then .error .hold
  else
    match (s.thread c.core c.ts).stream false n with
    | none => .ok ((s.thread c.core c.ts).s[n], s)
    | some (k, st) => ((fun w => w.setWidth 64) <$> popStream c false k st) s

/-- A scalar register set, `s0` never. -/
def Thread.setS (t : Thread) (n : SReg) (v : Word) : Thread := if n = 0 then t else { t with s := t.s.set n v }

/-- A scalar register written: `s0` discards; a write stream appends. -/
def writeS (c : Ctx) (n : SReg) (v : Word) : M Unit := fun s =>
  if n = 0 then .ok ((), s)
  else if s.scalarBusy c n.val then .error .hold
  else
    match (s.thread c.core c.ts).stream false n with
    | none => .ok ((), s.modThread c.core c.ts fun t => t.setS n v)
    | some (k, st) =>
      (do
        let a ← streamNext c st true
        storeMem c {} a (leBytes 8 v.toNat) 8
        modThr c fun t => t.advance false k) s

/-- Flags set at retirement (R189). -/
def addFlags (c : Ctx) (f : Flags) : M Unit := modThr c fun t => { t with fpflags := t.fpflags ||| f }

/-- The thread's commands on an engine have completed. -/
def State.idleV (s : State) (c : Ctx) : Bool := !(s.core c.core).vq.any (·.ts == c.ts)
def State.idleM (s : State) (c : Ctx) : Bool := !(s.core c.core).mq.any (·.ts == c.ts)

/-- Every store of the thread has landed. -/
def State.storesDone (s : State) (c : Ctx) : Bool := (s.storesOf c.core c.ts).isEmpty

/-- The operands of R438: a block of the own scratchpad at a local address, read after a vector command of acquire order that
the thread has dispatched (R296). -/
def localBlock (c : Ctx) (a : Word) (n al : Nat) (space align : BitVec 8) (alignInfo : Bool) : M (List Byte) := do
  trapIf (0x40000 ≤ a.toNat) space
  trapIf (a.toNat % al != 0) align (if alignInfo then a else 0)
  let s ← getState
  trapIf (sysReserved < a.toNat + n && !sysAccess c (s.thread c.core c.ts)) 0x62 a
  holdUnless (!s.acquiring c.core c.ts)
  return s.seenBytes c.core c.ts (.sram (padKey c.core + a.toNat)) n

end Sys2Proof.Machine
end

