-- ==== Sys2Proof/Machine/Draw.lean ====
section
/-!
DEFINITION. Lazy-uniform values: the generators, extension and the decisions (R209 to R219).
-/
namespace Sys2Proof.Machine
open Sys2Proof

/-- Lane `i` of the lazy-uniform registers from `base` on (R330). -/
def yLane (ys : Vector YVec 8) (base i : Nat) : YLane :=
  ((ys.toList.getD (base + i / 16) (Vector.replicate 16 {})).toList).getD (i % 16) {}

/-- The lane set. -/
def setYLane (ys : Vector YVec 8) (base i : Nat) (l : YLane) : Vector YVec 8 :=
  ys.setIfInBounds (base + i / 16)
    ((ys.toList.getD (base + i / 16) (Vector.replicate 16 {})).setIfInBounds (i % 16) l)

/-! ## Generators (R212, R213) -/

/-- Who draws: a thread set of a core, or the home of a row for it (R223), with the key slots as they stand, the place of the
instruction in the order of issue, and the table requests that left the port before it was held there (R71). -/
structure Drawer where
  core : Nat
  ts : Fin 4
  keys : Vector KeySlot 8
  id : Nat
  paid : Nat := 0
  atHome : Bool := false

/-- Why an extension stops: a fault with its cause and `EINFO` (R213), a table request held at the core's port, with the
requests of the instruction that have left (R71), or one that waits for a store that it sees (R163). -/
inductive DrawStop where
  | fault (cause : BitVec 8) (info : Word) (s : State)
  | held (left : Nat)
  | wait

/-- Table requests made, and rounds with their cycles (R215). -/
structure DrawCost where
  asked : Nat := 0
  rounds : Nat := 0
  cycles : Nat := 0

/-- Whether two dies differ, as a number of bridge crossings. -/
def crossing (a b : Nat) : Nat := boolNat (a != b)

/-- The least latency of a read by scope of its home: own scratchpad, tile, group, super-group, die, package (R102). -/
def scopeLatency (n : Nat) : Nat := [2, 4, 8, 12, 36, 96].getD n 96

/-- The least latency of a read: for a global one by its station and channel, with the levels of a walk (R102, R108). -/
def readLatency (core : Nat) (acc : Access) (levels : Nat) : Nat :=
  match acc.place, acc.loc with
  | .glob a, .cell c =>
    let d := core / 1024
    let st := fieldOf a.toNat 21 20
    let ch := c / 4096 % 192 / 48
    (if c < lpddrEnd then 150 + 30 * (crossing d st + crossing st ch + crossing ch d)
     else if c < 0x8000000000000 then 420 else 1100) + 110 * levels
  | _, _ => scopeLatency acc.scope

/-- The levels that the translation of a global address walks; none where its station has it cached (R102, R104, R105). -/
def State.levelsWalked (s : State) (core : Nat) (a : Word) : Nat :=
  let va := a.toNat % 2 ^ 56
  if (tblGet s.xl.tlb (stationOf va) []).any (·.covers (s.asidOf core) va) then 0
  else
    match walk s.mem.phys s.xl.rootE (s.asidOf core) va with
    | .ok l => (56 - l.log) / 10
    | .error _ => 0

/-- The latency of a table read: in the own scratchpad that of R102 (R373, R414); what contention adds to another is free. -/
def State.tableLatency (s : State) (core : Nat) (a : Word) (acc : Access) : Nat :=
  readLatency core acc (s.levelsWalked core a) + (if acc.place.isOwn core then 0 else (Config.freeWord s.fresh).toNat)

/-- Chunk `k` of a draw index under a key slot (R212, R213), the latency of a table read and the table requests so far. The
read is one of the vector engine's (R163). -/
def State.chunk (s : State) (d : Drawer) (sl : KeySlot) (index : BitVec 48) (k asked : Nat) :
    Except DrawStop (BitVec 32 × Nat × Nat × State) :=
  if sl.kind == 0 then
    let stream : BitVec 32 := match s.taskOf d.core with | some t => t.stream | none => 0
    .ok (chacha20Word sl.key (index.setWidth 32) ((index >>> 32).setWidth 32) stream 0 k, 0, asked, s)
  else if index.toNat < sl.ibase || sl.entries ≤ index.toNat - sl.ibase then .error (.fault 0x4C (index.setWidth 64) s)
  else
    let a := sl.tbase + BitVec.ofNat 64 (((index.toNat - sl.ibase) * 6 + k) * 4)
    match s.access d.core a 4 4 false false with
    | .error e => .error (.fault e a (s.walked (s.asidOf d.core) a e))
    | .ok (acc, s1) =>
      let port := acc.place.isGlobal && !d.atHome
      if s.behindStore d.core d.ts d.id acc.loc 4 then .error .wait
      else if port && decide (d.paid ≤ asked) && s.bandwidthHeld d.core then .error (.held asked)
      else
        let s2 := if port && decide (d.paid ≤ asked) then s1.debitBandwidth d.core 4 else s1
        .ok (BitVec.ofNat 32 (leNat (s.bytesAt acc.loc 4)), s.tableLatency d.core a acc, asked + boolNat port,
          { s2.touch d.core acc with fresh := s2.fresh + 1 })

/-! ## Rounds (R215) -/

/-- A lane with one chunk more (R210). -/
def YLane.grow (l : YLane) (c : BitVec 32) : YLane :=
  { l with known := l.known ||| (c.setWidth 192 <<< (160 - l.len)), len := l.len + 32 }

/-- One round: each of the lanes gains a chunk, in order; with the longest latency of its table reads. -/
def State.extendLanes (d : Drawer) : List Nat → Vector YVec 8 → Nat → Nat → State →
    Except DrawStop (Vector YVec 8 × Nat × Nat × State)
  | [], ys, asked, lat, s => .ok (ys, asked, lat, s)
  | p :: r, ys, asked, lat, s =>
    let l := yLane ys 0 p
    match s.chunk d d.keys[l.slot] l.index (l.len / 32) asked with
    | .error e => .error e
    | .ok (c, n, asked, s) => State.extendLanes d r (setYLane ys 0 p (l.grow c)) asked (max lat n) s

/-- The rounds of an instruction debited: their cycles and their energy (R215). Those of a row's home show in no register. -/
def State.debitRounds (s : State) (d : Drawer) (k : DrawCost) : State :=
  if d.atHome || k.rounds == 0 then s
  else (s.modThread d.core d.ts fun t => { t with yxcyc := t.yxcyc + BitVec.ofNat 48 k.cycles }).debitClass d.core 8 k.rounds

/-- Rounds up to the one that leaves no lane undecided; the lanes still undecided are those that `wants` names. -/
def State.extendRounds (d : Drawer) (wants : Vector YVec 8 → List Nat) : Nat → Vector YVec 8 → DrawCost → State →
    Except DrawStop (Vector YVec 8 × State)
  | 0, ys, k, s => .ok (ys, s.debitRounds d k)
  | fuel + 1, ys, k, s =>
    if (wants ys).isEmpty then .ok (ys, s.debitRounds d k)
    else
      match State.extendLanes d (wants ys) ys k.asked 0 s with
      | .error (.fault c a s) => .error (.fault c a (s.debitRounds d k))
      | .error (.held n) => .error (.held n)
      | .error .wait => .error .wait
      | .ok (ys, asked, lat, s) => State.extendRounds d wants fuel ys ⟨asked, k.rounds + 1, k.cycles + max 20 lat⟩ s

/-- The lanes of an instruction extended as far as it needs them; a pair of lanes takes at most 12 rounds. -/
def State.extend (s : State) (d : Drawer) (wants : Vector YVec 8 → List Nat) (ys : Vector YVec 8) :
    Except DrawStop (Vector YVec 8 × State) := State.extendRounds d wants 12 ys {} s

/-- Table requests leave the port, and the core counts as held (R71). -/
def State.payDraws (s : State) (core : Nat) : Nat → State
  | 0 => s.noteHeld core false
  | n + 1 => (s.debitBandwidth core 4).payDraws core n

/-! ## Decisions (R216 to R219) -/

/-- U < n / 2^k where the prefix decides it. -/
def YLane.below? (l : YLane) (n k : Nat) : Option Bool :=
  let p := l.known.toNat
  if (p + 2 ^ (192 - l.len)) * 2 ^ k ≤ n * 2 ^ 192 then some true
  else if n * 2 ^ 192 ≤ p * 2 ^ k then some false
  else none

/-- The lane must grow before U < n / 2^k is decided. -/
def YLane.openBelow (l : YLane) (n k : Nat) : Bool := (l.below? n k).isNone && decide (l.len < 192)

/-- U < n / 2^k of a lane that needs no more chunks; undecided at 192 bits it is exhausted, and the comparison holds (R217). -/
def YLane.below (l : YLane) (n k : Nat) : Bool × YLane :=
  match l.below? n k with
  | some b => (b, l)
  | none => (true, { l with exh := true })

/-- A rounding needs more of its lane (R185, R217). -/
def RoundRes.open_ (r : RoundRes) (l : YLane) : Bool :=
  match r with
  | .done _ _ => false
  | .choose n k _ _ _ _ => l.openBelow n k

/-- A rounding decided by a lane (R185, R217). -/
def RoundRes.by_ (r : RoundRes) (l : YLane) : (Nat × Flags) × YLane :=
  match r with
  | .done b f => ((b, f), l)
  | .choose n k _ _ _ _ => (r.pick (l.below n k).1, (l.below n k).2)

/-- Two lanes of one draw: they have no order (R218). -/
def sameDraw (a b : YLane) : Bool := a.index == b.index && a.slot == b.slot

/-- Which of two lanes must grow before they are ordered: the shorter, or both while their prefixes agree (R218). -/
def openPair (a b : YLane) : Bool × Bool :=
  if sameDraw a b then (false, false)
  else if a.len != b.len then (decide (a.len < b.len), decide (b.len < a.len))
  else
    let g := a.known == b.known && decide (a.len < 192)
    (g, g)

/-- Both lanes are exhausted. -/
def pairSpent (a b : YLane) : Bool := !sameDraw a b && a.known == b.known && decide (192 ≤ a.len)

/-- U_a < U_b of two lanes that need no more chunks (R218). -/
def pairLess (a b : YLane) : Bool :=
  if sameDraw a b then false
  else if a.known != b.known then decide (a.known.toNat < b.known.toNat)
  else decide (a.index.toNat < b.index.toNat ∨ (a.index = b.index ∧ a.slot.val < b.slot.val))

/-- A lane must grow before its 24 bits from the leading one are known (R219). -/
def YLane.openFloat (l : YLane) : Bool :=
  let p := l.known.toNat
  decide (l.len < 192) && !(p != 0 && decide (192 - (p.log2 + 1) + 24 ≤ l.len))

/-- The `f32` value of U toward zero, and the lane (R219). -/
def YLane.float (l : YLane) : Nat × YLane :=
  let p := l.known.toNat
  ((deliver fmtF32 { rnd := .rtz } (.fin false p (-192)) 0).get.1, if p == 0 then { l with exh := true } else l)

end Sys2Proof.Machine
end

