-- ==== Sys2Proof/Machine/Flags.lean ====
section
/-!
DEFINITION. Flag computations: the sticky flags of R169 and R188, the overflow and division flags of scalar
instructions (R189, R269, R270), and the controls of a rounding (R185 to R187).
-/
namespace Sys2Proof.Machine
open Sys2Proof

/-- The rounding controls of an instruction's prefixes. -/
def ctlOf (x : Pre) : Ctl := ⟨x.rnd, x.sat, x.ftzo⟩

/-- A signed sum outside 64 bits (R269). -/
def addOverflows (x y : Word) : Bool := x.toInt + y.toInt < -(2 ^ 63) || 2 ^ 63 - 1 < x.toInt + y.toInt
/-- A signed difference outside 64 bits (R269). -/
def subOverflows (x y : Word) : Bool := x.toInt - y.toInt < -(2 ^ 63) || 2 ^ 63 - 1 < x.toInt - y.toInt

/-- The flag of a division: DZ for a divisor of 0 (R270). -/
def divFlags (y : Word) : Flags := if y = 0 then flagDZ else 0

/-- The accumulator-overflow test of R197: the value kept and whether it left the range. -/
def fit48 (v : Int) : Int × Bool :=
  if v < -(2 ^ 47) then (-(2 ^ 47), true) else if 2 ^ 47 - 1 < v then (2 ^ 47 - 1, true) else (v, false)

/-- A late fault of a scalar instruction's extension (R213): no sequence number. -/
def lateNote (c : Ctx) (cause : BitVec 8) (info : Word) : M Unit :=
  modThr c fun t => t.pend fun d => { d with lates := d.lates ++ [⟨0, cause, info, false⟩] }

/-- A scalar result rounded, by lane 0 of the register named under SR (R185, R289); none when an extension
faulted, and the fault then is late (R213). -/
def roundScalar (c : Ctx) (x : Pre) (r : RoundRes) : M (Option Nat) := do
  match r with
  | .done b f =>
    addFlags c f
    return some b
  | .choose _ _ _ _ _ _ =>
    let s ← getState
    holdUnless (s.idleV c)
    let t := s.thread c.core c.ts
    let p := 16 * x.yreg.val
    let d : Drawer := { core := c.core, ts := c.ts, keys := (s.core c.core).keys, id := s.fab.nextId, paid := t.drew }
    match s.extend d (fun ys => if r.open_ (yLane ys 0 p) then [p] else []) t.y with
    | .error (.held n) =>
      fun _ => .error (.holdIn fun s =>
        (s.payDraws c.core (n - t.drew)).modThread c.core c.ts fun t => { t with drew := n })
    | .error .wait => hold
    | .error (.fault cause info s') =>
      modState fun _ => s'
      lateNote c cause info
      return none
    | .ok (ys, s') =>
      let ((b, f), l) := r.by_ (yLane ys 0 p)
      modState fun _ => s'.modThread c.core c.ts fun t => { t with y := setYLane ys 0 p l }
      addFlags c f
      return some b

end Sys2Proof.Machine
end

