-- ==== Sys2Proof/Machine/Operands.lean ====
section
/-!
DEFINITION. Operand forms: memory operands, typed scalar operands, block-sum pairs, counts, transfer targets (R266,
R275, R280, R289, R293, R305).
-/
namespace Sys2Proof.Machine
open Sys2Proof

/-- Next register of a pair (R293, R318). -/
def pairHigh (n : SReg) : SReg := n + 1

/-- A memory operand's address (R275). -/
def memAddr (base imm : Word) : Word := base + imm

/-- A pc-relative target: `imm` counts halfwords (R278). -/
def relTarget (addr : BitVec 16) (imm : Word) : BitVec 16 := addr + (imm <<< 1).setWidth 16

/-- A register target (R280). -/
def regTarget (base imm : Word) : BitVec 16 := (base + imm).setWidth 16

/-- The type of a field, with the entry's default (R258). -/
def tyOr (t d : Ty) : Ty := if t == .dflt then d else t

/-- A typed operand of a register: the low bits (R289). -/
def lowBits (v : Word) (w : Nat) : Nat := v.toNat % 2 ^ w

/-- A value of `n` bytes extended into a register (R275). -/
def extendBytes (n : Nat) (signed : Bool) (v : Nat) : Word :=
  if signed then wordOfInt (sextInt v (8 * n)) else BitVec.ofNat 64 v

/-- A result of an integer type written to a register (R292). -/
def extendTy (t : Ty) (v : Nat) : Word := if t.isSigned then wordOfInt (sextInt v t.width) else BitVec.ofNat 64 v

/-- A block-sum pair (R198, R293); pair 0 is 0. -/
def readPair (c : Ctx) (n : SReg) : M (Int × Int) := do
  let m ← readS c n
  let e ← readS c (pairHigh n)
  return if n = 0 then (0, 0) else (m.toInt, sextInt e.toNat 32)

/-- A block-sum pair written; of pair 0 only `s0` discards (R168). -/
def writePair (c : Ctx) (n : SReg) (m e : Int) : M Unit := do
  writeS c n (wordOfInt m)
  writeS c (pairHigh n) (wordOfInt e)

end Sys2Proof.Machine
end

