-- ==== Sys2Proof/Machine/Atomics.lean ====
section
/-!
DEFINITION. Atomics, `FENCE` and the capability instructions (R301 to R303, R313 to R315, R109 to R112).
-/
namespace Sys2Proof.Machine
open Sys2Proof

/-- Bytes of an atomic (R301). -/
def amoBytes (t : Ty) : Nat := if t == .i32 || t == .n32 then 4 else 8

/-- The old value in a register (R301). -/
def amoOld (t : Ty) (v : Nat) : Word := if t == .i32 then wordOfInt (sextInt v 32) else BitVec.ofNat 64 v

/-- An atomic (R301, R302): old and operand are given as values of `n` bytes; none leaves memory unchanged. It waits
until the thread's own earlier stores have landed, since it acts at the home. -/
def atomic (x : Pre) (a b c : SReg) (d : SReg) (f : Nat → Nat → Nat → Nat → Option Nat) (s : State) : Res :=
  issue x (fun k => do
    let ea ← readS k b
    let v ← readS k c
    let w ← readS k d
    let n := amoBytes x.dtype
    let s ← getState
    match s.access k.core ea n n true (sysAccess k (s.thread k.core k.ts)) with
    | .error e => fun _ => .error (accessTrap k ea e)
    | .ok (acc, s1) =>
      if s.portHeld k acc.place then fun _ => .error (.holdIn fun s => s.noteHeld k.core false)
      else do
        holdUnless (s.storesDone k && !s.acquiring k.core k.ts)
        let old := leNat (s1.bytesAt acc.loc n)
        let s2 := match f n old (v.toNat % 2 ^ (8 * n)) (w.toNat % 2 ^ (8 * n)) with
          | some r => (s1.land acc.loc (leBytes n r)).foldDigest k.core k.ts ea (leBytes n r)
          | none => s1
        modState fun _ => ((s2.debitAccess k ea acc.place n).touch k.core acc).missed k.core k.ts x 2 ea n v acc.scope
        writeS k a (amoOld x.dtype old)
        goOn) s

/-- Signed order of values of `n` bytes. -/
def sLess (n a b : Nat) : Bool := decide (sextInt a (8 * n) < sextInt b (8 * n))

/-- AMOADD (R301). -/
def execAmoadd (x : Pre) (a b c : SReg) (s : State) : Res := atomic x a b c 0 (fun _ o v _ => some (o + v)) s
/-- AMOSWP (R301). -/
def execAmoswp (x : Pre) (a b c : SReg) (s : State) : Res := atomic x a b c 0 (fun _ _ v _ => some v) s
/-- AMOCAS (R301): nothing is written when the old value differs from the register of XR `d`. -/
def execAmocas (x : Pre) (a b c : SReg) (d : Fin 16) (s : State) : Res :=
  atomic x a b c (d.castLE (by decide)) (fun _ o v w => if o == w then some v else none) s
/-- AMOMIN (R301). -/
def execAmomin (x : Pre) (a b c : SReg) (s : State) : Res :=
  atomic x a b c 0 (fun n o v _ => some (if sLess n v o then v else o)) s
/-- AMOMINN (R301). -/
def execAmominn (x : Pre) (a b c : SReg) (s : State) : Res := atomic x a b c 0 (fun _ o v _ => some (min o v)) s
/-- AMOMAX (R301). -/
def execAmomax (x : Pre) (a b c : SReg) (s : State) : Res :=
  atomic x a b c 0 (fun n o v _ => some (if sLess n o v then v else o)) s
/-- AMOMAXN (R301). -/
def execAmomaxn (x : Pre) (a b c : SReg) (s : State) : Res := atomic x a b c 0 (fun _ o v _ => some (max o v)) s
/-- AMOAND (R301). -/
def execAmoand (x : Pre) (a b c : SReg) (s : State) : Res := atomic x a b c 0 (fun _ o v _ => some (o &&& v)) s
/-- AMOOR (R301). -/
def execAmoor (x : Pre) (a b c : SReg) (s : State) : Res := atomic x a b c 0 (fun _ o v _ => some (o ||| v)) s

/-- FENCE (R303): of a non-zero order, or strong, it waits for the thread's vector commands and stores; otherwise it
has no effect. -/
def execFence (x : Pre) (s : State) : Res :=
  issue x (fun k => do
    let s ← getState
    holdUnless ((x.order == .relaxed && !x.strong) || (s.idleV k && s.storesDone k))
    goOn) s

/-! ## Capability regions -/

/-- The home stations of a global range, by number (R109). -/
def capStations (base log : Nat) : List Nat :=
  (List.range (min 64 (2 ^ (log - 16)))).map fun i => stationOf (base + i * 0x10000)

/-- The home units of a region: stations, or the bank or scratchpad of a near region. -/
def capHomes (base : Word) (log : Nat) : List Nat :=
  if base.getLsbD 63 then capStations (base.toNat % 2 ^ 56) log
  else [1000 + (if base.toNat < 0x240000000 then base.toNat / 0x40000
    else if base.toNat < 0x320000000 then base.toNat / 0x80000
    else if base.toNat < 0x340000000 then base.toNat / 0x200000 else base.toNat / 0x800000)]

/-- Regions a home may hold (R109). -/
def capRoom (base : Word) : Nat := if base.getLsbD 63 then 256 else 64

/-- CAPDEF (R109, R313). -/
def execCapdef (x : Pre) (b c : SReg) (s : State) : Res :=
  issue x (fun k => do
    let a ← readS k b
    let lg ← readS k c
    let n := lg.toNat
    trapIf (a.toNat < 0x40000) 0x69 a
    trapIf (n < 8 || 36 < n || a.toNat % 2 ^ n != 0) 0x69 a
    let s ← getState
    match s.access k.core a 1 1 false false with
    | .error e => fun _ => .error (accessFault k a e)
    | .ok (acc, s1) => do
      let t := match s.taskOf k.core with | some t => t.id | none => 0
      let base := s.absAddr k.core acc.place
      let rel := s.relOf k.core
      match acc.place with
      | .pad d off => do
        trapIf (0x40000 < off + 2 ^ n || d != k.core || s.lapProtected d off (2 ^ n)) 0x69 a
        trapIf (sysReserved < off + 2 ^ n) 0x62 a
      | .bank l _ off => trapIf (bankSize l < off + 2 ^ n) 0x69 a
      | .glob g => trapIf (2 ^ 56 < fieldOf g.toNat 55 0 + 2 ^ n) 0x69 a
      trapIf (s.fab.caps.any fun r => r.task == t && r.base.toNat < base.toNat + 2 ^ n &&
        base.toNat < r.base.toNat + 2 ^ r.log) 0x6A a
      let near := !base.getLsbD 63
      trapIf ((capHomes base n).any fun h =>
        capRoom base ≤ (s.fab.caps.filter fun r => (capHomes r.base r.log).contains h && (!near || r.task == t)).length)
        0x6C a
      let asid := match s.taskOf k.core with | some t => t.asid | none => 0
      modState fun _ => { s1 with fab := { s1.fab with caps := s1.fab.caps ++ [⟨t, asid, base, n, rel⟩] } }
      goOn) s

/-- CAPQ (R112, R315). -/
def execCapq (x : Pre) (a b : SReg) (s : State) : Res :=
  issue x (fun k => do
    let ea ← readS k b
    let s ← getState
    match s.place k.core ea false with
    | .error e => trap e ea
    | .ok p => do
      let t := match s.taskOf k.core with | some t => t.id | none => 0
      writeS k a (match s.capAt t (s.asidOf k.core) (s.absAddr k.core p) with
        | some r => BitVec.ofNat 64 (r.log * 2 ^ 40 + r.holder)
        | none => BitVec.ofNat 64 (2 ^ 63))
      goOn) s

end Sys2Proof.Machine
end

