-- ==== Sys2Proof/Machine/Partition.lean ====
section
/-!
DEFINITION. Partitions: `PDECL` to `LAPW`, and the landing of slabs (R133 to R149, R380 to R385).
-/
namespace Sys2Proof.Machine
open Sys2Proof

/-! ## Sub-domains and members (R114) -/

/-- The crew-bearing cores of the sub-domain at a level that contains a core; level 6 takes the whole domain. -/
def State.subDomain (s : State) (core level : Nat) : List Nat :=
  match s.taskOf core with
  | none => []
  | some t =>
    let n := if level == 6 then 4096 else levelCores level
    let first := s.relOf core / n * n
    (((List.range n).map (first + ·)).filter t.carries).map t.coreAt

/-- The members of a ridge at a level: the bit of `DOMMASK` is in effect. -/
def State.members (s : State) (core level : Nat) : List Nat :=
  (s.subDomain core level).filter fun c => (s.core c).domEff.getLsbD level

/-! ## Checks of a descriptor (R133 to R138, R142) -/

/-- A field of a descriptor is one R135 calls malformed. -/
def pdBadFields (ws : List Word) : Bool :=
  let n := pdField ws 0 1 0
  let es := pdEsize ws
  let fill := pdField ws 0 9 8
  let fv := (ws.getD 7 0).toNat
  let badDim (d : Nat) : Bool :=
    if d < n then pdField ws (d + 1) 31 20 != 0 || pdField ws (d + 1) 15 8 != 0 || pdField ws (d + 1) 63 32 == 0
    else ws.getD (d + 1) 0 != 0 || bitOf (pdField ws 0 6 4) d
  let badAddr (i al : Nat) : Bool := pdField ws i 17 0 % al != 0 || decide (0x3C000 ≤ pdField ws i 17 0)
  n == 0 || pdField ws 0 63 28 != 0 || pdField ws 0 15 12 != 0 || pdField ws 0 7 7 != 0 || pdPolicy ws == 3 ||
  fill == 3 || (List.range 3).any badDim || [4, 5, 6].any (fun i => pdField ws i 63 18 != 0) ||
  badAddr 4 4 || badAddr 5 16 || badAddr 6 16 || decide (2 ^ (8 * es) ≤ fv) || (fill != 2 && fv != 0) ||
  (ws.drop 8).any (· != 0)

/-- Points of the split table. -/
def pdPoints (ws : List Word) : Nat :=
  sumNat ((List.range (pdField ws 0 1 0)).map fun d => pdField ws (d + 1) 19 16)

/-- The split points of a dimension rise strictly inside its extent (R136). -/
def Dim.rising (d : Dim) : Bool :=
  d.points.all (fun p => decide (1 ≤ p ∧ p < d.extent)) &&
  (d.points.zip (d.points.drop 1)).all fun (a, b) => decide (a < b)

/-- Every sub-slab: destination, owner, slab (R142). -/
def pdSubSlabs (ws : List Word) (ds : List Dim) : List (Nat × Nat × Nat) :=
  ((List.range (dimProd Dim.blocks ds)).map (pdBase ws + ·)).flatMap fun o =>
    match ownDims ws ds o with
    | some g => (Geom.subSlabs ⟨ws, g⟩).map fun (src, k) => (o, src, k)
    | none => []

/-- More sub-slabs than a core can take or send (R142). -/
def pdTooMany (ws : List Word) (ds : List Dim) : Bool :=
  let l := pdSubSlabs ws ds
  ((List.range (dimProd Dim.blocks ds)).map (pdBase ws + ·)).any fun o =>
    decide (256 < (l.filter fun (d, _, _) => d == o).length) || decide (256 < (l.filter fun (_, src, _) => src == o).length)

/-- The code of R132 of the lowest depth that breaks R138. -/
def badDepth (ds : List Dim) : Option Nat :=
  (ds.zipIdx.flatMap fun (d, i) =>
    [(d.lo, i + boolNat d.periodic * 256, d.extent - d.own), (d.hi, i + 4 + boolNat d.periodic * 256, d.extent - d.own)]).findSome?
    fun (depth, code, room) => if room < depth then some code else none

/-- Two ranges of the scratchpad overlap. -/
def rangesMeet (a n b m : Nat) : Bool := decide (a < b + m ∧ b < a + n)

/-- A local array and shadow that break R137 at a core. -/
def State.badPlacement (s : State) (core : Nat) (g : Geom) : Bool :=
  let mine := [(pdArray g.desc, g.arrayBytes), (pdShadow g.desc, g.shadowBytes)]
  let others := (s.partsOf core).flatMap fun (_, _, h) => [(pdArray h.desc, h.arrayBytes), (pdShadow h.desc, h.shadowBytes)]
  let here := (s.absAddr core (.pad core 0)).toNat
  let t := match s.taskOf core with | some t => t.id | none => 0
  let caps := (s.fab.caps.filter fun r =>
    r.task == t && decide (here ≤ r.base.toNat ∧ r.base.toNat < here + 0x40000)).map fun r =>
      (r.base.toNat - here, 2 ^ r.log)
  mine.any (fun (a, n) => decide (0x3C000 < a + n) || (others ++ caps).any fun (b, m) => rangesMeet a n b m) ||
  rangesMeet (pdArray g.desc) g.arrayBytes (pdShadow g.desc) g.shadowBytes

/-- The hash of a declaration (R134). -/
def pdHash (ws : List Word) (splits : List (BitVec 32)) : Word :=
  crc64 0 (((ws.zipIdx.map fun (w, i) => if i == 5 || i == 6 then 0 else w).flatMap fun w => leBytes 8 w.toNat) ++
    splits.flatMap fun p => leBytes 4 p.toNat)

/-- Every owner is a crew-bearing core of the sub-domain (R136). -/
def State.ownersCrewed (s : State) (core level : Nat) (ws : List Word) (ds : List Dim) : Bool :=
  match s.taskOf core with
  | none => false
  | some t =>
    let inside (o : Nat) : Bool := t.carries o && o / levelCores level == s.relOf core / levelCores level
    (List.range (dimProd Dim.blocks ds)).all fun k => inside (pdBase ws + k)

/-! ## The lap plan (R143) -/

/-- Cycles a flit takes between two cores (R123). -/
def flitDelay (a b : Nat) : Nat :=
  match commonScope a b with | 0 | 1 => 3 | 2 => 5 | 3 => 9 | 4 => 17 | _ => 41

/-- A transfer: its slab, destination and source cores, and its flits. -/
structure LapTransfer where
  slab : Nat
  dst : Nat
  src : Nat
  flits : Nat
  deriving DecidableEq, Repr

/-- The cells of a slab that one owner sources, in the order of the local array (R142). -/
def Geom.subSlab (g : Geom) (slab owner : Nat) : List Nat :=
  (g.slabCells slab).filter fun c => match g.source c with | some (o, _) => o == owner | none => false

/-- The transfers of a slab number, by ascending destination, then source. -/
def pdTransfers (ws : List Word) (ds : List Dim) (slab : Nat) : List LapTransfer :=
  let owners := (List.range (dimProd Dim.blocks ds)).map (pdBase ws + ·)
  owners.flatMap fun o =>
    match ownDims ws ds o with
    | none => []
    | some own =>
      let g : Geom := ⟨ws, own⟩
      owners.filterMap fun src =>
        let n := (g.subSlab slab src).length
        if n == 0 then none else some ⟨slab, o, src, (n * pdEsize ws + 15) / 16⟩

/-- A phase of the plan from a plan cycle on: when each port is free to send and to receive, and the moves made so far. -/
structure LapPhase where
  sfree : Tbl Nat := []
  rfree : Tbl Nat := []
  moves : List (Nat × LapMove) := []

/-- A transfer scheduled in a phase that began at plan cycle `t`. -/
def LapPhase.add (t : Nat) (p : LapPhase) (x : LapTransfer) : LapPhase :=
  let d := flitDelay x.src x.dst
  let start := max (tblGet p.sfree x.src t) (tblGet p.rfree x.dst t - d)
  { sfree := tblSet p.sfree x.src (start + x.flits), rfree := tblSet p.rfree x.dst (start + d + x.flits),
    moves := p.moves ++ [(x.dst, ⟨x.slab, x.src, start + d, x.flits⟩)] }

/-- The plan: every move with its destination, phase after phase in slab order. -/
def lapPlan (ws : List Word) (ds : List Dim) : List (Nat × LapMove) :=
  ((List.range 26).foldl (fun (z : Nat × List (Nat × LapMove)) slab =>
    let p := (pdTransfers ws ds slab).foldl (LapPhase.add z.1) {}
    (p.rfree.foldl (fun t (_, r) => max t r) z.1, z.2 ++ p.moves)) (0, [])).2

/-- The plan cycle in which a slab's last flit is written (R145). -/
def Part.landsAt (p : Part) (slab : Nat) : Nat :=
  (p.plan.filter (·.slab == slab)).foldl (fun m x => max m (x.first + x.flits - 1)) 0

/-! ## Instructions -/

/-- A partition present at the core; others trap (R380). -/
def presentPart (k : Ctx) (p : Fin 8) : M Part := do
  let c ← getCore k
  match c.parts[p] with
  | some q => return q
  | none => trap 0x82

/-- PDECL (R133, R381). -/
def execPdecl (x : Pre) (a : Fin 8) (b : SReg) (c : Fin 8) (s : State) : Res :=
  issue x (fun k => do
    let p ← readS k b
    let bs ← localBlock k p 128 16 0x02 0x60 true
    let s ← getState
    let q := s.core k.core
    let task := match s.taskOf k.core with | some t => t.level | none => 0
    trapIf (!q.domEff.getLsbD c.val || task < c.val) 0x02
    trapIf q.parts[a].isSome 0x82
    let ws := wordsOf64 16 bs
    trapIf (pdBadFields ws) 0x80
    let n := pdPoints ws
    let at_ := pdField ws 4 17 0
    trapIf (n != 0 && decide (0x3C000 < at_ + 4 * n)) 0x80
    let tbl := if n == 0 then [] else s.seenBytes k.core k.ts (.sram (padKey k.core + at_)) (4 * n)
    let splits : List (BitVec 32) := (List.range n).map fun i => BitVec.ofNat 32 (leNat ((tbl.drop (4 * i)).take 4))
    let ds := pdDims ws splits
    trapIf (!ds.all Dim.rising || !s.ownersCrewed k.core c.val ws ds || pdTooMany ws ds) 0x80
    match ownDims ws ds (s.relOf k.core) with
    | some own => do
      trapIf (badDepth own).isSome 0x81 (BitVec.ofNat 64 ((badDepth own).getD 0))
      trapIf (s.badPlacement k.core ⟨ws, own⟩) 0x87
    | none => pure ()
    let plan := ((lapPlan ws ds).filter fun m => m.1 == s.relOf k.core).map (·.2)
    modCore k fun q => { q with
      parts := q.parts.set a (some { level := c.val, desc := ws, splits := splits, hash := pdHash ws splits, plan := plan })
      staleCounts := q.staleCounts.set a 0
      waitCounts := q.waitCounts.set a 0 }
    goOn) s

/-- A partition of the core marked. -/
def markPart (x : Pre) (a : Fin 8) (f : Part → Part) (s : State) : Res :=
  issue x (fun k => do
    let _ ← presentPart k a
    modState fun s => s.modPart k.core a f
    goOn) s

/-- PFREE (R134, R382). -/
def execPfree (x : Pre) (a : Fin 8) (s : State) : Res := markPart x a (fun p => { p with freeMark := true }) s
/-- LAPX (R144, R383). -/
def execLapx (x : Pre) (a : Fin 8) (s : State) : Res := markPart x a (fun p => { p with refreshMark := true }) s

/-- The release whose refresh a `LAPW` waits for: that of an arrival the core has made with the partition marked and which is
not released yet, else the last one while slabs of the mask that it set in flight have not landed; none when it returns at
once (R384, R394; assumption log 125). -/
def Part.lapTarget (p : Part) (r : RidgeSt) (mask : BitVec 26) : Option Nat :=
  if decide (r.released < r.arrivals) && p.sentRefresh then some r.arrivals
  else if p.flight &&& mask != 0 then some r.released
  else none

/-- Release `n` has come, and the slabs of a mask that it set in flight have landed; a refresh of a later release does not count
(R384). -/
def Core.lapDone (c : Core) (a : Fin 8) (n : Nat) (mask : BitVec 26) : Bool :=
  match c.parts[a] with
  | none => true
  | some p =>
    let r := c.ridge.toList.getD p.level {}
    decide (n < r.released) || (decide (n = r.released) && p.flight &&& mask == 0)

/-- LAPW (R148, R384). -/
def execLapw (x : Pre) (a : Fin 8) (b : SReg) (s : State) : Res :=
  issue x (fun k => do
    let m ← readS k b
    let mask : BitVec 26 := m.setWidth 26
    let c ← getCore k
    let t ← getThr k
    match t.lapFor with
    | some n => do
      holdUnless (c.lapDone a n mask)
      goOn
    | none => do
      let p ← presentPart k a
      match p.lapTarget (c.ridge.toList.getD p.level {}) mask with
      | none => goOn
      | some n => fun _ => .error (.holdIn fun s => s.modThread k.core k.ts fun t => { t with lapFor := some n })) s

/-- Items 0 to 7 of R148 of a present partition, with its two counters. -/
def Part.info (p : Part) (rel item : Nat) (stales waits : BitVec 48) : Word :=
  let ds := pdDims p.desc p.splits
  match item with
  | 0 => BitVec.ofNat 64 ((ds.zipIdx).foldl (fun n (d, i) => n + (d.lo + d.hi * 16) * 256 ^ i) 0)
  | 1 | 2 | 3 =>
    match ownDims p.desc ds rel with
    | some own => match own[item - 1]? with
      | some d => BitVec.ofNat 64 (d.startOf d.blk * 2 ^ 32 + d.own)
      | none => 0
    | none => 0
  | 4 => if p.confirmed then BitVec.ofNat 64 (p.flight.toNat * 2 ^ 32 + p.stale.toNat) else 0
  | 5 => if p.confirmed then p.refreshed.setWidth 64 else 0xFFFFFFFFFFFF
  | 6 => if p.confirmed then stales.setWidth 64 else 0
  | _ => if p.confirmed then waits.setWidth 64 else 0

/-- Item 8 of R148. -/
def partState : Option Part → Word
  | none => 0
  | some p => BitVec.ofNat 64 (1 + boolNat p.confirmed * 2 + boolNat (p.refreshMark || p.sentRefresh) * 4 +
      boolNat (p.freeMark || p.sentFree) * 8 + p.level * 16)

/-- PINFO (R148, R385). -/
def execPinfo (x : Pre) (a : SReg) (b : Fin 8) (c : SReg) (s : State) : Res :=
  issue x (fun k => do
    let item ← readS k c
    let s ← getState
    holdUnless (s.idleV k)
    trapIf (8 < item.toNat) 0x02
    if item = 8 then do
      writeS k a (partState (s.core k.core).parts[b])
      goOn
    else do
      let p ← presentPart k b
      let c := s.core k.core
      writeS k a (p.info (s.relOf k.core) item.toNat c.staleCounts[b] c.waitCounts[b])
      goOn) s

/-! ## Slabs (R143, R145) -/

/-- Bytes of an owner's place of the owned block, from its send shadow. -/
def State.shadowCell (s : State) (core : Nat) (p : Fin 8) (k : Nat) : List Byte :=
  match (s.core core).parts[p] with
  | none => []
  | some q =>
    match q.geom (s.relOf core) with
    | none => []
    | some g => s.bytesAt (.sram (padKey core + g.shadowAddr k)) (pdEsize q.desc)

/-- The cycle at which the last exchange window open at a member of a sub-domain closes: the plan's cycles stop until then
(R125, R145). -/
def State.windowsUntil (s : State) (core level : Nat) : Nat :=
  (s.members core level).foldl (fun m c =>
    (s.core c).ridge.toList.foldl (fun m r => r.windows.foldl (fun m w => max m w.stop) m) m) 0

/-- The cells that the flits of a plan arriving in a span of plan cycles carry to a core (R143): flit `k` of a transfer its
`k`-th 16 bytes. -/
def Part.arriving (p : Part) (g : Geom) (from_ upto : Nat) : List Nat :=
  p.plan.flatMap fun m =>
    if !p.flight.getLsbD m.slab then []
    else (g.subSlab m.slab m.owner).zipIdx.filterMap fun (c, i) =>
      let at_ := m.first + i * pdEsize g.desc / 16
      if from_ < at_ ∧ at_ ≤ upto then some c else none

/-- Lap cells copied from their owners' shadows. -/
def State.copyLaps (s : State) (core : Nat) (p : Fin 8) (g : Geom) (base : Nat) (cells : List Nat) : State :=
  cells.foldl (fun s c =>
    match g.source c with
    | some (o, k) => s.writeSram (padKey core + g.cellAddr c) (s.shadowCell (base + o) p k)
    | none => s) s

/-- The lap plan of a partition runs for the plan cycles since cycle `old`: the flits that arrive in them are written. -/
def State.runPlan (s : State) (old core : Nat) (p : Fin 8) : State :=
  match (s.core core).parts[p], s.taskOf core with
  | some q, some t =>
    let upto := q.clock + (s.cycle - max old (s.windowsUntil core q.level))
    if q.flight == 0 || upto == q.clock then s
    else
      match q.geom (s.relOf core) with
      | some g => (s.copyLaps core p g t.base (q.arriving g q.clock upto)).modPart core p fun q => { q with clock := upto }
      | none => s
  | _, _ => s

/-- Every lap plan under way runs for the cycles since `old`. -/
def State.runPlans (s : State) (old : Nat) : State :=
  s.cores.foldl (fun s (c, k) =>
    (List.finRange 8).foldl (fun s p => if k.parts[p].isSome then s.runPlan old c p else s) s) s

/-- SLAB_LAND (R145): once the plan has run to the slab's last flit, its cells are written and it leaves the in-flight mask. -/
def execSlabLand (core : Fin 4096) (p : Fin 8) (slab : Fin 26) (s : State) : Res :=
  match (s.core core).parts[p] with
  | none => .next s
  | some q =>
    if !q.flight.getLsbD slab.val || decide (q.clock < q.landsAt slab.val) then .next s
    else
      match q.geom (s.relOf core), s.taskOf core with
      | some g, some t =>
        .next ((s.copyLaps core p g t.base (g.slabCells slab.val)).modPart core p fun q =>
          { q with flight := q.flight &&& ~~~((1 : BitVec 26) <<< slab.val) })
      | _, _ => .next s

end Sys2Proof.Machine
end

