-- ==== Sys2Proof/Machine/Lanes.lean ====
section
/-!
DEFINITION. What the lane operations of pages 4 to 6 compute (R329, R330, R333 to R347), on register values.
-/
namespace Sys2Proof.Machine
open Sys2Proof

/-! ## Lanes (R7, R257, R329) -/

/-- `lane`(v, i, w) of R7. -/
def laneOf (v : VWord) (i w : Nat) : Nat := v.toNat / 2 ^ (i * w) % 2 ^ w

/-- The lanes of `n` given values, lane 0 lowest. -/
def packLanes (w : Nat) (l : List Nat) : Nat := l.foldr (fun x acc => x % 2 ^ w + 2 ^ w * acc) 0

/-- A register whose lane `i` is `f i`. -/
def ofLanes (w : Nat) (f : Nat → Nat) : VWord := BitVec.ofNat 512 (packLanes w ((List.range (512 / w)).map f))

/-- A mask register; `k0` reads all ones (R168). -/
def Thread.kreg (t : Thread) (n : KReg) : Word := if n = 0 then BitVec.allOnes 64 else t.k[n]

/-- Lane `i` of width `w` is active under the mask (R257). -/
def Thread.active (t : Thread) (x : Pre) (w i : Nat) : Bool :=
  (t.kreg x.mask).getLsbD (if w == 4 then i / 2 else i)

/-- Results put into the active lanes; an inactive lane keeps its old value, or becomes 0 (R257). -/
def Thread.masked (t : Thread) (x : Pre) (w : Nat) (old : VWord) (f : Nat → Nat) : VWord :=
  ofLanes w fun i => if t.active x w i then f i else if x.zero then 0 else laneOf old i w

/-- Decisions put into a mask of `n` lanes; bits from `n` on become 0 (R336). -/
def Thread.maskBits (t : Thread) (x : Pre) (w n : Nat) (old : Word) (f : Nat → Bool) : Word :=
  BitVec.ofNat 64 (packLanes 1 ((List.range n).map fun i =>
    boolNat (if t.active x w i then f i else if x.zero then false else old.getLsbD i)))

/-! ## Integer lanes (R333 to R335) -/

/-- A lane operation of R333 and R335 on lanes x, y and the old lane z. -/
def intLane (o : VInt) (sg sat : Bool) (w x y z : Nat) : Nat :=
  let v := intVal w sg
  match o with
  | .add => fitInt w sg sat (v x + v y)
  | .sub => fitInt w sg sat (v x - v y)
  | .mul => fitInt w sg sat (v x * v y)
  | .mad => fitInt w sg sat (v z + v x * v y)
  | .mulh => wrapNat (sextInt x w * sextInt y w / (2 ^ w : Nat)) w
  | .mulhn => x * y / 2 ^ w
  | .and => x &&& y
  | .or => x ||| y
  | .xor => x ^^^ y
  | .min => if sextInt y w < sextInt x w then y else x
  | .minn => min x y
  | .max => if sextInt x w < sextInt y w then y else x
  | .maxn => max x y
  | .shl => x * 2 ^ (y % w) % 2 ^ w
  | .shr => x / 2 ^ (y % w)
  | .sar => wrapNat (sextInt x w / (2 ^ (y % w) : Nat)) w

/-- An integer relation (R336). -/
def relHolds (r : VRel) (w x y : Nat) : Bool :=
  match r with
  | .eq => x == y
  | .ne => x != y
  | .lt => decide (sextInt x w < sextInt y w)
  | .ltn => decide (x < y)
  | .le => decide (sextInt x w ≤ sextInt y w)
  | .len => decide (x ≤ y)

/-- `VADDW` and `VADDWH` (R334): lane `i` of the wide and lane `i` + off of the narrow operand. -/
def addWide (d s : Ty) (sat high : Bool) (b c : VWord) (i : Nat) : Nat :=
  let off := if high then s.lanes / 2 else 0
  fitInt d.width d.isSigned sat
    (intVal d.width d.isSigned (laneOf b i d.width) + intVal s.width s.isSigned (laneOf c (i + off) s.width))

/-- `VDOT` (R334): four products of bytes added to a 32-bit lane. -/
def dotLane (signed sat : Bool) (a b c : VWord) (i : Nat) : Nat :=
  let p (k : Nat) : Int := intVal 8 signed (laneOf b (4 * i + k) 8) * intVal 8 signed (laneOf c (4 * i + k) 8)
  fitInt 32 true sat (sextInt (laneOf a i 32) 32 + (p 0 + p 1 + p 2 + p 3))

/-- `VABS` (R333). -/
def absLane (w x : Nat) : Nat := (sextInt x w).natAbs % 2 ^ w

/-! ## Rearrangement (R341 to R343) -/

/-- `VPACK`'s fit (R341). -/
def packFit (d s : Ty) (sat : Bool) (x : Nat) : Nat :=
  if sat then fitInt d.width d.isSigned true (intVal s.width s.isSigned x) else x % 2 ^ d.width

/-- `VUNPK`'s extension (R341). -/
def unpackLane (d s : Ty) (x : Nat) : Nat := wrapNat (intVal s.width s.isSigned x) d.width

/-- The lane moves of R343, with `n` lanes of width `w`. -/
def mixLane (o : VMix) (w n : Nat) (b c : VWord) (i : Nat) : Nat :=
  let h := n / 2
  let pick (k : Nat) : Nat := laneOf (if i % 2 == 0 then b else c) k w
  let half (k : Nat) : Nat := laneOf (if i < h then b else c) k w
  match o with
  | .zip => pick (i / 2)
  | .ziph => pick (h + i / 2)
  | .trn => pick (i / 2 * 2)
  | .trn2 => pick (i / 2 * 2 + 1)
  | .unzip => half (2 * (i % h))
  | .unzipo => half (2 * (i % h) + 1)

/-- A slide (R342). -/
def slideLane (up : Bool) (w n dist : Nat) (b : VWord) (i : Nat) : Nat :=
  if up then if dist ≤ i then laneOf b (i - dist) w else 0
  else if i + dist < n then laneOf b (i + dist) w else 0

/-! ## Scans and reductions (R344 to R346) -/

/-- Integer prefix sums of the active lanes before each lane: exclusive, and with the lane itself. -/
def prefixSums (act : Nat → Bool) (val : Nat → Int) : Nat → Nat → Int → List (Int × Int)
  | 0, _, _ => []
  | n + 1, i, sum =>
    let next := if act i then sum + val i else sum
    (sum, next) :: prefixSums act val n (i + 1) next

/-- The sum of the active lanes. -/
def laneSum (act : Nat → Bool) (val : Nat → Int) (n : Nat) : Int :=
  (List.range n).foldl (fun a i => if act i then a + val i else a) 0

/-- The serial floating sums of R344: before and after each lane, and the flags. -/
def floatScan (t : FFmt) (c : Ctl) (ftzi : Bool) (act : Nat → Bool) (val : Nat → Nat) :
    Nat → Nat → Option Nat → Flags → List (Nat × Nat) × Flags
  | 0, _, _, fl => ([], fl)
  | n + 1, i, sum, fl =>
    let shown (s : Option Nat) : Nat := match s with | some b => b | none => t.signBit
    let (next, g) : Option Nat × Flags :=
      if act i then
        let (x, sn) := unpackF t ftzi (val i)
        let (v, f) := match sum with
          | none => (x, 0)
          | some b => addX (c.rnd == .rdn) (unpackF t false b).1 x
        let (b, h) := (deliver t c v (f ||| sigFlags [sn])).get
        (some b, h)
      else (sum, 0)
    let (r, fl) := floatScan t c ftzi act val n (i + 1) next (fl ||| g)
    ((shown sum, shown next) :: r, fl)

/-- One level of a pairwise tree. -/
def treeLevel {α : Type} (f : α → α → α × Flags) : List α → List α × Flags
  | a :: b :: r =>
    let (x, g) := f a b
    let (l, h) := treeLevel f r
    (x :: l, g ||| h)
  | l => (l, 0)

/-- A pairwise tree: the first level and the later ones may differ (R201). -/
def treeReduce {α : Type} (first later : α → α → α × Flags) : Nat → List α → List α × Flags
  | 0, l => (l, 0)
  | n + 1, l =>
    let (m, g) := treeLevel first l
    if m.length ≤ 1 then (m, g)
    else
      let (r, h) := treeReduce later later n m
      (r, g ||| h)

/-- `VFRED` (R201, R346). -/
def sumTree (t : FFmt) (c : Ctl) (ftzi : Bool) (l : List (Option Nat)) : Nat × Flags :=
  let op (z : Bool) (a b : Nat) : Nat × Flags := (fArith t z c .add a b 0).get
  let (r, fl) := treeReduce (op ftzi) (op false) 8 (l.map fun o => o.getD t.signBit)
  (r.headD 0, fl)

/-- One combination of `VFREDMAX` in a format that has no −∞: an inactive side yields the other. -/
def maxSide (t : FFmt) (ftzi : Bool) (a b : Option Nat) : Option Nat × Flags :=
  match a, b with
  | none, o | o, none => (o, 0)
  | some x, some y => let (r, f) := minMaxF t ftzi true x y; (some r, f)

/-- A source lane with its subnormals flushed (R187). -/
def flushLane (t : FFmt) (ftzi : Bool) (x : Nat) : Nat :=
  if ftzi && x / 2 ^ t.p % 2 ^ t.eb == 0 then x / t.signBit % 2 * t.signBit else x

/-- `VFREDMAX` (R201, R346). -/
def maxTree (t : FFmt) (ftzi : Bool) (l : List (Option Nat)) : Nat × Flags :=
  if t.noInf then
    let (r, fl) := treeReduce (maxSide t false) (maxSide t false) 8 (l.map (·.map (flushLane t ftzi)))
    ((r.headD none).getD (t.signBit + t.maxBits), fl)
  else
    let op (z : Bool) (a b : Nat) : Nat × Flags := minMaxF t z true a b
    let (r, fl) := treeReduce (op ftzi) (op false) 8 (l.map fun o => o.getD (t.signBit + t.infBits))
    (r.headD 0, fl)

/-! ## Masks (R347) -/

/-- The number of 1 bits. -/
def countOnes (w : Word) : Nat := (List.range 64).foldl (fun n i => n + boolNat (w.getLsbD i)) 0
/-- The index of the lowest 1 bit; 64 when there is none. -/
def lowestOne (w : Word) : Nat := ((List.range 64).find? fun i => w.getLsbD i).getD 64

end Sys2Proof.Machine
end

