-- ==== Sys2Proof/Machine/Queues.lean ====
section
/-!
DEFINITION. Queues and streams: `QBIND` to `QWAITE`, `SBIND` to `SPOS`, and the arrival of queue updates (R173 to R175,
R304 to R308).
-/
namespace Sys2Proof.Machine
open Sys2Proof

/-- A queue descriptor's fields (R173). -/
def readQueue (addr : Nat) (bs : List Byte) : QCopy :=
  let ws := wordsOf64 8 bs
  { addr := addr, base := ws.getD 0 0, nslot := recField ws 1 47 32, ssize := recField ws 1 31 16,
    seqord := (ws.getD 1 0).getLsbD 15, role := ⟨recField ws 1 14 13 % 4, Nat.mod_lt _ (by decide)⟩,
    peer := recField ws 1 11 0, head := BitVec.ofNat 32 (recField ws 2 63 32), tail := BitVec.ofNat 32 (recField ws 2 31 0),
    filled := BitVec.ofNat 32 (recField ws 3 63 32), free := BitVec.ofNat 32 (recField ws 3 31 0),
    seq := BitVec.ofNat 32 (recField ws 4 63 32), pdesc := recField ws 5 17 0 }

/-- A descriptor that R173 forbids: a reserved field, a field out of range, counts that do not add up. -/
def badQueue (bs : List Byte) : Bool :=
  let ws := wordsOf64 8 bs
  let q := readQueue 0 bs
  recField ws 1 63 48 != 0 || recField ws 1 12 12 != 0 || recField ws 4 31 0 != 0 || recField ws 5 63 18 != 0 ||
  recField ws 6 63 0 != 0 || recField ws 7 63 0 != 0 || q.base.toNat % 16 != 0 || q.nslot == 0 || 4096 < q.nslot ||
  q.ssize == 0 || 4096 < q.ssize || q.role == 3 || q.pdesc % 64 != 0 || q.filled.toNat + q.free.toNat != q.nslot

/-- The words that the binding core updates, written back to the descriptor (R173, R304). -/
def State.writeBack (s : State) (core : Nat) (q : QCopy) : State :=
  s.land (.sram (padKey core + q.addr + 16))
    (leBytes 8 (q.head.toNat * 2 ^ 32 + q.tail.toNat) ++ leBytes 8 (q.filled.toNat * 2 ^ 32 + q.free.toNat) ++
      leBytes 8 (q.seq.toNat * 2 ^ 32))

/-- The core of a queue's other end. -/
def State.peerCore (s : State) (core : Nat) (q : QCopy) : Nat :=
  match s.taskOf core with | some t => t.coreAt q.peer | none => core

/-- A bound copy leaves its handle: it is written back, as a write made on the owner's behalf (R111, R140), and the updates
that still wait for their turn are held at this core again, bound to the descriptor by no handle (R304). -/
def unbind (k : Ctx) (old : Option QCopy) : M Unit := fun s =>
  match old with
  | none => .ok ((), s)
  | some q =>
    let a : Word := BitVec.ofNat 64 (q.addr + 16)
    if s.acquiring k.core k.ts then .error .hold
    else match s.access k.core a 24 8 true (sysAccess k (s.thread k.core k.ts)) with
    | .error e => .error (accessFault k a e)
    | .ok _ =>
      .ok ((), q.held.foldl (fun s (v, n) => s.launch (s.peerCore k.core q) 0 (.qupd k.core q.addr true n v)) (s.writeBack k.core q))

/-- A handle set. -/
def Thread.setQ (t : Thread) (n : QReg) (q : Option QCopy) : Thread := { t with q := t.q.set n q }

/-- A descriptor is bound by a handle other than one (R304). -/
def Core.bindsElsewhere (c : Core) (addr : Nat) (ts : Fin 4) (n : QReg) : Bool :=
  (List.finRange 4).any fun u => (List.finRange 16).any fun m =>
    !(u == ts && m == n) && (match c.thr[u].q[m] with | some q => q.addr == addr | none => false)

/-- QBIND (R304); field b 0 writes back and unbinds. -/
def execQbind (x : Pre) (a : QReg) (b : SReg) (s : State) : Res :=
  issue x (fun k => do
    let s ← getState
    let old := s.queue k a
    if b = 0 then do
      unbind k old
      modThr k fun t => t.setQ a none
      goOn
    else do
      let p ← readS k b
      unbind k old
      let bs ← localBlock k p 64 64 0x03 0x03 false
      let q := readQueue p.toNat bs
      let c ← getCore k
      trapIf (badQueue bs) 0x03
      match s.taskOf k.core with
      | some t => do
        trapIf (q.role != 0 && (q.peer == s.relOf k.core || !t.carries q.peer)) 0x03
        trapIf (t.kind == 1 && q.role != 0 && !q.seqord) 0x03
      | none => trapIf (q.role != 0) 0x03
      trapIf (c.bindsElsewhere p.toNat k.ts a) 0x03
      modThr k fun t => t.setQ a (some q)
      goOn) s

/-- A handle's copy; an unbound handle traps (R305, R306). -/
def boundQueue (k : Ctx) (a : QReg) : M QCopy := do
  let s ← getState
  match s.queue k a with
  | some q => return q
  | none => trap 0x03

/-- The producer's advance (R174): `filled` at once when this end is also the consumer's. -/
def QCopy.advanceTail (q : QCopy) (n : BitVec 32) : QCopy :=
  { q with tail := q.tail + n, free := q.free - n, filled := if q.role == 1 then q.filled else q.filled + n }
/-- The consumer's advance (R174). -/
def QCopy.advanceHead (q : QCopy) (n : BitVec 32) : QCopy :=
  { q with head := q.head + n, filled := q.filled - n, free := if q.role == 2 then q.free else q.free + n }

/-- QADVT (R305): an advance larger than `free` traps; on role 1 an update goes to the consumer. -/
def execQadvt (x : Pre) (a : QReg) (b : SReg) (imm : Word) (s : State) : Res :=
  issue x (fun k => do
    let n ← readS k b
    let q ← boundQueue k a
    let c := n + imm
    if c = 0 then goOn
    else do
      trapIf (q.free.toNat < c.toNat) 0x03
      modThr k fun t => t.setQ a (some (q.advanceTail (c.setWidth 32)))
      if q.role == 1 then
        modState fun s => s.launch k.core k.ts (.qupd (s.peerCore k.core q) q.pdesc true (c.setWidth 32) q.tail)
      goOn) s

/-- QADVH (R305): an advance larger than `filled` traps; on role 2 an update goes to the producer. -/
def execQadvh (x : Pre) (a : QReg) (b : SReg) (imm : Word) (s : State) : Res :=
  issue x (fun k => do
    let n ← readS k b
    let q ← boundQueue k a
    let c := n + imm
    if c = 0 then goOn
    else do
      trapIf (q.filled.toNat < c.toNat) 0x03
      modThr k fun t => t.setQ a (some (q.advanceHead (c.setWidth 32)))
      if q.role == 2 then
        modState fun s => s.launch k.core k.ts (.qupd (s.peerCore k.core q) q.pdesc false (c.setWidth 32) q.head)
      goOn) s

/-- QCNT (R306). -/
def execQcnt (x : Pre) (a : SReg) (b : QReg) (s : State) : Res :=
  issue x (fun k => do
    let q ← boundQueue k b
    writeS k a (q.filled.setWidth 64)
    goOn) s

/-- QFREE (R306). -/
def execQfree (x : Pre) (a : SReg) (b : QReg) (s : State) : Res :=
  issue x (fun k => do
    let q ← boundQueue k b
    writeS k a (q.free.setWidth 64)
    goOn) s

/-- A wait for slots (R306): 0 returns at once, more than the queue has traps. -/
def queueWait (x : Pre) (a : QReg) (b : SReg) (imm : Word) (f : QCopy → BitVec 32) (s : State) : Res :=
  issue x (fun k => do
    let n ← readS k b
    let q ← boundQueue k a
    trapIf (q.nslot < (n + imm).toNat) 0x03
    holdUnless ((n + imm).toNat ≤ (f q).toNat)
    goOn) s

/-- QWAITF (R306). -/
def execQwaitf (x : Pre) (a : QReg) (b : SReg) (imm : Word) (s : State) : Res := queueWait x a b imm (·.filled) s
/-- QWAITE (R306). -/
def execQwaite (x : Pre) (a : QReg) (b : SReg) (imm : Word) (s : State) : Res := queueWait x a b imm (·.free) s

/-! ## Arrival of updates (R165, R174) -/

/-- Held updates whose turn has come: those not above `seq` (R174). -/
def QCopy.drain : Nat → QCopy → QCopy
  | 0, q => q
  | fuel + 1, q =>
    match q.held.find? fun (v, _) => !BitVec.slt 0 (v - q.seq) with
    | some (v, n) =>
      QCopy.drain fuel { q with filled := q.filled + n, seq := q.seq + n, held := q.held.erase (v, n) }
    | none => q

/-- An update applied to a copy (R174). -/
def QCopy.update (q : QCopy) (filled : Bool) (n carried : BitVec 32) : QCopy :=
  if !filled then { q with free := q.free + n }
  else if q.seqord then QCopy.drain (q.held.length + 2) { q with held := q.held ++ [(carried, n)] }
  else { q with filled := q.filled + n }

/-- Whether something under way of a thread before `id` still has to land before a release of it (R165). -/
def State.behindStores (s : State) (f : Fly) : Bool :=
  s.fab.fly.any fun g => g.id < f.id && g.core == f.core && g.ts == f.ts &&
    g.isStore

/-- The thread of a core whose handle binds a descriptor. -/
def Core.binder (c : Core) (addr : Nat) : Option (Fin 4 × QReg × QCopy) :=
  (List.finRange 4).findSome? fun u => (List.finRange 16).findSome? fun m =>
    match c.thr[u].q[m] with
    | some q => if q.addr == addr then some (u, m, q) else none
    | none => none

/-- QUEUE_UPDATE_ARRIVE (R174, R165): after the sender's earlier stores; it stays under way while no handle binds its
descriptor (R304). -/
def execQueueUpdateArrive (n : Nat) (s : State) : Res :=
  match s.fab.fly.find? (·.id == n) with
  | some f =>
    match f.what with
    | .qupd dst pdesc filled m carried =>
      if s.behindStores f then .next s
      else
        match (s.core dst).binder pdesc with
        | some (u, r, q) => .next ((s.landed n).modThread dst u fun t => t.setQ r (some (q.update filled m carried)))
        | none => .next s
    | _ => .next s
  | none => .next s

/-! ## Streams (R175, R307, R308) -/

/-- A stream descriptor's fields (R175). -/
def readStream (bs : List Byte) : Stream :=
  let ws := wordsOf64 4 bs
  { base := ws.getD 0 0, count0 := recField ws 1 63 32, stride0 := sextInt (recField ws 1 31 0) 32,
    count1 := recField ws 2 63 32, stride1 := sextInt (recField ws 2 31 0) 32,
    dir := ⟨recField ws 3 63 62 % 4, Nat.mod_lt _ (by decide)⟩,
    queue := ⟨recField ws 3 61 58 % 16, Nat.mod_lt _ (by decide)⟩ }

/-- A bound register set. -/
def Thread.bind (t : Thread) (vec : Bool) (n : Fin 8) (st : Option Stream) : Thread :=
  if vec then { t with sv := t.sv.set n st } else { t with ss := t.ss.set n st }

/-- A register's place among the bindable ones. -/
def bindable (n : Fin 32) : Option (Fin 8) := if h : 24 ≤ n.val then some ⟨n.val - 24, by omega⟩ else none

/-- `SBIND` and `SBINDS` (R307). -/
def bindStream (vec : Bool) (x : Pre) (a : Fin 32) (b : SReg) (s : State) : Res :=
  issue x (fun k => do
    match bindable a with
    | none => trap 0x02
    | some n => do
      let p ← readS k b
      let bs ← localBlock k p 32 32 0x04 0x04 false
      let st := readStream bs
      trapIf (recField (wordsOf64 4 bs) 3 57 0 != 0) 0x04
      if st.dir.val < 2 then modThr k fun t => t.bind vec n (some st)
      else do
        let q ← boundQueue k st.queue
        modThr k fun t => t.bind vec n (some { st with start := if st.dir == 2 then q.head else q.tail })
      goOn) s

/-- SBIND (R307). -/
def execSbind (x : Pre) (a : VReg) (b : SReg) (s : State) : Res := bindStream true x a b s
/-- SBINDS (R307). -/
def execSbinds (x : Pre) (a : SReg) (b : SReg) (s : State) : Res := bindStream false x a b s

/-- SUNBIND (R308): a write-bound stream waits until the elements that instructions and commands of either engine append are
written; selector 0 is a vector register. -/
def execSunbind (x : Pre) (a : SReg) (imm : Word) (s : State) : Res :=
  issue x (fun k => do
    let t ← getThr k
    match t.stream (imm == 0) a with
    | none => goOn
    | some (n, st) => do
      let s ← getState
      holdUnless (st.dir.val % 2 == 0 || (s.idleV k && s.idleM k && s.storesDone k))
      modThr k fun t => t.bind (imm == 0) n none
      goOn) s

/-- SPOS (R308). -/
def execSpos (x : Pre) (a : SReg) (b : SReg) (c : Fin 8) (s : State) : Res :=
  issue x (fun k => do
    let t ← getThr k
    writeS k a (match t.stream (c == 0) b with | some (_, st) => BitVec.ofNat 64 st.pos | none => 0)
    goOn) s

end Sys2Proof.Machine
end

