-- ==== Sys2Proof/Machine/Messages.lean ====
section
/-!
DEFINITION. Messages, the mailbox, and the instructions that hand work to the copy engine (R170 to R172, R177, R316 to
R320).
-/
namespace Sys2Proof.Machine
open Sys2Proof

/-! ## Replay (R247) -/

/-- An entry of a log (R246): source core, course, the instructions the thread had retired, thread set and detail. -/
structure LogEntry where
  src : Nat
  course : Nat
  retired : Nat
  ts : Nat
  detail : Nat
  deriving DecidableEq, Repr

/-- The words of a log area, two for each of its 16-byte units. -/
def logWords (bs : List Byte) (n : Nat) : List (Nat × Nat) :=
  (List.range n).map fun i => (leNat ((bs.drop (16 * i)).take 8), leNat ((bs.drop (16 * i + 8)).take 8))

/-- The entries of a log with the word that the next unit holds: that unit is the full digest of an entry of type 7 and no entry
itself (R246). -/
def logRows : List (Nat × Nat) → List (Nat × Nat × Nat)
  | [] => []
  | [(w0, w1)] => [(w0, w1, 0)]
  | (w0, w1) :: (v, z) :: r => (w0, w1, v) :: if fieldOf w0 63 60 == 7 then logRows r else logRows ((v, z) :: r)

/-- Entries of a type, in order (R246). -/
def logOf (rows : List (Nat × Nat × Nat)) (ty : Nat) : List LogEntry :=
  rows.filterMap fun (w0, w1, _) =>
    if fieldOf w0 63 60 == ty then
      some ⟨fieldOf w0 59 48, fieldOf w0 47 0, fieldOf w1 63 32, fieldOf w1 31 30, fieldOf w1 29 0⟩
    else none

/-- The task replays its log. -/
def Task.replaying (t : Task) : Bool := t.replay && !t.replayOff

/-- The log of a core's crew, row by row. -/
def State.logRowsOf (s : State) (core : Nat) : List (Nat × Nat × Nat) :=
  match s.taskOf core with
  | none => []
  | some t =>
    match t.image.replay with
    | none => []
    | some (base, per, _) =>
      let area := base + BitVec.ofNat 64 (s.relOf core) * per
      match s.globalBytes t.asid area 16 with
      | .error _ => []
      | .ok (h, _) =>
        let n := leNat (h.take 8)
        match s.globalBytes t.asid (area + 16) (16 * n) with
        | .error _ => []
        | .ok (bs, _) => logRows (logWords bs n)

/-- The log of a core's crew, of one type. -/
def State.replayLog (s : State) (core ty : Nat) : List LogEntry := logOf (s.logRowsOf core) ty

/-- A core's crew replays its log. -/
def State.replays (s : State) (core : Nat) : Bool :=
  match s.taskOf core with | some t => t.replaying | none => false

/-- The next entry of a type that a replaying core has not consumed. -/
def State.nextLogged (s : State) (core ty : Nat) : Option LogEntry :=
  if s.replays core then (s.replayLog core ty)[tblGet (s.core core).replayPos ty 0]? else none

/-- A thread has come to the place of an entry: its course, and the instructions retired in it (R246). -/
def State.reached (s : State) (core : Nat) (e : LogEntry) : Bool :=
  let course := (s.courseOf core).toNat
  let done := (s.thread core ⟨e.ts % 4, Nat.mod_lt _ (by decide)⟩).retired.toNat
  decide (e.course < course) || (e.course == course && decide (e.retired ≤ done))

/-- Under REPLAY an arrival waits for its logged turn; once the log names no more, none is held (R247). -/
def State.replayTurn (s : State) (core ty src ts detail : Nat) : Bool :=
  match s.nextLogged core ty with
  | none => true
  | some e => e.src == src && e.ts == ts && e.detail == detail % 2 ^ 30

/-- The turn of an arrival that a thread can observe comes when the thread has come to its place, too. -/
def State.replayDue (s : State) (core ty src ts detail : Nat) : Bool :=
  s.replayTurn core ty src ts detail && (match s.nextLogged core ty with | some e => s.reached core e | none => true)

/-- A replaying thread goes no further while an arrival logged at its place has not come (R247): a mailbox deposit, or a fill of
a message register. A register that is still full is emptied by the thread's own `MRECV`, which the log then names. -/
def State.replayAwaits (s : State) (core : Nat) (ts : Fin 4) : Bool :=
  s.replays core && [1, 2].any fun ty =>
    match s.nextLogged core ty with
    | some e => e.ts == ts.val && s.reached core e && !(ty == 1 && ((s.thread core ts).m.toList.getD (e.detail % 16) {}).full)
    | none => false

/-- A logged turn is taken, or under RECORD logged (R246). -/
def State.replayStep (s : State) (core ty src : Nat) (ts : Fin 4) (detail : Nat) : State :=
  if s.replays core then
    let c := s.core core
    s.setCore core { c with replayPos := tblSet c.replayPos ty (tblGet c.replayPos ty 0 + 1) }
  else s.record core ty src ts detail

/-! ## Messages (R170, R171, R316, R317) -/

/-- A message register filled (R170). -/
def Thread.fill (t : Thread) (r : Fin 16) (v : Word) : Thread := { t with m := t.m.set r ⟨v, true⟩ }

/-- What a message takes at its core (R170): its register, among `z.1`, or an entry of the overflow buffer, of which
`z.2` are taken. -/
def Core.claim (c : Core) (z : List (Fin 4 × Fin 16) × Nat) (m : Msg) : List (Fin 4 × Fin 16) × Nat :=
  if (c.thr[m.ts].m[m.reg]).full || z.1.contains (m.ts, m.reg) then (z.1, z.2 + 1) else ((m.ts, m.reg) :: z.1, z.2)

/-- A core has room for one more message to a register, beside those under way to it (R171). -/
def State.messageRoom (s : State) (dst : Nat) (ts : Fin 4) (r : Fin 16) : Bool :=
  let c := s.core dst
  let ahead := s.fab.fly.filterMap fun f => match f.what with | .msg d m => if d == dst then some m else none | _ => none
  let z := ahead.foldl c.claim ([], c.overflow.length)
  !((c.thr[ts].m[r]).full || z.1.contains (ts, r)) || decide (z.2 < 16)

/-- A thread waits to send a message: it takes its place in the order of issue when it begins to (R171). -/
def State.stallSend (s : State) (k : Ctx) : State :=
  match (s.thread k.core k.ts).sending with
  | some _ => s
  | none => (s.modThread k.core k.ts fun t => { t with sending := some s.fab.nextId }).bumpId

/-- MSEND (R316): it waits while the message would find no room, and counts as a send that has not landed (R171). -/
def execMsend (x : Pre) (a b : SReg) (imm : Word) (s : State) : Res :=
  issue x (fun k => do
    let v ← readS k a
    let w ← readS k b
    let s ← getState
    trapIf (fieldOf w.toNat 63 14 != 0) 0x02
    match s.taskOf k.core with
    | none => trap 0x02
    | some t => do
      let rel := w.toNat / 4
      let ts : Fin 4 := ⟨w.toNat % 4, Nat.mod_lt _ (by decide)⟩
      let r : Fin 16 := ⟨imm.toNat % 16, Nat.mod_lt _ (by decide)⟩
      trapIf (!t.carries rel || !t.allotted ts.val) 0x02
      if s.messageRoom (t.coreAt rel) ts r then do
        modState fun s => s.launch k.core k.ts (.msg (t.coreAt rel) ⟨ts, r, v, s.relOf k.core⟩)
        goOn
      else
        fun _ => .error (.holdIn fun s => s.stallSend k)) s

/-- An earlier message of the same sender to the same register is still under way (R170). -/
def State.behindMessage (s : State) (f : Fly) (dst : Nat) (m : Msg) : Bool :=
  s.fab.fly.any fun g => g.id < f.id && g.core == f.core && g.ts == f.ts &&
    (match g.what with | .msg d n => d == dst && n.ts == m.ts && n.reg == m.reg | _ => false)

/-- The oldest message of an overflow buffer that may move into its register: the register is empty, and under REPLAY its turn
has come (R171, R247). -/
def State.movable (s : State) (core : Nat) : Option Msg :=
  let c := s.core core
  c.overflow.find? fun m => !(c.thr[m.ts].m[m.reg]).full && s.replayDue core 1 m.src m.ts.val m.reg.val

/-- A register filled by a message, which the core logs (R170, R246). -/
def State.fillReg (s : State) (core : Nat) (m : Msg) : State :=
  (s.modThread core m.ts fun t => t.fill m.reg m.val).replayStep core 1 m.src m.ts m.reg.val

/-- Overflow entries move into registers while they may. -/
def State.moveOverflow : Nat → Nat → State → State
  | 0, _, s => s
  | fuel + 1, core, s =>
    match s.movable core with
    | none => s
    | some m =>
      let c := s.core core
      State.moveOverflow fuel core ((s.setCore core { c with overflow := c.overflow.erase m }).fillReg core m)

/-- A message reaches its core: the register, or the overflow buffer while that holds fewer than 16; none when it
waits at its source (R170, R171). -/
def State.deliverMsg (s : State) (dst : Nat) (m : Msg) : Option State :=
  let c := s.core dst
  let earlier := c.overflow.any fun o => o.ts == m.ts && o.reg == m.reg && o.src == m.src
  if !(c.thr[m.ts].m[m.reg]).full && !earlier && s.replayDue dst 1 m.src m.ts.val m.reg.val then
    some (State.moveOverflow 17 dst (s.fillReg dst m))
  else if c.overflow.length < 16 then some (s.setCore dst { c with overflow := c.overflow ++ [m] })
  else none

/-- MESSAGE_ARRIVE (R170, R171, R165). -/
def execMessageArrive (n : Nat) (s : State) : Res :=
  match s.fab.fly.find? (·.id == n) with
  | some f =>
    match f.what with
    | .msg dst m =>
      if s.behindStores f || s.behindMessage f dst m then .next s
      else
        match s.deliverMsg dst m with
        | some s => .next (s.landed n)
        | none => .next s
    | _ => .next s
  | none => .next s

/-- A register emptied: the oldest overflow entry for it moves in, in the same cycle (R171). -/
def State.drainReg (s : State) (core : Nat) (ts : Fin 4) (r : Fin 16) : State :=
  State.moveOverflow 17 core (s.modThread core ts fun t => { t with m := t.m.set r ⟨t.m[r].val, false⟩ })

/-- MRECV (R317). -/
def execMrecv (x : Pre) (a : SReg) (imm : Word) (s : State) : Res :=
  issue x (fun k => do
    let t ← getThr k
    let r : Fin 16 := ⟨imm.toNat % 16, Nat.mod_lt _ (by decide)⟩
    holdUnless t.m[r].full
    modState fun s => s.drainReg k.core k.ts r
    writeS k a t.m[r].val
    goOn) s

/-- The 16 full bits. -/
def fullBits (t : Thread) : Word :=
  BitVec.ofNat 64 ((List.finRange 16).foldl (fun n r => n + boolNat t.m[r].full * 2 ^ r.val) 0)

/-- MPOLL (R317). -/
def execMpoll (x : Pre) (a : SReg) (s : State) : Res :=
  issue x (fun k => do
    let t ← getThr k
    writeS k a (fullBits t)
    goOn) s

/-! ## The mailbox (R172, R318) -/

/-- An earlier deposit of the same source to the mailbox is still under way: those wait in order (R172, R177). -/
def State.behindDeposit (s : State) (f : Fly) (dst : Nat) : Bool :=
  let eng (w : FlyKind) : Bool := match w with | .deposit _ _ _ e => e | _ => false
  s.fab.fly.any fun g => g.id < f.id && g.core == f.core && eng g.what == eng f.what &&
    (match g.what with | .deposit d _ _ _ => d == dst | _ => false)

/-- The core number that stands for what lies outside every core: other devices, the collective engines and the control
cores. -/
def foreignCore : Nat := 4096

/-- An entry of the control cores for a core's mailbox: its tag is 0xFFFF (R172, R318). -/
def State.systemDeposit (s : State) (core : Nat) (w0 w1 : Word) : State :=
  s.launch foreignCore 0 (.deposit core (w0 ||| 0xFFFF000000000000) w1 true)

/-- Another deposit to the mailbox is under way. -/
def State.moreDeposits (s : State) (dst n : Nat) : Bool :=
  s.fab.fly.any fun g => g.id != n && (match g.what with | .deposit d _ _ _ => d == dst | _ => false)

/-- MAILBOX_DEPOSIT (R172): the control cores make an entry (R318), or one under way arrives; it waits at its source while the
mailbox is full, and `held` stands while one waits. -/
def execMailboxDeposit (n : Deposit) (s : State) : Res :=
  match n with
  | .system core w0 w1 => .next (s.systemDeposit core.val w0 w1)
  | .sent n =>
    match s.fab.fly.find? (·.id == n) with
    | some f =>
      match f.what with
      | .deposit dst w0 w1 _ =>
        let c := s.core dst
        if s.behindStores f || s.behindDeposit f dst || !s.replayDue dst 2 (s.relOf f.core) 0 0 then .next s
        else if c.mailbox.length < 64 then
          .next (((s.landed n).setCore dst
            { c with mailbox := c.mailbox ++ [(w0, w1)], deposits := c.deposits + 1,
                     mbHeld := decide (64 ≤ c.mailbox.length + 1) && s.moreDeposits dst n }).replayStep dst 2
              (s.relOf f.core) 0 0)
        else .next (s.setCore dst { c with mbHeld := true })
      | _ => .next s
    | none => .next s

/-- MBWAIT (R318). -/
def execMbwait (x : Pre) (a : SReg) (imm : Word) (s : State) : Res :=
  issue x (fun k => do
    let c ← getCore k
    holdUnless (imm.toNat ≤ c.mailbox.length)
    writeS k a (BitVec.ofNat 64 c.mailbox.length)
    goOn) s

/-- MBPOP (R318, R172): it acquires a copy's writes, which then enter the digest (R163, R248). -/
def execMbpop (x : Pre) (a : SReg) (s : State) : Res :=
  issue x (fun k => do
    let c ← getCore k
    match c.mailbox with
    | [] => hold
    | (w0, w1) :: r => do
      let ws := match c.unfolded.find? fun (w, _) => w == (w0, w1) with | some (_, l) => l | none => []
      modCore k fun c => { c with mailbox := r, unfolded := c.unfolded.eraseP fun (w, _) => w == (w0, w1) }
      modState fun s => s.foldWrites k.core k.ts ws
      writeS k a w0
      writeS k (pairHigh a) w1
      goOn) s

/-! ## The copy queue (R177, R179, R319, R320) -/

/-- A request enters the copy queue. -/
def State.pushCopy (s : State) (k : Ctx) (words : List Word) (cfet : Option (Fin 16 × Word)) : State :=
  let c := s.core k.core
  (s.setCore k.core { c with copyq := c.copyq ++ [⟨s.fab.nextId, k.ts, k.resident, words, cfet, [], 0⟩] }).bumpId

/-- Entries of the copy queue in use: requests, and those whose completion is not yet deposited (R177). -/
def State.copyLoad (s : State) (core : Nat) : Nat :=
  (s.core core).copyq.length +
    (s.fab.fly.filter fun f => f.core == core && (match f.what with | .deposit _ _ _ eng => eng | _ => false)).length

/-- `COPY` and `COPYB` (R319). -/
def copyInto (busy : Bool) (x : Pre) (a b : SReg) (s : State) : Res :=
  issue x (fun k => do
    let p ← readS k b
    let bs ← localBlock k p 32 32 0x02 0x60 true
    let s ← getState
    if s.copyLoad k.core < 8 then do
      modState fun s => s.pushCopy k (wordsOf64 4 bs) none
      writeS k a 0
      goOn
    else if busy then do
      writeS k a 1
      goOn
    else hold) s

/-- COPY (R319). -/
def execCopy (x : Pre) (a b : SReg) (s : State) : Res := copyInto false x a b s
/-- COPYB (R319). -/
def execCopyb (x : Pre) (a b : SReg) (s : State) : Res := copyInto true x a b s

/-- A segment fetch clears the valid bit and counts as under way (R179). -/
def Core.beginFetch (c : Core) (g : Fin 16) : Core :=
  { c with segValid := c.segValid &&& ~~~((1 : BitVec 16) <<< g.val), segFetch := c.segFetch.set g (c.segFetch[g] + 1),
           segFail := c.segFail.set g none }

/-- `CFET` and `CFETB` (R320). -/
def fetchInto (busy : Bool) (x : Pre) (a b c : SReg) (s : State) : Res :=
  issue x (fun k => do
    let g ← readS k b
    let p ← readS k c
    trapIf (g = 0 || 15 < g.toNat || !p.getLsbD 63) 0x02
    trapIf (p.toNat % 64 != 0) 0x60 p
    let s ← getState
    holdUnless (!s.acquiring k.core k.ts)
    let seg : Fin 16 := ⟨g.toNat % 16, Nat.mod_lt _ (by decide)⟩
    if s.copyLoad k.core < 8 then do
      modState fun s => s.pushCopy k [] (some (seg, p))
      modCore k fun c => c.beginFetch seg
      writeS k a 0
      goOn
    else if busy then do
      writeS k a 1
      goOn
    else hold) s

/-- CFET (R320). -/
def execCfet (x : Pre) (a b c : SReg) (s : State) : Res := fetchInto false x a b c s
/-- CFETB (R320). -/
def execCfetb (x : Pre) (a b c : SReg) (s : State) : Res := fetchInto true x a b c s

end Sys2Proof.Machine
end

