-- ==== Sys2Proof/Machine/Vector.lean ====
section
/-!
DEFINITION. Dispatch into the engines (R176, R296, R332), and the instructions of pages 4 to 6: what each hands to the
vector engine, which performs it at VECTOR_COMMAND_COMPLETE (R163).
-/
namespace Sys2Proof.Machine
open Sys2Proof

/-! ## Dispatch (R175, R176) -/

/-- A register an instruction names: of the vector or the scalar class. -/
abbrev RegName := Bool × Fin 32

/-- A matrix command of the thread that writes a vector register has not completed: a command that names the register
waits for it (R163). -/
def State.vectorBusy (s : State) (k : Ctx) (n : Nat) : Bool :=
  (s.core k.core).mq.any fun d => d.ts == k.ts && d.kind == .zmovv && d.a == n

/-- A command may be dispatched: there is room in its engine's queue, no acquire holds the thread, and no command of
the other engine still writes a register it names (R176, R296, R332). -/
def State.mayDispatch (s : State) (k : Ctx) (mx : Bool) (regs : List RegName) : Bool :=
  let c := s.core k.core
  decide ((if mx then c.mq else c.vq).length < 2) && !s.acquiring k.core k.ts &&
  regs.all fun (v, n) => if v then !s.vectorBusy k n.val else !s.scalarBusy k n.val

/-- Elements popped by the bound registers that an instruction reads (R175). -/
def popAll (k : Ctx) : List (Fin 32) → M (List (Nat × VWord))
  | [] => pure []
  | n :: r => do
    let t ← getThr k
    match t.stream true n with
    | none => popAll k r
    | some (i, st) => do
      let v ← popStream k true i st
      let l ← popAll k r
      return (n.val, v) :: l

/-- The place of an appended element: its checks are made, and its request leaves, at dispatch (R71, R175, R332). -/
def appendAt (k : Ctx) (reg n : Nat) (a : Word) : M Append := fun s =>
  match s.access k.core a n n true (sysAccess k (s.thread k.core k.ts)) with
  | .error e => .error (accessTrap k a e)
  | .ok (acc, s1) =>
    if s.portHeld k acc.place then .error (.holdIn fun s => s.noteHeld k.core false)
    else .ok (⟨reg, a, acc.loc, acc.home, acc.place.isOwn k.core⟩, s1.debitAccess k a acc.place n)

/-- Where the bound registers that an instruction writes append. -/
def appendAll (k : Ctx) : List RegName → M (List Append)
  | [] => pure []
  | (vec, n) :: r => do
    let t ← getThr k
    match t.stream vec n with
    | none => appendAll k r
    | some (i, st) => do
      let a ← streamNext k st true
      let p ← appendAt k (if vec then n.val else 32 + n.val) (if vec then 64 else 8) a
      modThr k fun t => t.advance vec i
      let l ← appendAll k r
      return p :: l

/-- A command takes its sequence number and enters its engine's queue; the ring keeps its words (R176). -/
def State.push (s : State) (k : Ctx) (mx : Bool) (d : Cmd) : State :=
  let c := s.core k.core
  let d := { d with id := s.fab.nextId, ts := k.ts, seq := c.cpseq }
  let i : Fin 32 := ⟨c.cpseq.toNat % 32, Nat.mod_lt _ (by decide)⟩
  (s.setCore k.core
    { c with cpseq := c.cpseq + 1, ring := c.ring.set i ⟨c.cpseq, k.addr, k.words⟩,
             vq := if mx then c.vq else c.vq ++ [d], mq := if mx then c.mq ++ [d] else c.mq }).bumpId

/-- The command is an access of memory. -/
def Cmd.accesses (d : Cmd) : Bool :=
  match d.kind with
  | .vld | .vst | .vlds | .vsts | .vldg | .vstg | .vldt | .rowld | .rowst | .rowadd | .rowcas | .yst | .yld
  | .old _ | .oldt _ | .ost | .zst | .zld => true
  | _ => false

/-- The issue of a command that is an access debits the class of its address (R72, R75). -/
def State.debitCmd (s : State) (k : Ctx) (d : Cmd) : State := if d.accesses then s.debitSpace k d.s1 else s

/-- A command before its dispatch. -/
def cmdOf (x : Pre) (e : EKind) : Cmd := { id := 0, ts := 0, seq := 0, x := x, kind := e }

/-- A command dispatched, with the vector registers it reads and the registers it writes. -/
def dispatch (k : Ctx) (mx : Bool) (reads : List (Fin 32)) (writes : List RegName) (d : Cmd) : M Unit := do
  let s ← getState
  holdUnless (s.mayDispatch k mx (reads.map (fun n => (true, n)) ++ writes))
  let ps ← popAll k reads
  let as ← appendAll k writes
  modState fun s => (s.push k mx { d with pops := ps, apps := as }).debitCmd k d

/-- A vector command without scalar sources. -/
def vcmd (x : Pre) (reads : List (Fin 32)) (writes : List RegName) (d : Cmd) (s : State) : Res :=
  issue x (fun k => do
    dispatch k false reads writes d
    goOn) s

/-- A vector command with a scalar source. -/
def vcmdS (x : Pre) (b : SReg) (reads : List (Fin 32)) (writes : List RegName) (d : Cmd) (s : State) : Res :=
  issue x (fun k => do
    let v ← readS k b
    dispatch k false reads writes { d with s1 := v }
    goOn) s

/-- Three vector operands. -/
def vec3 (x : Pre) (e : EKind) (a b c : VReg) (s : State) : Res :=
  vcmd x [b, c] [(true, a)] { cmdOf x e with a := a.val, b := b.val, c := c.val } s
/-- Three vector operands, the destination an addend too. -/
def vec3acc (x : Pre) (e : EKind) (a b c : VReg) (s : State) : Res :=
  vcmd x [a, b, c] [(true, a)] { cmdOf x e with a := a.val, b := b.val, c := c.val } s
/-- Two vector operands and an immediate. -/
def vec2 (x : Pre) (e : EKind) (a b : VReg) (imm : Word) (s : State) : Res :=
  vcmd x [b] [(true, a)] { cmdOf x e with a := a.val, b := b.val, imm := imm } s
/-- A compare into a mask. -/
def vecMask (x : Pre) (e : EKind) (a : KReg) (b c : VReg) (s : State) : Res :=
  vcmd x [b, c] [] { cmdOf x e with a := a.val, b := b.val, c := c.val } s
/-- A mask operation. -/
def maskOp (x : Pre) (e : EKind) (a b c : KReg) (s : State) : Res :=
  vcmd x [] [] { cmdOf x e with a := a.val, b := b.val, c := c.val } s

/-! ## Instructions -/

/-- VADD (R333). -/
def execVadd (x : Pre) (a b c : VReg) (s : State) : Res := vec3 x (.int .add false) a b c s

/-- VADD_SAT (R333). -/
def execVaddSat (x : Pre) (a b c : VReg) (s : State) : Res := vec3 x (.int .add true) a b c s

/-- VSUB (R333). -/
def execVsub (x : Pre) (a b c : VReg) (s : State) : Res := vec3 x (.int .sub false) a b c s

/-- VSUB_SAT (R333). -/
def execVsubSat (x : Pre) (a b c : VReg) (s : State) : Res := vec3 x (.int .sub true) a b c s

/-- VMUL (R333). -/
def execVmul (x : Pre) (a b c : VReg) (s : State) : Res := vec3 x (.int .mul x.sat) a b c s

/-- VMULH (R333). -/
def execVmulh (x : Pre) (a b c : VReg) (s : State) : Res := vec3 x (.int .mulh false) a b c s

/-- VMULHN (R333). -/
def execVmulhn (x : Pre) (a b c : VReg) (s : State) : Res := vec3 x (.int .mulhn false) a b c s

/-- VMAD (R333). -/
def execVmad (x : Pre) (a b c : VReg) (s : State) : Res := vec3acc x (.int .mad x.sat) a b c s

/-- VADDW (R334). -/
def execVaddw (x : Pre) (a b c : VReg) (s : State) : Res := vec3 x (.addw false) a b c s

/-- VADDWH (R334). -/
def execVaddwh (x : Pre) (a b c : VReg) (s : State) : Res := vec3 x (.addw true) a b c s

/-- VDOT (R334). -/
def execVdot (x : Pre) (a b c : VReg) (s : State) : Res := vec3acc x .dot a b c s

/-- VAND (R333). -/
def execVand (x : Pre) (a b c : VReg) (s : State) : Res := vec3 x (.int .and false) a b c s

/-- VOR (R333). -/
def execVor (x : Pre) (a b c : VReg) (s : State) : Res := vec3 x (.int .or false) a b c s

/-- VXOR (R333). -/
def execVxor (x : Pre) (a b c : VReg) (s : State) : Res := vec3 x (.int .xor false) a b c s

/-- VSHL (R335). -/
def execVshl (x : Pre) (a b c : VReg) (s : State) : Res := vec3 x (.int .shl false) a b c s

/-- VSHR (R335). -/
def execVshr (x : Pre) (a b c : VReg) (s : State) : Res := vec3 x (.int .shr false) a b c s

/-- VSAR (R335). -/
def execVsar (x : Pre) (a b c : VReg) (s : State) : Res := vec3 x (.int .sar false) a b c s

/-- VSHLI (R335). -/
def execVshli (x : Pre) (a b : VReg) (imm : Word) (s : State) : Res := vec2 x (.shiftImm .shl) a b imm s

/-- VSHRI (R335). -/
def execVshri (x : Pre) (a b : VReg) (imm : Word) (s : State) : Res := vec2 x (.shiftImm .shr) a b imm s

/-- VSARI (R335). -/
def execVsari (x : Pre) (a b : VReg) (imm : Word) (s : State) : Res := vec2 x (.shiftImm .sar) a b imm s

/-- VMIN (R333). -/
def execVmin (x : Pre) (a b c : VReg) (s : State) : Res := vec3 x (.int .min false) a b c s

/-- VMINN (R333). -/
def execVminn (x : Pre) (a b c : VReg) (s : State) : Res := vec3 x (.int .minn false) a b c s

/-- VMAX (R333). -/
def execVmax (x : Pre) (a b c : VReg) (s : State) : Res := vec3 x (.int .max false) a b c s

/-- VMAXN (R333). -/
def execVmaxn (x : Pre) (a b c : VReg) (s : State) : Res := vec3 x (.int .maxn false) a b c s

/-- VABS (R333). -/
def execVabs (x : Pre) (a b : VReg) (s : State) : Res := vec2 x .abs a b 0 s

/-- VCMPEQ (R336). -/
def execVcmpeq (x : Pre) (a : KReg) (b c : VReg) (s : State) : Res := vecMask x (.cmp .eq) a b c s

/-- VCMPNE (R336). -/
def execVcmpne (x : Pre) (a : KReg) (b c : VReg) (s : State) : Res := vecMask x (.cmp .ne) a b c s

/-- VCMPLT (R336). -/
def execVcmplt (x : Pre) (a : KReg) (b c : VReg) (s : State) : Res := vecMask x (.cmp .lt) a b c s

/-- VCMPLTN (R336). -/
def execVcmpltn (x : Pre) (a : KReg) (b c : VReg) (s : State) : Res := vecMask x (.cmp .ltn) a b c s

/-- VCMPLE (R336). -/
def execVcmple (x : Pre) (a : KReg) (b c : VReg) (s : State) : Res := vecMask x (.cmp .le) a b c s

/-- VCMPLEN (R336). -/
def execVcmplen (x : Pre) (a : KReg) (b c : VReg) (s : State) : Res := vecMask x (.cmp .len) a b c s

/-- VSEL (R337). -/
def execVsel (x : Pre) (a b c : VReg) (s : State) : Res := vec3 x .sel a b c s

/-- VBCAST (R337). -/
def execVbcast (x : Pre) (a : VReg) (b : SReg) (s : State) : Res := 
  vcmdS x b [] [(true, a)] { cmdOf x .bcast with a := a.val } s

/-- VEXTR (R337). -/
def execVextr (x : Pre) (a : SReg) (b : VReg) (imm : Word) (s : State) : Res := 
  vcmd x [b] [(false, a)] { cmdOf x .extr with a := a.val, b := b.val, imm := imm } s

/-- VINS (R337). -/
def execVins (x : Pre) (a : VReg) (b : SReg) (imm : Word) (s : State) : Res := 
  vcmdS x b [] [(true, a)] { cmdOf x .ins with a := a.val, imm := imm } s

/-- VLANE (R337). -/
def execVlane (x : Pre) (a : VReg) (imm : Word) (s : State) : Res := 
  vcmd x [] [(true, a)] { cmdOf x .lane with a := a.val, imm := imm } s

/-- VFADD (R338). -/
def execVfadd (x : Pre) (a b c : VReg) (s : State) : Res := vec3 x (.flt .add) a b c s

/-- VFSUB (R338). -/
def execVfsub (x : Pre) (a b c : VReg) (s : State) : Res := vec3 x (.flt .sub) a b c s

/-- VFMUL (R338). -/
def execVfmul (x : Pre) (a b c : VReg) (s : State) : Res := vec3 x (.flt .mul) a b c s

/-- VFMA (R338). -/
def execVfma (x : Pre) (a b c : VReg) (s : State) : Res := vec3acc x (.flt .fma) a b c s

/-- VFNMA (R338). -/
def execVfnma (x : Pre) (a b c : VReg) (s : State) : Res := vec3acc x (.flt .fnma) a b c s

/-- VFMIN (R339). -/
def execVfmin (x : Pre) (a b c : VReg) (s : State) : Res := vec3 x (.fminmax false) a b c s

/-- VFMAX (R339). -/
def execVfmax (x : Pre) (a b c : VReg) (s : State) : Res := vec3 x (.fminmax true) a b c s

/-- VFABS (R339). -/
def execVfabs (x : Pre) (a b : VReg) (s : State) : Res := vec2 x .fabs a b 0 s

/-- VFNEG (R339). -/
def execVfneg (x : Pre) (a b : VReg) (s : State) : Res := vec2 x .fneg a b 0 s

/-- VFCMPEQ (R339). -/
def execVfcmpeq (x : Pre) (a : KReg) (b c : VReg) (s : State) : Res := vecMask x (.fcmp .eq) a b c s

/-- VFCMPLT (R339). -/
def execVfcmplt (x : Pre) (a : KReg) (b c : VReg) (s : State) : Res := vecMask x (.fcmp .lt) a b c s

/-- VFCMPLE (R339). -/
def execVfcmple (x : Pre) (a : KReg) (b c : VReg) (s : State) : Res := vecMask x (.fcmp .le) a b c s

/-- VFDIV (R202). -/
def execVfdiv (x : Pre) (a b c : VReg) (s : State) : Res := vec3 x (.flt .div) a b c s

/-- VFSQRT (R202). -/
def execVfsqrt (x : Pre) (a b : VReg) (s : State) : Res := vec2 x (.flt .sqrt) a b 0 s

/-- VFRCP (R202). -/
def execVfrcp (x : Pre) (a b : VReg) (s : State) : Res := vec2 x (.flt .rcp) a b 0 s

/-- VFRSQ (R202). -/
def execVfrsq (x : Pre) (a b : VReg) (s : State) : Res := vec2 x (.flt .rsq) a b 0 s

/-- VCVT (R340): `c` is the part. -/
def execVcvt (x : Pre) (a b : VReg) (c : Fin 8) (s : State) : Res := vec2 x .cvt a b (BitVec.ofNat 64 c.val) s

/-- VPACK (R341). -/
def execVpack (x : Pre) (a b c : VReg) (s : State) : Res := vec3 x .pack a b c s

/-- VUNPK (R341). -/
def execVunpk (x : Pre) (a b : VReg) (s : State) : Res := vec2 x (.unpk false) a b 0 s

/-- VUNPKH (R341). -/
def execVunpkh (x : Pre) (a b : VReg) (s : State) : Res := vec2 x (.unpk true) a b 0 s

/-- VPERM (R342). -/
def execVperm (x : Pre) (a b c : VReg) (s : State) : Res := vec3 x .perm a b c s

/-- VSLIDEUP (R342). -/
def execVslideup (x : Pre) (a b : VReg) (imm : Word) (s : State) : Res := vec2 x (.slide true) a b imm s

/-- VSLIDEDN (R342). -/
def execVslidedn (x : Pre) (a b : VReg) (imm : Word) (s : State) : Res := vec2 x (.slide false) a b imm s

/-- VZIP (R343). -/
def execVzip (x : Pre) (a b c : VReg) (s : State) : Res := vec3 x (.mix .zip) a b c s

/-- VZIPH (R343). -/
def execVziph (x : Pre) (a b c : VReg) (s : State) : Res := vec3 x (.mix .ziph) a b c s

/-- VUNZIP (R343). -/
def execVunzip (x : Pre) (a b c : VReg) (s : State) : Res := vec3 x (.mix .unzip) a b c s

/-- VUNZIPO (R343). -/
def execVunzipo (x : Pre) (a b c : VReg) (s : State) : Res := vec3 x (.mix .unzipo) a b c s

/-- VTRN (R343). -/
def execVtrn (x : Pre) (a b c : VReg) (s : State) : Res := vec3 x (.mix .trn) a b c s

/-- VTRN2 (R343). -/
def execVtrn2 (x : Pre) (a b c : VReg) (s : State) : Res := vec3 x (.mix .trn2) a b c s

/-- VSCAN (R344). -/
def execVscan (x : Pre) (a b : VReg) (s : State) : Res := vec2 x (.scan false) a b 0 s

/-- VSCANX (R344). -/
def execVscanx (x : Pre) (a b : VReg) (s : State) : Res := vec2 x (.scan true) a b 0 s

/-- VRED (R345). -/
def execVred (x : Pre) (a b : VReg) (s : State) : Res := vec2 x (.red false) a b 0 s

/-- VREDW (R345). -/
def execVredw (x : Pre) (a b : VReg) (s : State) : Res := vec2 x (.red true) a b 0 s

/-- VREDMAX (R345). -/
def execVredmax (x : Pre) (a b : VReg) (s : State) : Res := vec2 x (.redmax true) a b 0 s

/-- VREDMAXN (R345). -/
def execVredmaxn (x : Pre) (a b : VReg) (s : State) : Res := vec2 x (.redmax false) a b 0 s

/-- VFRED (R346). -/
def execVfred (x : Pre) (a b : VReg) (s : State) : Res := vec2 x .fred a b 0 s

/-- VFREDMAX (R346). -/
def execVfredmax (x : Pre) (a b : VReg) (s : State) : Res := vec2 x .fredmax a b 0 s

/-- KAND (R347). -/
def execKand (x : Pre) (a b c : KReg) (s : State) : Res := maskOp x .kand a b c s

/-- KOR (R347). -/
def execKor (x : Pre) (a b c : KReg) (s : State) : Res := maskOp x .kor a b c s

/-- KNOT (R347). -/
def execKnot (x : Pre) (a b : KReg) (s : State) : Res := maskOp x .knot a b 0 s

/-- KPOPC (R347). -/
def execKpopc (x : Pre) (a : SReg) (b : KReg) (s : State) : Res := 
  vcmd x [] [(false, a)] { cmdOf x .kpopc with a := a.val, b := b.val } s

/-- KFIRST (R347). -/
def execKfirst (x : Pre) (a : SReg) (b : KReg) (s : State) : Res := 
  vcmd x [] [(false, a)] { cmdOf x .kfirst with a := a.val, b := b.val } s

/-- KMOVS (R347). -/
def execKmovs (x : Pre) (a : SReg) (b : KReg) (s : State) : Res := 
  vcmd x [] [(false, a)] { cmdOf x .kmovs with a := a.val, b := b.val } s

/-- KMOV (R347). -/
def execKmov (x : Pre) (a : KReg) (b : SReg) (s : State) : Res := vcmdS x b [] [] { cmdOf x .kmov with a := a.val } s

end Sys2Proof.Machine
end

