-- ==== Sys2Proof/Machine/Slice.lean ====
section
/-!
DEFINITION. Slice regions: `SLDECL`, `RADD`, `RADDV`, `AMRG`, `RFOLD`, the arrival of contributions and the attention
merge (R126 to R131, R389 to R393).
-/
namespace Sys2Proof.Machine
open Sys2Proof

/-! ## The attention merge (R131) -/

/-- Minus infinity in `f32`. -/
def negInf32 : Nat := 0xFF800000

/-- A row of numbers: m, l, then the lanes of o. -/
abbrev PartialRow := List Nat

/-- NV where any number of the inputs is a signalling NaN. -/
def signalling (l : List Nat) : Flags := sigFlags (l.map fun b => (unpackF fmtF32 false b).2)

/-- One operation of `f32`, RNE, unflushed, with its flags. -/
def op32 (o : FOp) (x y z : Nat) : Nat × Flags := (fArith fmtF32 false {} o x y z).get

/-- merge(P, Q) of R131, with the flags of its operations. -/
def mergeRows (p q : PartialRow) : PartialRow × Flags :=
  let sg := signalling (p ++ q)
  let pm := p.headD 0
  let qm := q.headD 0
  let val (b : Nat) : XV := (unpackF fmtF32 false b).1
  let n := p.length - 2
  if (val pm).isNan || (val qm).isNan then (List.replicate (n + 2) 0x7FC00000, sg)
  else if pm == negInf32 && qm == negInf32 then (negInf32 :: List.replicate (n + 1) 0, sg)
  else if pm == negInf32 then (q, sg)
  else if qm == negInf32 then (p, sg)
  else
    let (base, add) := if ltX (val pm) (val qm) then (q, p) else (p, q)
    let (a, fa) : Nat × Flags :=
      if eqX (val (add.headD 0)) (val (base.headD 0)) then (0x3F800000, 0)
      else
        let (d, fd) := op32 .sub (add.headD 0) (base.headD 0) 0
        let (e, fe) := (fTrans fmtF32 false {} .exp2 d).get
        (e, fd ||| fe)
    let rest := ((add.drop 1).zip (base.drop 1)).map fun (x, y) => op32 .fma x a y
    (base.headD 0 :: rest.map (·.1), rest.foldl (fun f (_, g) => f ||| g) (sg ||| fa))

/-! ## Regions (R126) -/

/-- Lanes of a merge region's rows; none for an add region. -/
def sliceWidth (kind : Nat) : Option Nat := if 3 ≤ kind && kind ≤ 7 then some (16 * 2 ^ (kind - 3)) else none

/-- Bytes of an accumulator's element or row. -/
def sliceUnit (kind : Nat) : Nat :=
  match sliceWidth kind with
  | some w => 4 * (w + 2)
  | none => if kind == 1 then 8 else 4

/-- The bank of a region: level and first address. -/
def bankOf (base : Word) : Option (Nat × Nat) := (bankWindow base.toNat).map fun (l, u, _) => (l, u)

/-- Where a region's bytes lie. -/
def State.sliceKey (s : State) (r : SliceRegion) (a : Word) : Nat :=
  match bankWindow a.toNat, s.sched.tasks.find? (·.id == r.task) with
  | some (l, u, off), some t => bankKey l (t.base / levelCores l + u) off
  | _, _ => 0

/-- A region covers an address. -/
def SliceRegion.covers (r : SliceRegion) (task : Nat) (a : Word) : Bool :=
  r.task == task && r.base.toNat ≤ a.toNat && a.toNat < r.base.toNat + r.size

/-- The near bank address of an operand, in absolute form; 0x93 for one that is no bank's. -/
def State.bankAddr (s : State) (core : Nat) (a : Word) : Option Word :=
  match s.place core a false with
  | .ok (.bank l u off) => some (s.absAddr core (.bank l u off))
  | _ => none

/-- The task runs in deterministic mode (R63, R126). -/
def Task.deterministic (t : Task) : Bool := t.det || t.kind == 1

/-- A declaration that breaks a rule of R126. -/
def sliceInvalid (bank level kind size : Nat) (base : Word) (dom : Nat) : Bool :=
  let merge := (sliceWidth kind).isSome
  decide (8 ≤ kind) || decide (level < bank ∨ dom < level ∨ 5 < level ∨ level = 0) ||
  (if merge then size == 0 || size % sliceUnit kind != 0 || decide (65536 < size) || base.toNat % 64 != 0
   else !([64, 128, 256, 512, 1024, 2048, 4096, 8192, 16384, 32768, 65536].contains size) || base.toNat % size != 0)

/-- SLDECL (R126, R389, R390). -/
def execSldecl (x : Pre) (b c : SReg) (s : State) : Res :=
  issue x (fun k => do
    let a ← readS k b
    let w ← readS k c
    let s ← getState
    let f (hi lo : Nat) := fieldOf w.toNat hi lo
    trapIf (f 63 40 != 0) 0x93
    match s.bankAddr k.core a, s.taskOf k.core with
    | some base, some t =>
      match bankOf base with
      | none => trap 0x93
      | some (bl, u) =>
        if w.getLsbD 36 then do
          trapIf (f 39 37 != 0 || f 35 0 != 0) 0x93
          trapIf (!s.fab.slices.any fun r => r.task == t.id && r.base == base) 0x93
          modState fun s => { s with fab := { s.fab with slices := s.fab.slices.filter fun r => !(r.task == t.id && r.base == base) } }
          goOn
        else do
          let size := f 31 0
          let (_, off) := match bankWindow base.toNat with | some (_, _, o) => (0, o) | none => (0, 0)
          trapIf (sliceInvalid bl (f 39 37) (f 35 32) size base t.level || decide (bankSize bl < off + size)) 0x93
          trapIf (s.fab.slices.any fun r => r.task == t.id && rangesMeetW r.base r.size base size) 0x94
          let here := s.fab.slices.filter fun r => r.task == t.id && bankOf r.base == some (bl, u)
          trapIf (32 ≤ here.length || decide (0x40000 < sumNat (here.map (·.size)) + size)) 0x95
          modState fun s => { s with fab := { s.fab with slices := s.fab.slices ++
            [⟨t.id, base, size, f 35 32, f 39 37, s.relOf k.core, t.deterministic, [], [], 0⟩] } }
          goOn
    | _, _ => trap 0x93) s
where
  /-- Two ranges of near addresses overlap. -/
  rangesMeetW (a : Word) (n : Nat) (b : Word) (m : Nat) : Bool := decide (a.toNat < b.toNat + m ∧ b.toNat < a.toNat + n)

/-! ## Contributions (R127, R391, R392) -/

/-- A vector register read by the scalar pipeline: after the thread's commands that may write it. -/
def readV (k : Ctx) (n : VReg) : M VWord := do
  let s ← getState
  holdUnless (s.idleV k && !s.vectorBusy k n.val)
  match (s.thread k.core k.ts).stream true n with
  | none => return (s.thread k.core k.ts).v[n]
  | some (i, st) => popStream k true i st

/-- An address of local space, of the scratchpads' window or of global space (R391). -/
def notBank (a : Word) : Bool :=
  decide (a.toNat < 0x40000) || a.getLsbD 63 || decide (0x200000000 ≤ a.toNat ∧ a.toNat < 0x240000000)

/-- The exact checks on a contribution's address: 0x02 for local space, a scratchpad and global space, R101 for the
rest; `n` bytes from it must lie in its window. -/
def contribAddr (k : Ctx) (a : Word) (n : Nat) : M Word := do
  trapIf (notBank a) 0x02
  let s ← getState
  match s.place k.core a false with
  | .error e => trap e a
  | .ok (.bank l u off) => do
    trapIf (bankSize l < off + n) 0x61 a
    return s.absAddr k.core (.bank l u off)
  | .ok _ => trap 0x02

/-- A contribution leaves its core. -/
def State.contribute (s : State) (k : Ctx) (a : Word) (d : ContribData) : State :=
  let task := match s.taskOf k.core with | some t => t.id | none => 0
  s.launch k.core k.ts (.contrib ⟨s.fab.nextId, task, s.relOf k.core, k.core, k.ts, a, d⟩)

/-- RADD (R391). -/
def execRadd (x : Pre) (b c : SReg) (s : State) : Res :=
  issue x (fun k => do
    let a ← readS k b
    let v ← readS k c
    let p ← contribAddr k a 1
    modState fun s => s.contribute k p (.elem v)
    goOn) s

/-- RADDV (R391). -/
def execRaddv (x : Pre) (b : SReg) (c : VReg) (s : State) : Res :=
  issue x (fun k => do
    let a ← readS k b
    let p ← contribAddr k a 64
    let v ← readV k c
    modState fun s => s.contribute k p (.vec v)
    goOn) s

/-- AMRG (R392). -/
def execAmrg (x : Pre) (a b : SReg) (c : VReg) (d : Fin 16) (s : State) : Res :=
  issue x (fun k => do
    let ml ← readS k a
    let ea ← readS k b
    let n ← readS k (d.castLE (by decide))
    trapIf (15 < n.toNat) 0x02
    let p ← contribAddr k ea 1
    let o ← readV k c
    modState fun s => s.contribute k p (.merge n.toNat (ml.setWidth 32) ((ml >>> 32).setWidth 32) o)
    goOn) s

/-! ## Application (R128, R129) -/

/-- x applied to an accumulator of a kind (R128). -/
def applyAcc (kind : Nat) (old : Option (List Nat)) (v : List Nat) : List Nat × Flags :=
  match old with
  | none => (v, 0)
  | some o =>
    match kind with
    | 0 => ([(o.headD 0 + v.headD 0) % 2 ^ 32], 0)
    | 1 => ([(o.headD 0 + v.headD 0) % 2 ^ 64], 0)
    | 2 => let (r, f) := op32 .add (o.headD 0) (v.headD 0) 0; ([r], f)
    | _ => mergeRows o v

/-- A value applied to an element or row of a region. -/
def SliceRegion.applyAt (r : SliceRegion) (i : Nat) (v : List Nat) : SliceRegion :=
  let old := (r.acc.find? fun (j, _) => j == i).map (·.2)
  let (w, f) := applyAcc r.kind old v
  { r with acc := tblSet r.acc i w, flags := r.flags ||| f }

/-- What a contribution adds, by element or row: a vector's lanes, or a scalar element. -/
def SliceRegion.pieces (r : SliceRegion) (c : Contrib) : List (Nat × List Nat) :=
  let u := sliceUnit r.kind
  let i := (c.addr.toNat - r.base.toNat) / u
  match c.data with
  | .elem v => [(i, [v.toNat % 2 ^ (8 * u)])]
  | .vec v => (List.range (64 / u)).map fun j => (i + j, [laneOf v j (8 * u)])
  | .merge _ _ _ _ => []

/-- The chunk of a merge contribution. -/
def Contrib.chunk (c : Contrib) : Nat := match c.data with | .merge n _ _ _ => n | _ => 0

/-- The row of complete chunks 0, 1, …: m and l of chunk 0 and the lanes in order (R392). -/
def rowOfChunks (l : List Contrib) : List Nat :=
  let lanes := l.flatMap fun c => match c.data with
    | .merge _ _ _ o => (List.range 16).map fun j => laneOf o j 32
    | _ => []
  match l.head? with
  | some c => match c.data with | .merge _ m lw _ => m.toNat :: lw.toNat :: lanes | _ => lanes
  | none => lanes

/-- The first complete contribution among the chunks that one source has held for one row (R128). -/
def takeRow (w : Nat) (l : List Contrib) : Option (List Contrib) :=
  allSome ((List.range (w / 16)).map fun i => l.find? fun c => c.chunk == i)

/-- A contribution passes the checks of R127 at its region. -/
def SliceRegion.admits (r : SliceRegion) (c : Contrib) : Bool :=
  let off := c.addr.toNat - r.base.toNat
  let u := sliceUnit r.kind
  c.src / levelCores r.level == r.declarer / levelCores r.level &&
  (match c.data with
   | .elem _ => decide (r.kind < 3) && off % u == 0
   | .vec _ => decide (r.kind < 3) && off % u == 0 && decide (off + 64 ≤ r.size)
   | .merge n _ _ _ => (match sliceWidth r.kind with | some w => decide (n < w / 16) && off % u == 0 | none => false))

/-- The complete contribution to a row that the arrival of a chunk makes, if it does (R128). -/
def SliceRegion.rowWith (r : SliceRegion) (w : Nat) (c : Contrib) : Option (List Contrib) :=
  takeRow w ((r.buffered ++ [c]).filter fun d => d.src == c.src && d.addr == c.addr)

/-- The arrival of a contribution brings an application about: a chunk of a merge does when it completes its row (R128, R129). -/
def SliceRegion.applies (r : SliceRegion) (c : Contrib) : Bool :=
  match sliceWidth r.kind with | none => true | some w => (r.rowWith w c).isSome

/-- Contributions applied to a region as they stand: sums whole, rows when their chunks are complete; the others stay. -/
def SliceRegion.applyOne (r : SliceRegion) (c : Contrib) : SliceRegion :=
  match sliceWidth r.kind with
  | none => (r.pieces c).foldl (fun r (i, v) => r.applyAt i v) r
  | some w =>
    match r.rowWith w c with
    | none => { r with buffered := r.buffered ++ [c] }
    | some l =>
      ({ r with buffered := (r.buffered ++ [c]).filter fun d => !l.contains d }).applyAt
        ((c.addr.toNat - r.base.toNat) / sliceUnit r.kind) (rowOfChunks l)

/-- A contribution that fails raises 0x96 late at its thread (R127); it carries no sequence number (R224). -/
def State.contribFails (s : State) (c : Contrib) : State :=
  let t := s.thread c.core c.ts
  if t.run == .off || t.run == .stopped then s
  else s.setThread c.core c.ts (t.pend fun d => { d with lates := d.lates ++ [⟨0, 0x96, 0, false⟩] })

/-- A region replaced. -/
def State.putSlice (s : State) (r : SliceRegion) : State :=
  { s with fab := { s.fab with slices := s.fab.slices.map fun q => if q.task == r.task && q.base == r.base then r else q } }

/-- Detail of a logged application (R246): the region's number, then the element's offset. -/
def State.sliceDetail (s : State) (r : SliceRegion) (c : Contrib) : Nat :=
  let n := (s.fab.slices.filter (·.task == r.task)).findIdx fun q => q.base == r.base
  n % 2 ^ 13 * 2 ^ 17 + (c.addr.toNat - r.base.toNat)

/-- SLICE_CONTRIBUTION_ARRIVE (R127 to R129): checked, then applied, held or buffered. In arrival order the declaring
core logs each application, and under REPLAY it waits for its turn (R246, R247). -/
def execSliceContributionArrive (n : Nat) (s : State) : Res :=
  match s.fab.fly.find? (·.id == n) with
  | some f =>
    match f.what with
    | .contrib c =>
      match s.fab.slices.find? (·.covers c.task c.addr) with
      | none => .next ((s.landed n).contribFails c)
      | some r =>
        if !r.admits c then .next ((s.landed n).contribFails c)
        else if r.det then .next ((s.landed n).putSlice { r with buffered := r.buffered ++ [c] })
        else
          let core := match s.sched.tasks.find? (·.id == c.task) with | some t => t.coreAt r.declarer | none => 0
          let d := s.sliceDetail r c
          if !r.applies c then .next ((s.landed n).putSlice (r.applyOne c))
          else if !s.replayTurn core 3 c.src c.ts.val d then .next s
          else .next (((s.landed n).putSlice (r.applyOne c)).replayStep core 3 c.src c.ts d)
    | _ => .next s
  | none => .next s

/-- Complete contributions of a deterministic region in issue order, each with its source and the number of its first
chunk; and the contributions left incomplete. -/
def gatherRows (w : Nat) : Nat → List Contrib → List (Nat × Nat × List Contrib) × List Contrib
  | 0, l => ([], l)
  | fuel + 1, l =>
    match l.findSome? fun c => takeRow w (l.filter fun d => d.src == c.src && d.addr == c.addr) with
    | none => ([], l)
    | some row =>
      let first := row.foldl (fun m c => min m c.id) ((row.map (·.id)).headD 0)
      let src := (row.map (·.src)).headD 0
      let (r, left) := gatherRows w fuel (l.filter fun d => !row.contains d)
      ((src, first, row) :: r, left)

/-- Insertion by source, then number. -/
def insertBy {α : Type} (key : α → Nat × Nat) (x : α) : List α → List α
  | [] => [x]
  | y :: r =>
    if (key x).1 < (key y).1 || ((key x).1 == (key y).1 && (key x).2 < (key y).2) then x :: y :: r
    else y :: insertBy key x r

/-- A list in ascending order of source, then number. -/
def sortBy {α : Type} (key : α → Nat × Nat) (l : List α) : List α := l.foldl (fun a x => insertBy key x a) []

/-- A deterministic region at the release of its level: the buffered contributions in the order of R129; what stays
incomplete is discarded and given back. -/
def SliceRegion.release (r : SliceRegion) : SliceRegion × List Contrib :=
  let l := sortBy (fun c => (0, c.id)) r.buffered
  match sliceWidth r.kind with
  | none =>
    ((sortBy (fun c => (c.src, c.id)) l).foldl (fun r c => (r.pieces c).foldl (fun r (i, v) => r.applyAt i v) r)
      { r with buffered := [] }, [])
  | some w =>
    let (rows, left) := gatherRows w l.length l
    ((sortBy (fun (src, first, _) => (src, first)) rows).foldl (fun r (_, _, row) =>
      r.applyAt (((row.map (·.addr.toNat)).headD 0 - r.base.toNat) / sliceUnit r.kind) (rowOfChunks row))
      { r with buffered := [] }, left)

/-- Which contribution to its row a chunk belongs to, among its source's: the chunks of each number fill them in order. -/
def Contrib.turn (l : List Contrib) (c : Contrib) : Nat :=
  (l.filter fun d => decide (d.id < c.id) && d.src == c.src && d.addr == c.addr && d.chunk == c.chunk).length

/-- The first chunk of each contribution that stays incomplete: 0x96 is raised once for it (R129). -/
def firstChunks (l : List Contrib) : List Contrib :=
  l.filter fun c => !l.any fun d =>
    decide (d.id < c.id) && d.src == c.src && d.addr == c.addr && d.turn l == c.turn l

/-- The slices of a sub-domain apply the course's contributions at a release of their level (R129). -/
def State.releaseSlices (s : State) (core level : Nat) : State :=
  match s.taskOf core with
  | none => s
  | some t =>
    (s.fab.slices.filter fun r => r.task == t.id && r.level == level && r.det &&
      r.declarer / levelCores level == s.relOf core / levelCores level).foldl (fun s r =>
        let (r', left) := r.release
        (firstChunks left).foldl State.contribFails (s.putSlice r')) s

/-! ## Folding (R130, R393) -/

/-- The region's element or row as numbers. -/
def State.sliceRow (s : State) (r : SliceRegion) (i : Nat) : List Nat :=
  let u := sliceUnit r.kind
  let bs := s.bytesAt (.sram (s.sliceKey r (r.base + BitVec.ofNat 64 (i * u)))) u
  match sliceWidth r.kind with
  | none => [leNat bs]
  | some w => (List.range (w + 2)).map fun j => leNat ((bs.drop (4 * j)).take 4)

/-- Bytes of a row. -/
def rowBytes (kind : Nat) (l : List Nat) : List Byte :=
  match sliceWidth kind with
  | none => leBytes (sliceUnit kind) (l.headD 0)
  | some _ => l.flatMap fun n => leBytes 4 n

/-- Every non-empty accumulator folded into the region as stores of a thread (R130): the state and the flags. -/
def State.foldRegion (s : State) (core : Nat) (ts : Fin 4) (r : SliceRegion) : State × Flags :=
  r.acc.foldl (fun (s, fl) (i, v) =>
    let (w, f) := applyAcc r.kind (some (s.sliceRow r i)) v
    let a := r.base + BitVec.ofNat 64 (i * sliceUnit r.kind)
    let bs := rowBytes r.kind w
    ((s.land (.sram (s.sliceKey r a)) bs).foldDigest core ts a bs, fl ||| f)) (s, r.flags)

/-- The first element or row of a fold that lies in part in a capability region that the folding core does not hold (R111,
R130). -/
def State.foldRefusal (s : State) (core : Nat) (t : Task) (r : SliceRegion) : Option Word :=
  r.acc.findSome? fun (i, _) =>
    let e := r.base + BitVec.ofNat 64 (i * sliceUnit r.kind)
    if s.mayStore t.id (s.relOf core) t.asid e (sliceUnit r.kind) then none else some e

/-- RFOLD (R130, R393): the thread is held until its own stores have landed and the fold is written. -/
def execRfold (x : Pre) (b : SReg) (s : State) : Res :=
  issue x (fun k => do
    let a ← readS k b
    let s ← getState
    match s.bankAddr k.core a, s.taskOf k.core with
    | some base, some t =>
      match s.fab.slices.find? fun r => r.task == t.id && r.base == base with
      | none => trap 0x93
      | some r => do
        let bad := s.foldRefusal k.core t r
        trapIf bad.isSome 0x68 (a + (bad.getD 0 - base))
        holdUnless (s.storesDone k && !s.acquiring k.core k.ts)
        let (s', fl) := s.foldRegion k.core k.ts r
        modState fun _ => s'.putSlice { r with acc := [], flags := 0 }
        addFlags k fl
        goOn
    | _, _ => trap 0x93) s

end Sys2Proof.Machine
end

