-- ==== Sys2Proof/Machine/Trace.lean ====
section
/-!
DEFINITION. The trace buffer and its records (R239 to R243).
-/
namespace Sys2Proof.Machine
open Sys2Proof

/-- Unsigned LEB128. -/
def uleb : Nat → Nat → List Byte
  | 0, _ => []
  | k + 1, n => if n < 128 then [BitVec.ofNat 8 n] else BitVec.ofNat 8 (n % 128 + 128) :: uleb k (n / 128)

/-- Signed LEB128. -/
def sleb : Nat → Int → List Byte
  | 0, _ => []
  | k + 1, n =>
    let b := (n % 128).toNat
    let r := n / 128
    if (r == 0 && b < 64) || (r == -1 && 64 ≤ b) then [BitVec.ofNat 8 b] else BitVec.ofNat 8 (b + 128) :: sleb k r

/-- `enable` with bit 63 of `base` (R240). -/
def Core.traceOn (c : Core) : Bool := c.trctl.getLsbD 0 && c.trctl.getLsbD 63
/-- `itrace` too (R243). -/
def Core.itraceOn (c : Core) : Bool := c.traceOn && c.trctl.getLsbD 2
/-- `wrap`. -/
def Core.traceWraps (c : Core) : Bool := c.trctl.getLsbD 1
/-- Address of the buffer. -/
def Core.traceBase (c : Core) : Word := c.trctl &&& 0xFFFFFFFFFFFF0000
/-- Bytes of the stream region (R241). -/
def Core.streamSize (c : Core) : Nat := 2 ^ (17 + fieldOf c.trctl.toNat 15 12) - 64 - 0x10000

/-- The bytes of a core's staging buffer. -/
def Core.stagedBytes (c : Core) : Nat := sumNat (c.trStaged.map fun w => w.2.length)
/-- The staging buffer of 8 KiB takes `n` bytes more (R241). -/
def Core.stages (c : Core) (n : Nat) : Bool := decide (c.stagedBytes + n ≤ 8192)

/-- Bytes for the trace buffer, by their offset in it, enter the staging buffer. -/
def State.traceWrite (s : State) (core off : Nat) (bs : List Byte) : State :=
  let c := s.core core
  s.setCore core { c with trStaged := c.trStaged ++ [((c.traceBase + BitVec.ofNat 64 off).toNat, bs)] }

/-- The oldest write of a staging buffer reaches memory, undebited, under the task's ASID; one that faults is dropped. -/
def State.traceDrain (s : State) (core : Nat) : State :=
  let c := s.core core
  match c.trStaged with
  | [] => s
  | (a, bs) :: r =>
    let s := s.setCore core { c with trStaged := r }
    match s.globalWrite (s.asidOf core) (BitVec.ofNat 64 a) bs with
    | .ok s => s
    | .error (_, s) => s

/-- Every write of a core's staging buffer reaches memory. -/
def State.traceFlush (s : State) (core : Nat) : State :=
  (s.core core).trStaged.foldl (fun s _ => s.traceDrain core) s

/-- In each step every core's staging buffer may give up its oldest write: how fast it empties the spec leaves open. -/
def State.drainTraces (s : State) : State :=
  s.cores.foldl (fun s (core, c) =>
    if c.trStaged.isEmpty then s
    else
      let t := { s with fresh := s.fresh + 1 }
      if Config.freeBit s.fresh then t.traceDrain core else t) s

/-- The 64-byte header: the four counts, then zeros (R241). -/
def State.traceHeader (s : State) (core : Nat) : State :=
  let c := s.core core
  s.traceWrite core 0 (leBytes 8 c.imbCount.toNat ++ leBytes 8 c.imbLost.toNat ++ leBytes 8 c.trBytes.toNat ++
    leBytes 8 c.trLost.toNat ++ List.replicate 32 0)

/-- Stream bytes written from a byte number on; a record may go on at the region's start. -/
def State.streamBytes (s : State) (core from_ : Nat) (bs : List Byte) : State :=
  let size := (s.core core).streamSize
  let o := from_ % size
  let k := min bs.length (size - o)
  let s := s.traceWrite core (64 + 0x10000 + o) (bs.take k)
  if k < bs.length then s.traceWrite core (64 + 0x10000) (bs.drop k) else s

/-- A stream record: appended, with the count of records lost before it; or, where the region is full and does not wrap or the
staging buffer is full, lost: none then (R240 to R243). -/
def State.streamRecord (s : State) (core : Nat) (bs : List Byte) : Option State :=
  let c := s.core core
  let bs := if c.trGap == 0 then bs else [0x80] ++ uleb 10 c.trGap ++ bs
  if (!c.traceWraps && decide (c.streamSize < c.trBytes.toNat + bs.length)) || !c.stages bs.length then none
  else
    let s := s.streamBytes core c.trBytes.toNat bs
    some (s.setCore core { s.core core with trBytes := c.trBytes + BitVec.ofNat 64 bs.length, trGap := 0 })

/-- A stream record is lost and counted. -/
def State.streamLost (s : State) (core : Nat) : State :=
  let c := s.core core
  s.setCore core { c with trLost := c.trLost + 1, trGap := c.trGap + 1 }

/-- A sync record (R243); deltas after it count from its values. -/
def State.traceSync (s : State) (core : Nat) : State :=
  let c := s.core core
  if !c.itraceOn then s
  else
    match s.streamRecord core ([0x40] ++ leBytes 6 s.cycle ++ leBytes 6 (s.courseOf core).toNat ++
        leBytes 2 (s.relOf core) ++ (c.thr.toList.flatMap fun t => leBytes 2 t.lastTrace.toNat)) with
    | some s => s.setCore core { s.core core with trSince := 0, trTime := s.cycle }
    | none => s.streamLost core

/-- A record counted; a sync record follows every 256. -/
def State.traceCount (s : State) (core : Nat) : State :=
  let c := s.core core
  let s := s.setCore core { c with trSince := c.trSince + 1, trTime := s.cycle }
  if 256 ≤ c.trSince + 1 then s.traceSync core else s

/-- The record of an instruction issued outside segment 0 (R243); later deltas count from a record that is written. -/
def State.traceIssue (s : State) (core : Nat) (ts : Fin 4) (port : Nat) (addr : BitVec 16) : State :=
  let c := s.core core
  if !c.itraceOn || segOf addr == 0 then s
  else
    let t := s.thread core ts
    let delta : Int := ((addr.toNat : Int) - t.lastTrace.toNat) / 2
    match s.streamRecord core ([BitVec.ofNat 8 (ts.val * 16 + port)] ++ sleb 10 delta ++ uleb 10 (s.cycle - c.trTime)) with
    | some s => (s.modThread core ts fun t => { t with lastTrace := addr }).traceCount core
    | none => s.streamLost core

/-- The marker record of `TRACE` (R243, R326). -/
def State.traceMarker (s : State) (core : Nat) (ts : Fin 4) (v : Word) : State :=
  let c := s.core core
  if !c.itraceOn then s
  else
    match s.streamRecord core ([BitVec.ofNat 8 (0xC0 + ts.val * 16 + 4)] ++ uleb 10 (s.cycle - c.trTime) ++
        leBytes 8 v.toNat) with
    | some s => s.traceCount core
    | none => s.streamLost core

/-- An imbalance record (R242): slot `k` mod 2,048, or lost when the region is full and does not wrap, or the staging buffer is
full. -/
def State.imbalance (s : State) (core : Nat) (bs : List Byte) : State :=
  let c := s.core core
  if !c.traceOn then s
  else if (!c.traceWraps && decide (2048 ≤ c.imbCount.toNat)) || !c.stages bs.length then s.setCore core { c with imbLost := c.imbLost + 1 }
  else
    let s := s.traceWrite core (64 + c.imbCount.toNat % 2048 * 32) bs
    s.setCore core { s.core core with imbCount := c.imbCount + 1 }

/-- A write of `TRCTL` (R240, R241, R243): bits [11:4] stay 0; `itrace` needs the task's TRACE flag; a buffer that is switched off has its
header written; an instruction trace that begins writes a sync record. -/
def State.setTrctl (s : State) (core : Nat) (v : Word) : State :=
  let c := s.core core
  let trace := match s.taskOf core with | some t => t.trace | none => false
  let v := v &&& (if trace then ~~~(0xFF0 : Word) else ~~~(0xFF4 : Word))
  let was := c.itraceOn
  let s := if c.traceOn && !v.getLsbD 0 then s.traceHeader core else s
  let s := s.setCore core { s.core core with trctl := v }
  if !was && (s.core core).itraceOn then s.traceSync core else s

end Sys2Proof.Machine
end

