-- ==== Sys2Proof/Machine/Course.lean ====
section
/-!
DEFINITION. Courses: arrival and release of ridges, what a ridge carries, exchange timetables and windows (R114 to R125,
R134, R144 to R146, R239 to R248, R386 to R388).
-/
namespace Sys2Proof.Machine
open Sys2Proof

/-! ## Ridge state -/

/-- The ridge state of a core at a level. -/
def Core.ridgeAt (c : Core) (level : Nat) : RidgeSt := c.ridge.toList.getD level {}

/-- The core with a ridge state. -/
def Core.setRidge (c : Core) (level : Nat) (r : RidgeSt) : Core :=
  if h : level < 7 then { c with ridge := c.ridge.set level r } else c

/-- The state with the ridge state of a core changed. -/
def State.modRidge (s : State) (core level : Nat) (f : RidgeSt → RidgeSt) : State :=
  let c := s.core core
  s.setCore core (c.setRidge level (f (c.ridgeAt level)))

/-- An arrival is unreleased. -/
def RidgeSt.pending (r : RidgeSt) : Bool := decide (r.released < r.arrivals)

/-- The marks and the hash that an arrival carries (R380). -/
def Part.carry (level : Nat) (p : Part) : Part :=
  if p.level == level then
    { p with sentHash := true, sentRefresh := p.sentRefresh || p.refreshMark, sentFree := p.sentFree || p.freeMark,
             refreshMark := false, freeMark := false }
  else p

/-- A core arrives at a level (R115). -/
def State.arrive (s : State) (core level comm : Nat) : State :=
  let c := s.core core
  let r := c.ridgeAt level
  s.setCore core
    ({ c with parts := c.parts.map (Option.map (Part.carry level)) }.setRidge level
      { r with arrivals := r.arrivals + 1, at_ := s.cycle, order := s.fab.nextId, comm := comm })

/-! ## `RIDGE`, `RIDGEA`, `RIDGEW` (R386, R387) -/

/-- The checks of R114 and R116 on an arrival; the communicator at level 6. -/
def ridgeChecks (k : Ctx) (level : Nat) (d : Fin 16) : M Nat := do
  let s ← getState
  let c := s.core k.core
  let task := match s.taskOf k.core with | some t => t.level | none => 0
  trapIf (level != 6 && decide (task < level)) 0x90
  trapIf (!c.domEff.getLsbD level && !c.dommask.getLsbD level) 0x90
  if level != 6 then do
    holdUnless (c.domEff.getLsbD level)
    return 0
  else do
    let v ← readS k (d.castLE (by decide))
    trapIf (fieldOf v.toNat 63 12 != 0) 0x02
    let m := tblGet s.fab.comms v.toNat {}
    let tenant := match s.taskOf k.core with | some t => t.tenant | none => 0
    trapIf (!m.ctl.getLsbD 0 || fieldOf m.ctl.toNat 13 8 != tenant) 0x90
    holdUnless (c.domEff.getLsbD level)
    return v.toNat

/-- A thread set takes a cause that a release has left to its core (R387). -/
def Owed.takes (o : Owed) (c : Core) (ts : Fin 4) : Bool :=
  match o.taker with
  | none => true
  | some t => t == ts || c.thr[t].run == .stopped || c.thr[t].run == .off

/-- A cause taken leaves the list; the others of its release go to the same thread (R387). -/
def RidgeSt.took (r : RidgeSt) (o : Owed) (ts : Fin 4) : RidgeSt :=
  { r with owed := (r.owed.erase o).map fun p => if p.release == o.release then { p with taker := some ts } else p }

/-- The first cause that releases of the level have left to the thread is taken as an exact trap, once the window of its release
has run (R387). -/
def takeOwed (k : Ctx) (level : Nat) : M Unit := fun s =>
  let c := s.core k.core
  let r := c.ridgeAt level
  match r.owed.find? fun o => o.takes c k.ts with
  | none => .ok ((), s)
  | some o =>
    if r.windows.any (·.release == o.release) then .error .hold
    else .error (.trapIn (fun s => s.modRidge k.core level fun r => r.took o k.ts) o.cause 0)

/-- The resume mark that a `RIDGE` at an address has left (R386). -/
def Thread.markAt (t : Thread) (level : Nat) (a : BitVec 16) : Option Mark :=
  t.marks.find? fun m => m.level == level && m.addr == a

/-- A thread waits on release `n` of a level, takes the causes that are left to it, and then reads the status word of the release
(R115, R119, R387): `word` is the one kept for it. `pre` is what the instruction has done to the state and keeps while it waits. -/
def ridgeWait (k : Ctx) (level n : Nat) (a : SReg) (word : Option Word) (pre : State → State := id) : M Flow := do
  let s ← getState
  let r := (s.core k.core).ridgeAt level
  if decide (r.released < n) || r.windows.any (·.release == n) then
    fun _ => .error (.holdIn fun s => (pre s).modThread k.core k.ts fun t => { t with rwait := some (level, n) })
  else do
    takeOwed k level
    let course := ((s.core k.core).course.toList.getD level 0).toNat
    writeS k a (if r.released == 0 then BitVec.ofNat 64 (course % 2 ^ 32) else word.getD r.status)
    modThr k fun t => { t with marks := t.marks.filter fun m => !(m.level == level && m.release == n && m.addr == k.addr) }
    goOn

/-- The arrival of a `RIDGE`: the core's, and a resume mark of the thread (R115, R386). -/
def State.ridgeMark (s : State) (k : Ctx) (level comm : Nat) : State :=
  let n := ((s.core k.core).ridgeAt level).arrivals + 1
  (s.arrive k.core level comm).modThread k.core k.ts fun t => { t with marks := ⟨level, n, k.addr, none⟩ :: t.marks }

/-- RIDGE (R115, R386). -/
def execRidge (x : Pre) (a : SReg) (imm : Word) (d : Fin 16) (s : State) : Res :=
  issue x (fun k => do
    let level := imm.toNat
    let t ← getThr k
    match t.markAt level k.addr with
    | some m => ridgeWait k level m.release a m.word
    | none => ridgeArrive k level d a) s
where
  /-- The arrival of a `RIDGE`, which then waits on its release. -/
  ridgeArrive (k : Ctx) (level : Nat) (d : Fin 16) (a : SReg) : M Flow := do
    let comm ← ridgeChecks k level d
    takeOwed k level
    let s ← getState
    let r := (s.core k.core).ridgeAt level
    holdUnless (!r.pending)
    modState fun s => s.ridgeMark k level comm
    let c ← getCore k
    ridgeWait k level (r.arrivals + 1) a none fun s => s.setCore k.core c

/-- RIDGEA (R115, R386). -/
def execRidgea (x : Pre) (imm : Word) (d : Fin 16) (s : State) : Res :=
  issue x (fun k => do
    let level := imm.toNat
    let comm ← ridgeChecks k level d
    let s ← getState
    holdUnless (!((s.core k.core).ridgeAt level).pending)
    modState fun s => s.arrive k.core level comm
    goOn) s

/-- RIDGEW (R115, R386). -/
def execRidgew (x : Pre) (a : SReg) (imm : Word) (s : State) : Res :=
  issue x (fun k => do
    let level := imm.toNat
    let t ← getThr k
    let s ← getState
    let r := (s.core k.core).ridgeAt level
    match t.rwait with
    | some (l, n) => if l == level then ridgeWait k level n a t.rword else ridgeWait k level r.arrivals a none
    | none => do
      let pre (s : State) : State := s.modThread k.core k.ts fun t => { t with rword := none }
      modState pre
      ridgeWait k level r.arrivals a none pre) s

/-! ## Timetables (R121, R122, R388) -/

/-- An entry of a timetable. -/
def readEntry (w : Nat) : TTEntry :=
  { offset := fieldOf w 63 44, recv := fieldOf w 43 42 == 1, peer := fieldOf w 41 30, len := fieldOf w 29 20,
    addr := fieldOf w 17 4 }

/-- Entries up to the first of kind end, which is not read further (R121). -/
def untilEnd (ws : List Nat) : List Nat := ws.takeWhile fun w => fieldOf w 43 42 != 2

/-- Two entries of one kind share a cycle. -/
def shareCycle : List TTEntry → Bool
  | [] => false
  | e :: r => r.any (fun f => e.recv == f.recv && decide (e.offset < f.offset + f.len ∧ f.offset < e.offset + e.len)) ||
      shareCycle r

/-- A timetable that R122 calls malformed, by its header and entry words: every entry read is checked, the one of kind end
among them; only sends and receives use a port. -/
def State.badTimetable (s : State) (core : Nat) (h : Nat) (ws : List Nat) : Bool :=
  let level := fieldOf h 31 29
  let window := fieldOf h 63 44
  let rd := ws.take ((untilEnd ws).length + 1)
  let es := rd.map readEntry
  fieldOf h 43 32 != 0 || fieldOf h 28 11 != 0 || level == 0 || decide (5 < level) ||
  !(s.core core).domEff.getLsbD level ||
  rd.any (fun w => fieldOf w 19 18 != 0 || fieldOf w 3 0 != 0 || fieldOf w 43 42 == 3) ||
  es.any (fun e => e.len == 0 || decide (window < e.offset + e.len) || decide (0x3C000 < e.addr * 16 + e.len * 16) ||
    e.peer == s.relOf core ||
    (match s.taskOf core with | some t => !(s.subDomain core level).contains (t.coreAt e.peer) | none => true)) ||
  (es.zip (es.drop 1)).any (fun (a, b) => decide (b.offset < a.offset)) || shareCycle ((untilEnd ws).map readEntry)

/-- XTT (R121, R122, R388). -/
def execXtt (x : Pre) (b : SReg) (s : State) : Res :=
  issue x (fun k => do
    let p ← readS k b
    let bs ← localBlock k p 8 8 0x02 0x60 true
    let h := leNat bs
    let n := fieldOf h 10 0
    trapIf (1024 < n || decide (0x3C000 < p.toNat + 8 + 8 * n)) 0x91
    let s ← getState
    let eb := s.seenBytes k.core k.ts (.sram (padKey k.core + p.toNat + 8)) (8 * n)
    let ws := (List.range n).map fun i => leNat ((eb.drop (8 * i)).take 8)
    trapIf (s.badTimetable k.core h ws) 0x91
    modState fun s => s.modRidge k.core (fieldOf h 31 29) fun r =>
      { r with table := if n == 0 then none else some ⟨fieldOf h 63 44, (untilEnd ws).map readEntry⟩ }
    goOn) s

/-! ## Flits and windows (R123 to R125) -/

/-- A flit that reaches the sender of another in or before the cycle in which that one leaves has still to be written (R123). -/
def State.awaitsFlit (s : State) (f : XFlit) : Bool :=
  s.fab.flits.any fun g => g.dst == f.src && decide (g.at_ ≤ f.leaves)

/-- Flits whose cycle has come leave: their bytes are read, after what has arrived at their core by then is written (R123, R125). -/
def State.sendFlits (s : State) : State :=
  { s with fab := { s.fab with flits := s.fab.flits.map fun f =>
    if f.data.isNone && f.leaves ≤ s.cycle && !s.awaitsFlit f then
      { f with data := some (s.bytesAt (.sram (padKey f.src + f.addr)) 16) }
    else f } }

/-- The flits of a sender's timetable for a window that opens now. -/
def State.tableFlits (s : State) (core level : Nat) (tt : TimeTable) : List XFlit :=
  match s.taskOf core with
  | none => []
  | some t => (tt.entries.filter (!·.recv)).flatMap fun e =>
      (List.range e.len).map fun i =>
        let dst := t.coreAt e.peer
        { id := 0, src := core, dst := dst, addr := 16 * (e.addr + i), level := level, leaves := s.cycle + e.offset + i,
          at_ := s.cycle + e.offset + i + flitDelay core dst }

/-- Flits put under way, numbered. -/
def State.addFlits (s : State) (l : List XFlit) : State :=
  { s with fab := { s.fab with
      nextId := s.fab.nextId + l.length
      flits := s.fab.flits ++ (l.zipIdx.map fun (f, i) => { f with id := s.fab.nextId + i }) } }

/-- The window that a release opens at a core (R123): receive entries, and the units that lie in a lap range. -/
def State.openWindow (s : State) (core release : Nat) (tt : TimeTable) : Window :=
  let es := tt.entries.filter (·.recv)
  { release := release, start := s.cycle, stop := s.cycle + tt.window, entries := es,
    blocked := (es.flatMap fun e => (List.range e.len).map (e.addr + ·)).filter fun u => s.lapProtected core (16 * u) 16 }

/-- The 16-byte unit that the receive entries open at a core give a cycle; none where no entry covers it or it lies in
a lap range. -/
def Core.receiveUnit (c : Core) (at_ : Nat) : Option Nat :=
  c.ridge.toList.findSome? fun r => r.windows.findSome? fun w => w.entries.findSome? fun e =>
    let u := e.addr + (at_ - w.start - e.offset)
    if w.start + e.offset ≤ at_ ∧ at_ < w.start + e.offset + e.len ∧ !w.blocked.contains u then some u else none

/-- A collision at a core (R124). -/
def State.collide (s : State) (core level : Nat) : State :=
  (s.raise core 0x10 0x92).modRidge core level fun r => { r with coll := true }

/-- EXCHANGE_FLIT_ARRIVE (R123, R124): flits that share a receive port and a cycle are all discarded. -/
def execExchangeFlitArrive (n : Nat) (s : State) : Res :=
  match s.fab.flits.find? (·.id == n) with
  | none => .next s
  | some f =>
    if s.cycle < f.at_ then .next s
    else
      let same (g : XFlit) : Bool := g.dst == f.dst && g.at_ == f.at_
      let clash := (s.fab.flits.filter same).length != 1
      let data := f.data.getD (s.bytesAt (.sram (padKey f.src + f.addr)) 16)
      let levels := ((s.fab.flits.filter same).map (·.level)).eraseDups
      let s' := { s with fab := { s.fab with flits := s.fab.flits.filter fun g => !same g } }
      match clash, (s.core f.dst).receiveUnit f.at_ with
      | false, some u => .next (s'.land (.sram (padKey f.dst + 16 * u)) data)
      | _, _ => .next (levels.foldl (fun s l => s.collide f.dst l) s')

/-- EXCHANGE_WINDOW_CLOSE (R123): windows whose last cycle has come and whose flits have arrived. -/
def execExchangeWindowClose (core : Fin 4096) (s : State) : Res :=
  let ended (w : Window) : Bool :=
    decide (w.stop ≤ s.cycle) && !s.fab.flits.any fun f => f.dst == core.val && decide (f.at_ < w.stop)
  let c := s.core core
  .next (s.setCore core { c with ridge := c.ridge.map fun r => { r with windows := r.windows.filter fun w => !ended w } })

/-! ## Release (R116 to R120) -/

/-- The crew of a core has finished (R115). -/
def State.crewDone (s : State) (core : Nat) : Bool := match (s.core core).crew with | some w => w.finished | none => false

/-- Something under way that a member issued before a place in the order of issue holds a release back (R116): a store, a
message, a queue update (R174), a contribution, a mailbox deposit that no copy makes, or an operation whose completion word has
not landed (R395). A store of an engine's command counts from the command's dispatch, which the queues tell. -/
def Fly.holdsRelease (f : Fly) (order : Nat) : Bool :=
  match f.what with
  | .store _ _ t => t.eng || decide (f.id < order)
  | .msg _ _ | .contrib _ | .qupd _ _ _ _ _ => decide (f.id < order)
  | .deposit _ _ _ eng => !eng && decide (f.id < order)
  | .remote r => r.foreign.isNone && decide (f.id < order)

/-- A thread set of a core waits to send a message since before a place in the order of issue (R171). -/
def Core.sendsBefore (c : Core) (order : Nat) : Bool :=
  c.thr.toList.any fun t => match t.sending with | some n => decide (n < order) | none => false

/-- What a core issued before a place in the order of issue has landed. -/
def State.landedBefore (s : State) (core order : Nat) : Bool :=
  let c := s.core core
  !(s.fab.fly.any fun f => f.core == core && f.holdsRelease order) &&
  !(c.vq ++ c.mq).any (fun d => decide (d.id < order)) && !c.sendsBefore order

/-- What a member issued before its arrival has landed (R116); a finished crew counts as arrived when it finished (R115). -/
def State.trafficLanded (s : State) (core level : Nat) : Bool :=
  let r := (s.core core).ridgeAt level
  s.landedBefore core (if r.pending then r.order else s.fab.nextId)

/-- A member counts as arrived: its arrival is unreleased, or its crew has finished (R115). -/
def State.hasArrived (s : State) (core level : Nat) : Bool := ((s.core core).ridgeAt level).pending || s.crewDone core

/-- Every member has arrived, its traffic has landed, and the lap plans of the level have finished (R116, R145). -/
def State.ridgeReady (s : State) (core level : Nat) : Bool :=
  let ms := s.members core level
  ms.any (fun c => ((s.core c).ridgeAt level).pending) &&
  ms.all (fun c => s.hasArrived c level && s.trafficLanded c level) &&
  (s.subDomain core level).all fun c => (s.core c).parts.toList.all fun p =>
    match p with | some p => p.level != level || p.flight == 0 | none => true

/-- The least of a list, with a start. -/
def leastOf (l : List Nat) : Nat := l.foldl min (l.headD 0)
/-- A sum of 48 bits that saturates. -/
def sat48 (n : Nat) : Nat := min n (2 ^ 48 - 1)

/-- What the network combines at a release (R118). -/
structure RidgeSum where
  least : Nat
  most : Nat
  sum : Nat
  last : Nat
  errors : BitVec 16
  coll : Bool
  digest : Word
  deriving DecidableEq, Repr

/-- A core's digest: the XOR of its threads' (R248). -/
def Core.digest (c : Core) : Word := c.thr.toList.foldl (fun d t => d ^^^ t.digest) 0

/-- The combination over the members; a crew that finished without arriving has no arrival time. -/
def State.ridgeSum (s : State) (ms : List Nat) (level : Nat) : RidgeSum :=
  let times := (ms.filter fun c => ((s.core c).ridgeAt level).pending).map fun c =>
    let r := (s.core c).ridgeAt level
    (sat48 (r.at_ - r.since), s.relOf c)
  let most := times.foldl (fun m (t, _) => max m t) 0
  { least := leastOf (times.map (·.1)), most := most, sum := sat48 (sumNat (times.map (·.1))),
    last := leastOf ((times.filter fun (t, _) => t == most).map (·.2)),
    errors := ms.foldl (fun e c => e ||| ((s.core c).ridgeAt level).errors) 0,
    coll := ms.any fun c => ((s.core c).ridgeAt level).coll
    digest := ms.foldl (fun d c => d ^^^ (s.core c).digest) 0 }

/-! ### Partitions at a release (R134, R144, R146, R382) -/

/-- A partition of a core, when it was declared at the level. -/
def State.partAt (s : State) (core : Nat) (p : Fin 8) (level : Nat) : Option Part :=
  match (s.core core).parts[p] with
  | some q => if q.level == level then some q else none
  | none => none

/-- A cause is owed to a core by the release that comes about (R387): in the order of the releases, and of one release in the
order 0x83, 0x88, 0x92, once each. -/
def RidgeSt.owe (r : RidgeSt) (cause : BitVec 8) : RidgeSt :=
  let o : Owed := { release := r.arrivals, cause := cause }
  let ahead (p : Owed) : Bool := decide (p.release < o.release) || (p.release == o.release && decide (p.cause.toNat < cause.toNat))
  if r.owed.contains o then r else { r with owed := r.owed.takeWhile ahead ++ o :: r.owed.dropWhile ahead }

/-- A cause owed to every member. -/
def State.oweAll (s : State) (ms : List Nat) (level : Nat) (cause : BitVec 8) : State :=
  ms.foldl (fun s c => s.modRidge c level fun r => r.owe cause) s

/-- A partition freed at a core, which keeps its counters (R147). -/
def State.freePart (s : State) (p : Fin 8) (core : Nat) : State :=
  let c := s.core core
  s.setCore core { c with parts := c.parts.set p none }

/-- Boundary cells filled at a confirmation (R139). -/
def State.fillBoundary (s : State) (core : Nat) (g : Geom) : State :=
  let fill := pdField g.desc 0 9 8
  if fill == 0 then s
  else
    let v := if fill == 2 then (g.desc.getD 7 0).toNat else 0
    (List.range g.cells).foldl (fun s c =>
      if (g.slabOf c).isSome && (g.source c).isNone then s.writeSram (padKey core + g.cellAddr c) (leBytes (pdEsize g.desc) v)
      else s) s

/-- A partition confirmed at a core (R134, R146). -/
def State.confirmPart (s : State) (p : Fin 8) (core : Nat) : State :=
  match (s.core core).parts[p] with
  | none => s
  | some q =>
    match q.geom (s.relOf core) with
    | some g => (s.fillBoundary core g).modPart core p fun q =>
        { q with confirmed := true, stale := g.liveSlabs, flight := 0, dirty := [] }
    | none => s.modPart core p fun q => { q with confirmed := true, stale := 0, flight := 0, dirty := [] }

/-- The owners of a descriptor are all members of the release (R136). -/
def State.ownersMembers (s : State) (ms : List Nat) (q : Part) : Bool :=
  let rels := ms.map s.relOf
  (List.range (dimProd Dim.blocks (pdDims q.desc q.splits))).all fun k => rels.contains (pdBase q.desc + k)

/-- Source cells of an owner that some member's laps copy, by their place (R145). -/
def State.sentPlaces (s : State) (ms : List Nat) (p : Fin 8) (owner : Nat) : List Nat :=
  (ms.flatMap fun c =>
    match (s.core c).parts[p] with
    | some q => match q.geom (s.relOf c) with
      | some g => g.incoming.filterMap fun (_, o, k) => if o == s.relOf owner then some k else none
      | none => []
    | none => []).eraseDups

/-- An owner's snapshot into its send shadow (R145). -/
def State.snapshot (s : State) (ms : List Nat) (p : Fin 8) (owner : Nat) : State :=
  match (s.core owner).parts[p] with
  | none => s
  | some q =>
    match q.geom (s.relOf owner) with
    | none => s
    | some g => (s.sentPlaces ms p owner).foldl (fun s k =>
        s.writeSram (padKey owner + g.shadowAddr k)
          (s.bytesAt (.sram (padKey owner + g.cellAddr (g.ownCell k))) (pdEsize q.desc))) s

/-- A refresh begins at a member: its slabs are in flight (R145, R146). -/
def State.beginRefresh (s : State) (p : Fin 8) (level : Nat) (core : Nat) : State :=
  let course := (s.core core).course.toList.getD level 0 + 1
  match (s.core core).parts[p] with
  | none => s
  | some q =>
    let live : BitVec 26 := match q.geom (s.relOf core) with | some g => g.liveSlabs | none => 0
    s.modPart core p fun q => { q with flight := live, stale := 0, dirty := [], refreshed := course, clock := 0 }

/-- The slabs of a member whose sources were written (R146). -/
def State.dirtySlabs (s : State) (ms : List Nat) (p : Fin 8) (core : Nat) : BitVec 26 :=
  match (s.core core).parts[p] with
  | none => 0
  | some q =>
    match q.geom (s.relOf core) with
    | none => 0
    | some g => g.incoming.foldl (fun m (c, o, k) =>
        let written := ms.any fun d => s.relOf d == o &&
          (match (s.core d).parts[p] with | some r => r.dirty.contains k | none => false)
        match written, g.slabOf c with
        | true, some n => m ||| (1 <<< n)
        | _, _ => m) 0

/-- What a member's partition gives to a release of its level (R134, R144, R380): what its unreleased arrival carries, or, for a
crew that has finished, what stands at its core. -/
structure PartVote where
  hash : Word
  fresh : Bool
  free : Bool
  refresh : Bool
  deriving DecidableEq, Repr

/-- The vote of a member on a partition number; one that has not declared it gives 0. -/
def State.partVote (s : State) (level : Nat) (p : Fin 8) (core : Nat) : PartVote :=
  match s.partAt core p level with
  | none => ⟨0, false, false, false⟩
  | some q =>
    let auto := !((s.core core).ridgeAt level).pending
    let votes := q.sentHash || auto
    ⟨if q.confirmed || votes then q.hash else 0, !q.confirmed && votes, q.sentFree || (auto && q.freeMark),
     q.sentRefresh || (auto && q.refreshMark)⟩

/-- The marks that a release has counted are gone. -/
def State.clearMarks (s : State) (level : Nat) (p : Fin 8) (core : Nat) : State :=
  let auto := !((s.core core).ridgeAt level).pending
  s.modPart core p fun q =>
    { q with sentFree := false, sentRefresh := false, freeMark := q.freeMark && !auto, refreshMark := q.refreshMark && !auto }

/-- The refresh of a live partition at a release: it begins, or the dirty bits are delivered (R144 to R146). -/
def State.refreshPart (s : State) (ms holders : List Nat) (level : Nat) (p : Fin 8) (all any : Bool) : State :=
  if all then holders.foldl (fun s c => s.beginRefresh p level c) (holders.foldl (fun s c => s.snapshot holders p c) s)
  else
    let s := if any then s.oweAll ms level 0x88 else s
    let stale := holders.map fun c => (c, s.dirtySlabs holders p c)
    stale.foldl (fun s (c, m) => s.modPart c p fun q => { q with stale := q.stale ||| m, dirty := [] }) s

/-- A partition number at a release of a level: confirmation, then freeing, then refresh (R382). Marks that not every member
made raise their cause, whether or not the partition is freed (R134, R144). -/
def State.releasePart (s : State) (ms : List Nat) (level : Nat) (p : Fin 8) : State :=
  let holders := ms.filter fun c => (s.partAt c p level).isSome
  if holders.isEmpty then s
  else
    let votes := ms.map (s.partVote level p)
    let first := (votes.map (·.hash)).headD 0
    let owners := match holders.head? with
      | some c => (match s.partAt c p level with | some q => s.ownersMembers ms q | none => false)
      | none => false
    let agreed := votes.all (fun v => v.hash == first) && first != 0 && owners
    let fresh := votes.any (·.fresh)
    if fresh && !agreed then (holders.foldl (fun s c => s.freePart p c) s).oweAll ms level 0x83
    else
      let s := if fresh then holders.foldl (fun s c => s.confirmPart p c) s else s
      let live := holders.any fun c => match (s.core c).parts[p] with | some q => q.confirmed | none => false
      if !live then s
      else
        let renew := votes.all (·.refresh)
        let mark := votes.any (·.refresh)
        if votes.all (·.free) then
          let s := if mark && !renew then s.oweAll ms level 0x88 else s
          holders.foldl (fun s c => s.freePart p c) s
        else
          let s := if votes.any (·.free) then s.oweAll ms level 0x83 else s
          holders.foldl (fun s c => s.clearMarks level p c) (s.refreshPart ms holders level p renew mark)

/-! ### The rest of a release -/

/-- The status word of R119. -/
def statusWord (r : RidgeSum) (here : Bool) (course : Nat) : Word :=
  BitVec.ofNat 64 (r.last % 4096 * 2 ^ 52 + r.errors.toNat * 2 ^ 36 + boolNat here * 2 ^ 35 + boolNat r.coll * 2 ^ 34 +
    course % 2 ^ 32)

/-- A thread that waits on release `n` of a level, or carries its mark, is given its status word (R386). -/
def Thread.giveWord (t : Thread) (level n : Nat) (word : Word) : Thread :=
  { t with rword := if t.rwait == some (level, n) then some word else t.rword,
           marks := t.marks.map fun m => if m.level == level && m.release == n then { m with word := some word } else m }

/-- One member is released (R116 to R119, R387): its course, its status word, the causes it owes and its window. -/
def State.releaseCore (s : State) (level : Nat) (sum : RidgeSum) (core : Nat) : State :=
  let c := s.core core
  let r := c.ridgeAt level
  let course := c.course.toList.getD level 0 + 1
  let word := statusWord sum r.coll course.toNat
  let r := if r.coll then r.owe 0x92 else r
  let waiting := (List.finRange 4).find? fun t => c.thr[t].rwait == some (level, r.arrivals)
  let windows := match r.table with | some tt => r.windows ++ [s.openWindow core r.arrivals tt] | none => r.windows
  let r := { r with released := r.arrivals, since := s.cycle, errors := 0, coll := false, status := word, digest := sum.digest,
                    owed := r.owed.map fun (o : Owed) => if o.release == r.arrivals then { o with taker := waiting } else o,
                    windows := windows }
  let c := { c with thr := c.thr.map fun (t : Thread) => t.giveWord level r.arrivals word, course := if h : level < 7 then c.course.set level course else c.course }
  s.setCore core (c.setRidge level r)

/-- The bits of `DOMMASK` that take effect at a release (R114): the level's, or all at the domain level. -/
def Core.maskTakes (c : Core) (level : Nat) (whole : Bool) : Core :=
  if whole then { c with domEff := c.dommask }
  else
    let b : BitVec 7 := 1 <<< level
    { c with domEff := (c.domEff &&& ~~~b) ||| (c.dommask &&& b) }

/-- The imbalance record of R242; its course is a member's at the domain level (R239). -/
def imbalanceBytes (r : RidgeSum) (level first : Nat) (course : BitVec 48) : List Byte :=
  leBytes 8 (r.last % 4096 * 2 ^ 52 + level * 2 ^ 48 + course.toNat) ++
  leBytes 8 (2 ^ 60 + first % 4096 * 2 ^ 48 + r.least) ++ leBytes 8 r.most ++ leBytes 8 r.sum

/-- The full value of the logged digest of a crew's present course (R246). -/
def State.loggedDigest (s : State) (core : Nat) : Option Word :=
  (s.logRowsOf core).findSome? fun (w0, _, v) =>
    if fieldOf w0 63 60 == 7 && fieldOf w0 47 0 == (s.courseOf core).toNat then some (BitVec.ofNat 64 v) else none

/-- RECORD logs a member's digest at a domain release, with its full value in the next entry (R246, R248). -/
def State.logDigest (s : State) (core : Nat) : State :=
  let d := (s.core core).digest
  (s.record core 7 (s.relOf core) 0 (d.toNat % 2 ^ 30)).logEntry core d 0

/-- The divergence record of R248. -/
def divergenceBytes (course : BitVec 48) (rel : Nat) (want got : Word) : List Byte :=
  leBytes 6 course.toNat ++ leBytes 2 rel ++ leBytes 8 want.toNat ++ leBytes 8 got.toNat ++ leBytes 8 0

/-- REPLAY compares the members' digests (R248): error bit 5, a record at `done` + 32, a stop or the end of
enforcement. -/
def State.compareDigests (s : State) (t : Task) (ms : List Nat) : State :=
  let off := ms.filterMap fun c =>
    match s.loggedDigest c with
    | some w => if w == (s.core c).digest then none else some (c, w)
    | none => none
  match off with
  | [] => s
  | (c, w) :: _ =>
    let rc := s.sched.recs.find? (·.id == t.id)
    let s' := match rc with
      | some r =>
        match s.globalWrite t.asid (lrDone r.words + 32)
            (divergenceBytes (s.courseOf c) (s.relOf c) w (s.core c).digest) with
        | .ok s => s
        | .error (_, s) => s
      | none => s
    let s' := off.foldl (fun s (c, _) => s.raise c 0x20 0) s'
    let goesOn := match t.image.replay with | some (_, _, f) => f == 1 | none => true
    if goesOn then { s' with sched := { s'.sched with tasks := s'.sched.tasks.map fun q =>
        if q.id == t.id then { q with replayOff := true } else q } }
    else ms.foldl (fun s c =>
      let k := s.core c
      s.setCore c { k with thr := k.thr.map fun h =>
        if h.run == .off || h.run == .stopped then h else { h with due := { h.due with replay := true } } }) s'

/-- What a release at the domain level does besides (R240 to R248). -/
def State.domainRelease (s : State) (t : Task) (ms : List Nat) : State :=
  let s := if t.record then ms.foldl State.logDigest s else if t.replaying then s.compareDigests t ms else s
  let broke := ms.any fun c => (s.core c).breakPending
  ms.foldl (fun s c =>
    let k := s.core c
    let s := s.setCore c { k with breakPending := false, thr := k.thr.map fun h =>
      let h := { h with digest := 0, retired := 0 }
      if broke && !(h.run == .off || h.run == .stopped) then { h with due := { h.due with debug := true } } else h }
    let s := if (s.core c).traceOn then s.traceHeader c else s
    s.traceSync c) s

/-- The release of a sub-domain at a level; `extra` are the error bits and the store digests of other devices, which level 6
combines with the package's (R118). -/
def State.releaseAt (s : State) (core level : Nat) (extra : BitVec 16 × Word) : State :=
  let ms := s.members core level
  let sum := s.ridgeSum ms level
  let sum := { sum with errors := sum.errors ||| extra.1, digest := sum.digest ^^^ extra.2 }
  let s := s.releaseSlices core level
  let s := (List.finRange 8).foldl (fun s p => s.releasePart ms level p) s
  let flits := ms.flatMap fun c => match ((s.core c).ridgeAt level).table with
    | some tt => s.tableFlits c level tt
    | none => []
  let s := (ms.foldl (fun s c => s.releaseCore level sum c) s).addFlits flits
  match s.taskOf core with
  | none => s
  | some t =>
    let whole := level == t.level
    let sub := s.subDomain core level
    let s := sub.foldl (fun s c => s.setCore c ((s.core c).maskTakes level whole)) s
    let s := match sub.head? with
      | some c =>
        if whole || (decide (level < t.level) && (s.core c).trctl.getLsbD 3) then
          s.imbalance c (imbalanceBytes sum level (s.relOf c) (s.courseOf ((ms.head?).getD c)))
        else s
      | none => s
    (if whole then s.domainRelease t ms else s).sendFlits

/-! ### Level 6 (R116) -/

/-- Ranks of a communicator other than this device's. -/
def Comm.others (m : Comm) : List Nat :=
  (List.range (fieldOf m.ctl.toNat 60 48)).filter (· != fieldOf m.ctl.toNat 43 32)

/-- A communicator replaced. -/
def State.setComm (s : State) (c : Nat) (m : Comm) : State := { s with fab := { s.fab with comms := tblSet s.fab.comms c m } }

/-- The exchange of ridge tokens: this device's token, on virtual channel 1, goes to every other rank once; when one has come
from each, the release follows with their error bits and digests (R116, R118). -/
def State.tokenRelease (s : State) (core : Nat) : State :=
  let ms := s.members core 6
  let comm := match ms.find? fun c => ((s.core c).ridgeAt 6).pending with
    | some c => ((s.core c).ridgeAt 6).comm
    | none => 0
  let m := tblGet s.fab.comms comm {}
  let sum := s.ridgeSum ms 6
  let rank := fieldOf m.ctl.toNat 43 32
  let s := if m.sent then s else
    m.others.foldl (fun s r =>
      let dev := m.ranks.getD r 0
      s.post dev 1 (.token dev.toNat comm rank sum.errors sum.digest)) (s.setComm comm { m with sent := true })
  if m.others.all fun r => !(tblGet m.tokens r []).isEmpty then
    let heads := m.others.map fun r => (tblGet m.tokens r []).headD (0, 0)
    let extra := heads.foldl (fun e h => (e.1 ||| h.1, e.2 ^^^ h.2)) ((0, 0) : BitVec 16 × Word)
    let left := m.tokens.map fun (r, l) => (r, l.drop 1)
    (s.setComm comm { m with sent := false, tokens := left }).releaseAt core 6 extra
  else s

/-- RIDGE_RELEASE (R116): the sub-domain at a level that contains a core. -/
def execRidgeRelease (level : Fin 8) (core : Fin 4096) (s : State) : Res :=
  if level.val == 0 || level.val == 7 || !s.ridgeReady core level.val then .next s
  else if level.val == 6 then .next (s.tokenRelease core)
  else .next (s.releaseAt core level.val (0, 0))

end Sys2Proof.Machine
end

