-- ==== Sys2Proof/Machine/Copy.lean ====
section
/-!
DEFINITION. The copy engine: copies, decompression, fills, matrix save and restore, and segment fetches (R103, R164,
R177 to R179, R365).
-/
namespace Sys2Proof.Machine
open Sys2Proof

/-- Why a copy stops: cause and faulting address, or a source block that touches lap slabs in flight. -/
inductive CopyStop where
  | fault (cause : BitVec 8) (a : Word)
  | park (ps : List (Fin 8)) (block : Word)
  deriving DecidableEq, Repr

/-- Pieces of a range that lie each in one aligned 64-byte block. -/
def pieces : Nat → Word → Nat → List (Word × Nat)
  | 0, _, _ => []
  | fuel + 1, a, n =>
    if n == 0 then []
    else
      let k := min n (64 - a.toNat % 64)
      (a, k) :: pieces fuel (a + BitVec.ofNat 64 k) (n - k)

/-- The pieces of `n` bytes from an address. -/
def piecesOf (a : Word) (n : Nat) : List (Word × Nat) := pieces (n / 64 + 2) a n

/-- One source piece read for a core's engine, from a source that ends at `stop`. The lap check of a copy is made, and
counted, at the first piece read of each source block, over all that the copy reads of that block (R147). -/
def State.copyRead (s : State) (core : Nat) (sys : Bool) (stop : Nat) (first : Bool) (a : Word) (n : Nat) :
    Except CopyStop (List Byte) × State :=
  match s.access core a n 1 false sys with
  | .error e => (.error (.fault e a), s.walked (s.asidOf core) a e)
  | .ok (acc, s1) =>
    let laps := if first || a.toNat % 64 == 0 then
        s1.lapCheckAt core acc.place (max n (min (64 - a.toNat % 64) (stop - a.toNat))) else .plain
    match laps with
    | .plain => (.ok (s1.bytesAt acc.loc n), s1.touch core acc)
    | .park ps => (.error (.park ps a), s1)
    | .stale ps policy =>
      let s2 := s1.countStales core ps
      if policy == 0 then (.ok (s2.bytesAt acc.loc n), s2.touch core acc)
      else (.error (.fault (if policy == 1 then 0x85 else 0x86) a), s2)

/-- How an engine reads a source piece (with whether it is the copy's first) and writes a destination piece. -/
structure CopyIo where
  rd : State → Bool → Word → Nat → Except CopyStop (List Byte) × State
  wr : State → Word → List Byte → Except CopyStop Unit × State

/-- Source pieces read one after the other. -/
def State.copyReadAll (s : State) (io : CopyIo) (first : Bool) :
    List (Word × Nat) → Except CopyStop (List Byte) × State
  | [] => (.ok [], s)
  | (a, n) :: r =>
    match io.rd s first a n with
    | (.error e, s) => (.error e, s)
    | (.ok bs, s) =>
      match State.copyReadAll s io false r with
      | (.error e, s) => (.error e, s)
      | (.ok cs, s) => (.ok (bs ++ cs), s)

/-- One destination piece written as a store of the core (R111), landing at once. -/
def State.copyWrite (s : State) (core : Nat) (sys : Bool) (a : Word) (bs : List Byte) : Except CopyStop Unit × State :=
  match s.access core a bs.length 1 true sys with
  | .error e => (.error (.fault e a), s.walked (s.asidOf core) a e)
  | .ok (acc, s) => (.ok (), (s.land acc.loc bs).touch core acc)

/-- The copy engine of a core, whose source ends at `stop`; `sys` for a request issued from segment 0. -/
def coreIo (core : Nat) (sys : Bool) (stop : Nat) : CopyIo :=
  { rd := fun s first a n => s.copyRead core sys stop first a n, wr := fun s a bs => s.copyWrite core sys a bs }

/-- What a copy came to: status, cause, block index and word 1 of its completion (R177), and the source bytes read. -/
structure CopyEnd where
  status : Nat
  cause : BitVec 8 := 0
  block : Nat := 0
  word : Word
  read : Nat := 0
  deriving DecidableEq, Repr

/-- Bytes written piece by piece; the fault of the first piece that fails. -/
def State.writePieces (s : State) (io : CopyIo) : List (Word × Nat) → List Byte → Except CopyStop Unit × State
  | [], _ => (.ok (), s)
  | (a, n) :: r, bs =>
    match io.wr s a (bs.take n) with
    | (.error e, s) => (.error e, s)
    | (.ok (), s) => State.writePieces s io r (bs.drop n)

/-- Bytes of which each is the one before the copy or the one now, which the spec leaves open (R177). -/
def mixBytes : Nat → List Byte → List Byte → List Byte
  | k, o :: os, b :: bs => (if Config.freeBit k then b else o) :: mixBytes (k + 1) os bs
  | _, _, _ => []

/-- Source bytes as a block receives them: where an earlier block of the same copy has changed one, under another
virtual address of the same physical byte, it is free whether the block receives it changed (R177). -/
def State.sourceBytes (s was : State) (io : CopyIo) (src : Word) (bs : List Byte) : List Byte × State :=
  match (was.copyReadAll io false (piecesOf src bs.length)).1 with
  | .ok old => if old == bs then (bs, s) else (mixBytes s.fresh old bs, { s with fresh := s.fresh + bs.length })
  | .error _ => (bs, s)

/-- A copy of kind 0 or 2, destination block by destination block (R177). `done` counts bytes written, `was` is the state
before the copy. -/
def State.copyBlocks (s was : State) (io : CopyIo) (fill : Option Word) (dst : Word) :
    List (Word × Nat) → Word → Nat → Except (List (Fin 8) × Word) CopyEnd × State
  | [], _, done => (.ok ⟨0, 0, 0, BitVec.ofNat 64 done, if fill.isNone then done else 0⟩, s)
  | (a, n) :: r, src, done =>
    let blk := a.toNat / 64 - dst.toNat / 64
    let stop (c : BitVec 8) (f : Word) (more : Nat) : CopyEnd :=
      ⟨1, c, blk, f, if fill.isNone then done + more else 0⟩
    let got : Except CopyStop (List Byte) × State :=
      match fill with
      | some v => (.ok ((List.range n).map fun i => BitVec.ofNat 8 (v.toNat / 2 ^ (8 * ((a.toNat + i) % 8)))), s)
      | none => s.copyReadAll io (done == 0) (piecesOf src n)
    match got with
    | (.error (.park p k), s) => (.error (p, k), s)
    | (.error (.fault c f), s) => (.ok (stop c f 0), s)
    | (.ok bs, s) =>
      let (bs, s) := if fill.isNone && src.getLsbD 63 && dst.getLsbD 63 then s.sourceBytes was io src bs else (bs, s)
      match io.wr s a bs with
      | (.error (.park p k), s) => (.error (p, k), s)
      | (.error (.fault c f), s) => (.ok (stop c f n), s)
      | (.ok (), s) => State.copyBlocks s was io fill dst r (src + BitVec.ofNat 64 n) (done + n)

/-- Run-length pairs expanded (R178). -/
def runLength : Nat → List Byte → List Byte
  | 0, _ => []
  | k + 1, bs => (List.replicate (leNat (bs.take 4)) ((bs.drop 4).take 4)).flatten ++ runLength k (bs.drop 8)

/-- Counts of run-length pairs. -/
def runTotal : Nat → List Byte → Nat
  | 0, _ => 0
  | k + 1, bs => leNat (bs.take 4) + runTotal k (bs.drop 8)

/-- A block's payload decoded by its header; none when it breaks R178. -/
def unpackBlock (h : Nat) (payload : List Byte) : Option (List Byte) :=
  let clen := fieldOf h 31 16
  let width := fieldOf h 8 4
  let method := fieldOf h 3 0
  if fieldOf h 63 32 != 0 || fieldOf h 15 9 != 0 || (method != 3 && width != 0) then none
  else
    match method with
    | 0 => if clen == 4096 then some payload else none
    | 1 => if clen == 0 then some (List.replicate 4096 0) else none
    | 2 => if clen % 8 == 0 && runTotal (clen / 8) payload == 1024 then some (runLength (clen / 8) payload) else none
    | 3 =>
      if 1 ≤ width && width ≤ 16 && clen == 128 * width then
        let v := leNat payload
        some ((List.range 1024).flatMap fun i => leBytes 4 (v / 2 ^ (i * width) % 2 ^ width))
      else none
    | 4 =>
      match lz4Block payload with
      | some out => if out.length == 4096 then some out else none
      | none => none
    | _ => none

/-- A header whose payload length cannot be right is corrupt before the payload is read. -/
def badHeader (h : Nat) : Bool :=
  let m := fieldOf h 3 0
  let c := fieldOf h 31 16
  fieldOf h 63 32 != 0 || fieldOf h 15 9 != 0 || decide (4 < m) || (m != 3 && fieldOf h 8 4 != 0) ||
  (m == 0 && c != 4096) || (m == 1 && c != 0) || (m == 2 && c % 8 != 0) ||
  (m == 3 && (fieldOf h 8 4 == 0 || decide (16 < fieldOf h 8 4) || c != 128 * fieldOf h 8 4))

/-- A decompressing copy (R178): `k` blocks left from block `i`, after `got` source bytes. -/
def State.inflate (s : State) (io : CopyIo) (dst : Word) :
    Nat → Nat → Nat → Word → Except (List (Fin 8) × Word) CopyEnd × State
  | 0, i, got, _ => (.ok ⟨0, 0, 0, BitVec.ofNat 64 (4096 * i), got⟩, s)
  | k + 1, i, got, src =>
    match s.copyReadAll io (i == 0) (piecesOf src 8) with
    | (.error (.park p b), s) => (.error (p, b), s)
    | (.error (.fault c f), s) => (.ok ⟨1, c, i, f, got⟩, s)
    | (.ok hb, s) =>
      let h := leNat hb
      let clen := fieldOf h 31 16
      if badHeader h then (.ok ⟨2, 0, i, BitVec.ofNat 64 (4096 * i), got + 8⟩, s)
      else
        match s.copyReadAll io false (piecesOf (src + 8) clen) with
        | (.error (.park p b), s) => (.error (p, b), s)
        | (.error (.fault c f), s) => (.ok ⟨1, c, i, f, got + 8⟩, s)
        | (.ok pb, s) =>
          let got := got + 8 + clen
          match unpackBlock h pb with
          | none => (.ok ⟨2, 0, i, BitVec.ofNat 64 (4096 * i), got⟩, s)
          | some out =>
            match s.writePieces io (piecesOf (dst + BitVec.ofNat 64 (4096 * i)) 4096) out with
            | (.error (.park p b), s) => (.error (p, b), s)
            | (.error (.fault c f), s) => (.ok ⟨1, c, i, f, got⟩, s)
            | (.ok (), s) => State.inflate s io dst k (i + 1) got (src + BitVec.ofNat 64 (8 + (clen + 7) / 8 * 8))

/-- The `OSWAP` at the head of a core's matrix queue, which a stop withdraws (R356, R365). -/
def Core.heldSwap (c : Core) : Option Cmd :=
  match c.mq with
  | d :: _ => (match d.kind with | .oswap _ => some d | _ => none)
  | [] => none

/-- The matrix status block of R365. -/
def matrixStatus (c : Core) : List Byte :=
  let bits (p : OSlot → Bool) : Nat := (List.finRange 32).foldl (fun n i => n + boolNat (p c.slots[i]) * 2 ^ i.val) 0
  let owner := (List.finRange 32).foldl (fun n i =>
    n + (match c.slots[i].owner with | some t => t.val | none => 0) * 2 ^ (2 * i.val)) 0
  let w3 := match c.heldSwap with | some d => d.seq.toNat * 2 ^ 48 + 2 ^ 47 + d.a * 2 ^ 40 + d.s1.toNat % 2 ^ 12 | none => 0
  leBytes 8 (bits fun o => o.owner.isSome) ++ leBytes 8 owner ++ leBytes 8 (bits (·.roleB)) ++ leBytes 8 w3 ++
    List.replicate 32 0

/-- Operand memory, accumulators and status block as copy kind 3 writes them (R235, R365). -/
def State.matrixImage (s : State) (core : Nat) : List Byte :=
  readSpan 0x2C000 (slotKey core 0) s.mem.operand ++ matrixStatus (s.core core)

/-- The withdrawn `OSWAP` that word 3 of a status block names is dispatched again, ahead of every other command: the last of its
mask, of the thread set that owns its slot (R356, R365; assumption log 124). -/
def Core.redispatch (c : Core) (w3 : Nat) : Core :=
  let seq := BitVec.ofNat 16 (fieldOf w3 63 48)
  let mask := fieldOf w3 11 0
  if !bitOf w3 47 || c.mq.any (fun d => d.seq == seq && (match d.kind with | .oswap _ => true | _ => false)) then c
  else
    let slot := fieldOf w3 44 40
    let nth := tblGet c.swaps mask 0 - 1
    { c with mq := { id := 0, ts := (c.slots.toList.getD slot {}).owner.getD 0, seq := seq, x := {}, kind := .oswap nth, a := slot,
                     s1 := BitVec.ofNat 64 mask } :: c.mq }

/-- The image taken back by copy kind 4. -/
def State.matrixRestore (s : State) (core : Nat) (bs : List Byte) : State :=
  let s := { s with mem := { s.mem with operand := writeSpan s.mem.operand (slotKey core 0) (bs.take 0x2C000) } }
  let w := bs.drop 0x2C000
  if w.length < 24 then s
  else
    let c := s.core core
    let claimed := leNat (w.take 8)
    let own := leNat ((w.drop 8).take 8)
    let role := leNat ((w.drop 16).take 8)
    let c := { c with slots := Vector.ofFn fun i => { c.slots[i] with
      owner := if claimed.testBit i.val then some ⟨own / 2 ^ (2 * i.val) % 4, Nat.mod_lt _ (by decide)⟩ else none,
      roleB := role.testBit i.val } }
    s.setCore core (if w.length < 32 then c else c.redispatch (leNat ((w.drop 24).take 8)))

/-- Source and destination of a plain copy overlap, by the bytes that near addresses name and global virtual
addresses as written (R177). -/
def State.copyOverlap (s : State) (core : Nat) (src dst : Word) (n : Nat) : Bool :=
  let norm (a : Word) : Option Nat :=
    if a.getLsbD 63 then some a.toNat
    else match s.place core a true with | .ok p => some (s.absAddr core p).toNat | .error _ => none
  match norm src, norm dst with
  | some a, some b => decide (a < b + n ∧ b < a + n)
  | _, _ => false

/-- A request that R177 calls malformed. -/
def State.copyMalformed (s : State) (core : Nat) (r : CopyReq) : Bool :=
  let ws := r.words
  let kind := recField ws 0 3 0
  let len := recField ws 3 39 0
  recField ws 0 63 5 != 0 || recField ws 3 47 40 != 0 || decide (4 < kind) ||
  (decide (3 ≤ kind) && !r.sys) || len == 0 || decide (2 ^ 32 < len) || (kind == 1 && len % 4096 != 0) ||
  (kind == 0 && s.copyOverlap core (ws.getD 1 0) (ws.getD 2 0) len)

/-- A request performed: its end, or the partitions whose slabs it waits for and the source block that lies over them. -/
def State.runCopy (s : State) (core : Nat) (r : CopyReq) : Except (List (Fin 8) × Word) CopyEnd × State :=
  let ws := r.words
  let src := ws.getD 1 0
  let dst := ws.getD 2 0
  let len := recField ws 3 39 0
  let kind := recField ws 0 3 0
  let part := min len 0x2C040
  -- the end of a compressed source is known only as it is read: its last block is checked whole
  let io := coreIo core r.sys (if kind == 1 then 2 ^ 64 else src.toNat + (if kind == 4 then part else len))
  if s.copyMalformed core r then (.ok ⟨3, 0, 0, 0, 0⟩, s)
  else
    match kind with
    | 0 => s.copyBlocks s io none dst (piecesOf dst len) src 0
    | 1 => s.inflate io dst (len / 4096) 0 0 src
    | 2 => s.copyBlocks s io (some src) dst (piecesOf dst len) 0 0
    | 3 =>
      match s.writePieces io (piecesOf dst part) (s.matrixImage core) with
      | (.ok (), s) => (.ok ⟨0, 0, 0, BitVec.ofNat 64 part, 0⟩, s)
      | (.error (.fault c f), s) => (.ok ⟨1, c, f.toNat / 64 - dst.toNat / 64, f, 0⟩, s)
      | (.error (.park p k), s) => (.error (p, k), s)
    | _ =>
      match s.copyReadAll io true (piecesOf src part) with
      | (.ok bs, s) => (.ok ⟨0, 0, 0, BitVec.ofNat 64 bs.length, bs.length⟩, s.matrixRestore core bs)
      | (.error (.fault c f), s) => (.ok ⟨1, c, f.toNat / 64 - src.toNat / 64, f, 0⟩, s)
      | (.error (.park p k), s) => (.error (p, k), s)

/-- The head of a core's copy queue leaves it. -/
def State.popCopy (s : State) (core : Nat) : State :=
  let c := s.core core
  s.setCore core { c with copyq := c.copyq.drop 1 }

/-- Bytes a copy has written. -/
def copyDone (r : CopyReq) (e : CopyEnd) : Nat :=
  let dst := (r.words.getD 2 0).toNat
  if e.status == 0 then e.word.toNat
  else if recField r.words 0 3 0 == 1 then 4096 * e.block
  else (dst / 64 + e.block) * 64 - dst

/-- Bytes that a copy reads from and writes to global space. -/
def copyGlobal (r : CopyReq) (e : CopyEnd) : Nat × Nat :=
  let glob (k n : Nat) : Nat := if (r.words.getD k 0).getLsbD 63 then n else 0
  if e.status == 3 then (0, 0)
  else (if recField r.words 0 3 0 < 2 then glob 1 e.read else 0, glob 2 (copyDone r e))

/-- Requests of at most 4 KiB, of `rd` bytes read and `wr` written, that leave the port while the level is above 0: the bytes
of those that have left (R71). -/
def State.payCopy (s : State) (core rd wr : Nat) : Nat → Nat → Nat × State
  | 0, paid => (paid, s)
  | fuel + 1, paid =>
    if rd + wr ≤ paid || s.bandwidthHeld core then (paid, s)
    else
      let n := min 4096 (if paid < rd then rd - paid else rd + wr - paid)
      State.payCopy (s.debitBandwidth core n) core rd wr fuel (paid + n)

/-- What a copy costs in energy (R75): class 13 for every 64 bytes that it has moved. -/
def State.debitCopy (s : State) (core : Nat) (r : CopyReq) (e : CopyEnd) : State :=
  let moved := if e.status == 3 then 0 else copyDone r e
  if r.sys || moved == 0 then s else s.debitClass core 13 ((moved + 63) / 64)

/-- The writes of a copy, by its destination blocks, as the pop of its completion folds them (R248). -/
def State.copyWrites (s : State) (core : Nat) (r : CopyReq) (e : CopyEnd) : List (Word × List Byte) :=
  if e.status == 3 then []
  else
    (piecesOf (r.words.getD 2 0) (copyDone r e)).filterMap fun (a, n) =>
      match s.access core a n 1 false r.sys with
      | .ok (acc, _) => some (a, s.bytesAt acc.loc n)
      | .error _ => none

/-- The writes kept for the digest of a task that records or replays. -/
def State.noteWrites (s : State) (core : Nat) (r : CopyReq) (e : CopyEnd) (w : Word × Word) : State :=
  match s.taskOf core with
  | some t =>
    if t.record || t.replay then
      let c := s.core core
      s.setCore core { c with unfolded := c.unfolded ++ [(w, s.copyWrites core r e)] }
    else s
  | none => s

/-- The oldest request of a core's copy engine changed. -/
def State.modCopy (s : State) (core : Nat) (f : CopyReq → CopyReq) : State :=
  let c := s.core core
  match c.copyq with
  | [] => s
  | r :: q => s.setCore core { c with copyq := f r :: q }

/-- The oldest request waits for slabs that a source block of it lies over: counted once for each block (R147). -/
def State.parkCopy (s : State) (core : Nat) (r : CopyReq) (ps : List (Fin 8)) (block : Word) : State :=
  let b := block &&& ~~~(63 : Word)
  if r.parked.contains b then s
  else (s.countWaits core ps).modCopy core fun r => { r with parked := r.parked ++ [b] }

/-- COPY_REQUEST_COMPLETE (R177): the oldest request is performed and its completion deposited, after every store that
its thread made before it (R163); it waits while a lap slab that it reads is in flight (R147) and until its global requests
have left the port (R71). -/
def execCopyRequestComplete (core : Fin 4096) (s : State) : Res :=
  match (s.core core).copyq with
  | [] => .next s
  | r :: _ =>
    if r.cfet.isSome || (s.storesOf core r.ts).any (fun f => decide (f.id < r.id)) then .next s
    else
      match s.runCopy core r with
      | (.error (ps, k), _) => .next (s.parkCopy core r ps k)
      | (.ok e, done) =>
        let (rd, wr) := copyGlobal r e
        let (paid, t) := if r.sys then (rd + wr, s) else s.payCopy core rd wr (rd / 4096 + wr / 4096 + 2) r.paid
        if paid < rd + wr then .next ((t.modCopy core fun r => { r with paid := paid }).noteHeld core false)
        else
          let tag := recField r.words 3 63 48
          let w0 := BitVec.ofNat 64 (tag * 2 ^ 48 + e.status * 2 ^ 40 + e.cause.toNat * 2 ^ 32 + e.block % 2 ^ 32)
          let done := { done with bud := t.bud }.noteWrites core r e (w0, e.word)
          .next (((done.debitCopy core r e).popCopy core).launch core r.ts (.deposit core w0 e.word true))

/-- Break bits of a segment from the bitmap (R179, R244). -/
def State.loadBreaks (s : State) (core seg : Nat) : State :=
  let c := s.core core
  let keep := c.breaks.filter fun a => segOf a != seg
  if !c.brkmap.getLsbD 63 then s.setCore core { c with breaks := keep }
  else
    let asid := match s.taskOf core with | some t => t.asid | none => 0
    match s.globalBytes asid (c.brkmap + BitVec.ofNat 64 (seg * 256)) 256 with
    | .error (_, s) => s.setCore core { s.core core with breaks := keep }
    | .ok (bs, s) =>
      let new := (bs.zipIdx.flatMap fun (b, i) =>
        (List.range 8).filterMap fun j =>
          if b.getLsbD j then some (BitVec.ofNat 16 (seg * 4096 + i * 16 + j * 2)) else none)
      s.setCore core { s.core core with breaks := keep ++ new }

/-- A segment's code. -/
def State.writeCode (s : State) (core seg : Nat) (bs : List Byte) : State :=
  { s with mem := { s.mem with code := writeSpan s.mem.code (codeKey core (seg * 4096)) bs } }

/-- Bytes read for a segment fetch, in 64-byte blocks; the first fault with its address. -/
def State.fetchBytes (s : State) (core : Nat) (a : Word) : Except CopyStop (List Byte) × State :=
  s.copyReadAll (coreIo core false (a.toNat + 4096)) true (piecesOf a 4096)

/-- CFET_LAND (R179, R103): the 4 KiB land, after every store that the thread made before it (R163), and the segment becomes valid
with the last fetch of it in flight; a fault leaves it invalid, with its cause and address for the next fetch from it. -/
def execCfetLand (core : Fin 4096) (s : State) : Res :=
  match (s.core core).copyq with
  | [] => .next s
  | r :: _ =>
    match r.cfet with
    | none => .next s
    | some (g, a) =>
      if (s.storesOf core r.ts).any (fun f => decide (f.id < r.id)) then .next s
      else if s.bandwidthHeld core then .next (s.noteHeld core false)
      else
        let done (s : State) (fail : Option (BitVec 8 × Word)) : State :=
          let s := s.popCopy core
          let c := s.core core
          let left := c.segFetch[g] - 1
          s.setCore core { c with segFetch := c.segFetch.set g left, segFail := c.segFail.set g fail,
                                  segValid := if left == 0 && fail.isNone then c.segValid ||| (1 <<< g.val) else c.segValid }
        match s.fetchBytes core a with
        | (.error (.fault c f), s) => .next (done s (some (c, f)))
        | (.error (.park _ _), _) => .next s
        | (.ok bs, s) =>
          let s := (s.writeCode core g.val bs).debitBandwidth core 4096
          .next (done ((s.debitClass core 13 64).loadBreaks core g.val) none)

end Sys2Proof.Machine
end

