-- ==== Sys2Proof/Machine/Remote.lean ====
section
/-!
DEFINITION. Remote operations, trigger counters and posted buffers (R93 to R99, R395 to R404).
-/
namespace Sys2Proof.Machine
open Sys2Proof

/-! ## Descriptors (R99, R395, R399) -/

/-- Fields of a descriptor. -/
def rdPeer (ws : List Word) : BitVec 16 := BitVec.ofNat 16 (recField ws 0 63 48)
def rdHandle (ws : List Word) : Nat := recField ws 0 47 28
def rdReg (ws : List Word) : Fin 16 := ⟨recField ws 0 27 24 % 16, Nat.mod_lt _ (by decide)⟩
def rdKind (ws : List Word) : Nat := recField ws 0 3 0
def rdLen (ws : List Word) : Nat := recField ws 3 31 0
def rdOff (ws : List Word) : Nat := (ws.getD 2 0).toNat

/-- A descriptor that traps with 0x02. -/
def rdBad (ws : List Word) : Bool :=
  let k := rdKind ws
  decide (4 ≤ k) || recField ws 0 23 4 != 0 || recField ws 3 63 32 != 0 ||
  (if k == 0 then rdLen ws == 0 || decide (2 ^ 20 < rdLen ws) else rdLen ws != 0) ||
  ((k == 1 || k == 2) && rdOff ws % 8 != 0) || (k == 3 && recField ws 2 63 18 != 0)

/-- An operation of a thread goes under way (R395, R99). -/
def State.launchRemote (s : State) (core : Nat) (ts : Fin 4) (ws : List Word) : State :=
  let (task, tenant) := match s.taskOf core with | some t => (t.id, t.tenant) | none => (0, 0)
  s.launch core ts (.remote
    { kind := ⟨rdKind ws % 4, Nat.mod_lt _ (by decide)⟩, dev := rdPeer ws, words := ws, tenant := tenant, task := task,
      mreg := rdReg ws })

/-- `RST`, `RFAA`, `RFENCE` (R395). -/
def remoteOp (kind : Nat) (x : Pre) (b : SReg) (s : State) : Res :=
  issue x (fun k => do
    let p ← readS k b
    let bs ← localBlock k p 32 32 0x02 0x60 true
    let ws := wordsOf64 4 bs
    trapIf (rdBad ws || rdKind ws != kind) 0x02
    modState fun s => s.launchRemote k.core k.ts ws
    goOn) s

/-- RST (R396). -/
def execRst (x : Pre) (b : SReg) (s : State) : Res := remoteOp 0 x b s
/-- RFAA (R397). -/
def execRfaa (x : Pre) (b : SReg) (s : State) : Res := remoteOp 2 x b s
/-- RFENCE (R398). -/
def execRfence (x : Pre) (b : SReg) (s : State) : Res := remoteOp 1 x b s

/-! ## Counters and armed operations (R98, R399 to R401) -/

/-- A send of a task that is being switched out starts its drain passes again (R78). -/
def State.sentInDrain (s : State) (core : Nat) : State :=
  match s.sched.switch, s.taskOf core with
  | some w, some t => if w.task == t.id then { s with sched := { s.sched with switch := some { w with passes := 0 } } } else s
  | _, _ => s

/-- A trigger counter set, and the entries that a rise brings to their threshold fire, in ascending number. -/
def State.setCounter (s : State) (core : Nat) (h : HReg) (v : Word) : State :=
  let c := s.core core
  let old := c.h[h]
  let s := s.setCore core { c with h := c.h.set h v }
  if v.toNat ≤ old.toNat then s
  else
    let fire := c.armed.filter fun e => e.h == h && decide (e.threshold.toNat ≤ v.toNat)
    let s := s.setCore core { s.core core with armed := (s.core core).armed.filter fun e => !fire.contains e }
    let s := if fire.isEmpty then s else s.sentInDrain core
    fire.foldl (fun s e => s.launchRemote core e.ts e.words) s

/-- The lowest free entry of the armed table. -/
def freeArmed (l : List Armed) : Option Nat := (List.range 32).find? fun i => l.all fun e => e.slot != i

/-- An entry put into the table in its place. -/
def insertArmed (e : Armed) : List Armed → List Armed
  | [] => [e]
  | d :: r => if e.slot < d.slot then e :: d :: r else d :: insertArmed e r

/-- An `RST` under way counts on a counter of a core (R98, R246). -/
def State.racesTrig (s : State) (core : Nat) (h : HReg) : Bool :=
  s.fab.fly.any fun f =>
    match f.what with
    | .remote r =>
      let q := tblGet s.fab.posts (rdHandle r.words / 256) {}
      r.kind == 0 && q.live && q.ctr == h &&
        (match s.taskOf core with | some t => q.task == t.id && q.core == s.relOf core | none => false)
    | _ => false

/-- The detail logged for a thread at its present position, by type (R247). -/
def State.loggedHere (s : State) (core : Nat) (ts : Fin 4) (ty : Nat) : Option Nat :=
  if !s.replays core then none
  else ((s.replayLog core ty).find? fun e =>
    e.course == (s.courseOf core).toNat && e.ts == ts.val && e.retired == (s.thread core ts).retired.toNat).map (·.detail)

/-- The status that `TRIG` gives (R98, R399): 1 fires, 2 finds no free entry, 0 arms. -/
def trigStatus (reached : Bool) (armed : List Armed) : Nat :=
  if reached then 1 else if (freeArmed armed).isNone then 2 else 0

/-- What `TRIG` does under a status (R98): an entry armed below its threshold waits; under REPLAY one armed at or above it was
armed before the arrival that raced it, and fires. -/
def State.trigger (s : State) (core : Nat) (ts : Fin 4) (ws : List Word) (h : HReg) (threshold : Word) (status : Nat) : State :=
  let c := s.core core
  if status == 1 || (status == 0 && decide (threshold.toNat ≤ c.h[h].toNat)) then s.launchRemote core ts ws
  else if status == 2 then s
  else s.setCore core { c with armed := insertArmed ⟨(freeArmed c.armed).getD 32, ws, h, threshold, ts⟩ c.armed }

/-- TRIG (R98, R399): a status that raced an arrival is logged, and under REPLAY the logged one is given (R246, R247). -/
def execTrig (x : Pre) (a b : SReg) (c : HReg) (d : Fin 16) (s : State) : Res :=
  issue x (fun k => do
    let p ← readS k b
    let th ← readS k (d.castLE (by decide))
    let bs ← localBlock k p 32 32 0x02 0x60 true
    let ws := wordsOf64 4 bs
    trapIf (rdBad ws) 0x02
    let s ← getState
    let q := s.core k.core
    let status := (s.loggedHere k.core k.ts 6).getD (trigStatus (decide (th.toNat ≤ q.h[c].toNat)) q.armed)
    let raced := s.racesTrig k.core c
    modState fun s =>
      let s := if raced then s.record k.core 6 (s.relOf k.core) k.ts status else s
      s.trigger k.core k.ts ws c th status
    writeS k a (BitVec.ofNat 64 status)
    goOn) s

/-- `HCNT` and `HCNTS` (R400). -/
def countBy (f : Word → Word → Word) (x : Pre) (a b : SReg) (c : HReg) (s : State) : Res :=
  issue x (fun k => do
    let n ← readS k b
    let q ← getCore k
    let v := f q.h[c] n
    modState fun s => s.setCounter k.core c v
    writeS k a v
    goOn) s

/-- HCNT (R400). -/
def execHcnt (x : Pre) (a b : SReg) (c : HReg) (s : State) : Res := countBy (· + ·) x a b c s
/-- HCNTS (R400). -/
def execHcnts (x : Pre) (a b : SReg) (c : HReg) (s : State) : Res := countBy (· - ·) x a b c s

/-- HWAIT (R401). -/
def execHwait (x : Pre) (a b : SReg) (c : HReg) (s : State) : Res :=
  issue x (fun k => do
    let n ← readS k b
    let q ← getCore k
    holdUnless (n.toNat ≤ q.h[c].toNat)
    writeS k a q.h[c]
    goOn) s

/-! ## Posted buffers (R93, R402, R403) -/

/-- The lowest free slot. -/
def State.freePost (s : State) : Option Nat := (List.range 4096).find? fun i => !(tblGet s.fab.posts i {}).live

/-- CPOST (R93, R402). -/
def execCpost (x : Pre) (a b c : SReg) (s : State) : Res :=
  issue x (fun k => do
    let ea ← readS k b
    let w ← readS k c
    trapIf (!canonical ea) 0x02
    trapIf (ea.toNat % 8 != 0) 0x60 ea
    trapIf (fieldOf w.toNat 63 38 != 0 || fieldOf w.toNat 31 0 == 0) 0x02
    let s ← getState
    match s.freePost with
    | none => do
      writeS k a (BitVec.ofNat 64 (2 * 2 ^ 56))
      goOn
    | some i => do
      let (task, tenant, asid) : Nat × Nat × BitVec 16 :=
        match s.taskOf k.core with | some t => (t.id, t.tenant, t.asid) | none => (0, 0, 0)
      let old := tblGet s.fab.posts i {}
      let slot : PostSlot := { gen := old.gen, live := true, task := task, tenant := tenant, asid := asid, addr := ea,
                               len := fieldOf w.toNat 31 0, st := w.getLsbD 36, faa := w.getLsbD 37,
                               core := s.relOf k.core, ctr := ⟨fieldOf w.toNat 35 32 % 16, Nat.mod_lt _ (by decide)⟩ }
      modState fun s => { s with fab := { s.fab with posts := tblSet s.fab.posts i slot } }
      writeS k a (BitVec.ofNat 64 (i * 256 + old.gen.toNat))
      goOn) s

/-- A slot revoked (R93). -/
def State.revoke (s : State) (i : Nat) : State :=
  let q := tblGet s.fab.posts i {}
  { s with fab := { s.fab with posts := tblSet s.fab.posts i { q with live := false, gen := q.gen + 1 } } }

/-- What has passed its check at a slot and has not landed: a flag, a fetch-and-add, or an arrival that the early-arrival store
keeps; `CREVOKE` waits for it (R403). -/
def State.revokeWaits (s : State) (i : Nat) : Bool :=
  s.fab.fly.any fun f =>
    match f.what with
    | .remote r => rdHandle r.words / 256 == i && r.checked && r.status.isNone &&
        (r.kind == 1 || r.kind == 2 || s.fab.kept.any (·.op == f.id))
    | _ => false

/-- CREVOKE (R93, R403). -/
def execCrevoke (x : Pre) (a : SReg) (s : State) : Res :=
  issue x (fun k => do
    let h ← readS k a
    let s ← getState
    let i := fieldOf h.toNat 19 8
    let q := tblGet s.fab.posts i {}
    let mine := match s.taskOf k.core with | some t => q.task == t.id | none => false
    trapIf (fieldOf h.toNat 63 20 != 0 || !q.live || !mine || q.gen.toNat != fieldOf h.toNat 7 0) 0x02
    holdUnless (!s.revokeWaits i)
    modState fun s => s.revoke i
    goOn) s

/-! ## Arrival at the peer (R94 to R97, R395 to R399) -/

/-- The check of a handle that fails first (R94, R399): its status. -/
def State.handleCheck (s : State) (handle tenant kind off len : Nat) : Option (BitVec 8) :=
  let q := tblGet s.fab.posts (handle / 256) {}
  if !q.live || q.gen.toNat != handle % 256 then some 2
  else if q.tenant != tenant || (kind < 2 && !q.st) || (kind == 2 && !q.faa) then some 10
  else if kind != 3 && decide (q.len < off + len) then some 8
  else none

/-- Bytes an operation covers in the buffer. -/
def RemoteOp.span (r : RemoteOp) : Nat := if r.kind == 0 then rdLen r.words else 8

/-- An operation under way replaced. -/
def State.putRemote (s : State) (n : Nat) (r : RemoteOp) : State :=
  { s with fab := { s.fab with fly := s.fab.fly.map fun f => if f.id == n then { f with what := .remote r } else f } }

/-- An answer's or a completion's word: a status and a result (R94). -/
def remoteWord (st : BitVec 8) (v : Nat) : Word := BitVec.ofNat 64 (st.toNat * 2 ^ 56 + v % 2 ^ 56)

/-- What is kept of an operation in the early-arrival store goes. -/
def State.dropKept (s : State) (n : Nat) (k : Nat → Bool) : State :=
  { s with fab := { s.fab with kept := s.fab.kept.filter fun e => !(e.op == n && k e.k) } }

/-- An operation ends at the peer with a status and a result: its answer goes to another device, or its completion
word waits to arrive here. -/
def State.endRemote (s : State) (n : Nat) (r : RemoteOp) (st : BitVec 8) (v : Nat) : State :=
  let s := s.dropKept n fun _ => true
  match r.foreign with
  | some (dev, ref, _) => (s.landed n).post dev 1 (.answer dev.toNat ref (remoteWord st v))
  | none => s.putRemote n { r with status := some st, result := BitVec.ofNat 64 (v % 2 ^ 56) }

/-- The slot that an operation's handle names, while it is live with that generation (R93). -/
def State.postedSlot (s : State) (r : RemoteOp) : Option PostSlot :=
  let q := tblGet s.fab.posts (rdHandle r.words / 256) {}
  if !q.live || q.gen.toNat != rdHandle r.words % 256 then none else some q

/-- The task whose slot an operation names, when it is not switched out. -/
def State.postedTask (s : State) (r : RemoteOp) : Option Task :=
  match s.postedSlot r with
  | some q => s.sched.tasks.find? (·.id == q.task)
  | none => none

/-- The slot of an operation is live and its task is switched out (R404). -/
def State.postedAway (s : State) (r : RemoteOp) : Bool := (s.postedSlot r).isSome && (s.postedTask r).isNone

/-- The domain-relative core that a message of another device, or of this one, comes from (R246). -/
def RemoteOp.source (r : RemoteOp) (s : State) (f : Fly) : Nat :=
  match r.foreign with | some (_, _, c) => c | none => s.relOf f.core

/-! ## Channels that are held (R91, R171) -/

/-- The task of an operation cannot take its completion word any more: it has gone, or its crew has stopped under `SCHEND` (R404). -/
def State.wordLost (s : State) (f : Fly) (r : RemoteOp) : Bool :=
  match s.sched.tasks.find? (·.id == r.task) with
  | none => !s.sched.saved.any (·.task.id == r.task)
  | some t => t.ended && (s.core f.core).thr.toList.all fun h => h.run == .off || h.run == .stopped

/-- The message of a completion word. -/
def State.wordMsg (s : State) (f : Fly) (r : RemoteOp) : Msg :=
  ⟨f.ts, r.mreg, remoteWord (r.status.getD 0) r.result.toNat, s.relOf f.core⟩

/-- The completion word of another device's answer finds no room at its core: it waits there and holds virtual channel 1
(R171). One for a task that is switched out is held with that task (R404). -/
def State.wordWaits (s : State) (f : Fly) : Bool :=
  match f.what with
  | .remote r => r.foreign.isNone && r.sent && r.status.isSome && !s.wordLost f r && s.sched.tasks.any (·.id == r.task) &&
      (s.deliverMsg f.core (s.wordMsg f r)).isNone
  | _ => false

/-- A message of another device finds no room at its core: it waits and holds virtual channel 0 (R171). -/
def State.messageWaits (s : State) (f : Fly) : Bool :=
  match f.what with
  | .msg d m => f.core == foreignCore && !s.behindMessage f d m && (s.deliverMsg d m).isNone
  | _ => false

/-- A virtual channel is held: what comes on it waits at its source (R91, R171). -/
def State.vcHeld (s : State) (vc : Fin 8) : Bool :=
  s.channelFull vc || (vc == 1 && s.fab.fly.any s.wordWaits) || (vc == 0 && s.fab.fly.any s.messageWaits)

/-- A flit of a virtual channel gets no credit back: the channel is held, or it is a collective's and the early-arrival store is
full (R91). -/
def State.keepsCredit (s : State) (vc : Fin 8) : Bool := s.vcHeld vc || (decide (2 ≤ vc.val) && s.earlyFull)

/-- FLIT_RECEIVE (R13): on a channel that is held no credit goes back (R91). -/
def execFlitReceive (p : Fin 128) (f : Flit) (good : Bool) (s : State) : Res :=
  .next (s.flitArrives p.val f good (s.keepsCredit f.vc))

/-- The virtual channel of a kind's request: handle checks and flags come on 1, fetch-and-adds and messages on 0 (R91). -/
def reqChannel (kind : Nat) : Fin 8 := if kind < 2 then 1 else 0

/-- The virtual channel on which what a kind lands comes: a flag on 1, chunks and fetch-and-adds on 0 (R91). -/
def dataChannel (kind : Nat) : Fin 8 := if kind == 1 then 1 else 0

/-- A message of kind 3 at the peer (R99, R399): the status, and the message under way; it is held for a task that is switched
out (R78). -/
def State.remoteMessage (s : State) (f : Fly) (r : RemoteOp) : State :=
  let w := (r.words.getD 2 0).toNat
  let ts : Fin 4 := ⟨fieldOf w 17 16 % 4, Nat.mod_lt _ (by decide)⟩
  match s.postedTask r with
  | none => if s.postedAway r then s.putRemote f.id { r with checked := true } else s.endRemote f.id r 2 0
  | some t =>
    if !t.carries (fieldOf w 11 0) || !t.allotted ts.val then s.endRemote f.id r 8 0
    else (s.launch f.core f.ts (.msg (t.coreAt (fieldOf w 11 0))
      ⟨ts, ⟨fieldOf w 15 12 % 16, Nat.mod_lt _ (by decide)⟩, r.words.getD 1 0, r.source s f⟩)).endRemote f.id r 0 0

/-- An operation has passed the checks of its handle: a transfer of another device's is told so, since its bytes move only
then (R94). -/
def State.passRemote (s : State) (f : Fly) (r : RemoteOp) : State :=
  let s := s.putRemote f.id { r with checked := true }
  match r.foreign with
  | some (dev, ref, _) => if r.kind == 0 then s.post dev 1 (.checked dev.toNat ref) else s
  | none => s

/-- An operation reaches this device's slot table (R94). -/
def State.checkRemote (s : State) (f : Fly) (r : RemoteOp) : State :=
  match s.handleCheck (rdHandle r.words) r.tenant r.kind.val (rdOff r.words) r.span with
  | some st => s.endRemote f.id r st 0
  | none => if r.kind == 3 then s.remoteMessage f r else s.passRemote f r

/-- The operation of another device. -/
def opOf (q : RemoteReq) : RemoteOp :=
  { kind := q.kind, dev := 0,
    words := [BitVec.ofNat 64 (q.handle.toNat * 2 ^ 28 + q.kind.val), q.value, q.off, BitVec.ofNat 64 q.len],
    tenant := q.tenant.toNat, task := 0, mreg := 0, foreign := some (q.dev, q.ref, q.core.val) }

/-- An earlier `RST` of the core to the peer device has not passed its checks there: a flag's request waits for it, so that the
peer knows of every chunk that the flag comes after (R97, R398). -/
def State.behindRequest (s : State) (f : Fly) (r : RemoteOp) : Bool :=
  r.kind == 1 && s.fab.fly.any fun g => g.id < f.id && g.core == f.core &&
    (match g.what with
     | .remote q => q.foreign.isNone && q.kind == 0 && q.dev == r.dev && q.status.isNone && !q.checked
     | _ => false)

/-- An operation of this device reaches its peer: this device itself, another that an Up port reaches, or none (status 9). -/
def State.requestRemote (s : State) (f : Fly) (r : RemoteOp) : State :=
  if r.dev == s.boot.devnum then s.checkRemote f r
  else if (s.routeTo r.dev).isNone then s.endRemote f.id r 9 0
  else if s.behindRequest f r then s
  else (s.putRemote f.id { r with sent := true }).post r.dev (reqChannel r.kind.val)
    (.remote r.dev.toNat f.id f.core r.tenant r.words)

/-- REMOTE_REQUEST_ARRIVE (R94, R395): an operation of another device reaches this one; or one of this device's takes its next
step towards its peer: its request, the answer that its transfer has passed the peer's checks, or a message that was held for
a task that was switched out. A request or an answer whose channel is held waits (R91). -/
def execRemoteRequestArrive (n : Nat) (foreign : Option RemoteReq) (s : State) : Res :=
  match foreign with
  | some q =>
    if s.vcHeld (reqChannel q.kind.val) then .next s
    else
    let f : Fly := { id := s.fab.nextId, core := foreignCore, ts := 0, cyc := s.cycle, what := .remote (opOf q) }
    .next ((s.launch foreignCore 0 (.remote (opOf q))).checkRemote f (opOf q))
  | none =>
    match s.fab.fly.find? (·.id == n) with
    | some f =>
      match f.what with
      | .remote r =>
        if r.status.isSome then .next s
        else if r.checked then .next (if r.kind == 3 then s.remoteMessage f r else s)
        else if r.foreign.isSome then .next s
        else if r.sent then .next (if r.kind == 0 && !s.vcHeld 1 then s.putRemote n { r with checked := true } else s)
        else .next (s.requestRemote f r)
      | _ => .next s
    | none => .next s

/-- The chunks of a transfer. -/
def RemoteOp.chunkCount (r : RemoteOp) : Nat := (rdLen r.words + 4095) / 4096
/-- Bytes of chunk `k`. -/
def RemoteOp.chunkLen (r : RemoteOp) (k : Nat) : Nat := min 4096 (rdLen r.words - 4096 * k)

/-- What the source of a chunk gives (R396): bytes, a wait for a slab, or a fault. -/
inductive ChunkRead where
  | bytes (s : State) (bs : List Byte)
  | wait (s : State)
  | fault (s : State)

/-- The lap check of a chunk's source: one, over all its pieces (R147). -/
def State.chunkLaps (s : State) (core : Nat) (ps : List (Word × Nat)) : LapCheck :=
  ps.foldl (fun c (b, n) =>
    match s.access core b n 1 false false with
    | .ok (acc, _) => c.join (s.lapCheckAt core acc.place n)
    | .error _ => c) .plain

/-- The pieces of a chunk's source read as its thread's (R95). -/
def State.readPieces (s : State) (core : Nat) (ts : Fin 4) : List (Word × Nat) → Option (List Byte) × State
  | [] => (some [], s)
  | (b, n) :: r =>
    match s.access core b n 1 false false with
    | .error e => (none, s.walked (s.asidOf core) b e)
    | .ok (p, s) =>
      let (rest, t) := State.readPieces s core ts r
      (rest.map (s.seenBytes core ts p.loc n ++ ·), t.touch core p)

/-- The source of a chunk read (R95, R396), with its lap check. -/
def State.readChunk (s : State) (f : Fly) (r : RemoteOp) (k : Nat) : ChunkRead :=
  let ps := piecesOf (r.words.getD 1 0 + BitVec.ofNat 64 (4096 * k)) (r.chunkLen k)
  let go (s : State) : ChunkRead :=
    match s.readPieces f.core f.ts ps with
    | (some bs, s) => .bytes s bs
    | (none, s) => .fault s
  match s.chunkLaps f.core ps with
  | .plain => go s
  | .park l =>
    if r.waiting.contains k then .wait s
    else .wait ((s.countWaits f.core l).putRemote f.id { r with waiting := r.waiting ++ [k] })
  | .stale l policy => if policy == 2 then .fault (s.countStales f.core l) else go (s.countStales f.core l)

/-- A transfer whose source faulted ends with status 4 (R396), once the chunks before that wait in the early-arrival store no
more (R404). -/
def State.cutShort (s : State) (n : Nat) (r : RemoteOp) : State :=
  if s.fab.kept.any (·.op == n) then s.putRemote n { r with cut := true } else s.endRemote n r 4 r.bytes

/-- The arbiter of the station of a global address (R55, R104). -/
def homesOf (a : Word) : List (Nat × Nat) := homeArbiter (0x40000 + stationOf a.toNat)

/-- A chunk lands in its posted buffer (R95, R395): the generation again, the write as a store of the posting core,
then the counter. -/
def State.landChunk (s : State) (f : Fly) (r : RemoteOp) (k : Nat) (bs : List Byte) : State :=
  match s.postedSlot r, s.postedTask r with
  | some q, some t =>
    match s.checkedWrite (some (t.id, q.core)) q.asid (q.addr + BitVec.ofNat 64 (rdOff r.words + 4096 * k)) bs with
    | .error (_, s) => s.endRemote f.id r 4 r.bytes
    | .ok s =>
      let core := t.coreAt q.core
      let s := s.setCounter core q.ctr ((s.core core).h[q.ctr] + BitVec.ofNat 64 bs.length)
      let s := s.touchAt (homesOf (q.addr + BitVec.ofNat 64 (rdOff r.words + 4096 * k)))
      let r := { r with landed := r.landed ++ [k], bytes := r.bytes + bs.length }
      if r.landed.length == r.chunkCount then s.endRemote f.id r 0 r.bytes
      else if r.cut then s.cutShort f.id r
      else s.putRemote f.id r
  | _, _ => s.endRemote f.id r 7 r.bytes

/-! ## Buffers of tasks that are switched out (R404) -/

/-- The operation under way with a number. -/
def State.remoteAt (s : State) (n : Nat) : Option (Fly × RemoteOp) :=
  match s.fab.fly.find? (·.id == n) with
  | some f => match f.what with | .remote r => some (f, r) | _ => none
  | none => none

/-- The slot number of an operation. -/
def State.slotOf (s : State) (n : Nat) : Option Nat := (s.remoteAt n).map fun (_, r) => rdHandle r.words / 256

/-- The task that posted an operation's buffer. -/
def State.posterOf (s : State) (r : RemoteOp) : Nat := (tblGet s.fab.posts (rdHandle r.words / 256) {}).task

/-- Something kept came to a buffer of the operation's task before chunk `k` of it: it lands first. -/
def State.behindKept (s : State) (n k : Nat) (r : RemoteOp) : Bool :=
  (s.fab.kept.takeWhile fun e => !(e.op == n && e.k == k)).any fun e =>
    match s.remoteAt e.op with
    | some (_, q) => s.posterOf q == s.posterOf r
    | none => false

/-- What is kept of chunk `k` of an operation. -/
def State.keptAt (s : State) (n k : Nat) : Option Kept := s.fab.kept.find? fun e => e.op == n && e.k == k

/-- What reaches a buffer is kept while its task is switched out or something that came earlier is (R404). -/
def State.mustKeep (s : State) (n k : Nat) (r : RemoteOp) : Bool := s.postedAway r || s.behindKept n k r

/-- An arrival enters the early-arrival store; one from another device that finds no room there waits on its channel, and one of
this device waits at its source (R91, R404). -/
def State.keep (s : State) (n k : Nat) (r : RemoteOp) (bs : List Byte) : State :=
  if (s.keptAt n k).isSome then s
  else if s.roomFor bs.length then { s with fab := { s.fab with kept := s.fab.kept ++ [⟨n, k, bs⟩] } }
  else if r.foreign.isSome then s.stick (dataChannel r.kind.val) bs.length
  else s

/-- A chunk that has reached its buffer lands, or is kept. -/
def State.takeChunk (s : State) (f : Fly) (r : RemoteOp) (k : Nat) (bs : List Byte) : State :=
  if s.mustKeep f.id k r then s.keep f.id k r bs else (s.dropKept f.id (· == k)).landChunk f r k bs

/-- A chunk of a transfer of this device's: read, then sent to the peer or landed here. A fault of its source stops the transfer:
the peer is told by a chunk without bytes, and answers (R396). -/
def State.moveChunk (s : State) (f : Fly) (r : RemoteOp) (k : Nat) : State :=
  match s.readChunk f r k with
  | .wait s => s
  | .fault s =>
    if r.sent then (s.putRemote f.id { r with landed := List.range r.chunkCount }).post r.dev 0
      (.remoteChunk r.dev.toNat f.id k [])
    else s.cutShort f.id r
  | .bytes s bs =>
    if r.sent then (s.putRemote f.id { r with landed := r.landed ++ [k], bytes := r.bytes + bs.length }).post r.dev 0
      (.remoteChunk r.dev.toNat f.id k bs)
    else s.takeChunk f r k bs

/-- RST_CHUNK_LAND (R95, R396): chunk `k` of transfer `n`; `data` are the bytes of another device's, none where its
source faulted and the transfer stopped. `landed` of a transfer to another device counts the chunks sent. A chunk whose channel
is held waits (R91); of a transfer cut short only what the early-arrival store keeps still lands. -/
def execRstChunkLand (n k : Nat) (data : List Byte) (s : State) : Res :=
  match s.remoteAt n with
  | none => .next s
  | some (f, r) =>
    if r.kind != 0 || !r.checked || r.status.isSome || r.landed.contains k || r.chunkCount ≤ k then .next s
    else
      match s.keptAt n k with
      | some e => .next (if s.mustKeep n k r then s else s.takeChunk f r k e.data)
      | none =>
        if r.cut then .next s
        else if r.foreign.isNone then .next (s.moveChunk f r k)
        else if s.vcHeld 0 then .next s
        else if data.isEmpty then .next (s.cutShort n r)
        else if data.length == r.chunkLen k then .next (s.takeChunk f r k data)
        else .next s

/-- The word of a posted buffer that an operation names: its slot, its task and its address; none once the handle is stale. -/
def State.postedWord (s : State) (r : RemoteOp) : Option (PostSlot × Task × Word) :=
  match s.postedSlot r, s.postedTask r with
  | some q, some t => some (q, t, q.addr + r.words.getD 2 0)
  | _, _ => none

/-- An 8-byte word of a posted buffer changed as a store of the posting core, checked before anything is read (R111): its old
value, or the state that a fault leaves. -/
def State.changePosted (s : State) (r : RemoteOp) (f : Nat → Nat) : Except State (Nat × State) :=
  match s.postedWord r with
  | none => .error s
  | some (q, t, a) =>
    match s.globalBytes q.asid a 8 with
    | .error (_, s) => .error s
    | .ok (bs, s) =>
      match s.checkedWrite (some (t.id, q.core)) q.asid a (leBytes 8 (f (leNat bs) % 2 ^ 64)) with
      | .error (_, s) => .error s
      | .ok s => .ok (leNat bs, s.touchAt (homesOf a))

/-- RFAA_PERFORM (R96, R397). -/
def execRfaaPerform (n : Nat) (s : State) : Res :=
  match s.remoteAt n with
  | none => .next s
  | some (_, r) =>
    if r.kind != 2 || !r.checked || r.status.isSome then .next s
    else if s.mustKeep n 0 r then .next (s.keep n 0 r (leBytes 8 (r.words.getD 1 0).toNat))
    else if (s.postedSlot r).isNone then .next (s.endRemote n r 7 0)
    else
      match s.changePosted r (· + (r.words.getD 1 0).toNat) with
      | .ok (old, s) => .next (s.endRemote n r 0 old)
      | .error s => .next (s.endRemote n r 4 0)

/-- An earlier `RST` of the same core to this device has chunks that have not landed (R97, R398). -/
def State.behindRst (s : State) (f : Fly) (r : RemoteOp) : Bool :=
  s.fab.fly.any fun g => g.id < f.id &&
    (match g.what with
     | .remote q => q.kind == 0 && q.status.isNone && q.dev == r.dev &&
        (match q.foreign, r.foreign with
         | some (a, _, b), some (c, _, d) => a == c && b == d
         | none, none => g.core == f.core
         | _, _ => false)
     | _ => false)

/-- RFENCE_FLAG_LAND (R97, R398). -/
def execRfenceFlagLand (n : Nat) (s : State) : Res :=
  match s.remoteAt n with
  | none => .next s
  | some (f, r) =>
    if r.kind != 1 || !r.checked || r.status.isSome || s.behindRst f r then .next s
    else if s.mustKeep n 0 r then .next (s.keep n 0 r (leBytes 8 (r.words.getD 1 0).toNat))
    else if (s.postedSlot r).isNone then .next (s.endRemote n r 7 0)
    else
      match s.changePosted r fun _ => (r.words.getD 1 0).toNat with
      | .ok (_, s) => .next (s.endRemote n r 0 8)
      | .error s => .next (s.endRemote n r 4 0)

/-- The completion word of an operation fills the named message register (R94, R395). It is held while its task is switched out
and discarded once the task has gone or its crew stopped under `SCHEND` (R404). -/
def State.deliverWord (s : State) (f : Fly) (r : RemoteOp) : State :=
  if s.wordLost f r then s.landed f.id
  else if !s.sched.tasks.any (·.id == r.task) then s
  else
    match s.deliverMsg f.core (s.wordMsg f r) with
    | some s => s.landed f.id
    | none => s

/-- REMOTE_COMPLETION_ARRIVE (R94, R395): the answer of another device comes, with its status and result in `word`, unless
virtual channel 1 is held (R91); the completion word is delivered. -/
def execRemoteCompletionArrive (n : Nat) (word : Word) (s : State) : Res :=
  match s.remoteAt n with
  | none => .next s
  | some (f, r) =>
    if r.foreign.isSome then .next s
    else
      match r.status with
      | some _ => .next (s.deliverWord f r)
      | none =>
        if !r.sent || s.vcHeld 1 then .next s
        else
          let r := { r with status := some ((word >>> 56).setWidth 8), result := word &&& 0xFFFFFFFFFFFFFF }
          .next ((s.putRemote n r).deliverWord f r)

/-- The operations that are with a peer to which no Up port leads any more end with status 1 (R89, R395); how many of the bytes
sent have been delivered, this device cannot know. -/
def State.failRemotes (s : State) (peer : BitVec 16) : State :=
  if (s.routeTo peer).isSome then s
  else s.fab.fly.foldl (fun s f =>
    match f.what with
    | .remote r =>
      if r.foreign.isNone && r.sent && r.status.isNone && r.dev == peer then
        let n := if r.kind == 0 then (Config.freeWord s.fresh).toNat % (r.bytes + 1) else 0
        { s.endRemote f.id r 1 n with fresh := s.fresh + 1 }
      else s
    | _ => s) s

end Sys2Proof.Machine
end

