-- ==== Sys2Proof/Machine/Collective.lean ====
section
/-!
DEFINITION. Communicators and collectives (R81 to R92), and `ST64S` (R82, R300).
-/
namespace Sys2Proof.Machine
open Sys2Proof

/-! ## Fields (R81, R83) -/

/-- Fields of `COMMCTL`. -/
def Comm.enabled (m : Comm) : Bool := m.ctl.getLsbD 0
def Comm.size (m : Comm) : Nat := fieldOf m.ctl.toNat 60 48
def Comm.rank (m : Comm) : Nat := fieldOf m.ctl.toNat 43 32
def Comm.masid (m : Comm) : BitVec 16 := BitVec.ofNat 16 (fieldOf m.ctl.toNat 31 16)
def Comm.tenant (m : Comm) : Nat := fieldOf m.ctl.toNat 13 8
def Comm.engine (m : Comm) : Nat := fieldOf m.ctl.toNat 1 1

/-- The bits of `COMMCTL` that a write sets. -/
def commMask : Word := 0x1FFF0FFFFFFF3F03

/-- Fields of a request. -/
def clDet (ws : List Word) : Bool := (ws.getD 0 0).getLsbD 19
def clAlgo (ws : List Word) : Nat := recField ws 0 18 16
def clType (ws : List Word) : Nat := recField ws 0 15 12
def clOp (ws : List Word) : Nat := recField ws 0 11 8
def clKind (ws : List Word) : Nat := recField ws 0 3 0
def clSrc (ws : List Word) : Word := ws.getD 1 0
def clDst (ws : List Word) : Word := ws.getD 2 0
def clRoot (ws : List Word) : Nat := recField ws 3 63 52
def clCount (ws : List Word) : Nat := recField ws 3 39 0
def clAux (ws : List Word) : Word := ws.getD 4 0
def clTag (ws : List Word) : Nat := recField ws 5 63 32
def clNotify (ws : List Word) : Bool := (ws.getD 5 0).getLsbD 31
def clCore (ws : List Word) : Nat := recField ws 5 11 0

/-- A request merges attention rows. -/
def clMerge (ws : List Word) : Bool := clKind ws == 7 || clKind ws == 8
/-- Lanes of a row. -/
def clWidth (ws : List Word) : Nat := 16 * 2 ^ recField ws 4 2 0
/-- Bytes of an element or row (R83, R84). -/
def clUnit (ws : List Word) : Nat :=
  if clMerge ws then 4 * (clWidth ws + 2)
  else match clType ws with | 7 | 8 => 8 | 9 | 10 => 2 | _ => 4
/-- Bytes of a chunk: whole rows where rows are merged. -/
def clChunk (ws : List Word) : Nat :=
  let c := recField ws 3 47 40
  let n := 2 ^ (if c == 0 then 16 else c)
  n / clUnit ws * clUnit ws

/-- A request that R83 or R85 calls malformed; `crews` of the submitting task, `record` for a kind-2 record. -/
def State.collMalformed (s : State) (ws : List Word) (crews : Nat) (isRecord : Bool) : Bool :=
  let k := clKind ws
  let c := recField ws 3 47 40
  let m := tblGet s.fab.comms (clComm ws) {}
  decide (8 < k) || recField ws 0 7 4 != 0 || decide (2 < clOp ws) || decide (clType ws < 5 ∨ 11 < clType ws) ||
  decide (4 < clAlgo ws) || (clMerge ws && (clType ws != 11 || clOp ws != 0)) || recField ws 3 51 48 != 0 ||
  !(c == 0 || decide (12 ≤ c ∧ c ≤ 20)) || (k == 6 && clCount ws != 0) ||
  (if k == 6 then !canonical (clAux ws) else if clMerge ws then decide (4 < (clAux ws).toNat) else clAux ws != 0) ||
  recField ws 5 30 12 != 0 || ws.getD 6 0 != 0 || ws.getD 7 0 != 0 || !canonical (clSrc ws) || !canonical (clDst ws) ||
  decide (m.size ≤ clRoot ws) || (clNotify ws && (isRecord || decide (crews ≤ clCore ws))) ||
  s.fab.colls.any fun q => clComm q.words == clComm ws && clSeq q.words == clSeq ws

/-- The code of R82. -/
def State.collCode (s : State) (engine : Nat) (ws : List Word) (tenant crews : Nat) (isRecord : Bool) : Nat :=
  let m := tblGet s.fab.comms (clComm ws) {}
  if s.boot.maintenance then 5
  else if s.collMalformed ws crews isRecord then 2
  else if !m.enabled || m.tenant != tenant || m.engine != engine then 3
  else if 64 ≤ (s.fab.colls.filter fun q => q.engine.val == engine).length then 1
  else 0

/-- A request enters its engine's queue, or is refused with a code. -/
def State.submitColl (s : State) (engine : Fin 2) (ws : List Word) (asid : BitVec 16) (tenant crews : Nat)
    (task rcd : Option Nat) : Nat × State :=
  let code := s.collCode engine ws tenant crews rcd.isSome
  if code != 0 then (code, s)
  else (0, { s with fab := { s.fab with colls := s.fab.colls ++
    [{ engine := engine, words := ws, asid := asid, tenant := tenant, task := task, rcd := rcd, since := s.cycle }] } })

/-- `det` 1 in the request of a pipeline task (R63). -/
def forceDet (pipeline : Bool) (ws : List Word) : List Word :=
  if pipeline then ws.mapIdx fun i w => if i == 0 then w ||| 0x80000 else w else ws

/-- The thread presents a record to a launch port and waits for its answer (R41). -/
def holdAsked (k : Ctx) (p : Nat) (bs : List Byte) : M Flow := fun _ =>
  .error (.holdIn fun s => (s.present p (.thread k.core k.ts k.addr) true bs).modThread k.core k.ts fun t =>
    { t with asked := t.asked ++ [(k.addr, none)] })

/-- ST64S (R300, R41, R82): it waits for the thread's stores (R42), then until the submission is decided; issued again after a
trap it waits for the same decision. -/
def execSt64s (x : Pre) (a b c : SReg) (s : State) : Res :=
  issue x (fun k => do
    let p ← readS k b
    let ea ← readS k c
    let t ← getThr k
    match t.askedAt k.addr with
    | some (some code) => do
      writeS k a code
      goOn
    | some none => hold
    | none => do
      let bs ← localBlock k ea 64 64 0x02 0x60 true
      let s ← getState
      if 257 < p.toNat then do
        writeS k a 4
        goOn
      else do
        holdUnless (s.storesDone k)
        if p.toNat < 256 then holdAsked k p.toNat bs
        else
          match s.taskOf k.core with
          | none => do
            writeS k a 3
            goOn
          | some q => do
            let e : Fin 2 := if p = 256 then 0 else 1
            let (code, s') := s.submitColl e (forceDet (q.kind == 1) (wordsOf64 8 bs)) q.asid q.tenant q.crews (some q.id) none
            modState fun _ => s'
            writeS k a (BitVec.ofNat 64 code)
            goOn) s

/-! ## Plans (R87, R88) -/

/-- A unit of a result: where it lies in the result, and its bytes. -/
structure CUnit where
  off : Nat
  len : Nat
  deriving DecidableEq, Repr

/-- Units of `n` bytes from an offset. -/
def unitsOf (chunk base n : Nat) : List CUnit :=
  (List.range ((n + chunk - 1) / chunk)).map fun i => ⟨base + i * chunk, min chunk (n - i * chunk)⟩

/-- The kind moves units along the trees of a plan: broadcasts and reductions. -/
def clTree (k : Nat) : Bool := decide (k < 4) || k == 7 || k == 8

/-- Units of a tree kind's whole result; a reduce-scatter's by owner. -/
def treeUnits (ws : List Word) (n : Nat) : List CUnit :=
  let b := clCount ws * clUnit ws
  if clKind ws == 3 then (List.range n).flatMap fun q => unitsOf (clChunk ws) (q * b) b else unitsOf (clChunk ws) 0 b

/-- Ranks that write a unit of a tree kind's result. -/
def wanters (ws : List Word) (n : Nat) (u : CUnit) : List Nat :=
  match clKind ws with
  | 1 | 7 => [clRoot ws]
  | 3 => [u.off / max 1 (clCount ws * clUnit ws)]
  | _ => List.range n

/-- The stage numbers of chunks (assumption log 29): a result, numbers combined on their way up, plain data, and the word that a
rank is done. -/
def stageResult : Nat := 63
def stagePart : Nat := 62
def stageData : Nat := 61
def stageDone : Nat := 60

/-- An entry of a count table (R86): send offset and count, receive offset and count. -/
def countEntry (tbl : List Byte) (j : Nat) : Nat × Nat × Nat × Nat :=
  let f (i : Nat) := leNat ((tbl.drop (16 * j + 4 * i)).take 4)
  (f 0, f 1, f 2, f 3)

/-- What a rank receives without reduction: sender and the units by their offset in `dst`. -/
def gatherUnits (ws : List Word) (n : Nat) (tbl : List Byte) : List (Nat × CUnit) :=
  let b := clCount ws * clUnit ws
  match clKind ws with
  | 4 | 5 => (List.range n).flatMap fun j => (unitsOf (clChunk ws) (j * b) b).map fun u => (j, u)
  | 6 => (List.range n).flatMap fun j =>
      let (_, _, ro, rc) := countEntry tbl j
      (unitsOf (clChunk ws) (ro * clUnit ws) (rc * clUnit ws)).map fun u => (j, u)
  | _ => []

/-- What a rank sends without reduction: receiver, offset in `src`, and the receiver's offset; `tables` are all count tables. -/
def gatherSends (ws : List Word) (n r : Nat) (tables : List (List Byte)) : List (Nat × Nat × CUnit) :=
  let b := clCount ws * clUnit ws
  match clKind ws with
  | 4 => (List.range n).flatMap fun d => (unitsOf (clChunk ws) (r * b) b).map fun u => (d, u.off - r * b, u)
  | 5 => (List.range n).flatMap fun d => (unitsOf (clChunk ws) (r * b) b).map fun u => (d, d * b + (u.off - r * b), u)
  | 6 => (List.range n).flatMap fun d =>
      let (so, sc, _, _) := countEntry (tables.getD r []) d
      let (_, _, ro, _) := countEntry (tables.getD d []) r
      let base := ro * clUnit ws
      (unitsOf (clChunk ws) base (sc * clUnit ws)).map fun u => (d, so * clUnit ws + (u.off - base), u)
  | _ => []

/-- The bytes per rank of R87. -/
def clBytes (ws : List Word) : Nat := clCount ws * clUnit ws

/-- A power of two. -/
def isPow2 (n : Nat) : Bool := n != 0 && n == 2 ^ n.log2

/-- The algorithm of a request (R87, R88): 1 ring, 2 binomial tree, 3 recursive halving-doubling, 4 direct, 5 the fixed plan of
`det`. Halving-doubling among ranks that are no power of two is direct (assumption log 29). -/
def planAlgo (ws : List Word) (n : Nat) : Nat :=
  let k := clKind ws
  if !clTree k then 4
  else if clDet ws then 5
  else if clAlgo ws == 3 && !isPow2 n then 4
  else if clAlgo ws != 0 then clAlgo ws
  else if n ≤ 2 then 4
  else if clBytes ws < 262144 || k == 0 || k == 1 || k == 7 then 2
  else if isPow2 n then 3
  else 1

/-- The rank at which a unit's combination ends and from which its result goes out: the only one that wants it; rank 0; and
where every rank wants it under a ring or halving-doubling the rank whose share of the buffer it begins in. -/
def planRoot (ws : List Word) (n : Nat) (u : CUnit) : Nat :=
  let a := planAlgo ws n
  match clKind ws with
  | 0 => clRoot ws
  | 1 | 7 => if a == 5 then 0 else clRoot ws
  | 3 => if a == 5 then 0 else u.off / max 1 (clBytes ws)
  | _ => if a == 1 || a == 3 then u.off * n / max 1 (clBytes ws) % n else 0

/-- Ranks of the binomial tree from which a rank takes numbers, in the order of its steps (R88), the tree turned to `root`. -/
def treeKids (n root r : Nat) : List Nat :=
  let v := (r + n - root) % n
  (List.range 12).filterMap fun j => if v % 2 ^ (j + 1) == 0 && v + 2 ^ j < n then some ((v + 2 ^ j + root) % n) else none

/-- The rank of the binomial tree to which a rank other than the root passes its numbers. -/
def treeUp (n root r : Nat) : Nat :=
  let v := (r + n - root) % n
  match (List.range 12).find? fun j => v % 2 ^ (j + 1) != 0 with
  | some j => (v - 2 ^ j + root) % n
  | none => root

/-- A rank takes numbers from these (R87): in a ring from the one before it, but at the ring's start; under halving-doubling
from those whose distance to the root differs in one higher bit. -/
def planKids (a n root r : Nat) : List Nat :=
  match a with
  | 1 => if r == (root + 1) % n then [] else [(r + n - 1) % n]
  | 3 => let d := r ^^^ root
    (List.range 12).filterMap fun j => if d < 2 ^ j && d + 2 ^ j < n then some ((d + 2 ^ j) ^^^ root) else none
  | _ => treeKids n root r

/-- A rank other than the root passes its numbers to this one. -/
def planUp (a n root r : Nat) : Nat :=
  match a with
  | 1 => (r + 1) % n
  | 3 => let d := r ^^^ root
    (d - 2 ^ d.log2) ^^^ root
  | _ => treeUp n root r

/-- A result comes to a rank from this one: along the ring or the tree, or straight from the root. -/
def planFrom (a n root r : Nat) : Nat :=
  if r == root then root
  else match a with
    | 1 => (r + n - 1) % n
    | 2 | 3 => planUp a n root r
    | _ => root

/-- A rank sends a result on to these. -/
def planDown (a n root r : Nat) (want : List Nat) : List Nat :=
  want.filter fun d => d != r && planFrom a n root d == r

/-- Ranks with which a rank exchanges data under its plan (R87 to R89); those with no counts in the table of a kind 6 exchange
none. -/
def planPeers (ws : List Word) (n r : Nat) (tbl : List Byte) : List Nat :=
  let all := (List.range n).filter (· != r)
  let k := clKind ws
  let a := planAlgo ws n
  if k == 6 then all.filter fun j => tbl.isEmpty || (let (_, sc, _, rc) := countEntry tbl j; sc != 0 || rc != 0)
  else if !clTree k then all
  else ((treeUnits ws n).flatMap fun u =>
    let root := planRoot ws n u
    let want := wanters ws n u
    let down := planDown a n root r want ++ (if want.contains r then [planFrom a n root r] else [])
    let up := if k == 0 then []
      else if a == 4 then (if want.contains r then all else want)
      else planKids a n root r ++ (if r == root then [] else [planUp a n root r])
    if a == 4 && k != 0 then up else down ++ up).eraseDups.filter (· != r)

/-! ## Arithmetic (R84) -/

/-- One combination of two elements. -/
def combineElem (ws : List Word) (a b : Nat) : Nat :=
  let ty := clType ws
  let w := 8 * clUnit ws
  if 9 ≤ ty then
    let f := match ty with | 9 => fmtBf16 | 10 => fmtF16 | _ => fmtF32
    match clOp ws with
    | 0 => ((fArith f false {} .add a b 0).get).1
    | o => (minMaxF f false (o == 2) a b).1
  else
    let sg := ty == 5 || ty == 7
    match clOp ws with
    | 0 => (a + b) % 2 ^ w
    | 1 => if intVal w sg b < intVal w sg a then b else a
    | _ => if intVal w sg a < intVal w sg b then b else a

/-- Numbers of `u` bytes. -/
def numbersOf (u : Nat) (bs : List Byte) : List Nat := (List.range (bs.length / u)).map fun i => leNat ((bs.drop (u * i)).take u)

/-- Two pieces of a result combined, the first from the lower source. -/
def combineBytes (ws : List Word) (a b : List Byte) : List Byte :=
  let u := clUnit ws
  if clMerge ws then
    (List.range (a.length / u)).flatMap fun i =>
      let row (bs : List Byte) := numbersOf 4 ((bs.drop (u * i)).take u)
      ((mergeRows (row a) (row b)).1).flatMap fun n => leBytes 4 n
  else ((numbersOf u a).zip (numbersOf u b)).flatMap fun (x, y) => leBytes u (combineElem ws x y)

/-- Two pieces combined, each with the rank that sent it: the lower rank's stands left (R84, R88). -/
def combineTwo (ws : List Word) (p q : Nat × List Byte) : Nat × List Byte :=
  if p.1 ≤ q.1 then (p.1, combineBytes ws p.2 q.2) else (q.1, combineBytes ws q.2 p.2)

/-- A rank's own piece combined with those that have come, in the order of their coming; where its own stands among them the plan
leaves open (R87, assumption log 29). -/
def combineAny (ws : List Word) (place : Nat) (own : Nat × List Byte) (came : List (Nat × List Byte)) : List Byte :=
  let i := place % (came.length + 1)
  match came.take i ++ own :: came.drop i with
  | [] => []
  | p :: l => (l.foldl (combineTwo ws) p).2

/-! ## Progress on this rank -/

/-- A request with the device: its words, the communicator and the state of its work. -/
abbrev Work := State × Coll

/-- A collective ends with a fault on this rank's buffer: its notice goes to every other rank (R90). -/
def collFault (m : Comm) (addr : Word) (w : Work) : Work :=
  let (s, q) := w
  if q.ending.isSome then w
  else
    let s := m.others.foldl (fun s r =>
      let dev := m.ranks.getD r 0
      s.post dev 1 (.notice dev.toNat (clComm q.words) (clSeq q.words) addr)) s
    (s, { q with ending := some (4, addr) })

/-- Bytes of `src`. -/
def collRead (m : Comm) (off n : Nat) (w : Work) : List Byte × Work :=
  let (s, q) := w
  match s.globalBytes q.asid (clSrc q.words + BitVec.ofNat 64 off) n with
  | .ok (bs, s) => (bs, s, q)
  | .error ((_, a), s) => ([], collFault m a (s, q))

/-- Bytes written into `dst`, as stores of core `core` of the task, or of no core (R111). -/
def collWrite (m : Comm) (off : Nat) (bs : List Byte) (w : Work) : Work :=
  let (s, q) := w
  let a := clDst q.words + BitVec.ofNat 64 off
  if q.ending.isSome then w
  else
    match s.checkedWrite (q.task.map fun t => (t, clCore q.words)) q.asid a bs with
    | .ok s => (s, { q with written := q.written + bs.length })
    | .error ((_, a), s) => collFault m a (s, q)

/-- A chunk kept on this rank, as if it had come from itself. -/
def Coll.keepOwn (q : Coll) (rank stage off : Nat) (bs : List Byte) : Coll := { q with got := q.got ++ [(rank, stage, off, bs)] }

/-- The virtual channel of a communicator's chunks; the word that a rank is done comes on 1 (R91, assumption log 29). -/
def chunkChannel (c stage : Nat) : Fin 8 := if stage == stageDone then 1 else ⟨(2 + c % 6) % 8, Nat.mod_lt _ (by decide)⟩

/-- A chunk sent to a rank on the communicator's channel (R91); one to the own rank is received at once. It waits for the port
that the match fixed under `det`, and for no other; else for one that leads there, and a link event re-plans it (R88, R89). -/
def collSend (m : Comm) (dst stage off : Nat) (bs : List Byte) (w : Work) : Work :=
  let (s, q) := w
  if q.ending.isSome then w
  else if dst == m.rank then (s, q.keepOwn dst stage off bs)
  else
    let dev := m.ranks.getD dst 0
    let vc := chunkChannel (clComm q.words) stage
    let msg : OutMsg := .chunk dev.toNat (clComm q.words) (clSeq q.words) stage off bs
    match clDet q.words, q.routes.find? (·.1 == dev.toNat) with
    | true, some (_, p) => (s.queueOn p { vc := vc, flits := msg.flits, msg := msg }, q)
    | _, _ => (s.post dev vc msg (!clDet q.words), q)

/-- A chunk that has arrived. -/
def Coll.chunk (q : Coll) (rank stage off : Nat) : Option (List Byte) :=
  (q.got.find? fun (r, st, o, _) => r == rank && st == stage && o == off).map fun (_, _, _, bs) => bs

/-- The number under which a step of a unit is marked done: whether it is written, its sender, its offset. -/
def unitCode (written : Bool) (rank off : Nat) : Nat := (off * 4096 + rank) * 2 + boolNat written

/-- A unit's step is done. -/
def Coll.did (q : Coll) (code : Nat) : Bool := q.finished.contains code
/-- It is marked done. -/
def Coll.mark (q : Coll) (code : Nat) : Coll := { q with finished := q.finished ++ [code] }

/-- Where a unit of a tree kind's result goes in a receiver's `dst`. -/
def resultOff (ws : List Word) (u : CUnit) : Nat := if clKind ws == 3 then u.off % max 1 (clBytes ws) else u.off

/-- The pieces of a unit that have come from some ranks, in the order of their coming; none while one is missing. -/
def Coll.pieces (q : Coll) (from_ : List Nat) (off : Nat) : Option (List (Nat × List Byte)) :=
  let l := q.got.filterMap fun (r, st, o, bs) => if st == stagePart && o == off && from_.contains r then some (r, bs) else none
  if l.length == from_.length then some l else none

/-- This rank's piece combined with those of other ranks (R87, R88): under `det` in the order of the tree's steps. -/
def combineAt (m : Comm) (q : Coll) (kids : List Nat) (u : CUnit) : Option (List Byte) :=
  match q.chunk m.rank stagePart u.off, q.pieces kids u.off with
  | some own, some came =>
    if clDet q.words then
      some ((kids.filterMap fun c => q.chunk c stagePart u.off).foldl (combineBytes q.words) own)
    else
      let unit := ((clComm q.words * 4096 + m.rank) * 2 ^ 32 + (clSeq q.words).toNat) * 2 ^ 40 + u.off
      some (combineAny q.words (Config.planChoice unit) (m.rank, own) came)
  | _, _ => none

/-- A unit of a direct reduction at this rank (R87): its piece goes to every rank that wants the result, and one that wants it
combines them all. -/
def directUnit (m : Comm) (n : Nat) (u : CUnit) (w : Work) : Work :=
  let want := wanters w.2.words n u
  let sent := unitCode false 0 u.off
  let w :=
    if w.2.did sent then w
    else
      match w.2.chunk m.rank stagePart u.off with
      | none => w
      | some own =>
        let w := (want.filter (· != m.rank)).foldl (fun w d => collSend m d stagePart u.off own w) w
        (w.1, w.2.mark sent)
  let q := w.2
  if q.did (unitCode true 0 u.off) || !want.contains m.rank then w
  else
    match combineAt m q ((List.range n).filter (· != m.rank)) u with
    | none => w
    | some acc =>
      let w := collWrite m (resultOff q.words u) acc w
      (w.1, w.2.mark (unitCode true 0 u.off))

/-- A unit goes up its tree (R87, R88): once every piece for it has come, the combined one goes on, or at the root is the
result. -/
def unitUp (m : Comm) (n : Nat) (u : CUnit) (w : Work) : Work :=
  let q := w.2
  let a := planAlgo q.words n
  let root := planRoot q.words n u
  let code := unitCode false 0 u.off
  if q.did code then w
  else if clKind q.words == 0 then (w.1, q.mark code)
  else
    match combineAt m q (planKids a n root m.rank) u with
    | none => w
    | some acc =>
      let w := if m.rank == root then (w.1, q.keepOwn root stageResult u.off acc)
        else collSend m (planUp a n root m.rank) stagePart u.off acc w
      (w.1, w.2.mark code)

/-- A result comes down its tree: it is written where it is wanted and sent on. -/
def unitDown (m : Comm) (n : Nat) (u : CUnit) (w : Work) : Work :=
  let q := w.2
  let a := planAlgo q.words n
  let root := planRoot q.words n u
  let want := wanters q.words n u
  let code := unitCode true 0 u.off
  if q.did code || !(want.contains m.rank || m.rank == root) then w
  else
    match q.chunk (planFrom a n root m.rank) stageResult u.off with
    | none => w
    | some bs =>
      let w := if want.contains m.rank then collWrite m (resultOff q.words u) bs w else w
      let w := (planDown a n root m.rank want).foldl (fun w d => collSend m d stageResult u.off bs w) w
      (w.1, w.2.mark code)

/-- A unit of a tree kind at this rank. -/
def treeUnit (m : Comm) (n : Nat) (u : CUnit) (w : Work) : Work :=
  if planAlgo w.2.words n == 4 && clKind w.2.words != 0 then directUnit m n u w else unitDown m n u (unitUp m n u w)

/-- A unit that is not reduced, written once it has come. -/
def dataUnit (m : Comm) (from_ : Nat) (u : CUnit) (w : Work) : Work :=
  let q := w.2
  let code := unitCode true from_ u.off
  if q.did code then w
  else
    match q.chunk from_ stageData u.off with
    | some bs =>
      let w := collWrite m u.off bs w
      (w.1, w.2.mark code)
    | none => w

/-- The own count table of kind 6. -/
def collTable (m : Comm) (w : Work) : List Byte × Work :=
  let (s, q) := w
  if clKind q.words != 6 then ([], w)
  else
    match s.globalBytes q.asid (clAux q.words) (16 * m.size) with
    | .ok (bs, s) => (bs, s, q)
    | .error ((_, a), s) => ([], collFault m a (s, q))

/-- Everything this rank has to write and send is done. -/
def collDone (m : Comm) (q : Coll) : Bool :=
  let n := m.size
  let ws := q.words
  if clTree (clKind ws) then
    (treeUnits ws n).all fun u => q.did (unitCode false 0 u.off) &&
      (q.did (unitCode true 0 u.off) || !((wanters ws n u).contains m.rank ||
        (m.rank == planRoot ws n u && (planAlgo ws n != 4 || clKind ws == 0))))
  else (gatherUnits ws n q.table).all fun (j, u) => q.bad.contains j || q.did (unitCode true j u.off)

/-- A rank that is done tells the others, once (R90): a fault of any rank ends the collective on every rank, so each waits for
all (assumption log 92). -/
def collTell (m : Comm) (w : Work) : Work :=
  let (s, q) := w
  if q.told || q.ending.isSome || !collDone m q then w
  else
    (m.others.foldl (fun s r =>
      let dev := m.ranks.getD r 0
      s.post dev 1 (.chunk dev.toNat (clComm q.words) (clSeq q.words) stageDone 0 [])) s, { q with told := true })

/-- The collective goes as far as the chunks that have come allow. -/
def collAdvance (m : Comm) (w : Work) : Work :=
  let n := m.size
  let ws := w.2.words
  if w.2.ending.isSome then w
  else
    collTell m
      (if clTree (clKind ws) then (treeUnits ws n).foldl (fun w u => treeUnit m n u w) w
       else (gatherUnits ws n w.2.table).foldl (fun w (j, u) => if w.2.bad.contains j then w else dataUnit m j u w) w)

/-- What a rank brings at the match: its pieces of a tree kind, read from `src`, and its sends of another. -/
def collStart (m : Comm) (tables : List (List Byte)) (w : Work) : Work :=
  let ws := w.2.words
  let n := m.size
  if clKind ws == 0 && m.rank != clRoot ws then w
  else if clTree (clKind ws) then
    (treeUnits ws n).foldl (fun w u =>
      let (bs, w) := collRead m u.off u.len w
      (w.1, w.2.keepOwn m.rank (if clKind ws == 0 then stageResult else stagePart) u.off bs)) w
  else
    (gatherSends ws n m.rank tables).foldl (fun w (d, so, u) =>
      if w.2.bad.contains d then w
      else
        let (bs, w) := collRead m so u.len w
        collSend m d stageData u.off bs w) w

/-! ## The engines (R85, R89 to R92) -/

/-- Every request changed. -/
def State.modColls (s : State) (f : Coll → Coll) : State :=
  { s with fab := { s.fab with colls := s.fab.colls.map f } }

/-- A request replaced. -/
def State.putColl (s : State) (q : Coll) : State :=
  s.modColls fun p => if clComm p.words == clComm q.words && clSeq p.words == clSeq q.words then q else p

/-- A request removed. -/
def State.dropColl (s : State) (q : Coll) : State :=
  let keep (p : Coll) : Bool := !(clComm p.words == clComm q.words && clSeq p.words == clSeq q.words)
  { s with fab := { s.fab with colls := s.fab.colls.filter keep } }

/-- Running priority of a request (R55). -/
def State.collPrio (s : State) (q : Coll) : Nat :=
  match q.task, q.rcd with
  | some t, _ | none, some t => match s.sched.recs.find? (·.id == t) with | some r => r.prio | none => 0
  | none, none => 0

/-- The queued request that an engine takes next (R55): one that has waited 1,024 cycles and is the oldest, else that of the
highest priority, then the oldest. -/
def State.nextColl (s : State) (e : Fin 2) : Option Coll :=
  let l := s.fab.colls.filter fun q => q.engine == e && q.phase == .queued && q.ending.isNone && s.collRuns q
  match l with
  | [] => none
  | q :: r =>
    if q.since + 1024 ≤ s.cycle then some q
    else some (r.foldl (fun p q => if s.collPrio p < s.collPrio q then q else p) q)

/-- Devices with which a request exchanges data. -/
def State.collDevices (s : State) (q : Coll) : List (BitVec 16) :=
  let m := tblGet s.fab.comms (clComm q.words) {}
  (planPeers q.words m.size m.rank (collTable m (s, q)).1).map fun r => m.ranks.getD r 0

/-- COLLECTIVE_REQUEST_TAKE (R89): every device of the plan must be reached. -/
def execCollectiveRequestTake (e : Fin 2) (s : State) : Res :=
  match s.nextColl e with
  | none => .next s
  | some q =>
    let far := (s.collDevices q).any fun dev => (portWhere s.ports fun l => l.peer == dev && l.inService).isNone
    .next (s.putColl (if far then { q with ending := some (9, 0) } else { q with phase := .taken }))

/-- What rank 0's engine compares (R85). -/
def sameRequest (a b : List Word) : Bool :=
  clKind a == clKind b && clType a == clType b && clOp a == clOp b && clDet a == clDet b && clRoot a == clRoot b &&
  clCount a == clCount b && recField a 3 47 40 == recField b 3 47 40 && (!clMerge a || recField a 4 2 0 == recField b 4 2 0)

/-- Every other rank's count table has come: one that its rank cannot read never does, and that rank's fault notice
comes instead (R85, R90). -/
def tablesHere (m : Comm) (ws : List Word) (tables : List (List Byte)) : Bool :=
  clKind ws != 6 || m.others.all fun j => (tables.getD j []).length == 16 * m.size

/-- The core of a request's task that logs its chunks (R246). -/
def State.collCore (s : State) (q : Coll) : Option Nat :=
  match q.task with
  | some t => (s.sched.tasks.find? (·.id == t)).map fun k => k.coreAt (clCore q.words)
  | none => none

/-- The number of a chunk of a request, as its log names it. -/
def chunkIndex (ws : List Word) (off : Nat) : Nat := off / max 1 (clChunk ws)

/-- A chunk that waits may be delivered: under REPLAY in its logged turn (R247). -/
def State.chunkTurn (s : State) (q : Coll) (rank off : Nat) : Bool :=
  match s.collCore q with | some k => s.replayTurn k 4 rank 0 (chunkIndex q.words off) | none => true

/-- A chunk delivered, which core `core` logs (R246). -/
def collDeliver (c : Nat × Nat × Nat × List Byte) (w : Work) : Work :=
  let (rank, stage, off, data) := c
  if stage == stageDone then (w.1, { w.2 with doneRanks := w.2.doneRanks ++ [rank] })
  else
    let s := match w.1.collCore w.2 with
      | some k => w.1.replayStep k 4 rank 0 (chunkIndex w.2.words off)
      | none => w.1
    (s, { w.2 with got := w.2.got ++ [(rank, stage, off, data)] })

/-- The chunks of the early-arrival store that may be delivered are, in the order of their arrival (R91). -/
def collDrain : Nat → Work → Work
  | 0, w => w
  | fuel + 1, (s, q) =>
    match q.early.find? fun (rank, stage, off, _) => stage == stageDone || s.chunkTurn q rank off with
    | none => (s, q)
    | some c => collDrain fuel (collDeliver c (s, { q with early := q.early.erase c }))

/-- A matched request takes what has come and goes on. -/
def State.collGo (s : State) (q : Coll) : State :=
  let m := tblGet s.fab.comms (clComm q.words) {}
  let (s, q) := collAdvance m (collDrain q.early.length (s, q))
  s.putColl q

/-- COLLECTIVE_MATCH (R85): every rank has submitted; `peers` are their requests and `tables` their kind-6 count
tables, by rank. -/
def execCollectiveMatch (c : Fin 4096) (seq : BitVec 32) (peers : List VWord) (tables : List (List Byte)) (s : State) : Res :=
  match s.coll c seq with
  | none => .next s
  | some q =>
    let m := tblGet s.fab.comms c.val {}
    let rows := peers.map fun p => (List.range 8).map fun i => BitVec.ofNat 64 (laneOf p i 64)
    let early := s.fab.colls.any fun p => clComm p.words == c.val && decide ((clSeq p.words).toNat < seq.toNat)
    if q.phase != .taken || q.ending.isSome || early || !s.collRuns q || rows.length != m.size ||
        rows[m.rank]? != some q.words then .next s
    else if !rows.all (sameRequest q.words) then .next (s.putColl { q with ending := some (3, 0) })
    else
      let (tbl, w) := collTable m (s, q)
      if w.2.ending.isNone && !tablesHere m q.words tables then .next s
      else
        let all := (List.range m.size).map fun j => if j == m.rank then tbl else tables.getD j []
        let bad := if clKind q.words != 6 then [] else (List.range m.size).filter fun j =>
          let (_, sc, _, rc) := countEntry tbl j
          let (_, psc, _, prc) := countEntry (all.getD j []) m.rank
          sc != prc || psc != rc
        let routes := (s.collDevices q).filterMap fun dev => (s.wayTo dev).map fun p => (dev.toNat, p)
        let (s, q) := collStart m all (w.1, { w.2 with phase := .matched, bad := bad, routes := routes, table := tbl })
        .next (s.collGo q)

/-- COLLECTIVE_CHUNK_ARRIVE (R91): delivered behind those that came before it; or kept in the early-arrival store until the
collective is matched and its task runs, and held on its channel while the store has no room for it, with all that comes behind
it there. A chunk that is kept there is delivered once it may be. One for which no request is pending stays on its channel. -/
def execCollectiveChunkArrive (c : Fin 4096) (seq : BitVec 32) (rank stage off : Nat) (data : List Byte) (s : State) : Res :=
  match s.coll c seq with
  | none => .next s
  | some q =>
    let kept := q.early.any fun (r, st, o, _) => r == rank && st == stage && o == off
    let q' := if kept then q else { q with early := q.early ++ [(rank, stage, off, data)] }
    let goes := q.phase == .matched && s.collRuns q
    if q.ending.isSome || (!kept && s.vcHeld (chunkChannel c.val stage)) then .next s
    else if goes && (kept || s.roomFor data.length || stage == stageDone || s.chunkTurn q rank off) then .next (s.collGo q')
    else if goes || (!kept && !s.roomFor data.length) then .next (s.stick (chunkChannel c.val stage) data.length)
    else .next (s.putColl q')

/-- COLLECTIVE_FAULT_NOTICE (R90): this rank ends with status 4 at its next chunk boundary. The notice waits while virtual channel
1 is held (R91). -/
def execCollectiveFaultNotice (c : Fin 4096) (seq : BitVec 32) (addr : Word) (s : State) : Res :=
  match s.coll c seq with
  | some q => if q.ending.isNone && !s.vcHeld 1 then .next (s.putColl { q with ending := some (4, addr) }) else .next s
  | none => .next s

/-! ## Link degrade events (R23, R89) -/

/-- A request that has been taken depends on a port that has failed: under `det` on the one that the match fixed, else on one
to a device that no Up port reaches any more (R89). -/
def State.collCut (s : State) (n : LinkNote) (q : Coll) : Bool :=
  n.failed && q.phase != .queued && q.ending.isNone &&
    (if clDet q.words && q.phase == .matched then q.routes.any fun (_, p) => p == n.port
     else (s.collDevices q).contains n.peer && (s.routeTo n.peer).isNone)

/-- A link degrade event reaches the collective engines (R89): chunks not yet sent that no `det` binds take another port, and
what depends on a port that has failed ends with status 1. -/
def State.heedNote (s : State) (n : LinkNote) : State :=
  let s := if (s.port n.port).state == .up then s else s.replanPort n.port n.peer (·.moves)
  let s := s.modColls fun q => if s.collCut n q then { q with ending := some (1, BitVec.ofNat 64 q.written) } else q
  if n.failed then s.failRemotes n.peer else s

/-- The engines heed the events that have reached them. -/
def State.heedNotes (s : State) : State :=
  s.fab.notes.foldl State.heedNote { s with fab := { s.fab with notes := [] } }

/-! ## The end of a request (R90) -/

/-- Every other rank that can be reached is done. -/
def State.allDone (s : State) (m : Comm) (q : Coll) : Bool :=
  m.others.all fun r => q.doneRanks.contains r || (s.wayTo (m.ranks.getD r 0)).isNone

/-- How a request ends, when it does: the status and word 1 of its completion message (R90). -/
def State.collEnding (s : State) (q : Coll) : Option (BitVec 8 × Word) :=
  let m := tblGet s.fab.comms (clComm q.words) {}
  match q.ending with
  | some e => some e
  | none =>
    if q.phase == .matched && collDone m q && s.allDone m q then some (if q.bad.isEmpty then 0 else 3, BitVec.ofNat 64 q.written)
    else none

/-- The 16-byte completion message (R90). -/
def collMessage (ws : List Word) (st : BitVec 8) : Word := BitVec.ofNat 64 (clTag ws * 2 ^ 32 + st.toNat * 2 ^ 24 + clComm ws)

/-- A request ends on this device: its message is deposited, or its launch record completes (R44, R90). -/
def State.endColl (s : State) (q : Coll) (st : BitVec 8) (w1 : Word) (extra : BitVec 16) : State :=
  let s := s.dropColl q
  let w0 := collMessage q.words st
  let s := match q.task with
    | some t =>
      match s.sched.tasks.find? (·.id == t) with
      | some k => if clNotify q.words then s.launch foreignCore 0 (.deposit (k.coreAt (clCore q.words)) w0 w1 true) else s
      | none => s
    | none => s
  match q.rcd with
  | some id =>
    match s.sched.recs.find? (·.id == id) with
    | some r => s.complete r (leBytes 8 w0.toNat ++ leBytes 8 w1.toNat)
        { errors := extra ||| (if st == 0 then 0 else 0x80) } true
    | none => s
  | none => s

/-- COLLECTIVE_COMPLETE (R90): a request that has ended on this rank, with its task running. -/
def execCollectiveComplete (c : Fin 4096) (seq : BitVec 32) (s : State) : Res :=
  match s.coll c seq with
  | none => .next s
  | some q =>
    if !s.collRuns q then .next s
    else
      match s.collEnding q with
      | some (st, w1) => .next (s.endColl q st w1 (if st == 5 then 8 else 0))
      | none => .next s

/-- RIDGE_TOKEN_ARRIVE (R116, R118): a token of another rank, with its device's error bits and store digests; it waits while
virtual channel 1 is held (R91). -/
def execRidgeTokenArrive (c : Fin 4096) (rank : Nat) (errors : RidgeToken) (s : State) : Res :=
  let m := tblGet s.fab.comms c.val {}
  if m.ctl.getLsbD 0 && m.others.contains rank && !s.vcHeld 1 then
    .next (s.setComm c { m with tokens := tblSet m.tokens rank (tblGet m.tokens rank [] ++ [(errors.errors, errors.digest)]) })
  else .next s

/-! ## Communicators (R81) -/

/-- The rank map of a communicator, when it can be read and names this device at its rank, and the translations made. -/
def State.readMap (s : State) (m : Comm) : Option (List (BitVec 16)) × State :=
  if m.size == 0 || decide (4096 < m.size) || decide (m.size ≤ m.rank) then (none, s)
  else
    match s.globalBytes m.masid m.map (2 * m.size) with
    | .error (_, s) => (none, s)
    | .ok (bs, s) =>
      let l : List (BitVec 16) := (numbersOf 2 bs).map (BitVec.ofNat 16)
      (if l.getD m.rank 0 == s.boot.devnum then some l else none, s)

/-- COMM_ENABLE (R81): a write of `COMMCTL` with `enable` 1; while it is 1 no other field changes. -/
def execCommEnable (c : Fin 4096) (v : Word) (s : State) : Res :=
  let m := tblGet s.fab.comms c.val {}
  if m.enabled then .next s
  else
    let m := { m with ctl := v &&& commMask &&& ~~~(1 : Word) }
    match s.readMap m with
    | (some l, s) => .next (s.setComm c { m with ctl := m.ctl ||| 1, ranks := l, tokens := [], sent := false })
    | (none, s) => .next (s.setComm c m)

/-- COMM_DISABLE (R81): every pending request of the communicator ends with status 6. -/
def execCommDisable (c : Fin 4096) (s : State) : Res :=
  let m := tblGet s.fab.comms c.val {}
  let s := s.setComm c { m with ctl := m.ctl &&& ~~~(1 : Word) }
  .next (s.modColls fun q =>
    if clComm q.words == c.val && q.ending.isNone then { q with ending := some (6, BitVec.ofNat 64 q.written) } else q)

/-- A plain write of `COMMCTL`, by its offset and value (R81). -/
def State.commWrite (s : State) (c : Nat) (v : Word) : State :=
  let m := tblGet s.fab.comms c {}
  if m.enabled then s else s.setComm c { m with ctl := v &&& commMask &&& ~~~(1 : Word) }

/-- A write of `COMMMAP`. -/
def State.commMap (s : State) (c : Nat) (v : Word) : State :=
  let m := tblGet s.fab.comms c {}
  if m.enabled then s else s.setComm c { m with map := v }

end Sys2Proof.Machine
end

