-- ==== Sys2Proof/Machine/Control.lean ====
section
/-!
DEFINITION. Transfers of control, the hardware loop, `TRAP` and `ERET` (R278 to R283, R286, R287), and the scalar
loads and stores (R275 to R277).
-/
namespace Sys2Proof.Machine
open Sys2Proof

/-! ## Loads and stores -/

/-- A load of `n` bytes (R275). -/
def loadS (n : Nat) (signed : Bool) (x : Pre) (a b : SReg) (imm : Word) (s : State) : Res :=
  issue x (fun k => do
    let base ← readS k b
    let bs ← loadMem k x (memAddr base imm) n n
    writeS k a (extendBytes n signed (leNat bs))
    goOn) s

/-- A store of the low `n` bytes (R276). -/
def storeS (n : Nat) (x : Pre) (a b : SReg) (imm : Word) (s : State) : Res :=
  issue x (fun k => do
    let base ← readS k b
    let v ← readS k a
    storeMem k x (memAddr base imm) (leBytes n v.toNat) n
    goOn) s

/-- LDB (R275). -/
def execLdb (x : Pre) (a b : SReg) (imm : Word) (s : State) : Res := loadS 1 true x a b imm s
/-- LDBN (R275). -/
def execLdbn (x : Pre) (a b : SReg) (imm : Word) (s : State) : Res := loadS 1 false x a b imm s
/-- LDH (R275). -/
def execLdh (x : Pre) (a b : SReg) (imm : Word) (s : State) : Res := loadS 2 true x a b imm s
/-- LDHN (R275). -/
def execLdhn (x : Pre) (a b : SReg) (imm : Word) (s : State) : Res := loadS 2 false x a b imm s
/-- LDW (R275). -/
def execLdw (x : Pre) (a b : SReg) (imm : Word) (s : State) : Res := loadS 4 true x a b imm s
/-- LDWN (R275). -/
def execLdwn (x : Pre) (a b : SReg) (imm : Word) (s : State) : Res := loadS 4 false x a b imm s
/-- LDD (R275). -/
def execLdd (x : Pre) (a b : SReg) (imm : Word) (s : State) : Res := loadS 8 false x a b imm s
/-- STB (R276). -/
def execStb (x : Pre) (a b : SReg) (imm : Word) (s : State) : Res := storeS 1 x a b imm s
/-- STH (R276). -/
def execSth (x : Pre) (a b : SReg) (imm : Word) (s : State) : Res := storeS 2 x a b imm s
/-- STW (R276). -/
def execStw (x : Pre) (a b : SReg) (imm : Word) (s : State) : Res := storeS 4 x a b imm s
/-- STD (R276). -/
def execStd (x : Pre) (a b : SReg) (imm : Word) (s : State) : Res := storeS 8 x a b imm s

/-! ## Transfers -/

/-- The target that a transfer checks: the leader's in a gang's followers (R180). -/
def Ctx.target (k : Ctx) (t : BitVec 16) : BitVec 16 := k.lead.getD t

/-- A transfer; an odd target traps, naming the transferring instruction (R281). -/
def goTo (k : Ctx) (t : BitVec 16) : M Flow := do
  trapIf ((k.target t).toNat % 2 == 1) 0x08
  return .jump t

/-- A call: the link value is next (R279, R281). -/
def callTo (k : Ctx) (t : BitVec 16) : M Flow := do
  trapIf ((k.target t).toNat % 2 == 1) 0x08
  writeS k 31 (k.next.setWidth 64)
  return .call t

/-- A conditional branch on two registers (R278). -/
def branch (x : Pre) (a b : SReg) (imm : Word) (p : Word → Word → Bool) (s : State) : Res :=
  issue x (fun k => do
    let u ← readS k a
    let v ← readS k b
    if p u v then goTo k (relTarget k.addr imm) else goOn) s

/-- BEQ (R278). -/
def execBeq (x : Pre) (a b : SReg) (imm : Word) (s : State) : Res := branch x a b imm (· == ·) s
/-- BNE (R278). -/
def execBne (x : Pre) (a b : SReg) (imm : Word) (s : State) : Res := branch x a b imm (· != ·) s
/-- BLT (R278). -/
def execBlt (x : Pre) (a b : SReg) (imm : Word) (s : State) : Res := branch x a b imm (fun u v => u.slt v) s
/-- BGE (R278). -/
def execBge (x : Pre) (a b : SReg) (imm : Word) (s : State) : Res := branch x a b imm (fun u v => !u.slt v) s
/-- BLTN (R278). -/
def execBltn (x : Pre) (a b : SReg) (imm : Word) (s : State) : Res := branch x a b imm (fun u v => u.ult v) s
/-- BGEN (R278). -/
def execBgen (x : Pre) (a b : SReg) (imm : Word) (s : State) : Res := branch x a b imm (fun u v => !u.ult v) s
/-- BEQZ (R278). -/
def execBeqz (x : Pre) (a : SReg) (imm : Word) (s : State) : Res := branch x a 0 imm (fun u _ => u == 0) s
/-- BNEZ (R278). -/
def execBnez (x : Pre) (a : SReg) (imm : Word) (s : State) : Res := branch x a 0 imm (fun u _ => u != 0) s
/-- B (R279). -/
def execB (x : Pre) (imm : Word) (s : State) : Res := issue x (fun k => goTo k (relTarget k.addr imm)) s
/-- JMP (R279): the immediate is the address. -/
def execJmp (x : Pre) (imm : Word) (s : State) : Res := issue x (fun k => goTo k (imm.setWidth 16)) s
/-- CALL (R279). -/
def execCall (x : Pre) (imm : Word) (s : State) : Res := issue x (fun k => callTo k (relTarget k.addr imm)) s

/-- JR (R280). -/
def execJr (x : Pre) (a : SReg) (imm : Word) (s : State) : Res :=
  issue x (fun k => do
    let u ← readS k a
    goTo k (regTarget u imm)) s

/-- CALLR (R280). -/
def execCallr (x : Pre) (a : SReg) (imm : Word) (s : State) : Res :=
  issue x (fun k => do
    let u ← readS k a
    callTo k (regTarget u imm)) s

/-- The check of a target's segment by `JMPF` and `CALLF` (R280): of the leader's target in every member of a gang. -/
def checkTarget (k : Ctx) (t : BitVec 16) : M Unit := do
  let c ← getCore k
  let g : Fin 16 := ⟨(k.target t).toNat / 4096, by omega⟩
  holdUnless (c.segFetch[g] == 0)
  if c.segValid.getLsbD g.val then pure ()
  else
    match c.segFail[g] with
    | some (cause, info) => trap cause info
    | none => trap 0x05

/-- JMPF (R280). -/
def execJmpf (x : Pre) (a : SReg) (imm : Word) (s : State) : Res :=
  issue x (fun k => do
    let u ← readS k a
    checkTarget k (regTarget u imm)
    goTo k (regTarget u imm)) s

/-- CALLF (R280). -/
def execCallf (x : Pre) (a : SReg) (imm : Word) (s : State) : Res :=
  issue x (fun k => do
    let u ← readS k a
    checkTarget k (regTarget u imm)
    callTo k (regTarget u imm)) s

/-- LOOP (R282): a count of 0 goes on at the end; an end not above next is an illegal instruction. -/
def execLoop (x : Pre) (a : SReg) (imm : Word) (s : State) : Res :=
  issue x (fun k => do
    let n ← readS k a
    let stop := relTarget k.addr imm
    trapIf (stop.toNat ≤ k.next.toNat) 0x01
    if n = 0 then return .call stop
    else do
      modThr k fun t => { t with loop := some ⟨k.next, stop, n⟩ }
      goOn) s

/-- TRAP (R286): cause 0xE0 + n, with `EPC` naming next. -/
def execTrap (x : Pre) (imm : Word) (s : State) : Res :=
  issue x (fun _ => fun s => .error (.trapNext s (0xE0 + imm.setWidth 8) 0)) s

/-- ERET (R287, R230). -/
def execEret (x : Pre) (s : State) : Res :=
  issue x (fun k => do
    let t ← getThr k
    trapIf (!t.inh && !t.phand) 0x02
    modThr k Thread.eret
    return .call t.epc) s

end Sys2Proof.Machine
end

