-- ==== Sys2Proof/Machine/Loader.lean ====
section
/-!
DEFINITION. Program images: the checks and relocations of R46 to R48, and the words read for trace and replay (R240,
R246).
-/
namespace Sys2Proof.Machine
open Sys2Proof

/-- A refusal of an image (R48). -/
structure Refused where
  reason : Nat
  sect : Nat := 0
  kind : Nat := 0
  off : Nat := 0
  value : Int := 0
  width : Nat := 0
  deriving DecidableEq, Repr

/-- The refusal record's 32 bytes (R48). -/
def Refused.bytes (r : Refused) : List Byte :=
  leBytes 2 r.reason ++ leBytes 2 r.sect ++ leBytes 4 r.kind ++ leBytes 8 r.off ++ leBytes 8 (wrapNat r.value 64) ++
  leBytes 1 r.width ++ leBytes 7 0

/-- What the loader does: it reads as it goes, and stops at the first reason (R48). The state gains the translations that its reads
make (R104). -/
abbrev Load := ExceptT Refused (StateM State)

/-- Where the image lies: the record's ASID and its address. -/
structure Src where
  asid : BitVec 16
  code : Word

/-- Global bytes read under the record's ASID, or the first address that cannot be read. -/
def loadBytes (asid : BitVec 16) (a : Word) (n : Nat) : StateM State (Except Word (List Byte)) := fun s =>
  match s.globalBytes asid a n with
  | .ok (bs, s) => (.ok bs, s)
  | .error ((_, f), s) => (.error f, s)

/-- Bytes of the image, or reason 8 with the offset of the first that cannot be read, with no section and no kind (R46, R48,
assumption log 122). -/
def Src.read (x : Src) (o n : Nat) : Load (List Byte) := do
  if n == 0 then return []
  match ← loadBytes x.asid (x.code + BitVec.ofNat 64 o) n with
  | .ok bs => return bs
  | .error a => throw { reason := 8, off := (a - x.code).toNat }

/-- A little-endian number of the image. -/
def Src.num (x : Src) (o n : Nat) : Load Nat := do return leNat (← x.read o n)

/-- Bytes of the image that no check needs yet, by 4 KiB of their addresses: those that cannot be read stand as 0, and no read of
them counts. -/
def Src.peekIn (x : Src) (s : State) : Nat → Nat → Nat → List Byte
  | 0, _, _ => []
  | fuel + 1, o, n =>
    let k := min n (4096 - (x.code + BitVec.ofNat 64 o).toNat % 4096)
    (match (loadBytes x.asid (x.code + BitVec.ofNat 64 o) k s).1 with | .ok bs => bs | .error _ => List.replicate k 0) ++
      x.peekIn s fuel (o + k) (n - k)

/-- Bytes of the image as they stand. -/
def Src.peek (x : Src) (o n : Nat) : Load (List Byte) := do return x.peekIn (← get) (n / 4096 + 2) o n

/-- A little-endian field of bytes. -/
def le (bs : List Byte) (o n : Nat) : Nat := leNat (slice bs o n)

/-- A program header. -/
structure Phdr where
  ty : Nat
  off : Nat := 0
  vaddr : Nat := 0
  paddr : Nat := 0
  filesz : Nat := 0
  memsz : Nat := 0
  deriving DecidableEq, Repr

def ptLoad : Nat := 1
def ptResident : Nat := 0x70000001
def ptOverlay : Nat := 0x70000002

/-- The loader takes the segment. -/
def Phdr.loads (p : Phdr) : Bool := p.ty == ptLoad || p.ty == ptResident || p.ty == ptOverlay

/-- A segment being loaded: its header and its bytes, `memsz` of them. -/
structure Seg where
  ph : Phdr
  data : List Byte
  deriving DecidableEq, Repr

/-- A segment of the type may lie at an address (R46). -/
def Phdr.addrOk (p : Phdr) (earlier : List Phdr) : Bool :=
  if p.ty == ptResident then
    p.vaddr % 0x1000 == 0 && 0x1000 ≤ p.vaddr && p.vaddr ≤ 0xF000 &&
      !earlier.any (fun q => q.ty == ptResident && q.vaddr == p.vaddr)
  else if p.ty == ptOverlay then true
  else p.vaddr / 2 ^ 56 == 0x80

/-- A segment of the type and address may have a size (R46). -/
def Phdr.sizeOk (p : Phdr) : Bool :=
  if p.ty == ptLoad then p.vaddr % 2 ^ 56 + p.memsz ≤ 2 ^ 56 else p.memsz ≤ 0x1000

/-- A program header at an offset, field by field as its checks need them (R48, step 2); of a segment that the loader does not take,
its type only. No file part is longer than its segment (assumption log 107). -/
def readPhdr (x : Src) (o : Nat) (earlier : List Phdr) : Load Phdr := do
  let p : Phdr := { ty := ← x.num o 4 }
  if !p.loads then return p
  let p := { p with vaddr := ← x.num (o + 16) 8 }
  if !p.addrOk earlier then throw { reason := 3, off := o }
  let p := { p with memsz := ← x.num (o + 40) 8 }
  if !p.sizeOk then throw { reason := 3, off := o }
  let p := { p with filesz := ← x.num (o + 32) 8 }
  if p.memsz < p.filesz then throw { reason := 3, off := o }
  return { p with off := ← x.num (o + 8) 8, paddr := ← (if p.ty == ptOverlay then x.num (o + 24) 8 else pure 0) }

/-- The program headers in file order, each read and checked before the next (R48, step 2). -/
def readPhdrs (x : Src) : Nat → Nat → List Phdr → Load (List Phdr)
  | 0, _, acc => return acc.reverse
  | n + 1, o, acc => do readPhdrs x n (o + 56) ((← readPhdr x o acc) :: acc)

/-- The segments with the bytes of their file parts as they stand. -/
def loadSegs (x : Src) : List Phdr → Load (List Seg)
  | [] => return []
  | p :: r => do
    let l ← loadSegs x r
    if p.loads then return ⟨p, (← x.peek p.off p.filesz) ++ List.replicate (p.memsz - p.filesz) 0⟩ :: l else return l

/-- Bytes replaced in a list. -/
def patch (bs : List Byte) (o : Nat) (v : List Byte) : List Byte := bs.take o ++ v ++ bs.drop (o + v.length)

/-- A check needs bytes of a segment: those of its file part are read (R48). -/
def Seg.need (g : Seg) (x : Src) (o n : Nat) : Load Unit := do
  if o < g.ph.filesz then let _ ← x.read (g.ph.off + o) (min n (g.ph.filesz - o))

/-- The instruction sign-extends its immediate: its entry does not say that it is zero-extended (R252). `BRK` and `ILL` take any
immediate and do not say so. -/
def signExtends (r : Row) (page op : Nat) : Bool :=
  match r.imm with
  | .sext | .no | .ignored => true
  | _ => page == 0 && op == 0

/-- The chain at a place of code, read word by word: the offsets of its XI words, of its base word, the base field's width and
whether the immediate is sign-extended; none when it is no instruction, does not end in the segment or carries no immediate
(R46, R47). -/
def chainAt (x : Src) (g : Seg) : Nat → Chain → Nat → List Nat → Load (Option (List Nat × Nat × Nat × Bool))
  | 0, _, _, _ => return none
  | fuel + 1, ch, o, xis =>
    if g.data.length < o + 2 then return none
    else do
      g.need x o 2
      let w := le g.data o 2
      let op := w / 1024
      if op < 56 then
        let page := match ch.xp with | some (p, _) => p | none => 0
        match rowOf page op false with
        | none => return none
        | some r =>
          if r.fmt == .T || !ch.isInstr w then return none
          else return some (xis, o, r.fmt.immBits, signExtends r page op)
      else if op == 63 || ch.n == 4 then return none
      else
        match ch.addPrefix op w with
        | .error _ => return none
        | .ok c =>
          if c.revealed.isSome then return none else chainAt x g fuel c (o + 2) (if op == 57 then xis ++ [o] else xis)

/-- The symbol table that a relocation section names: where it lies, and its size. -/
structure SymTab where
  off : Nat
  size : Nat

/-- The symbol table of a section header at an offset. -/
def readTab (x : Src) (o : Nat) : Load SymTab := do return ⟨← x.num (o + 24) 8, ← x.num (o + 32) 8⟩

/-- Where symbol `i` of the table of a section header stands, when it is defined. -/
def symAt (x : Src) (hdr i : Nat) : Load (Option Nat) := do
  if i == 0 then return none
  let t ← readTab x hdr
  if t.size / 24 ≤ i then return none
  let o := t.off + 24 * i
  if (← x.num (o + 6) 2) == 0 then return none else return some o

/-- A symbol that is no instruction address (R47): one of data, by ELF's type of it, or a value beyond instruction memory
(assumption log 107). -/
def dataSymbol (v ty : Nat) : Bool := decide (0x10000 ≤ v) || ty == 1 || ty == 5 || ty == 6

/-- The segment whose bytes hold `n` bytes of a place: the first in file order (assumption log 122). -/
def segAt (segs : List Seg) (place n : Nat) : Option (Nat × Seg) :=
  match segs.findIdx? (fun g => g.ph.vaddr ≤ place && place + n ≤ g.ph.vaddr + g.ph.memsz) with
  | some i => segs[i]?.map fun g => (i, g)
  | none => none

/-- A data relocation (R47): the segment with its bytes, or reason 5. -/
def applyData (g : Seg) (kind place : Nat) (sa : Int) (bad : Refused) : Load Seg := do
  let v : Int := if kind == 3 then sa - place else sa
  if (kind == 2 && !(decide (0 ≤ v) && decide (v < 2 ^ 32))) ||
      (kind == 3 && !(decide (-(2 ^ 31) ≤ v) && decide (v < 2 ^ 31))) then
    throw { bad with reason := 5, value := v }
  return { g with data := patch g.data (place - g.ph.vaddr) (leBytes (if kind == 1 then 8 else 4) (wrapNat v 64)) }

/-- A value put into the field of a chain, its XI words most significant first (R47). -/
def patchField (d : List Byte) (xis : List Nat) (bo bw vm : Nat) : List Byte :=
  let d := patch d bo (leBytes 2 (le d bo 2 / 2 ^ bw * 2 ^ bw + vm % 2 ^ bw))
  xis.zipIdx.foldl (fun d (p, j) =>
    patch d p (leBytes 2 (57 * 1024 + vm / 2 ^ (bw + 10 * (xis.length - 1 - j)) % 1024))) d

/-- The value of an instruction relocation (R47), from S, A and P. -/
def relocValue (kind place sv : Nat) (a : Int) : Int :=
  let sa : Int := sv + a
  match kind with
  | 6 => (sa - place) / 2
  | 7 => (wrapNat sa 32 : Nat)
  | 8 => (wrapNat sa 64 / 2 ^ 32 : Nat)
  | 9 => (sv / 4096 : Nat) + a
  | _ => sa

/-- A value fits its field of `w` bits (R47). -/
def relocFits (kind w : Nat) (sx : Bool) (v : Int) : Bool :=
  if kind == 4 || kind == 6 then decide (-((2 ^ (w - 1) : Nat) : Int) ≤ v) && decide (v < (2 ^ (w - 1) : Nat))
  else decide (0 ≤ v) && decide (v < ((2 ^ (if sx then w - 1 else w) : Nat) : Int))

/-- An instruction relocation at a chain (R47): the segment with its field, or reason 5. The record of an odd S + A − P holds that
difference (assumption log 122). -/
def applyInstr (x : Src) (g : Seg) (kind place sym sv : Nat) (a : Int) (bad : Refused) :
    List Nat × Nat × Nat × Bool → Load Seg
  | (xis, bo, bw, sx) => do
    let w := bw + 10 * xis.length
    let d : Int := sv + a - place
    if kind == 6 && d % 2 != 0 then throw { bad with reason := 5, value := d, width := w }
    let v := relocValue kind place sv a
    let fit := relocFits kind w sx v &&
      (kind != 9 || (decide (v < 16) && decide ((sv : Int) + 4096 * a < 0x10000)))
    if !fit || (kind == 9 && dataSymbol sv ((← x.num (sym + 4) 1) % 16)) then
      throw { bad with reason := 5, value := v, width := w }
    return { g with data := patchField g.data xis bo bw (wrapNat v w) }

/-- S and A of a relocation at an offset whose symbol stands at another. -/
def relocTerms (x : Src) (o sym : Nat) : Load (Nat × Int) := do
  return (← x.num (sym + 8) 8, sextInt (← x.num (o + 16) 8) 64)

/-- One relocation at an offset (R47), with the checks of R48 in their order, each reading what it needs. `symtab` and `target` are
the offsets of the section headers that its section names. Symbol 0 counts as undefined where the value takes a symbol
(assumption log 107). -/
def applyRela (x : Src) (sect symtab target : Nat) (segs : List Seg) (o : Nat) : Load (List Seg) := do
  let kind ← x.num (o + 8) 4
  let from_ := le (← x.peek (target + 16) 8) 0 8
  let at_ := le (← x.peek o 8) 0 8
  let bad : Refused := { reason := 4, sect := sect, kind := kind, off := wrapNat ((at_ : Int) - from_) 64 }
  if 9 < kind then throw bad
  let i ← x.num (o + 12) 4
  if kind == 0 && i == 0 then return segs
  match ← symAt x symtab i with
  | none => throw { bad with reason := 7 }
  | some sym =>
    if kind == 0 then return segs
    let place ← x.num o 8
    match segAt segs place (if kind == 1 then 8 else if kind ≤ 3 then 4 else 2) with
    | none => throw { bad with reason := 6 }
    | some (n, g) =>
      if kind ≤ 3 then
        let (sv, a) ← relocTerms x o sym
        return segs.set n (← applyData g kind place (sv + a) bad)
      else if place % 2 == 1 then throw { bad with reason := 6 }
      else
        match ← chainAt x g 5 {} (place - g.ph.vaddr) [] with
        | none => throw { bad with reason := 6 }
        | some c =>
          let (sv, a) ← relocTerms x o sym
          return segs.set n (← applyInstr x g kind place sym sv a bad c)

/-- The relocations of one section, in table order. -/
def applyAll (x : Src) (sect symtab target : Nat) : Nat → Nat → List Seg → Load (List Seg)
  | 0, _, segs => return segs
  | n + 1, o, segs => do applyAll x sect symtab target n (o + 24) (← applyRela x sect symtab target segs o)

/-- Section types that hold relocations in another form than SHT_RELA: SHT_REL, SHT_RELR and SHT_CREL. -/
def otherRelocs : List Nat := [9, 19, 0x40000014]

/-- The relocation sections in index order, each header read when its turn comes (R48, steps 3 and 4): a record names the section
that a relocation applies to, and for a section that is refused itself its own index (assumption log 109). -/
def applySections (x : Src) (shoff shn : Nat) : Nat → Nat → List Seg → Load (List Seg)
  | 0, _, segs => return segs
  | n + 1, i, segs => do
    let o := shoff + 64 * i
    let ty ← x.num (o + 4) 4
    if otherRelocs.contains ty then throw { reason := 4, sect := i, off := o + 4 }
    if ty != 4 then applySections x shoff shn n (i + 1) segs
    else do
      let link ← x.num (o + 40) 4
      if shn ≤ link then throw { reason := 1, sect := i, off := o + 40 }
      let info ← x.num (o + 44) 4
      if shn ≤ info then throw { reason := 1, sect := i, off := o + 44 }
      let size ← x.num (o + 32) 8
      let first ← if size / 24 == 0 then pure 0 else x.num (o + 24) 8
      let segs ← applyAll x info (shoff + 64 * link) (shoff + 64 * info) (size / 24) first segs
      applySections x shoff shn n (i + 1) segs

/-- Every byte of the segments is readable (R48, step 5). -/
def readRest (x : Src) : List Seg → Load Unit
  | [] => return ()
  | g :: r => do
    let _ ← x.read g.ph.off g.ph.filesz
    readRest x r

/-- Bytes of an ASCII name with the zero that ends it. -/
def nameBytes (n : String) : List Byte := (n.toList.map fun c => BitVec.ofNat 8 c.toNat) ++ [0]

/-- A name of a string table is this one, read byte by byte; `left` are the bytes of the table from there. -/
def nameIs (x : Src) : Nat → Nat → List Byte → Load Bool
  | _, _, [] => return true
  | o, left, b :: r => do
    if left == 0 then return false
    if (← x.read o 1) == [b] then nameIs x (o + 1) (left - 1) r else return false

/-- The value of a global symbol of a symbol table, from symbol `i` on (R229, R240, R433). -/
def symbolIn (x : Src) (tab strs : SymTab) (name : List Byte) : Nat → Nat → Load (Option Nat)
  | 0, _ => return none
  | n + 1, i => do
    let o := tab.off + 24 * i
    if (← x.num (o + 6) 2) == 0 || (← x.num (o + 4) 1) / 16 != 1 then symbolIn x tab strs name n (i + 1)
    else
      let at_ ← x.num o 4
      if ← nameIs x (strs.off + at_) (strs.size - at_) name then return some (← x.num (o + 8) 8)
      else symbolIn x tab strs name n (i + 1)

/-- The value of a global symbol, from the first symbol table that defines it; a table that cannot be read refuses the image
with reason 8 (R46). -/
def globalSymbol (x : Src) (shoff shn : Nat) (name : String) : Nat → Nat → Load (Option Nat)
  | 0, _ => return none
  | n + 1, i => do
    let o := shoff + 64 * i
    if (← x.num (o + 4) 4) != 2 then globalSymbol x shoff shn name n (i + 1)
    else do
      let link ← x.num (o + 40) 4
      if shn ≤ link then globalSymbol x shoff shn name n (i + 1)
      else
        let tab ← readTab x o
        let strs ← readTab x (shoff + 64 * link)
        match ← symbolIn x tab strs (nameBytes name) (tab.size / 24) 0 with
        | some v => return some v
        | none => globalSymbol x shoff shn name n (i + 1)

/-- The words at a symbol, read after the segments are loaded (R48, step 6); `none` where the symbol is absent. -/
def symbolWords (asid : BitVec 16) (v : Option Nat) (n : Nat) : Load (Option (List Word)) := do
  match v with
  | none => return none
  | some a =>
    match ← loadBytes asid (BitVec.ofNat 64 a) (8 * n) with
    | .ok bs => return some (wordsOf64 n bs)
    | .error _ => throw { reason := 8, off := a }

/-- The header checks (R46, R48, step 1): the program and section headers, each by its offset and count. -/
def readHeader (x : Src) : Load ((Nat × Nat) × (Nat × Nat)) := do
  if (← x.num 0 4) != 0x464C457F then throw { reason := 1, off := 0 }
  if (← x.num 4 1) != 2 then throw { reason := 1, off := 4 }
  if (← x.num 5 1) != 1 then throw { reason := 1, off := 5 }
  if (← x.num 16 2) != 3 then throw { reason := 1, off := 16 }
  if (← x.num 18 2) != 0xA7C1 then throw { reason := 2, off := 18 }
  let phn ← x.num 56 2
  if phn != 0 && (← x.num 54 2) != 56 then throw { reason := 1, off := 54 }
  let shn ← x.num 60 2
  if shn != 0 && (← x.num 58 2) != 64 then throw { reason := 1, off := 58 }
  return ((← (if phn == 0 then pure 0 else x.num 32 8), phn), (← (if shn == 0 then pure 0 else x.num 40 8), shn))

/-- Where a segment is put in global memory: a `PT_LOAD` at its address, an overlay where one of its addresses names global space
(assumption log 19). -/
def Seg.place (g : Seg) : Option Nat :=
  if g.ph.ty == ptLoad then some g.ph.vaddr
  else if g.ph.ty == ptOverlay then
    if g.ph.vaddr / 2 ^ 63 == 1 then some g.ph.vaddr else if g.ph.paddr / 2 ^ 63 == 1 then some g.ph.paddr else none
  else none

/-- The segments are written; one that cannot be written is out of range (reason 3). -/
def placeSegs (asid : BitVec 16) : List Seg → Load Unit
  | [] => return ()
  | g :: r => do
    match g.place with
    | some a =>
      match (← get).globalWrite asid (BitVec.ofNat 64 a) g.data with
      | .ok s => set s
      | .error ((_, b), s) => do
        set s
        throw { reason := 3, off := b.toNat }
    | none => pure ()
    placeSegs asid r

/-- The image of a record loaded (R46, R48). -/
def loadRun (r : Rec) : Load Image := do
  let asid := lrAsid r.words
  let x : Src := ⟨asid, lrCode r.words⟩
  let ((phoff, phn), (shoff, shn)) ← readHeader x
  let segs ← applySections x shoff shn shn 0 (← loadSegs x (← readPhdrs x phn phoff []))
  readRest x segs
  placeSegs asid segs
  let global (name : String) : Load (Option Nat) := globalSymbol x shoff shn name shn 0
  let tr ← symbolWords asid (← if lrTrace r.words then global "__ktrctl" else pure none) 1
  let bk ← symbolWords asid (← if lrTrace r.words then global "__kbrk" else pure none) 1
  let rp ← if lrRecord r.words || lrReplay r.words then
      match ← global "__kreplay" with
      | none => throw { reason := 7 }
      | some v => symbolWords asid (some v) (if lrReplay r.words then 3 else 2)
    else pure none
  match rp with
  | some (b :: n :: _) => if b == 0 || n == 0 then throw { reason := 7 }
  | _ => pure ()
  let kt := match ← global "__ktrap" with
    | some v => if v % 2 == 0 && 0x1000 ≤ v && v ≤ 0xFFFF then some (BitVec.ofNat 16 v) else none
    | none => none
  -- an entry of the image is not checked (assumption log 108)
  let entry ← if lrEntry r.words != 0 then pure (lrEntry r.words) else x.num 24 8
  return { resident := segs.filterMap fun g =>
             if g.ph.ty == ptResident then some (g.ph.vaddr / 0x1000, g.data) else none,
           entry := BitVec.ofNat 16 entry,
           ktrap := kt,
           trctl := (tr.getD []).headD 0,
           kbrk := (bk.getD []).headD 0,
           replay := rp.map fun l => (l.getD 0 0, l.getD 1 0, l.getD 2 0) }

/-- The loaded image with the state its segments are written to; a refused image loads nothing, and leaves the translations that its
reads have made (R46, R104). -/
def State.loadImage (s : State) (r : Rec) : Except Refused Image × State :=
  match (loadRun r).run s with
  | (.ok i, t) => (.ok i, t)
  | (.error e, t) => (.error e, { s with xl := t.xl })

end Sys2Proof.Machine
end

