-- ==== Sys2Proof/Machine/Threads.lean ====
section
/-!
DEFINITION. Gangs and threads: `GANG` to `BGTRD` (R62, R180, R321 to R327).
-/
namespace Sys2Proof.Machine
open Sys2Proof

/-- The claims of a thread set end once its matrix commands have completed (R353). -/
def State.releaseClaims (s : State) (core : Nat) (ts : Fin 4) : State :=
  let c := s.core core
  if c.mq.any (·.ts == ts) then s
  else s.setCore core { c with slots := c.slots.map fun o => if o.owner == some ts then { o with owner := none } else o }

/-- A thread set stops as `HALT` does; a wait under way is abandoned with no effect (R324). -/
def State.haltThread (s : State) (core : Nat) (ts : Fin 4) : State :=
  ((s.withdraw core ts).modThread core ts Thread.stop).releaseClaims core ts

/-- The cores of a thread set's gang; its own outside one. -/
def State.gangCores (s : State) (core : Nat) (ts : Fin 4) : List Nat :=
  let t := s.thread core ts
  (List.range t.gwidth).map fun i => core - t.gpos + i

/-- `HALT` stops every member of the issuing thread's gang (R324). -/
def State.haltGang (s : State) (core : Nat) (ts : Fin 4) : State :=
  (s.gangCores core ts).foldl (fun s c => s.haltThread c ts) s

/-- `SPLIT` dissolves the issuing thread's gang (R322). -/
def State.splitGang (s : State) (core : Nat) (ts : Fin 4) : State :=
  (s.gangCores core ts).foldl (fun s c => s.modThread c ts fun t => { t with gwidth := 1, gpos := 0 }) s

/-- The threads of a gang's block: the same thread set of `w` aligned cores (R321). -/
def gangBlock (rel core w : Nat) : List Nat := (List.range w).map fun i => core - rel % w + i

/-- A member takes its place in a gang that forms and goes on as the leader `l` does; `waited` for a member whose `GANG`
has waited and retires with it. -/
def Thread.joinGang (t l : Thread) (w pos : Nat) (waited : Bool) : Thread :=
  { t with gwidth := w, gpos := pos, joining := none, pc := l.pc, loop := l.loop, run := .running,
           retired := if waited then t.retired + 1 else t.retired }

/-- A thread waits in `GANG` with a width, and no request to stop has ended its wait (R321, R324). -/
def Thread.waitsGang (t : Thread) (w : Nat) : Bool :=
  (match t.joining with | some (v, _) => v == w | none => false) && !(t.stopReq && !t.inh && !t.phand)

/-- GANG (R321): it waits until the block has issued it with one width. -/
def execGang (x : Pre) (imm : Word) (s : State) : Res :=
  issue x (fun k => do
    let s ← getState
    let w := 2 ^ imm.toNat
    let rel := s.relOf k.core
    let block := gangBlock rel k.core w
    let task := s.taskOf k.core
    let crewed := match task with | some q => q.carries (rel - rel % w + w - 1) | none => false
    trapIf (!crewed || block.any fun d => (s.thread d k.ts).gwidth != 1) 0x02
    trapIf (block.any fun d => match (s.core d).crew with | some c => c.finished | none => true) 0x02
    let ready := block.all fun d => d == k.core || (s.thread d k.ts).waitsGang w
    if ready then do
      let lead := k.core - rel % w
      let first := s.thread lead k.ts
      let l := first.loopNext (if lead == k.core then k.next else match first.joining with | some (_, p) => p | none => k.next)
      modState fun s => block.zipIdx.foldl (fun s (d, i) => s.modThread d k.ts fun t => t.joinGang l w i (d != k.core)) s
      return .call l.pc
    else fun _ => .error (.holdIn fun s => s.modThread k.core k.ts fun t => { t with joining := some (w, k.next) })) s

/-- SPLIT (R322). -/
def execSplit (x : Pre) (s : State) : Res :=
  issue x (fun k => do
    modState fun s => s.splitGang k.core k.ts
    goOn) s

/-- A thread set starts at an address (R323). -/
def Thread.startAt (t : Thread) (pc : BitVec 16) : Thread :=
  { t with run := .running, pc := pc, gwidth := 1, gpos := 0, stopReq := false, marks := [], rword := none }

/-- THSTART (R323): status 2, 3 or 1 in that order, or 0 once the issuer's stores have landed, so that the started thread's
accesses come after every access of the issuer. -/
def execThstart (x : Pre) (a b c : SReg) (s : State) : Res :=
  issue x (fun k => do
    let n ← readS k b
    let p ← readS k c
    let s ← getState
    let ts : Fin 4 := ⟨n.toNat % 4, Nat.mod_lt _ (by decide)⟩
    let t := s.thread k.core ts
    if 3 < n.toNat || t.run == .off then do writeS k a 2; goOn
    else if p.getLsbD 0 then do writeS k a 3; goOn
    else if t.run != .stopped || ts == k.ts then do writeS k a 1; goOn
    else do
      holdUnless (s.storesDone k)
      modState fun s => (s.modThread k.core ts fun t => t.startAt (p.setWidth 16)).enqueue k.core ts
      writeS k a 0
      goOn) s

/-- HALT (R324). -/
def execHalt (x : Pre) (s : State) : Res :=
  issue x (fun k => do
    modState fun s => s.haltGang k.core k.ts
    goOn) s

/-- THSTOP (R324): the thread set is asked to stop at its next boundary; naming the issuer, it acts as `HALT`. -/
def execThstop (x : Pre) (a : SReg) (s : State) : Res :=
  issue x (fun k => do
    let n ← readS k a
    trapIf (3 < n.toNat) 0x02
    let ts : Fin 4 := ⟨n.toNat % 4, Nat.mod_lt _ (by decide)⟩
    if ts == k.ts then do
      modState fun s => s.haltGang k.core k.ts
      goOn
    else do
      let s ← getState
      let t := s.thread k.core ts
      trapIf (t.gwidth != 1) 0x02
      if t.run == .off || t.run == .stopped then goOn
      else do
        modState fun s => s.modThread k.core ts fun t => { t with stopReq := true }
        goOn) s

/-- YIELD (R325): the thread counts as having just issued. -/
def execYield (x : Pre) (s : State) : Res := issue x (fun _ => goOn) s

/-- BRK (R326): cause 0x07 with `EPC` naming the next instruction. -/
def execBrk (x : Pre) (_imm : Word) (s : State) : Res := issue x (fun _ => fun s => .error (.trapNext s 0x07 0)) s

/-- TRACE (R326). -/
def execTrace (x : Pre) (a : SReg) (s : State) : Res :=
  issue x (fun k => do
    let v ← readS k a
    modState fun s => s.traceMarker k.core k.ts v
    goOn) s

/-- The state of a thread set as `BGTRD` reads it (R327). -/
def threadCode (t : Thread) (issuer : Bool) : Nat :=
  if t.run == .off then 0
  else if t.run == .stopped then 1
  else if t.inh || t.phand || t.run == .parked then 4
  else if issuer || t.run == .running then 2 else 3

/-- BGTRD (R327). -/
def execBgtrd (x : Pre) (a : SReg) (imm : Word) (s : State) : Res :=
  issue x (fun k => do
    let c ← getCore k
    let t ← getThr k
    let s ← getState
    let v := if imm = 0 then
        (List.finRange 4).foldl (fun n i => n + threadCode c.thr[i] (i == k.ts) * 16 ^ i.val) 0
      else if t.gwidth == 1 then 0
      else t.gwidth * 2 ^ 24 + t.gpos * 2 ^ 16 + (s.relOf k.core - t.gpos)
    writeS k a (BitVec.ofNat 64 v)
    goOn) s

end Sys2Proof.Machine
end

