-- ==== Sys2Proof/Machine/Crew.lean ====
section
/-!
DEFINITION. Crews and tasks: their start (R51), the truss (R65, R66), the end of a task (R61, R404), `SCHEND` and
`DBGGO` (R67, R245).
-/
namespace Sys2Proof.Machine
open Sys2Proof

/-! ## Crew start (R51) -/

/-- A thread set at crew start. -/
def startThread (r : Rec) (rel ts : Nat) (entry : BitVec 16) : Thread :=
  let t := Thread.reset
  let gang := lrGang r.words
  let lead := ts == 0
  { t with
    s := ((((t.s.set 1 (lrArgs r.words)).set 2 (BitVec.ofNat 64 rel)).set 3 (BitVec.ofNat 64 (lrCrews r.words))).set 30
      0x3C000).set 31 0xFF0
    pc := if lead then entry else 0
    drawctr := BitVec.ofNat 48 ((rel * 4 + ts) * 2 ^ 34)
    gwidth := if lead && 1 < gang then gang else 1
    gpos := if lead && 1 < gang then rel % gang else 0
    run := if lead then .running else if ts < lrThreads r.words then .stopped else .off }

/-- A core at crew start. -/
def startCore (r : Rec) (img : Image) (level rel cycle : Nat) : Core :=
  let mask : BitVec 7 := (List.range 5).foldl (fun m i => if i + 1 ≤ level then m ||| (1 <<< (i + 1)) else m) 0
  let valid : BitVec 16 := img.resident.foldl (fun v (n, _) => v ||| (1 <<< n)) 1
  let c := Core.reset
  { c with
    thr := Vector.ofFn fun ts => startThread r rel ts.val img.entry
    crew := some { task := r.id, rel := rel }
    dommask := mask
    domEff := mask
    segValid := valid
    ridge := c.ridge.map fun g => { g with since := cycle } }

/-- Instruction memory with the resident segments (R46, R179). -/
def loadResident (m : Memory) (core : Nat) (img : Image) : Memory :=
  img.resident.foldl (fun m (n, bs) => writeSpan m (codeKey core (n * 4096)) (bs ++ List.replicate (4096 - bs.length) 0))
    (clearSpan m (codeKey core 0) 0x10000)

/-- A crew starts on its core: scratchpad, operand memory and accumulators zero, resident segments loaded, trace and
break registers set (R51, R240, R244). -/
def State.startCrew (s : State) (r : Rec) (img : Image) (level base rel : Nat) : State :=
  let core := base + rel
  let s := { s with mem := { s.mem with
      sram := clearSpan s.mem.sram (padKey core) sysReserved
      operand := clearSpan s.mem.operand (slotKey core 0) 0x40000
      code := loadResident s.mem.code core img } }
  let s := (s.setCore core (startCore r img level rel s.cycle)).enqueue core 0
  if lrTrace r.words then
    let s := s.setTrctl core img.trctl
    let s := s.setCore core { s.core core with brkmap := img.kbrk }
    (0 :: img.resident.map (·.1)).foldl (fun s n => s.loadBreaks core n) s
  else s

/-- The task of a record placed at a core (R49). -/
def taskOfRec (r : Rec) (img : Image) (base cycle : Nat) : Task :=
  { id := r.id, tenant := lrTenant r.words, asid := lrAsid r.words, base := base, level := lrDomain r.words,
    crews := lrCrews r.words, threads := lrThreads r.words, gang := lrGang r.words, stream := lrStream r.words,
    kind := lrKind r.words, det := lrDet r.words, trace := lrTrace r.words, record := lrRecord r.words,
    replay := lrReplay r.words, image := img, placedAt := cycle }

/-- The bucket pairs of a tenant's first task on a die read 0 at its placement (R73), each time that none of its tasks runs there
(assumption log 121). -/
def State.freshBuckets (s : State) (t : Task) : State :=
  (List.range 4).foldl (fun s d =>
    let mine (q : Task) : Bool := q.tenant == t.tenant &&
      decide (q.base / 1024 ≤ d ∧ d ≤ (q.base + levelCores q.level - 1) / 1024)
    if mine t && !s.sched.tasks.any mine then
      { s with bud := s.bud.setBucket d t.tenant { s.bud.bucket d t.tenant with energy := 0, bandwidth := 0 } }
    else s) s

/-- A task placed with fresh crews (R50, R51, R53). -/
def State.startTask (s : State) (r : Rec) (img : Image) (base : Nat) : State :=
  let t := taskOfRec r img base s.cycle
  let s := s.freshBuckets t
  let s := { s with sched := { s.sched with tasks := s.sched.tasks ++ [t] } }
  (List.range t.crews).foldl (fun s rel => s.startCrew r img t.level base rel) s

/-! ## The truss (R65, R66) -/

/-- A report of the truss: crews done, error bits, core and cause of the error. -/
abbrev Report := Nat × BitVec 16 × Nat × BitVec 8

/-- The report of a crew (R66, R67). -/
def crewReport (w : Crew) : Report :=
  (boolNat w.clean, w.errors.setWidth 16, w.rel, if w.errors == 0 then 0 else w.cause)

/-- Several reports combined (R66). -/
def combineReports (l : List Report) : Report :=
  let bad := l.filter fun (_, e, _, _) => e != 0
  let worst := bad.foldl (fun (b : Option Report) r =>
    match b with
    | none => some r
    | some q => if r.2.2.1 < q.2.2.1 then some r else some q) none
  (sumNat (l.map (·.1)), l.foldl (fun e r => e ||| r.2.1) 0,
   match worst with | some r => r.2.2.1 | none => 0, match worst with | some r => r.2.2.2 | none => 0)

/-- Key of a report: level, then domain-relative core. -/
def reportKey (level rel : Nat) : Nat := level * 4096 + rel

/-- A report that has been made. -/
def Task.report (t : Task) (level rel : Nat) : Option Report :=
  (t.reports.find? fun (k, _) => k == reportKey level rel).map (·.2)

/-- Children of the leader of a unit: leaders of the level below that carry crews. -/
def Task.children (t : Task) (level rel : Nat) : List Nat :=
  ((List.range (levelCores level / levelCores (level - 1))).map fun i => rel + i * levelCores (level - 1)).filter t.carries

/-- A task changed. -/
def State.modTask (s : State) (id : Nat) (f : Task → Task) : State :=
  { s with sched := { s.sched with tasks := s.sched.tasks.map fun t => if t.id == id then f t else t } }

/-- A thread has stopped, or never ran. -/
def Thread.halted (t : Thread) : Bool := t.run == .off || t.run == .stopped

/-- The crew of a core has stopped: its threads, its commands, its stores and the operations it sent (R66). -/
def State.crewStopped (s : State) (core : Nat) : Bool :=
  let c := s.core core
  let ended := match s.taskOf core with | some t => t.ended | none => false
  c.thr.toList.all Thread.halted && c.vq.isEmpty && c.mq.isEmpty && c.copyq.isEmpty &&
  !s.fab.fly.any fun f => f.core == core &&
    (match f.what with
     | .store _ _ _ => true
     | .remote r => r.foreign.isNone && !ended
     | _ => false)

/-- Every member of the gangs of a core has stopped, or the gangs are dissolved (R62). -/
def State.gangsStopped (s : State) (core : Nat) : Bool :=
  (List.finRange 4).all fun ts =>
    let t := s.thread core ts
    t.gwidth ≤ 1 || (List.range t.gwidth).all fun i => s.crewStopped (core - t.gpos + i)

/-- The crew's accumulator-overflow error bit (R45). -/
def Core.accOverflow (c : Core) : BitVec 8 := if c.thr.toList.any fun t => t.fpflags &&& flagACCOVF != 0 then 0x40 else 0

/-- The crew of a core as it reports (R45, R66): one that system software has ended reports its bit 3 alone (R67). -/
def Core.reporting (c : Core) (w : Crew) : Crew :=
  if w.errors.getLsbD 3 then w else { w with errors := w.errors ||| c.accOverflow }

/-- CREW_FINISH (R66): the crew reports to its tile leader. -/
def execCrewFinish (core : Fin 4096) (s : State) : Res :=
  let c := s.core core
  match c.crew with
  | none => .next s
  | some w =>
    if w.finished || !s.crewStopped core || !s.gangsStopped core then .next s
    else
      let w := { c.reporting w with finished := true }
      let s := s.setCore core { c with crew := some w }
      .next (s.modTask w.task fun t => { t with reports := tblSet t.reports (reportKey 0 w.rel) (crewReport w) })

/-- The level at which a leader's combined report is due next: every child has reported and it has not. -/
def Task.dueLevel (t : Task) (rel : Nat) : Option Nat :=
  ((List.range t.level).map (· + 1)).find? fun l =>
    rel % levelCores l == 0 && (t.report l rel).isNone && (t.children l rel).all fun c => (t.report (l - 1) c).isSome

/-! ## The end of a task (R45, R61, R404) -/

/-- Work under way that goes with a task: the operations and messages of its cores. -/
def Fly.ofCores (f : Fly) (base n : Nat) : Bool :=
  (base ≤ f.core && f.core < base + n) ||
  (match f.what with
   | .msg d _ | .deposit d _ _ _ | .qupd d _ _ _ _ => decide (base ≤ d ∧ d < base + n)
   | _ => false)

/-- Context space that a task's cores or its switch-out hold, by first MiB (R77, R232). -/
def State.ctxOffsets (s : State) (t : Task) : List Nat :=
  (match s.sched.switch with | some w => if w.task == t.id then [w.ctxOff] else [] | none => []) ++
  (List.range t.crews).filterMap fun rel => match (s.core (t.coreAt rel)).preempt with | some p => p.slot | none => none

/-- The slots that a task has posted are revoked (R404). -/
def State.revokeAll (s : State) (task : Nat) : State :=
  ((List.range 4096).filter fun i =>
    let q := tblGet s.fab.posts i {}
    q.live && q.task == task).foldl State.revoke s

/-- What the early-arrival store keeps of operations that are no longer under way goes. -/
def State.pruneKept (s : State) : State :=
  { s with fab := { s.fab with kept := s.fab.kept.filter fun e => (s.remoteAt e.op).isSome } }

/-- The domain of a task is freed: its cores, regions, slots and what was under way between them. What its cores' trace buffers
still stage reaches memory first (R241). -/
def State.freeDomain (s : State) (t : Task) : State :=
  let n := levelCores t.level
  let inside (c : Nat) : Bool := decide (t.base ≤ c ∧ c < t.base + n)
  let s := ((List.range t.crews).map t.coreAt).foldl State.traceFlush s
  let s := s.revokeAll t.id
  State.pruneKept
  { s with
    cores := s.cores.filter fun (c, _) => !inside c
    runq := s.runq.filter fun (c, _) => !inside c
    fab := { s.fab with
      fly := s.fab.fly.filter fun f => !f.ofCores t.base n
      flits := s.fab.flits.filter fun f => !inside f.src
      caps := s.fab.caps.filter fun r => r.task != t.id
      slices := s.fab.slices.filter fun r => r.task != t.id }
    bud := { s.bud with ctxUsed := s.bud.ctxUsed.filter fun u =>
      !(u.1 == t.tenant && (s.ctxOffsets t).contains u.2.1) }
    sched := { s.sched with
      tasks := s.sched.tasks.filter fun q => q.id != t.id
      images := s.sched.images.filter fun (k, _) => k != t.id
      switch := match s.sched.switch with | some w => if w.task == t.id then none else some w | none => none } }

/-- A task completes with its combined report (R66): the completion record, the tokens, then the domain. `course` is that of
the domain's first core (assumption log 106). -/
def State.endTask (s : State) (t : Task) (r : Report) : State :=
  let course := (s.core t.base).course.toList.getD t.level 0
  match s.sched.recs.find? (·.id == t.id) with
  | some q => (s.complete q [] ⟨r.1, r.2.2.1, r.2.2.2, r.2.1, course⟩ true).freeDomain t
  | none => s.freeDomain t

/-- TRUSS_REPORT (R66): a leader whose children have all reported combines them; the root completes the task. -/
def execTrussReport (core : Fin 4096) (s : State) : Res :=
  match s.taskOf core with
  | none => .next s
  | some t =>
    let rel := s.relOf core
    match t.dueLevel rel with
    | none => .next s
    | some l =>
      match allSome ((t.children l rel).map (t.report (l - 1))) with
      | none => .next s
      | some kids =>
        let r := combineReports kids
        if l == t.level && rel == 0 then .next (s.endTask t r)
        else .next (s.modTask t.id fun t => { t with reports := tblSet t.reports (reportKey l rel) r })

/-! ## `SCHEND` (R67) -/

/-- The threads of a core have stopped and its commands are done: of a core whose context is saved, its crew has finished (R66,
R324). -/
def Core.over (c : Core) : Bool := c.thr.toList.all Thread.halted && c.vq.isEmpty && c.mq.isEmpty && c.copyq.isEmpty

/-- A crew ended by system software: its threads stop, its commands are discarded, and it reports error bit 3; one that had
finished keeps its report. A crew whose threads have stopped has not finished while a command or a store of it is outstanding
(R324). -/
def State.endBySoftware (s : State) (core : Nat) : State :=
  let c := s.core core
  match c.crew with
  | none => s
  | some w =>
    if w.finished || s.crewStopped core then s
    else (s.withdrawAll core).setCore core
      { c with thr := c.thr.map Thread.stop, vq := [], mq := [], copyq := [],
               crew := some { w with clean := false, errors := 8, cause := 0 },
               slots := c.slots.map fun o => { o with owner := none } }

/-- A task's pending collectives end with status 5. -/
def State.endColls (s : State) (p : Coll → Bool) : State :=
  s.modColls fun q => if p q && q.ending.isNone then { q with ending := some (5, BitVec.ofNat 64 q.written) } else q

/-- A running task ended by system software. -/
def State.endRunning (s : State) (t : Task) : State :=
  let s := s.modTask t.id fun t => { t with ended := true }
  let s := ((List.range t.crews).map t.coreAt).foldl State.endBySoftware s
  s.endColls fun q => q.task == some t.id

/-- The report of a task whose context is discarded: crews that had finished keep theirs. -/
def savedReport (v : SavedTask) : Report :=
  combineReports (v.cores.filterMap fun c => c.core.crew.map fun w =>
    if w.finished || c.core.over then crewReport (c.core.reporting w) else (0, 8, w.rel, 0))

/-- A switched-out task ended: its context is discarded. -/
def State.endSaved (s : State) (v : SavedTask) (r : Rec) : State :=
  let t := v.task
  let s := s.endColls fun q => q.task == some t.id
  let course := match v.cores.head? with | some c => c.core.course.toList.getD t.level 0 | none => 0
  let o := savedReport v
  let s := s.complete r [] ⟨o.1, o.2.2.1, o.2.2.2, o.2.1, course⟩ true
  let s := { s with
    sched := { s.sched with saved := s.sched.saved.filter fun w => w.task.id != t.id,
                            images := s.sched.images.filter fun (k, _) => k != t.id }
    bud := { s.bud with ctxUsed := s.bud.ctxUsed.filter fun u => u != (t.tenant, v.ctxOff, v.ctxLen) }
    fab := { s.fab with parked := s.fab.parked.filter fun (k, _) => k != t.id,
                        caps := s.fab.caps.filter fun q => q.task != t.id,
                        slices := s.fab.slices.filter fun q => q.task != t.id } }
  (s.revokeAll t.id).pruneKept

end Sys2Proof.Machine
end

