-- ==== Sys2Proof/Machine/Engine.lean ====
section
/-!
DEFINITION. What the vector and matrix engines share: register results of a command, its memory accesses with their
checks, its end and its late fault (R163, R231, R296, R332).
-/
namespace Sys2Proof.Machine
open Sys2Proof

/-- What the performance of a command comes to: done, not yet, or a late fault. -/
inductive Done where
  | ok (s : State)
  | wait (s : State)
  | late (s : State) (cause : BitVec 8) (info : Word)

/-- The register results of a command. -/
structure Out where
  vs : List (Nat × VWord) := []
  ks : List (Nat × Word) := []
  ss : List (Nat × Word) := []
  ys : Option (Vector YVec 8) := none
  flags : Flags := 0
  /-- lane pairs exhausted (R218) -/
  pairs : Nat := 0
  deriving DecidableEq, Repr

/-- Vector register `n` as a command reads it: the element popped at dispatch, or the register. -/
def Cmd.vreg (d : Cmd) (t : Thread) (n : Nat) : VWord :=
  match d.pops.find? (·.1 == n) with
  | some (_, v) => v
  | none => t.v.toList.getD n 0

/-- A vector register set. -/
def Thread.setV (t : Thread) (n : Nat) (v : VWord) : Thread := { t with v := t.v.setIfInBounds n v }
/-- A mask register set, `k0` never (R168). -/
def Thread.setK (t : Thread) (n : Nat) (v : Word) : Thread :=
  if n == 0 then t else { t with k := t.k.setIfInBounds n v }

/-! ## Memory accesses of commands (R296) -/

/-- An element of a command's access: its number, address and size. -/
abbrev Elem := Nat × Word × Nat

/-- Elements checked in ascending order, up to the first that fails. -/
def checkElems (core : Nat) (write : Bool) : List Elem → State →
    List (Elem × Access) × Option (BitVec 8 × Word) × State
  | [], s => ([], none, s)
  | (i, a, n) :: r, s =>
    match s.access core a n n write false with
    | .error e => ([], some (e, a), s.walked (s.asidOf core) a e)
    | .ok (acc, s) =>
      let (l, f, s) := checkElems core write r s
      (((i, a, n), acc) :: l, f, s)

/-- The lap check of a load of elements (R147). -/
def State.lapsOf (s : State) (core : Nat) (l : List (Elem × Access)) : LapCheck :=
  l.foldl (fun c ((_, _, n), acc) => c.join (s.lapCheckAt core acc.place n)) .plain

/-- A place some bytes further on. -/
def Place.plus : Place → Nat → Place
  | .pad c off, j => .pad c (off + j)
  | .bank l u off, j => .bank l u (off + j)
  | .glob a, j => .glob (a + BitVec.ofNat 64 j)

/-- `n` bytes of a place touch a slab that is stale under a policy (R147). -/
def State.staleUnder (s : State) (core : Nat) (p : Place) (n policy : Nat) : Bool :=
  match s.lapCheckAt core p n with
  | .stale _ k => k == policy
  | _ => false

/-- The first element that touches a stale slab under a policy; of a matrix access its first byte that does (R147, R354). -/
def State.staleElem (s : State) (core : Nat) (mx : Bool) (l : List (Elem × Access)) (policy : Nat) : Word :=
  match l.find? fun ((_, _, n), acc) => s.staleUnder core acc.place n policy with
  | none => 0
  | some ((_, a, n), acc) =>
    if mx then a + BitVec.ofNat 64 (((List.range n).find? fun j => s.staleUnder core (acc.place.plus j) 1 policy).getD 0) else a

/-- The command at the head of an engine's queue, marked as counted for its wait (R147). -/
def State.markParked (s : State) (core : Nat) (mx : Bool) : State :=
  let c := s.core core
  let f (l : List Cmd) : List Cmd := match l with | d :: r => { d with parked := true } :: r | [] => []
  s.setCore core { c with vq := if mx then c.vq else f c.vq, mq := if mx then f c.mq else c.mq }

/-- The command at the head of an engine's queue, with the requests of it that have left (R71). -/
def State.markPaid (s : State) (core : Nat) (mx : Bool) (n : Nat) : State :=
  let c := s.core core
  let f (l : List Cmd) : List Cmd := match l with | d :: r => { d with paid := n } :: r | [] => []
  s.setCore core { c with vq := if mx then c.vq else f c.vq, mq := if mx then f c.mq else c.mq }

/-- Requests of at most 4 KiB that `n` bytes take (R71). -/
def portions (n : Nat) : List Nat := List.replicate (n / 4096) 4096 ++ (if n % 4096 == 0 then [] else [n % 4096])

/-- The sizes of the global requests that a list of elements makes: one each, or those of a contiguous access of `whole`
bytes (R71). -/
def requestsOf (l : List (Elem × Access)) (whole : Option Nat) : List Nat :=
  let globs := l.filter fun e => e.2.place.isGlobal
  match whole with
  | some n => if globs.isEmpty then [] else portions n
  | none => globs.map fun e => e.1.2.2

/-- Requests leave the port one after the other, each while the level is above 0 (R71): how many have left. -/
def State.payRequests (core : Nat) : List Nat → State → Nat × State
  | [], s => (0, s)
  | n :: r, s =>
    if s.bandwidthHeld core then (0, s)
    else
      let (k, s) := State.payRequests core r (s.debitBandwidth core n)
      (k + 1, s)

/-- The requests of a command that have not left leave as far as they may: none are left, or the command waits. -/
def State.payElems (s : State) (core : Nat) (mx : Bool) (d : Cmd) (l : List (Elem × Access)) (whole : Option Nat) :
    State ⊕ State :=
  let due := (requestsOf l whole).drop d.paid
  let (k, s) := State.payRequests core due s
  if k == due.length then .inl s
  else .inr ((s.noteHeld core false).markPaid core mx (d.paid + k))

/-- The farthest home that an access of elements touches (R152). -/
def farthest (l : List (Elem × Access)) : Nat := l.foldl (fun m (_, a) => max m a.scope) 0

/-- Scope misses of a vector access (R159, R160): of a load one fence, of a store one reissue for each element whose
home lies outside the scope. -/
def State.missedElems (s : State) (core : Nat) (d : Cmd) (kind : Fin 3) (l : List (Elem × (Access × Nat))) : State :=
  let home := l.foldl (fun m (_, a, _) => max m a.scope) 0
  if missesScope d.x home then
    let out := l.filter fun (_, a, _) => scopeNo d.x.scope < a.scope
    let addr := match out with | ((_, a, _), _) :: _ => a | [] => 0
    let es := if kind == 1 then out.map fun ((_, a, n), _, v) => (a, n, BitVec.ofNat 64 v) else []
    s.modThread core d.ts fun t => t.miss ⟨kind, addr, es, scopeAt home, d.x.order, d.x.strong, d.id⟩
  else s

/-- The address that a fault of an element names: of a matrix access its lowest byte that faults (R296, R354). -/
def State.faultAt (s : State) (core : Nat) (mx write : Bool) (es : List Elem) (e : BitVec 8) (a : Word) : Word :=
  if !mx then a
  else
    match es.find? (·.2.1 == a) with
    | none => a
    | some (_, _, n) =>
      let bad (j : Nat) : Bool := match s.access core (a + BitVec.ofNat 64 j) 1 1 write false with | .error f => f == e | .ok _ => false
      match (List.range n).find? bad with
      | some j => a + BitVec.ofNat 64 j
      | none => a

/-- A checked load of elements: their values, or why it is not made. It waits while a store that it sees lies over them, and
reads at their homes (R158, R163). -/
def State.loadElems (s : State) (core : Nat) (mx : Bool) (d : Cmd) (es : List Elem) (whole : Option Nat) :
    Done ⊕ (List (Nat × Nat) × State) :=
  let (l, f, s1) := checkElems core false es s
  if l.any fun ((_, _, n), acc) => s.behindStore core d.ts d.id acc.loc n then .inl (.wait s)
  else
    let laps := s1.lapsOf core l
    match laps, f with
    | .park ps, _ => .inl (.wait (if d.parked then s else (s.countWaits core ps).markParked core mx))
    | .stale ps 2, _ => .inl (.late (s1.countStales core ps) 0x86 (s1.staleElem core mx l 2))
    | _, some (e, a) => .inl (.late s1 e (s.faultAt core mx false es e a))
    | _, none =>
      match s1.payElems core mx d l whole with
      | .inr s => .inl (.wait s)
      | .inl s1 =>
        let s2 := match laps with
          | .stale ps policy =>
            let s := s1.countStales core ps
            if policy == 1 then s.modThread core d.ts fun t =>
              { t with due := { t.due with stales := t.due.stales ++
                [(⟨d.seq, 0x85, s1.staleElem core mx l 1, true⟩ : LateFault)] } } else s
          | _ => s1
        let vals := l.map fun ((i, _, n), acc) => (i, leNat (s2.bytesAt acc.loc n))
        let s2 := l.foldl (fun s (_, acc) => s.touch core acc) s2
        .inr (vals, s2.missedElems core d 0 (l.map fun (e, a) => (e, a, 0)))

/-- The command is one of the matrix engine's that can store, itself or through a bound register. -/
def Cmd.matrixStore (d : Cmd) : Bool := d.kind == .ost || d.kind == .zst || d.kind == .zmovv || d.kind == .mstat

/-- A store of a command enters its thread's digest: a matrix command's at the `MWAIT` that acquires it (R248). -/
def State.foldStore (s : State) (core : Nat) (d : Cmd) (a : Word) (bs : List Byte) : State :=
  if !d.matrixStore then s.foldVector core d.ts a bs
  else if s.digests core then s.modThread core d.ts fun h => { h with unfolded := h.unfolded ++ [(a, bs)] }
  else s

/-- A checked store of elements, in order; nothing is written when one fails. -/
def State.storeElems (s : State) (core : Nat) (mx : Bool) (d : Cmd) (es : List (Elem × Nat)) (whole : Option Nat) : Done :=
  let (l, f, s1) := checkElems core true (es.map (·.1)) s
  match f with
  | some (e, a) => .late s1 e (s.faultAt core mx true (es.map (·.1)) e a)
  | none =>
    match s1.payElems core mx d l whole with
    | .inr s => .wait s
    | .inl s1 =>
      let rows := (l.zip es).map fun ((e, acc), (_, v)) => (e, acc, v)
      let after := orderedStore d.x (farthest l)
      let s2 := rows.foldl (fun s ((_, a, n), acc, v) =>
        (s.store core d.ts acc (leBytes n v) after true).foldStore core d a (leBytes n v)) s1
      .ok (s2.missedElems core d 1 rows)

/-! ## Ends of commands -/

/-- Appended elements of bound destinations (R175): their places with their bytes. -/
def Cmd.appends (d : Cmd) (o : Out) : List (Append × List Byte) :=
  (o.vs.filterMap fun (n, v) => (d.apps.find? (·.reg == n)).map fun p => (p, leBytes 64 v.toNat)) ++
  (o.ss.filterMap fun (n, v) => (d.apps.find? (·.reg == 32 + n)).map fun p => (p, leBytes 8 v.toNat))

/-- An address in absolute form; one that lies nowhere names itself (R109). -/
def State.absOf (s : State) (core : Nat) (a : Word) : Word :=
  match s.place core a false with | .ok p => s.absAddr core p | .error _ => a

/-- An appended element is stored. -/
def State.append (s : State) (core : Nat) (d : Cmd) (p : Append) (bs : List Byte) : State :=
  (s.storeTo core d.ts p.own p.loc bs ⟨p.home, false, true, s.absOf core p.addr⟩).foldStore core d p.addr bs

/-- A thread set takes a command's register results and flags (R189). -/
def Thread.take (t : Thread) (d : Cmd) (o : Out) : Thread :=
  let free (n : Nat) : Bool := !(d.apps.any (·.reg == n))
  let t := o.vs.foldl (fun t (n, v) => if free n then t.setV n v else t) t
  let t := o.ks.foldl (fun t (n, v) => t.setK n v) t
  let t := o.ss.foldl (fun t (n, v) =>
    if free (32 + n) && n != 0 then { t with s := t.s.setIfInBounds n v } else t) t
  let t := match o.ys with | some y => { t with y := y } | none => t
  { t with fpflags := t.fpflags ||| o.flags, yexh := t.yexh + BitVec.ofNat 48 o.pairs }

/-- Register results taken, and appended elements stored at the places that dispatch has checked (R332). -/
def State.finish (s : State) (core : Nat) (d : Cmd) (o : Out) : Done :=
  let s := (d.appends o).foldl (fun s (p, bs) => s.append core d p bs) s
  .ok (s.modThread core d.ts fun t => t.take d o)

/-- An earlier command of the thread set on the other engine has not completed: its fault would discard this one (R231). -/
def State.behindOther (s : State) (core : Nat) (mx : Bool) (d : Cmd) : Bool :=
  let c := s.core core
  (if mx then c.vq else c.mq).any fun e => e.ts == d.ts && decide (e.id < d.id)

/-- A faulting command is reported to its thread, and the thread's later commands on both engines are discarded
(R231). -/
def State.lateFault (s : State) (core : Nat) (d : Cmd) (cause : BitVec 8) (info : Word) : State :=
  let c := s.core core
  let keep (l : List Cmd) : List Cmd := l.filter fun e => !(e.ts == d.ts && d.id ≤ e.id)
  let s := (s.setCore core { c with vq := keep c.vq, mq := keep c.mq }).foldOn core d.ts
  s.modThread core d.ts fun t =>
    t.pend fun u => { u with lates := u.lates.filter (!·.ofCmd) ++ [(⟨d.seq, cause, info, true⟩ : LateFault)] }

/-- A completed command leaves its queue. -/
def State.popCmd (s : State) (core : Nat) (mx : Bool) : State :=
  let c := s.core core
  s.setCore core { c with vq := if mx then c.vq else c.vq.drop 1, mq := if mx then c.mq.drop 1 else c.mq }

/-- Claims of thread sets that have stopped go with their last matrix command (R353). -/
def State.dropClaims (s : State) (core : Nat) : State :=
  (List.finRange 4).foldl (fun s ts =>
    if (s.thread core ts).run == .stopped && !((s.core core).mq.any (·.ts == ts)) then
      let c := s.core core
      s.setCore core { c with slots := c.slots.map fun o => if o.owner == some ts then { o with owner := none } else o }
    else s) s

/-- Something waits to be taken at a boundary that a command has left: a fault, a stale read, a scope miss. -/
def Due.left (d : Due) : Bool := !d.lates.isEmpty || !d.stales.isEmpty || !d.misses.isEmpty

/-- A thread set that has stopped takes what one of its last commands leaves to it, and then stops again: its crew has not
finished while commands are outstanding (R231, R324, R406; assumption log 123). -/
def State.wake (s : State) (core : Nat) (ts : Fin 4) : State :=
  let t := s.thread core ts
  if t.run == .stopped && t.due.left then
    (s.modThread core ts fun t => { t with run := .running, stopReq := true }).enqueue core ts
  else s

/-- After a command of a core has ended: claims end, and stopped thread sets take what it leaves. -/
def State.ended (s : State) (core : Nat) : State :=
  (List.finRange 4).foldl (fun s ts => s.wake core ts) (s.dropClaims core)

/-- The end of a command at the head of its queue. -/
def endCmd (core : Nat) (mx : Bool) (d : Cmd) : Done → State
  | .ok s' => ((s'.popCmd core mx).foldOn core d.ts).ended core
  | .wait s' => s'
  | .late s' cause info => (s'.lateFault core d cause info).ended core

/-- A release holds a command until every earlier store of its thread has landed (R296). -/
def State.releaseHolds (s : State) (core : Nat) (d : Cmd) : Bool :=
  (d.x.order == .rel || d.x.order == .acqrel) &&
  (s.storesOf core d.ts).any fun f => decide (f.id < d.id) || f.byEngine

end Sys2Proof.Machine
end

