-- ==== Sys2Proof/Machine/VectorMem.lean ====
section
/-!
DEFINITION. The vector commands of page 2 and the instructions of page 7: what each checks at issue and hands to the
vector engine (R296 to R299, R309 to R312, R367 to R376).
-/
namespace Sys2Proof.Machine
open Sys2Proof

/-- Registers `a` to `a` + n − 1. -/
def regRange (a n : Nat) : List (Fin 32) :=
  (List.range n).map fun i => ⟨(a + i) % 32, Nat.mod_lt _ (by decide)⟩

/-- Registers as destinations of the vector class. -/
def asDest (l : List (Fin 32)) : List RegName := l.map fun n => (true, n)

/-! ## Vector loads and stores (R296 to R299) -/

/-- A contiguous vector access at s[b] + `unit` × imm. -/
def vecAt (x : Pre) (e : EKind) (a : Nat) (b : SReg) (unit imm : Word) (reads : List (Fin 32)) (writes : List RegName)
    (s : State) : Res :=
  issue x (fun k => do
    let p ← readS k b
    dispatch k false reads writes { cmdOf x e with a := a, s1 := memAddr p (unit * imm) }
    goOn) s

/-- A vector access with a base and a stride. -/
def vecStride (x : Pre) (e : EKind) (a : Nat) (b c : SReg) (reads : List (Fin 32)) (writes : List RegName) (s : State) :
    Res :=
  issue x (fun k => do
    let p ← readS k b
    let q ← readS k c
    dispatch k false reads writes { cmdOf x e with a := a, s1 := p, s2 := q }
    goOn) s

/-- VLD (R297). -/
def execVld (x : Pre) (a : VReg) (b : SReg) (imm : Word) (s : State) : Res :=
  vecAt x .vld a.val b 64 imm [] [(true, a)] s
/-- VST (R297). -/
def execVst (x : Pre) (a : VReg) (b : SReg) (imm : Word) (s : State) : Res := vecAt x .vst a.val b 64 imm [a] [] s
/-- VLDS (R298). -/
def execVlds (x : Pre) (a : VReg) (b c : SReg) (s : State) : Res := vecStride x .vlds a.val b c [] [(true, a)] s
/-- VSTS (R298). -/
def execVsts (x : Pre) (a : VReg) (b c : SReg) (s : State) : Res := vecStride x .vsts a.val b c [a] [] s
/-- VLDG (R298). -/
def execVldg (x : Pre) (a : VReg) (b : SReg) (c : VReg) (s : State) : Res :=
  vcmdS x b [c] [(true, a)] { cmdOf x .vldg with a := a.val, c := c.val } s
/-- VSTG (R298). -/
def execVstg (x : Pre) (a : VReg) (b : SReg) (c : VReg) (s : State) : Res :=
  vcmdS x b [a, c] [] { cmdOf x .vstg with a := a.val, c := c.val } s
/-- VLDT (R299): sixteen registers from `a`. -/
def execVldt (x : Pre) (a : VReg) (b c : SReg) (s : State) : Res :=
  vecStride x .vldt a.val b c [] (asDest (regRange a.val 16)) s

/-! ## Rows (R309 to R312) -/

/-- Registers of a row of size code `c`. -/
def rowRegs (c : Fin 8) : Nat := 2 ^ c.val

/-- Registers of the operand of `VROWADD` (R311). -/
def rowAddRegs (x : Pre) (c : Fin 8) : Nat :=
  let d := tyOr x.dtype .f32
  rowRegs c * (if x.stype == .dflt then d else x.stype).width / d.width

/-- VROWLD (R310). -/
def execVrowld (x : Pre) (a : VReg) (b : SReg) (c : Fin 8) (s : State) : Res :=
  vcmdS x b [] (asDest (regRange a.val (rowRegs c))) { cmdOf x .rowld with a := a.val, c := c.val } s
/-- VROWST (R310). -/
def execVrowst (x : Pre) (a : VReg) (b : SReg) (c : Fin 8) (s : State) : Res :=
  vcmdS x b (regRange a.val (rowRegs c)) [] { cmdOf x .rowst with a := a.val, c := c.val } s
/-- VROWADD (R311). -/
def execVrowadd (x : Pre) (a : VReg) (b : SReg) (c : Fin 8) (s : State) : Res :=
  vcmdS x b (regRange a.val (rowAddRegs x c)) [] { cmdOf x .rowadd with a := a.val, c := c.val } s
/-- VROWCAS (R312): the new row, then the comparand. -/
def execVrowcas (x : Pre) (a : VReg) (b : SReg) (c : Fin 8) (s : State) : Res :=
  vcmdS x b (regRange a.val (2 * rowRegs c)) (asDest (regRange a.val (rowRegs c)))
    { cmdOf x .rowcas with a := a.val, c := c.val } s

/-! ## Lazy-uniform values (R369 to R375) -/

/-- A key descriptor's fields (R211). -/
def readKey (bs : List Byte) : KeySlot :=
  let ws := wordsOf64 4 bs
  { kind := recField ws 0 3 0, tbase := ws.getD 1 0, ibase := recField ws 2 47 0, entries := recField ws 3 47 0,
    key := BitVec.ofNat 256 (leNat (bs.drop 32)) }

/-- A key descriptor that R211 forbids. -/
def badKey (bs : List Byte) : Bool :=
  let ws := wordsOf64 4 bs
  let d := readKey bs
  recField ws 0 63 4 != 0 || decide (1 < d.kind) || recField ws 2 63 48 != 0 || recField ws 3 63 48 != 0 ||
  (if d.kind == 0 then d.tbase != 0 || d.ibase != 0 || d.entries != 0
   else d.tbase.toNat % 4 != 0 || d.entries == 0 || d.key != 0)

/-- YSEED (R369). -/
def execYseed (x : Pre) (a : Fin 8) (b : SReg) (s : State) : Res :=
  issue x (fun k => do
    let p ← readS k b
    let bs ← localBlock k p 64 64 0x02 0x60 true
    trapIf (badKey bs) 0x02
    dispatch k false [] [] { cmdOf x (.yseed (readKey bs)) with a := a.val }
    goOn) s

/-- YDRAW (R214, R370): the indices are fixed and `DRAWCTR` is checked and advances at dispatch. -/
def execYdraw (x : Pre) (a : YReg) (b : Fin 8) (s : State) : Res :=
  issue x (fun k => do
    let s ← getState
    holdUnless (s.mayDispatch k false [])
    let t ← getThr k
    trapIf (2 ^ 34 - 16 < fieldOf t.drawctr.toNat 33 0) 0x0C
    dispatch k false [] [] { cmdOf x (.ydraw t.drawctr) with a := a.val, b := b.val }
    modThr k fun t => { t with drawctr := t.drawctr + 16 }
    goOn) s

/-- YCMP (R371). -/
def execYcmp (x : Pre) (a : KReg) (b : YReg) (c : VReg) (s : State) : Res :=
  vcmd x [c] [] { cmdOf x .ycmp with a := a.val, b := b.val, c := c.val } s
/-- YCMPY (R372). -/
def execYcmpy (x : Pre) (a : KReg) (b c : YReg) (s : State) : Res :=
  vcmd x [] [] { cmdOf x .ycmpy with a := a.val, b := b.val, c := c.val } s
/-- YRND (R373). -/
def execYrnd (x : Pre) (a b : VReg) (c : YReg) (s : State) : Res :=
  vcmd x [b] [(true, a)] { cmdOf x .yrnd with a := a.val, b := b.val, c := c.val } s
/-- YCVT (R374). -/
def execYcvt (x : Pre) (a : VReg) (b : YReg) (s : State) : Res :=
  vcmd x [] [(true, a)] { cmdOf x .ycvt with a := a.val, b := b.val } s
/-- YMOV (R374). -/
def execYmov (x : Pre) (a b : YReg) (s : State) : Res :=
  vcmd x [] [] { cmdOf x .ymov with a := a.val, b := b.val } s
/-- YSTAT (R374). -/
def execYstat (x : Pre) (a : VReg) (b : YReg) (c : Fin 8) (s : State) : Res :=
  vcmd x [] [(true, a)] { cmdOf x .ystat with a := a.val, b := b.val, c := c.val } s
/-- YST (R375). -/
def execYst (x : Pre) (a : YReg) (b : SReg) (imm : Word) (s : State) : Res := vecAt x .yst a.val b 512 imm [] [] s
/-- YLD (R375). -/
def execYld (x : Pre) (a : YReg) (b : SReg) (imm : Word) (s : State) : Res := vecAt x .yld a.val b 512 imm [] [] s

/-! ## Transcendentals (R376) -/

/-- VEXP2 (R376). -/
def execVexp2 (x : Pre) (a b : VReg) (s : State) : Res := vec2 x (.trans .exp2) a b 0 s
/-- VLOG2 (R376). -/
def execVlog2 (x : Pre) (a b : VReg) (s : State) : Res := vec2 x (.trans .log2) a b 0 s
/-- VTANH (R376). -/
def execVtanh (x : Pre) (a b : VReg) (s : State) : Res := vec2 x (.trans .tanh) a b 0 s
/-- VSINPI (R376). -/
def execVsinpi (x : Pre) (a b : VReg) (s : State) : Res := vec2 x (.trans .sinpi) a b 0 s
/-- VCOSPI (R376). -/
def execVcospi (x : Pre) (a b : VReg) (s : State) : Res := vec2 x (.trans .cospi) a b 0 s

end Sys2Proof.Machine
end

