-- ==== Sys2Proof/Machine/Perform.lean ====
section
/-!
DEFINITION. The vector engine performs its commands: VECTOR_COMMAND_COMPLETE (R163, R296, R332, R368).
-/
namespace Sys2Proof.Machine
open Sys2Proof

/-! ## Register commands (R333 to R347) -/

/-- One vector register written. -/
def Out.vec (n : Nat) (v : VWord) (fl : Flags := 0) : Out := { vs := [(n, v)], flags := fl }
/-- One mask register written. -/
def Out.mask (n : Nat) (v : Word) (fl : Flags := 0) : Out := { ks := [(n, v)], flags := fl }
/-- One scalar register written. -/
def Out.scalar (n : Nat) (v : Nat) : Out := { ss := [(n, BitVec.ofNat 64 v)] }

/-- A register with a value in lane 0 and zero elsewhere (R345, R346). -/
def lane0 (w v : Nat) : VWord := BitVec.ofNat 512 (v % 2 ^ w)

/-- Flags of the active lanes of a width. -/
def activeFlags (t : Thread) (x : Pre) (w : Nat) (f : Nat → Flags) : Flags :=
  (List.range (512 / w)).foldl (fun g i => if t.active x w i then g ||| f i else g) 0

/-- The commands of pages 4 and 6 on integers, moves and masks. -/
def intOut (t : Thread) (d : Cmd) : Out :=
  let x := d.x
  let ty := tyOr x.dtype .i32
  let w := ty.width
  let n := ty.lanes
  let va := d.vreg t d.a
  let vb := d.vreg t d.b
  let vc := d.vreg t d.c
  let old := t.v.toList.getD d.a 0
  let put (wd : Nat) (f : Nat → Nat) : Out := .vec d.a (t.masked x wd old f)
  let kb := t.kreg ⟨d.b % 8, Nat.mod_lt _ (by decide)⟩
  let kc := t.kreg ⟨d.c % 8, Nat.mod_lt _ (by decide)⟩
  match d.kind with
  | .int o sat => put w fun i => intLane o ty.isSigned sat w (laneOf vb i w) (laneOf vc i w) (laneOf va i w)
  | .shiftImm o => put w fun i => intLane o ty.isSigned false w (laneOf vb i w) d.imm.toNat 0
  | .addw high => put w (addWide x.dtype x.stype x.sat high vb vc)
  | .dot => put 32 (dotLane x.stype.isSigned x.sat va vb vc)
  | .abs => put w fun i => absLane w (laneOf vb i w)
  | .cmp r =>
    .mask d.a (t.maskBits x w n (t.k.toList.getD d.a 0) fun i => relHolds r w (laneOf vb i w) (laneOf vc i w))
  | .sel => .vec d.a (ofLanes w fun i => laneOf (if t.active x w i then vb else vc) i w)
  | .bcast => put w fun _ => d.s1.toNat % 2 ^ w
  | .extr =>
    let v := laneOf vb d.imm.toNat w
    .scalar d.a (if ty.isSigned then wrapNat (sextInt v w) 64 else v)
  | .ins => .vec d.a (ofLanes w fun i => if i == d.imm.toNat then d.s1.toNat else laneOf old i w)
  | .lane => .vec d.a (ofLanes w fun i => wrapNat (d.imm.toInt + i) w)
  | .pack =>
    let ls := x.stype.lanes
    put x.dtype.width fun i =>
      packFit x.dtype x.stype x.sat (if i < ls then laneOf vb i x.stype.width else laneOf vc (i - ls) x.stype.width)
  | .unpk high =>
    put x.dtype.width fun i =>
      unpackLane x.dtype x.stype (laneOf vb (if high then i + x.dtype.lanes else i) x.stype.width)
  | .perm => put w fun i => laneOf vb (laneOf vc i w % n) w
  | .slide up => put w (slideLane up w n d.imm.toNat vb)
  | .mix o => put w (mixLane o w n vb vc)
  | .scan excl =>
    let sums := prefixSums (t.active x w) (fun i => intVal w ty.isSigned (laneOf vb i w)) n 0 0
    put w fun i =>
      let p := sums.getD i (0, 0)
      fitInt w ty.isSigned x.sat (if excl then p.1 else p.2)
  | .red wide =>
    let s := if wide then x.stype else ty
    let sum := laneSum (t.active x s.width) (fun i => intVal s.width s.isSigned (laneOf vb i s.width)) s.lanes
    .vec d.a (lane0 w (fitInt w ty.isSigned x.sat sum))
  | .redmax signed =>
    let best := (List.range n).foldl (fun m i =>
      if t.active x w i then max m (intVal w signed (laneOf vb i w)) else m) (if signed then -(2 ^ (w - 1) : Nat) else 0)
    .vec d.a (lane0 w (wrapNat best w))
  | .kand => .mask d.a (kb &&& kc)
  | .kor => .mask d.a (kb ||| kc)
  | .knot => .mask d.a (~~~kb)
  | .kpopc => .scalar d.a (countOnes kb)
  | .kfirst => .scalar d.a (lowestOne kb)
  | .kmov => .mask d.a d.s1
  | .kmovs => .scalar d.a kb.toNat
  | _ => {}

/-- The floating commands without a stochastic rounding (R339, R344, R346). -/
def floatOut (t : Thread) (d : Cmd) : Out :=
  let x := d.x
  let ty := tyOr x.dtype .f32
  let w := ty.width
  let n := ty.lanes
  let f := ffmt ty
  let vb := d.vreg t d.b
  let vc := d.vreg t d.c
  let old := t.v.toList.getD d.a 0
  let lanes : List (Option Nat) := (List.range n).map fun i => if t.active x w i then some (laneOf vb i w) else none
  match d.kind with
  | .fminmax mx =>
    let r (i : Nat) := minMaxF f x.ftzi mx (laneOf vb i w) (laneOf vc i w)
    .vec d.a (t.masked x w old fun i => (r i).1) (activeFlags t x w fun i => (r i).2)
  | .fabs => .vec d.a (t.masked x w old fun i => laneOf vb i w % f.signBit)
  | .fneg => .vec d.a (t.masked x w old fun i => laneOf vb i w ^^^ f.signBit)
  | .fcmp rel =>
    let c : FCmp := match rel with | .eq => .eq | .lt => .lt | _ => .le
    let r (i : Nat) := cmpF f x.ftzi c (laneOf vb i w) (laneOf vc i w)
    .mask d.a (t.maskBits x w n (t.k.toList.getD d.a 0) fun i => (r i).1) (activeFlags t x w fun i => (r i).2)
  | .scan excl =>
    let (sums, fl) := floatScan f (ctlOf x) x.ftzi (t.active x w) (fun i => laneOf vb i w) n 0 none 0
    .vec d.a (t.masked x w old fun i =>
      let p := sums.getD i (0, 0)
      if excl then p.1 else p.2) fl
  | .fred => let (b, fl) := sumTree f (ctlOf x) x.ftzi lanes; .vec d.a (lane0 w b) fl
  | .fredmax => let (b, fl) := maxTree f x.ftzi lanes; .vec d.a (lane0 w b) fl
  | _ => {}

/-! ## Roundings (R202, R330, R338, R340, R373, R376) -/

/-- The lanes a command rounds: its destination type, and destination lanes with what their roundings give. -/
def roundings (t : Thread) (d : Cmd) : Ty × List (Nat × RoundRes) :=
  let x := d.x
  let c := ctlOf x
  let va := d.vreg t d.a
  let vb := d.vreg t d.b
  let vc := d.vreg t d.c
  match d.kind with
  | .flt o =>
    let ty := tyOr x.dtype .f32
    let w := ty.width
    let op : FOp := match o with
      | .add => .add | .sub => .sub | .mul => .mul | .fma => .fma | .fnma => .fnma | .div => .div | .sqrt => .sqrt
      | .rcp => .rcp | .rsq => .rsq
    (ty, ((List.range ty.lanes).filter (t.active x w)).map fun i =>
      (i, fArith (ffmt ty) x.ftzi c op (laneOf vb i w) (laneOf vc i w) (laneOf va i w)))
  | .trans o =>
    let ty := tyOr x.dtype .f32
    let w := ty.width
    (ty, ((List.range ty.lanes).filter (t.active x w)).map fun i => (i, fTrans (ffmt ty) x.ftzi c o (laneOf vb i w)))
  | .cvt =>
    let dt := tyOr x.dtype .i32
    let st := tyOr x.stype .i32
    let n := 512 / max dt.width st.width
    let p := d.imm.toNat
    let dst (i : Nat) : Nat := if dt.width < st.width then p * n + i else i
    let src (i : Nat) : Nat := if st.width < dt.width then p * n + i else i
    (dt, ((List.range n).filter fun i => t.active x dt.width (dst i)).map fun i =>
      (dst i, convert st dt x.ftzi c (laneOf vb (src i) st.width)))
  | .yrnd =>
    let st := tyOr x.stype .f32
    let dt := tyOr x.dtype .bf16
    (dt, ((List.range 16).filter fun i => t.active x dt.width i).map fun i =>
      (i, convert st dt x.ftzi { c with rnd := .sr } (laneOf vb i st.width)))
  | _ => (.f32, [])

/-- The destination lanes a command of `roundings` covers; the others keep their values (R340, R373). -/
def covers (d : Cmd) (i : Nat) : Bool :=
  match d.kind with
  | .cvt =>
    let dw := (tyOr d.x.dtype .i32).width
    let sw := (tyOr d.x.stype .i32).width
    let n := 512 / max dw sw
    if dw < sw then decide (d.imm.toNat * n ≤ i ∧ i < d.imm.toNat * n + n) else true
  | .yrnd => i < 16
  | _ => true

/-- Who draws for a command of the vector engine. -/
def drawerOf (s : State) (core : Nat) (d : Cmd) : Drawer :=
  { core := core, ts := d.ts, keys := (s.core core).keys, id := d.id, paid := d.paid }

/-- A command whose extension stopped: late, or waiting for its requests at the port (R71, R213). -/
def State.drawStopped (s : State) (core : Nat) (d : Cmd) : DrawStop → Done
  | .fault c a s => .late s c a
  | .held n => .wait ((s.payDraws core (n - d.paid)).markPaid core false n)
  | .wait => .wait s

/-- Lanes rounded, each by its lane of U: their bits, the flags and the lazy-uniform registers (R185, R217). -/
def State.resolve (s : State) (d : Drawer) (base : Nat) (rs : List (Nat × RoundRes)) (ys : Vector YVec 8) :
    Except DrawStop (List (Nat × Nat) × Flags × Vector YVec 8 × State) :=
  let wants (ys : Vector YVec 8) : List Nat :=
    rs.filterMap fun (i, r) => if r.open_ (yLane ys base i) then some (16 * base + i) else none
  match s.extend d wants ys with
  | .error e => .error e
  | .ok (ys, s) =>
    let out := rs.map fun (i, r) => (i, r.by_ (yLane ys base i))
    .ok (out.map fun (i, (b, _), _) => (i, b), out.foldl (fun g (_, (_, f), _) => g ||| f) 0,
      out.foldl (fun ys (i, _, l) => setYLane ys base i l) ys, s)

/-- A command of `roundings` performed. -/
def State.performRound (s : State) (core : Nat) (d : Cmd) : Done :=
  let t := s.thread core d.ts
  let (ty, rs) := roundings t d
  let base := if d.kind == .yrnd then d.c else d.x.yreg.val
  match s.resolve (drawerOf s core d) base rs t.y with
  | .error e => s.drawStopped core d e
  | .ok (bs, fl, ys, s) =>
    let old := t.v.toList.getD d.a 0
    let w := ty.width
    let v := ofLanes w fun i =>
      if !covers d i then laneOf old i w
      else if t.active d.x w i then ((bs.find? (·.1 == i)).map (·.2)).getD 0
      else if d.x.zero then 0 else laneOf old i w
    s.finish core d { vs := [(d.a, v)], ys := some ys, flags := fl }

/-! ## Lazy-uniform commands (R369 to R374) -/

/-- A threshold as a fraction n / 2^k (R216): none for a NaN, 0 for values that are not above 0. -/
def threshold (ty : Ty) (ftzi : Bool) (bits : Nat) : Option (Nat × Nat) :=
  if ty == .n32 then some (bits, 32)
  else
    match (unpackF (ffmt ty) ftzi bits).1 with
    | .nan => none
    | .inf neg => some (if neg then 0 else 1, 0)
    | .fin neg m e => some (if neg then 0 else shiftI m (max e 0), (-e).toNat)

/-- The active lanes of `YCMP`: decisions, whether a threshold was a NaN, lanes (R216, R371). -/
def State.decideLanes (s : State) (d : Drawer) (yb : Nat) (l : List (Nat × Option (Nat × Nat))) (ys : Vector YVec 8) :
    Except DrawStop (List (Nat × Bool) × Bool × Vector YVec 8 × State) :=
  let wants (ys : Vector YVec 8) : List Nat := l.filterMap fun (i, t) =>
    match t with
    | some (n, k) => if (yLane ys yb i).openBelow n k then some (16 * yb + i) else none
    | none => none
  match s.extend d wants ys with
  | .error e => .error e
  | .ok (ys, s) =>
    .ok (l.map fun (i, t) => (i, match t with | some (n, k) => ((yLane ys yb i).below n k).1 | none => false),
      l.any (·.2.isNone), ys, s)

/-- The active lanes of `YCMPY`: decisions, pairs exhausted, lanes (R218, R372). -/
def State.compareLanes (s : State) (d : Drawer) (yb yc : Nat) (l : List Nat) (ys : Vector YVec 8) :
    Except DrawStop (List (Nat × Bool) × Nat × Vector YVec 8 × State) :=
  let wants (ys : Vector YVec 8) : List Nat := l.flatMap fun i =>
    let g := openPair (yLane ys yb i) (yLane ys yc i)
    (if g.1 then [16 * yb + i] else []) ++ (if g.2 then [16 * yc + i] else [])
  match s.extend d wants ys with
  | .error e => .error e
  | .ok (ys, s) =>
    let spent := l.filter fun i => pairSpent (yLane ys yb i) (yLane ys yc i)
    let mark (ys : Vector YVec 8) (i : Nat) : Vector YVec 8 :=
      let a := yLane ys yb i
      let b := yLane ys yc i
      setYLane (setYLane ys yb i { a with exh := true }) yc i { b with exh := true }
    .ok (l.map fun i => (i, pairLess (yLane ys yb i) (yLane ys yc i)), spent.length, spent.foldl mark ys, s)

/-- The active lanes of `YCVT` (R219). -/
def State.convertLanes (s : State) (d : Drawer) (yb : Nat) (l : List Nat) (ys : Vector YVec 8) :
    Except DrawStop (List (Nat × Nat) × Vector YVec 8 × State) :=
  let wants (ys : Vector YVec 8) : List Nat :=
    l.filterMap fun i => if (yLane ys yb i).openFloat then some (16 * yb + i) else none
  match s.extend d wants ys with
  | .error e => .error e
  | .ok (ys, s) =>
    .ok (l.map fun i => (i, (yLane ys yb i).float.1),
      l.foldl (fun ys i => setYLane ys yb i (yLane ys yb i).float.2) ys, s)

/-- A decision found by its lane. -/
def found (l : List (Nat × Bool)) (i : Nat) : Bool := ((l.find? (·.1 == i)).map (·.2)).getD false

/-- What `YSTAT` shows of a lane (R374). -/
def yStatus (item : Nat) (l : YLane) : Nat :=
  if item == 0 then l.len + l.slot.val * 2 ^ 8 + boolNat l.exh * 2 ^ 11
  else if item == 1 then l.index.toNat % 2 ^ 32
  else l.index.toNat / 2 ^ 32

/-- The lazy-uniform commands that touch no memory. -/
def State.performLazy (s : State) (core : Nat) (d : Cmd) : Done :=
  let t := s.thread core d.ts
  let x := d.x
  let act := (List.range 16).filter (t.active x 32)
  let oldK := t.k.toList.getD d.a 0
  let oldV := t.v.toList.getD d.a 0
  match d.kind with
  | .yseed slot => .ok (s.setCore core { s.core core with keys := (s.core core).keys.setIfInBounds d.a slot })
  | .ydraw first =>
    let y : YVec := Vector.ofFn fun j =>
      { known := 0, len := 0, index := first + BitVec.ofNat 48 j.val, slot := ⟨d.b % 8, Nat.mod_lt _ (by decide)⟩,
        exh := false }
    s.finish core d { ys := some (t.y.setIfInBounds d.a y) }
  | .ycmp =>
    let ty := tyOr x.stype .f32
    let ts := act.map fun i => (i, threshold ty x.ftzi (laneOf (d.vreg t d.c) i ty.width))
    match s.decideLanes (drawerOf s core d) d.b ts t.y with
    | .error e => s.drawStopped core d e
    | .ok (l, nv, ys, s) =>
      s.finish core d { ks := [(d.a, t.maskBits x 32 16 oldK (found l))], ys := some ys, flags := if nv then flagNV else 0 }
  | .ycmpy =>
    match s.compareLanes (drawerOf s core d) d.b d.c act t.y with
    | .error e => s.drawStopped core d e
    | .ok (l, pairs, ys, s) =>
      s.finish core d { ks := [(d.a, t.maskBits x 32 16 oldK (found l))], ys := some ys, pairs := pairs }
  | .ycvt =>
    match s.convertLanes (drawerOf s core d) d.b act t.y with
    | .error e => s.drawStopped core d e
    | .ok (l, ys, s) =>
      let v := t.masked x 32 oldV fun i => ((l.find? (·.1 == i)).map (·.2)).getD 0
      s.finish core d { vs := [(d.a, v)], ys := some ys }
  | .ymov =>
    let src := t.y.toList.getD d.b (Vector.replicate 16 {})
    let y : YVec := Vector.ofFn fun j =>
      if t.active x 32 j.val then src[j] else yLane t.y d.a j.val
    s.finish core d { ys := some (t.y.setIfInBounds d.a y) }
  | .ystat => s.finish core d (.vec d.a (ofLanes 32 fun i => yStatus d.c (yLane t.y d.b i)))
  | _ => .ok s

/-! ## Vector memory (R297 to R299, R375) -/

/-- The element type of a vector access, with 4-bit types by the byte. -/
def memWidth (x : Pre) : Nat := max 8 (tyOr x.dtype .i32).width

/-- The active elements of a vector access (R297 to R299). -/
def memElems (t : Thread) (d : Cmd) : List Elem :=
  let w := memWidth d.x
  let n := w / 8
  let act := (List.range (512 / w)).filter (t.active d.x w)
  match d.kind with
  | .vld | .vst => act.map fun i => (i, d.s1 + BitVec.ofNat 64 (i * n), n)
  | .vlds | .vsts => act.map fun i => (i, d.s1 + BitVec.ofNat 64 i * d.s2, n)
  | .vldg | .vstg => act.map fun i => (i, d.s1 + wordOfInt (sextInt (laneOf (d.vreg t d.c) i 32) 32), n)
  | .vldt => (List.range 256).map fun k => (k, d.s1 + BitVec.ofNat 64 (k % 16) * d.s2 + BitVec.ofNat 64 (4 * (k / 16)), 4)
  | _ => (List.range 64).map fun k => (k, d.s1 + BitVec.ofNat 64 (8 * k), 8)

/-- The bytes of a lazy-uniform register, by doublewords (R221). -/
def yWord (y : YVec) (k : Nat) : Nat :=
  let l := y.toList.getD (k / 4) {}
  let chunk (j : Nat) : Nat := if 32 * j < l.len then l.known.toNat / 2 ^ (160 - 32 * j) % 2 ^ 32 else 0
  if k % 4 < 3 then chunk (2 * (k % 4)) + 2 ^ 32 * chunk (2 * (k % 4) + 1)
  else l.index.toNat + l.len * 2 ^ 48 + (l.slot.val + boolNat l.exh * 8) * 2 ^ 56

/-- A lane from its four doublewords; none when it breaks R221. -/
def yParse (ws : List Nat) : Option YLane :=
  let w (i : Nat) : Nat := ws.getD i 0
  let chunk (j : Nat) : Nat := w (j / 2) / 2 ^ (32 * (j % 2)) % 2 ^ 32
  let len := fieldOf (w 3) 55 48
  if decide (192 < len) || len % 32 != 0 || fieldOf (w 3) 63 60 != 0 ||
      (List.range 6).any (fun j => decide (len ≤ 32 * j) && chunk j != 0) then none
  else some { known := BitVec.ofNat 192 ((List.range 6).foldl (fun a j => a * 2 ^ 32 + chunk j) 0), len := len,
              index := BitVec.ofNat 48 (fieldOf (w 3) 47 0),
              slot := ⟨fieldOf (w 3) 58 56 % 8, Nat.mod_lt _ (by decide)⟩, exh := bitOf (w 3) 59 }

/-- A value of an element list. -/
def valueAt (l : List (Nat × Nat)) (i : Nat) : Nat := ((l.find? (·.1 == i)).map (·.2)).getD 0

/-- The vector loads and stores performed. -/
def State.performMem (s : State) (core : Nat) (d : Cmd) : Done :=
  let t := s.thread core d.ts
  let es := memElems t d
  let w := memWidth d.x
  let old := t.v.toList.getD d.a 0
  match d.kind with
  | .vld | .vlds | .vldg =>
    match s.loadElems core false d es (if d.kind == .vld then some 64 else none) with
    | .inl r => r
    | .inr (l, s) => s.finish core d (.vec d.a (t.masked d.x w old (valueAt l)))
  | .vldt =>
    match s.loadElems core false d es none with
    | .inl r => r
    | .inr (l, s) =>
      s.finish core d { vs := (List.range 16).map fun i => (d.a + i, ofLanes 32 fun j => valueAt l (16 * i + j)) }
  | .vst | .vsts | .vstg =>
    s.storeElems core false d (es.map fun e => (e, laneOf (d.vreg t d.a) e.1 w)) (if d.kind == .vst then some 64 else none)
  | .yst =>
    if d.s1.toNat % 32 != 0 then .late s 0x60 d.s1
    else
      let y := t.y.toList.getD d.a (Vector.replicate 16 {})
      s.storeElems core false d (es.map fun e => (e, yWord y e.1)) (some 512)
  | .yld =>
    if d.s1.toNat % 32 != 0 then .late s 0x60 d.s1
    else
      match s.loadElems core false d es (some 512) with
      | .inl r => r
      | .inr (l, s') =>
        let ls := (List.range 16).map fun i => yParse ((List.range 4).map fun j => valueAt l (4 * i + j))
        match ls.findIdx? (·.isNone) with
        | some i => .late s' 0x40 (d.s1 + BitVec.ofNat 64 (32 * i))
        | none =>
          let y : YVec := Vector.ofFn fun j => (ls.getD j.val none).getD {}
          s'.finish core d { ys := some (t.y.setIfInBounds d.a y) }
  | _ => .ok s

/-! ## Rows (R113, R162, R309 to R312) -/

/-- The elements of `VROWADD` summed with the operand (R311): under SR the home extends copies of the lanes (R223). -/
def State.rowSums (s : State) (core : Nat) (d : Cmd) (row : Nat) : Except DrawStop (List Nat × Flags × State) :=
  let t := s.thread core d.ts
  let dt := tyOr d.x.dtype .f32
  let st := if d.x.stype == .dflt then dt else d.x.stype
  let count := 512 * 2 ^ d.c / dt.width
  let per := st.lanes
  let operand (e : Nat) : Nat := laneOf (d.vreg t (d.a + e / per)) (e % per) st.width
  let old (e : Nat) : Nat := row / 2 ^ (e * dt.width) % 2 ^ dt.width
  if dt.isFloat then
    let rs := (List.range count).map fun e =>
      let (u, su) := unpackF (ffmt dt) d.x.ftzi (old e)
      let (v, sv) := unpackF (ffmt st) d.x.ftzi (operand e)
      let (z, f) := addX (d.x.rnd == .rdn) u v
      (e, deliver (ffmt dt) (ctlOf d.x) z (f ||| sigFlags [su, sv]))
    match s.resolve { drawerOf s core d with atHome := true } d.x.yreg.val rs t.y with
    | .error e => .error e
    | .ok (bs, fl, _, s) => .ok (bs.map (·.2), fl, s)
  else
    .ok ((List.range count).map fun e =>
      fitInt dt.width dt.isSigned d.x.sat
        (intVal dt.width dt.isSigned (old e) + intVal st.width st.isSigned (operand e)), 0, s)

/-- A row command performed: one access at the row's home. -/
def State.performRow (s : State) (core : Nat) (d : Cmd) : Done :=
  let t := s.thread core d.ts
  let k := 2 ^ d.c
  let n := 64 * k
  let write := d.kind != .rowld
  let regs (a : Nat) : Nat := packLanes 512 ((List.range k).map fun i => (d.vreg t (a + i)).toNat)
  let loaded (row : Nat) : Out := { vs := (List.range k).map fun i => (d.a + i, BitVec.ofNat 512 (row / 2 ^ (512 * i))) }
  if d.s1.toNat % n != 0 then .late s 0x60 d.s1
  else
    match s.place core d.s1 false with
    | .error e => .late s e d.s1
    | .ok (.pad _ _) => .late s 0x6E d.s1
    | .ok _ =>
      match s.access core d.s1 n n write false with
      | .error e => .late (s.walked (s.asidOf core) d.s1 e) e d.s1
      | .ok (acc, s1) =>
        if s.behindStore core d.ts d.id acc.loc n then .wait s
        else if acc.place.isGlobal && s.bandwidthHeld core then .wait (s.noteHeld core false)
        else
          let row := leNat (s1.bytesAt acc.loc n)
          let cost (s : State) : State :=
            (if acc.place.isGlobal then s.debitBandwidth core n else s).touch core acc
          let put (s : State) (v : Nat) : State :=
            (List.range k).foldl (fun s i =>
              s.foldVector core d.ts (d.s1 + BitVec.ofNat 64 (64 * i)) (leBytes 64 (v / 2 ^ (512 * i))))
              (s.land acc.loc (leBytes n v))
          match d.kind with
          | .rowld => (cost s1).finish core d (loaded row)
          | .rowst => .ok (put (cost s1) (regs d.a))
          | .rowcas =>
            let s2 := cost s1
            (if row == regs (d.a + k) then put s2 (regs d.a) else s2).finish core d (loaded row)
          | _ =>
            match s1.rowSums core d row with
            | .error e => s.drawStopped core d e
            | .ok (l, fl, s2) => (put (cost s2) (packLanes (tyOr d.x.dtype .f32).width l)).finish core d { flags := fl }

/-- A vector command performed. -/
def State.performVector (s : State) (core : Nat) (d : Cmd) : Done :=
  match d.kind with
  | .vld | .vst | .vlds | .vsts | .vldg | .vstg | .vldt | .yst | .yld => s.performMem core d
  | .rowld | .rowst | .rowadd | .rowcas => s.performRow core d
  | .flt _ | .trans _ | .cvt | .yrnd => s.performRound core d
  | .yseed _ | .ydraw _ | .ycmp | .ycmpy | .ycvt | .ymov | .ystat => s.performLazy core d
  | .fminmax _ | .fabs | .fneg | .fcmp _ | .fred | .fredmax => s.finish core d (floatOut (s.thread core d.ts) d)
  | .scan _ =>
    s.finish core d (if d.x.dtype.isFloat then floatOut (s.thread core d.ts) d else intOut (s.thread core d.ts) d)
  | _ => s.finish core d (intOut (s.thread core d.ts) d)

/-- A command touches a home outside its scope: it is stripped of its order (R159, R296). -/
def State.stripped (s : State) (core : Nat) (d : Cmd) : Bool :=
  missesScope d.x (farthest (checkElems core d.vectorStore (memElems (s.thread core d.ts) d) s).1)

/-- VECTOR_COMMAND_COMPLETE (R163, R332): the oldest command of the core's vector engine is performed; a release that reaches its
scope is held until the thread's earlier stores have landed (R296). -/
def execVectorCommandComplete (core : Fin 4096) (s : State) : Res :=
  match (s.core core).vq with
  | [] => .next s
  | d :: _ =>
    if (s.releaseHolds core d && !s.stripped core d) || s.behindOther core false d then .next s
    else .next (endCmd core false d (s.performVector core d))

end Sys2Proof.Machine
end

