-- ==== Sys2Proof/Machine/Matrix.lean ====
section
/-!
DEFINITION. Matrix instructions: claims, slots, exchanges, accumulators, multiply-accumulates and their waits; and
MATRIX_COMMAND_COMPLETE (R193 to R200, R349 to R365).
-/
namespace Sys2Proof.Machine
open Sys2Proof

/-! ## Dispatch -/

/-- A line word that R354 forbids. -/
def badLineWord (transposed : Bool) (w : Word) : Bool :=
  fieldOf w.toNat 63 34 != 0 || (!transposed && fieldOf w.toNat 33 32 != 0)

/-- A matrix load or store of a slot or accumulator. -/
def matMem (x : Pre) (e : EKind) (transposed : Bool) (a : Nat) (b c : SReg) (s : State) : Res :=
  issue x (fun k => do
    let p ← readS k b
    let l ← readS k c
    if badLineWord transposed l then fun _ => .error (.trapIn (fun s => s.debitSpace k p) 0x02 0)
    else dispatch k true [] [] { cmdOf x e with a := a, s1 := p, s2 := l }
    goOn) s

/-- A matrix command without scalar sources. -/
def matCmd (x : Pre) (d : Cmd) (s : State) : Res :=
  issue x (fun k => do
    dispatch k true [] [] d
    goOn) s

/-- OCLM (R353): decided at issue. -/
def execOclm (x : Pre) (a : SReg) (b : OReg) (imm : Word) (s : State) : Res :=
  issue x (fun k => do
    let c ← getCore k
    let mine (i : Fin 32) : Bool := decide (b.val ≤ i.val ∧ i.val ≤ b.val + imm.toNat)
    let free := (List.finRange 32).all fun i => !mine i || c.slots[i].owner.isNone || c.slots[i].owner == some k.ts
    if free then
      modCore k fun c =>
        let claim (i : Fin 32) : OSlot := if mine i then { c.slots[i] with owner := some k.ts } else c.slots[i]
        { c with slots := Vector.ofFn claim }
    writeS k a (boolWord (!free))
    goOn) s

/-- OREL (R353). -/
def execOrel (x : Pre) (b : OReg) (imm : Word) (s : State) : Res :=
  matCmd x { cmdOf x .orel with b := b.val, imm := imm } s
/-- OLD (R355). -/
def execOld (x : Pre) (a : OReg) (b c : SReg) (s : State) : Res := matMem x (.old false) false a.val b c s
/-- OLDB (R355). -/
def execOldb (x : Pre) (a : OReg) (b c : SReg) (s : State) : Res := matMem x (.old true) false a.val b c s
/-- OLDT (R355). -/
def execOldt (x : Pre) (a : OReg) (b c : SReg) (s : State) : Res := matMem x (.oldt false) true a.val b c s
/-- OLDTB (R355). -/
def execOldtb (x : Pre) (a : OReg) (b c : SReg) (s : State) : Res := matMem x (.oldt true) true a.val b c s
/-- OST (R355). -/
def execOst (x : Pre) (a : OReg) (b c : SReg) (s : State) : Res := matMem x .ost false a.val b c s

/-- OSWAP (R356): the k-th of its mask on this core. -/
def execOswap (x : Pre) (a : OReg) (b : SReg) (s : State) : Res :=
  issue x (fun k => do
    let m ← readS k b
    trapIf (m = 0 || 0xFFF < m.toNat) 0x02
    let c ← getCore k
    let n := tblGet c.swaps m.toNat 0
    dispatch k true [] [] { cmdOf x (.oswap n) with a := a.val, s1 := m }
    modCore k fun c => { c with swaps := tblSet c.swaps m.toNat (n + 1) }
    goOn) s

/-- ZCLR (R357). -/
def execZclr (x : Pre) (a : ZReg) (s : State) : Res := matCmd x { cmdOf x .zclr with a := a.val } s
/-- ZST (R357). -/
def execZst (x : Pre) (a : ZReg) (b c : SReg) (s : State) : Res := matMem x .zst false a.val b c s
/-- ZLD (R357). -/
def execZld (x : Pre) (a : ZReg) (b c : SReg) (s : State) : Res := matMem x .zld false a.val b c s

/-- A selector of `ZMOVV` that R358 forbids. -/
def badSelector (t : Ty) (w : Word) : Bool :=
  w.toNat - (fieldOf w.toNat 4 0 + fieldOf w.toNat 10 8 * 2 ^ 8) != 0 || decide (64 / t.lanes ≤ fieldOf w.toNat 10 8)

/-- ZMOVV (R358). -/
def execZmovv (x : Pre) (a : VReg) (b : ZReg) (c : SReg) (s : State) : Res :=
  issue x (fun k => do
    let w ← readS k c
    trapIf (badSelector (tyOr x.dtype .f32) w) 0x02
    dispatch k true [] [(true, a)] { cmdOf x .zmovv with a := a.val, b := b.val, s1 := w }
    goOn) s

/-- MWAIT (R362): until the thread's matrix commands have completed and their writes have landed, which then enter its digest
(R163, R248). -/
def execMwait (x : Pre) (s : State) : Res :=
  issue x (fun k => do
    let s ← getState
    if !s.idleM k || (s.storesOf k.core k.ts).any Fly.byEngine then
      fun _ => .error (.holdIn fun s => s.modThread k.core k.ts fun t => { t with matWait := true })
    else do
    modState fun s => s.foldWrites k.core k.ts (s.thread k.core k.ts).unfolded
    modThr k fun t => { t with unfolded := [] }
    goOn) s

/-- MSTAT (R363). -/
def execMstat (x : Pre) (a : SReg) (imm : Word) (s : State) : Res :=
  issue x (fun k => do
    dispatch k true [] [(false, a)] { cmdOf x .mstat with a := a.val, imm := imm }
    goOn) s

/-- A multiply-accumulate without a fourth operand. -/
def mma (x : Pre) (f : MFmt) (ow : Bool) (a : ZReg) (b c : OReg) (s : State) : Res :=
  matCmd x { cmdOf x (.mma f ow) with a := a.val, b := b.val, c := c.val } s

/-- An integer multiply-accumulate: s[d] gives the signedness (R361). -/
def mmaInt (x : Pre) (f : MFmt) (ow : Bool) (a : ZReg) (b c : OReg) (d : Fin 16) (s : State) : Res :=
  issue x (fun k => do
    let w ← readS k (d.castLE (by decide))
    trapIf (3 < w.toNat) 0x02
    dispatch k true [] [] { cmdOf x (.mma f ow) with a := a.val, b := b.val, c := c.val, s1 := w }
    goOn) s

/-- A scaled multiply-accumulate: s[d] holds the scale words (R361). -/
def mmaScaled (x : Pre) (f : MFmt) (ow : Bool) (a : ZReg) (b c : OReg) (d : Fin 16) (s : State) : Res :=
  issue x (fun k => do
    let w ← readS k (d.castLE (by decide))
    dispatch k true [] [] { cmdOf x (.mma f ow) with a := a.val, b := b.val, c := c.val, s1 := w }
    goOn) s

/-- MMA_BF (R360). -/
def execMmaBf (x : Pre) (a : ZReg) (b c : OReg) (s : State) : Res := mma x .bf false a b c s
/-- MMA_BF_OW (R360). -/
def execMmaBfOw (x : Pre) (a : ZReg) (b c : OReg) (s : State) : Res := mma x .bf true a b c s
/-- MMA_HF (R360). -/
def execMmaHf (x : Pre) (a : ZReg) (b c : OReg) (s : State) : Res := mma x .hf false a b c s
/-- MMA_HF_OW (R360). -/
def execMmaHfOw (x : Pre) (a : ZReg) (b c : OReg) (s : State) : Res := mma x .hf true a b c s
/-- MMA_F32 (R360). -/
def execMmaF32 (x : Pre) (a : ZReg) (b c : OReg) (s : State) : Res := mma x .f32 false a b c s
/-- MMA_F32_OW (R360). -/
def execMmaF32Ow (x : Pre) (a : ZReg) (b c : OReg) (s : State) : Res := mma x .f32 true a b c s
/-- MMA_E4 (R360). -/
def execMmaE4 (x : Pre) (a : ZReg) (b c : OReg) (s : State) : Res := mma x .e4 false a b c s
/-- MMA_E4_OW (R360). -/
def execMmaE4Ow (x : Pre) (a : ZReg) (b c : OReg) (s : State) : Res := mma x .e4 true a b c s
/-- MMA_E5 (R360). -/
def execMmaE5 (x : Pre) (a : ZReg) (b c : OReg) (s : State) : Res := mma x .e5 false a b c s
/-- MMA_E5_OW (R360). -/
def execMmaE5Ow (x : Pre) (a : ZReg) (b c : OReg) (s : State) : Res := mma x .e5 true a b c s
/-- MMA_E45 (R360). -/
def execMmaE45 (x : Pre) (a : ZReg) (b c : OReg) (s : State) : Res := mma x .e45 false a b c s
/-- MMA_E45_OW (R360). -/
def execMmaE45Ow (x : Pre) (a : ZReg) (b c : OReg) (s : State) : Res := mma x .e45 true a b c s
/-- MMA_I8 (R360). -/
def execMmaI8 (x : Pre) (a : ZReg) (b c : OReg) (d : Fin 16) (s : State) : Res := mmaInt x .i8 false a b c d s
/-- MMA_I8_OW (R360). -/
def execMmaI8Ow (x : Pre) (a : ZReg) (b c : OReg) (d : Fin 16) (s : State) : Res := mmaInt x .i8 true a b c d s
/-- MMA_I4 (R360). -/
def execMmaI4 (x : Pre) (a : ZReg) (b c : OReg) (d : Fin 16) (s : State) : Res := mmaInt x .i4 false a b c d s
/-- MMA_I4_OW (R360). -/
def execMmaI4Ow (x : Pre) (a : ZReg) (b c : OReg) (d : Fin 16) (s : State) : Res := mmaInt x .i4 true a b c d s
/-- MMA_Q8 (R200). -/
def execMmaQ8 (x : Pre) (a : ZReg) (b c : OReg) (d : Fin 16) (s : State) : Res := mmaScaled x .q8 false a b c d s
/-- MMA_Q8_OW (R200). -/
def execMmaQ8Ow (x : Pre) (a : ZReg) (b c : OReg) (d : Fin 16) (s : State) : Res := mmaScaled x .q8 true a b c d s
/-- MMA_Q4Q8 (R200). -/
def execMmaQ4q8 (x : Pre) (a : ZReg) (b c : OReg) (d : Fin 16) (s : State) : Res := mmaScaled x .q4q8 false a b c d s
/-- MMA_Q4Q8_OW (R200). -/
def execMmaQ4q8Ow (x : Pre) (a : ZReg) (b c : OReg) (d : Fin 16) (s : State) : Res := mmaScaled x .q4q8 true a b c d s
/-- MMA_Q4 (R200). -/
def execMmaQ4 (x : Pre) (a : ZReg) (b c : OReg) (d : Fin 16) (s : State) : Res := mmaScaled x .q4 false a b c d s
/-- MMA_Q4_OW (R200). -/
def execMmaQ4Ow (x : Pre) (a : ZReg) (b c : OReg) (d : Fin 16) (s : State) : Res := mmaScaled x .q4 true a b c d s

/-! ## Slots and accumulators (R350, R355, R357) -/

/-- A slot of a core. -/
def Core.slot (c : Core) (n : Nat) : OSlot := c.slots.toList.getD n {}
/-- A core's slot set. -/
def Core.setSlot (c : Core) (n : Nat) (o : OSlot) : Core := { c with slots := c.slots.setIfInBounds n o }
/-- The thread set of a command holds a slot's claim (R352). -/
def State.claimed (s : State) (core : Nat) (d : Cmd) (n : Nat) : Bool := ((s.core core).slot n).owner == some d.ts

/-- Operand memory and accumulators written at a key. -/
def State.writeOperand (s : State) (key : Nat) (bs : List Byte) : State :=
  { s with mem := { s.mem with operand := writeSpan s.mem.operand key bs } }

/-- Line `n` of a slot, as an integer of 1,024 bits. -/
def State.slotLine (s : State) (core slot n : Nat) : Nat := readLE s.mem.operand (slotKey core slot + 128 * n) 128

/-- Lane (i, j) of an accumulator, 48 bits. -/
def State.zLane (s : State) (core z i j : Nat) : Nat := readLE s.mem.operand (laneKey core z i j) 6

/-- An accumulator written, lanes in row order. -/
def State.writeZ (s : State) (core z : Nat) (lanes : List Nat) : State :=
  s.writeOperand (laneKey core z 0 0) (lanes.flatMap (leBytes 6 ·))

/-- A signed 32-bit stride (R354). -/
def lineStride (w : Word) : Word := wordOfInt (sextInt (fieldOf w.toNat 31 0) 32)
/-- The element width of a transposed load (R354). -/
def lineWidth (w : Word) : Nat := 4 * 2 ^ fieldOf w.toNat 33 32

/-- Rows of `n` bytes at a stride, in pieces of `u` bytes: piece number, address and size. -/
def rowPieces (p stride : Word) (rows n u : Nat) : List Elem :=
  (List.range (rows * (n / u))).map fun k =>
    (k, p + BitVec.ofNat 64 (k / (n / u)) * stride + BitVec.ofNat 64 (k % (n / u) * u), u)

/-- An element put before the first of a list whose key is not smaller. -/
def insertKey {α : Type} (key : α → Nat) (a : α) : List α → List α
  | [] => [a]
  | b :: l => if key a ≤ key b then a :: b :: l else b :: insertKey key a l

/-- A list in the order of its keys; elements of one key keep theirs. -/
def sortKey {α : Type} (key : α → Nat) : List α → List α
  | [] => []
  | a :: l => insertKey key a (sortKey key l)

/-- Pieces by rising address, the order in which faults count (R354). -/
def byAddress (l : List Elem) : List Elem := sortKey (fun e => e.2.1.toNat) l

/-- The rows a matrix load or store touches: count, bytes of a row, and bytes of a piece. -/
def matShape (d : Cmd) : Nat × Nat × Nat :=
  match d.kind with
  | .oldt _ => (1024 / lineWidth d.s2, 4 * lineWidth d.s2, 16)
  | .zst | .zld => (32, 512, 8)
  | _ => (32, 128, 16)

/-- Its pieces. -/
def matPieces (d : Cmd) : List Elem :=
  let (rows, n, u) := matShape d
  rowPieces d.s1 (lineStride d.s2) rows n u

/-- Address or stride is misaligned (R354). -/
def matMisaligned (d : Cmd) : Bool :=
  let u := (matShape d).2.2
  d.s1.toNat % u != 0 || (lineStride d.s2).toNat % u != 0

/-- Bytes that the requests of a matrix access count for (R71). -/
def matTraffic (d : Cmd) : Nat := let (rows, n, _) := matShape d; rows * ((n + 63) / 64 * 64)

/-- The rows a load read: an integer for each row, from the values of its pieces. -/
def rowValues (d : Cmd) (l : List (Nat × Nat)) : List Nat :=
  let (rows, n, u) := matShape d
  let sorted := (sortKey (·.1) l).map (·.2)
  (List.range rows).map fun i => packLanes (8 * u) ((sorted.drop (i * (n / u))).take (n / u))

/-- The 32 lines of a slot that a load of rows fills (R355). -/
def slotLines (d : Cmd) (rows : List Nat) : List Nat :=
  match d.kind with
  | .oldt _ =>
    let w := lineWidth d.s2
    (List.range 32).map fun n => packLanes w (rows.map fun r => r / 2 ^ (n * w) % 2 ^ w)
  | _ => rows

/-- A slot load performed. -/
def State.performOld (s : State) (core : Nat) (d : Cmd) (roleB : Bool) : Done :=
  if !s.claimed core d d.a then .late s 0x43 0
  else if matMisaligned d then .late s 0x60 d.s1
  else
    match s.loadElems core true d (byAddress (matPieces d)) (some (matTraffic d)) with
    | .inl r => r
    | .inr (l, s) =>
      let bs := (slotLines d (rowValues d l)).flatMap (leBytes 128 ·)
      let c := s.core core
      .ok ((s.writeOperand (slotKey core d.a) bs).setCore core (c.setSlot d.a { c.slot d.a with roleB := roleB }))

/-- A store of pieces: the lowest faulting address counts, and rows are written in their order (R354). -/
def State.storePieces (s : State) (core : Nat) (d : Cmd) (v : Nat → Nat) : Done :=
  let es := matPieces d
  match checkElems core true (byAddress es) s with
  | (_, some (e, a), s1) => .late s1 e (s.faultAt core true true es e a)
  | _ => s.storeElems core true d (es.map fun e => (e, v e.1)) (some (matTraffic d))

/-- A slot store performed. -/
def State.performOst (s : State) (core : Nat) (d : Cmd) : Done :=
  if !s.claimed core d d.a then .late s 0x43 0
  else if matMisaligned d then .late s 0x60 d.s1
  else s.storePieces core d fun k => readLE s.mem.operand (slotKey core d.a + 16 * k) 16

/-- A 48-bit lane as 64 bits: an integer sign-extended; one that holds an `f32` has its high bits 0 (R357). -/
def laneOut (v : Nat) : Nat := wrapNat (sextInt v 48) 64

/-- An accumulator store or load performed (R357). -/
def State.performZ (s : State) (core : Nat) (d : Cmd) : Done :=
  if matMisaligned d then .late s 0x60 d.s1
  else if d.kind == .zst then
    s.storePieces core d fun k => laneOut (s.zLane core d.a (k / 64) (k % 64))
  else
    match s.loadElems core true d (byAddress (matPieces d)) (some (matTraffic d)) with
    | .inl r => r
    | .inr (l, s) =>
      let sorted := (sortKey (·.1) l).map (·.2)
      .ok (s.writeZ core d.a (sorted.map (· % 2 ^ 48)))

/-- `ZMOVV` performed (R358): it waits for the thread's earlier vector commands. -/
def State.performZmovv (s : State) (core : Nat) (d : Cmd) : Done :=
  if (s.core core).vq.any fun e => e.ts == d.ts && decide (e.id < d.id) then .wait s
  else
    let t := tyOr d.x.dtype .f32
    let r := fieldOf d.s1.toNat 4 0
    let g := fieldOf d.s1.toNat 10 8
    let float := d.x.stype == .f32 || (d.x.stype == .dflt && t.isFloat)
    let one (i : Nat) : Nat × Flags :=
      let v := s.zLane core d.b r (g * t.lanes + i)
      if float then (convert .f32 t false (ctlOf d.x) (v % 2 ^ 32)).get
      else if t.isFloat then (deliver (ffmt t) (ctlOf d.x) (.ofInt (sextInt v 48)) 0).get
      else (fitInt t.width t.isSigned d.x.sat (sextInt v 48), 0)
    let l := (List.range t.lanes).map one
    s.finish core d { vs := [(d.a, ofLanes t.width fun i => (l.getD i (0, 0)).1)],
                      flags := l.foldl (fun f p => f ||| p.2) 0 }

/-! ## Multiply-accumulates (R193 to R200, R359, R360) -/

/-- The types of the elements of a floating pair, and its depth. -/
def MFmt.floats : MFmt → Option (Ty × Ty × Nat)
  | .bf => some (.bf16, .bf16, 64)
  | .hf => some (.f16, .f16, 64)
  | .f32 => some (.f32, .f32, 32)
  | .e4 => some (.e4m3, .e4m3, 128)
  | .e5 => some (.e5m2, .e5m2, 128)
  | .e45 => some (.e4m3, .e5m2, 128)
  | _ => none

/-- Widths of the codes of an integer or scaled pair. -/
def MFmt.codes : MFmt → Nat × Nat
  | .i4 | .q4 => (4, 4)
  | .q4q8 => (4, 8)
  | _ => (8, 8)

/-- Cycles of the array, for a depth G (R359). -/
def MFmt.cycles (f : MFmt) (g : Nat) : Nat :=
  match f with
  | .f32 => 256
  | .q8 | .q4q8 => g + 8
  | .q4 => g / 2 + 8
  | _ => 128

/-- The fields of a scale word (R194): G, zero point, and scale. -/
def scaleG (w : Nat) : Nat := 32 * 2 ^ fieldOf w 25 24
def scaleZero (w : Nat) : Int := sextInt (fieldOf w 23 16) 8
def scaleOf (w : Nat) : Nat := fieldOf w 15 0

/-- Scale words in error (R195). -/
def badScales (f : MFmt) (a b : Nat) : Bool :=
  let bad (w : Nat) (q4 : Bool) : Bool :=
    fieldOf w 31 26 != 0 || fieldOf w 25 24 == 3 || (q4 && !decide (0 ≤ scaleZero w ∧ scaleZero w ≤ 15))
  bad a (f == .q4 || f == .q4q8) || bad b (f == .q4) || fieldOf a 25 24 != fieldOf b 25 24

/-- The flag of a product term that is a NaN: a NaN operand of a multiply-accumulate sets NV, quiet or not (R199). -/
def nanTerm (v : XV) : Flags := match v with | .nan => flagNV | _ => 0

/-- An exact sum of products (R190, R199), with the flags of its terms. -/
def dotX (rdn : Bool) : List (XV × Bool) → List (XV × Bool) → Option XV → Flags → Option XV × Flags
  | (a, sa) :: as, (b, sb) :: bs, acc, fl =>
    let (p, f) := mulX a b
    let fl := fl ||| f ||| nanTerm p ||| sigFlags [sa, sb]
    match acc with
    | none => dotX rdn as bs (some p) fl
    | some z =>
      let (v, g) := addX rdn z p
      dotX rdn as bs (some v) (fl ||| g)
  | _, _, acc, fl => (acc, fl)

/-- The exact integer sum of products of two lists. -/
def dotInt : List Int → List Int → Int
  | a :: as, b :: bs => a * b + dotInt as bs
  | _, _ => 0

/-- A floating value added to the accumulator lane and rounded (R199). -/
def accumulate (x : Pre) (ow : Bool) (lane : Nat) (v : XV) (fl : Flags) : Nat × Flags :=
  if ow then (deliver fmtF32 (ctlOf x) v fl).get
  else
    let (z, sz) := unpackF fmtF32 x.ftzi (lane % 2 ^ 32)
    let (r, g) := addX (x.rnd == .rdn) v z
    (deliver fmtF32 (ctlOf x) r (fl ||| g ||| sigFlags [sz])).get

/-- A line's elements of width `w`. -/
def lineElems (line w n : Nat) : List Nat := (List.range n).map fun k => line / 2 ^ (k * w) % 2 ^ w

/-- The lanes of a multiply-accumulate, in row order: value, flags, and whether it overflowed. -/
def State.mmaLanes (s : State) (core : Nat) (d : Cmd) (f : MFmt) (ow : Bool) : List (Nat × Flags × Bool) :=
  let x := d.x
  let aRows := (List.range 32).map fun i => s.slotLine core d.b i
  let bCols := (List.range 64).map fun j => s.slotLine core (d.c + j / 32) (j % 32)
  let lane (i j : Nat) : Nat := if ow && f != .i8 && f != .i4 then 0 else s.zLane core d.a i j
  let grid (g : Nat → Nat → Nat × Flags × Bool) : List (Nat × Flags × Bool) :=
    (List.range 32).flatMap fun i => (List.range 64).map (g i)
  match f.floats with
  | some (ta, tb, n) =>
    let av := aRows.map fun l => (lineElems l ta.width n).map (unpackF (ffmt ta) x.ftzi)
    let bv := bCols.map fun l => (lineElems l tb.width n).map (unpackF (ffmt tb) x.ftzi)
    grid fun i j =>
      let (v, fl) := dotX (x.rnd == .rdn) (av.getD i []) (bv.getD j []) none 0
      let (b, g) := accumulate x ow (lane i j) (v.getD (.fin false 0 0)) fl
      (b, g, false)
  | none =>
    let (wa, wb) := f.codes
    match f with
    | .i8 | .i4 =>
      let av := aRows.map fun l => (lineElems l wa (1024 / wa)).map (intVal wa (!d.s1.getLsbD 0))
      let bv := bCols.map fun l => (lineElems l wb (1024 / wb)).map (intVal wb (!d.s1.getLsbD 1))
      grid fun i j =>
        let sum := dotInt (av.getD i []) (bv.getD j [])
        if ow then (wrapNat sum 48, 0, false)
        else
          let (v, o) := fit48 (sextInt (lane i j) 48 + sum)
          (wrapNat v 48, if o then flagACCOVF else 0, o)
    | _ =>
      let a := fieldOf d.s1.toNat 31 0
      let b := fieldOf d.s1.toNat 63 32
      let g := scaleG a
      let codes (l : List Nat) (w : Nat) (z : Int) : List (List Int) :=
        l.map fun line => (lineElems line w g).map fun c => intVal w (w == 8) c - z
      let av := codes aRows wa (scaleZero a)
      let bv := codes bCols wb (scaleZero b)
      let (pa, na) := unpackF fmtF16 x.ftzi (scaleOf a)
      let (pb, nb) := unpackF fmtF16 x.ftzi (scaleOf b)
      let (p, fp) := mulX pa pb
      let fl := fp ||| sigFlags [na, nb]
      grid fun i j =>
        let (v, fv) := mulX (.ofInt (dotInt (av.getD i []) (bv.getD j []))) p
        let (r, g) := accumulate x ow (lane i j) v (fl ||| fv)
        (r, g, false)

/-- A multiply-accumulate performed (R360). -/
def State.performMma (s : State) (core : Nat) (d : Cmd) (f : MFmt) (ow : Bool) : Done :=
  let c := s.core core
  let scaled := f == .q8 || f == .q4q8 || f == .q4
  if !(s.claimed core d d.b && s.claimed core d d.c && s.claimed core d (d.c + 1)) then .late s 0x43 0
  else if (c.slot d.b).roleB || !(c.slot d.c).roleB || !(c.slot (d.c + 1)).roleB then .late s 0x40 0
  else if scaled && badScales f (fieldOf d.s1.toNat 31 0) (fieldOf d.s1.toNat 63 32) then .late s 0x42 0
  else
    let l := s.mmaLanes core d f ow
    let fl := l.foldl (fun g r => g ||| r.2.1) 0
    let s' := (s.writeZ core d.a (l.map (·.1))).modThread core d.ts fun t => { t with fpflags := t.fpflags ||| fl }
    let k := s'.core core
    let s' := s'.setCore core
      { k with arrayCycles := k.arrayCycles + BitVec.ofNat 48 (f.cycles (scaleG (fieldOf d.s1.toNat 31 0))) }
    if l.any (·.2.2) && !d.x.sat then .late s' 0x41 0 else .ok s'

/-! ## Exchanges (R356) -/

/-- The mirrored core of an `OSWAP` carries a crew that may still issue the partner. -/
def State.mayPair (s : State) (core : Nat) (mask : Nat) : Option Nat :=
  match s.taskOf core with
  | none => none
  | some t =>
    let rel := s.relOf core ^^^ mask
    if t.carries rel then
      let p := t.coreAt rel
      let c := s.core p
      match c.crew with
      | some w => if w.finished || (c.thr.toList.all fun h => h.run == .stopped || h.run == .off) &&
          !(c.mq.any fun e => match e.kind with | .oswap _ => e.s1.toNat == mask | _ => false) then none else some p
      | none => none
    else none

/-- A pre-emption of a core has found its `OSWAP` unmatched and withdrawn it: it is dispatched again when the core resumes (R232,
R356). -/
def Core.withdrawn (c : Core) : Bool := match c.preempt with | some p => p.slot.isSome || p.faulted | none => false

/-- An `OSWAP` at the head of its core's queue: exchanged once its partner is at the head of the other, neither withdrawn (R356). -/
def State.performOswap (s : State) (core : Nat) (d : Cmd) (nth : Nat) : Done :=
  let mask := d.s1.toNat
  let rel := BitVec.ofNat 64 (s.relOf core ^^^ mask)
  match s.mayPair core mask with
  | none => .late s 0x44 rel
  | some p =>
    match (s.core p).mq with
    | [] => .wait s
    | e :: _ =>
      if e.kind == .oswap nth && e.s1 == d.s1 && !s.behindOther p true e && !(s.core core).withdrawn && !(s.core p).withdrawn then
        let mine := s.claimed core d d.a
        let yours := s.claimed p e e.a
        if mine && yours then
          let a := readSpan 0x1000 (slotKey core d.a) s.mem.operand
          let b := readSpan 0x1000 (slotKey p e.a) s.mem.operand
          let ra := ((s.core core).slot d.a).roleB
          let rb := ((s.core p).slot e.a).roleB
          let s := (s.writeOperand (slotKey core d.a) b).writeOperand (slotKey p e.a) a
          let c := s.core core
          let s := s.setCore core (c.setSlot d.a { c.slot d.a with roleB := rb })
          let q := s.core p
          .ok ((s.setCore p (q.setSlot e.a { q.slot e.a with roleB := ra })).popCmd p true |>.ended p)
        else
          .late ((s.lateFault p e (if yours then 0x44 else 0x43) 0).ended p) (if mine then 0x44 else 0x43) 0
      else .wait s

/-! ## Performance -/

/-- Bits of slots that satisfy a test. -/
def slotBits (c : Core) (p : OSlot → Bool) : Nat :=
  (List.finRange 32).foldl (fun n i => n + boolNat (p c.slots[i]) * 2 ^ i.val) 0

/-- A matrix command performed. -/
def State.performMatrix (s : State) (core : Nat) (d : Cmd) : Done :=
  let c := s.core core
  match d.kind with
  | .orel =>
    let drop (i : Fin 32) : OSlot :=
      if decide (d.b ≤ i.val ∧ i.val ≤ d.b + d.imm.toNat) && c.slots[i].owner == some d.ts then {} else c.slots[i]
    .ok (s.setCore core { c with slots := Vector.ofFn drop })
  | .old r | .oldt r => s.performOld core d r
  | .ost => s.performOst core d
  | .oswap n => s.performOswap core d n
  | .zclr => .ok (s.writeZ core d.a (List.replicate 2048 0))
  | .zst | .zld => s.performZ core d
  | .zmovv => s.performZmovv core d
  | .mstat =>
    let v := match d.imm.toNat with
      | 0 => slotBits c fun o => o.owner == some d.ts
      | 1 => slotBits c fun o => o.owner.isSome
      | 2 => slotBits c (·.roleB)
      | _ => c.arrayCycles.toNat
    s.finish core d (.scalar d.a v)
  | .mma f ow => s.performMma core d f ow
  | _ => .ok s

/-- MATRIX_COMMAND_COMPLETE (R163, R360): the oldest command of the core's matrix engine is performed. -/
def execMatrixCommandComplete (core : Fin 4096) (s : State) : Res :=
  match (s.core core).mq with
  | [] => .next s
  | d :: _ =>
    if s.behindOther core true d then .next s
    else .next (endCmd core true d (s.performMatrix core d))

end Sys2Proof.Machine
end

