-- ==== Sys2Proof/Machine/Handover.lean ====
section
/-!
DEFINITION. The handover of a capability region: `CAPX` (R112, R314).
-/
namespace Sys2Proof.Machine
open Sys2Proof

/-- A region has a byte among `n` from an address of a core. -/
def CapRegion.touches (r : CapRegion) (s : State) (core : Nat) (t : Task) (a : Word) (n : Nat) : Bool :=
  r.meets t.id t.asid (s.absOf core a) n

/-- The spans that a dispatched command may store to, by address and bytes; none where they are known only when it is performed. -/
def Cmd.storeSpans (d : Cmd) : Option (List (Word × Nat)) :=
  let apps := d.apps.map fun p => (p.addr, if p.reg < 32 then 64 else 8)
  match d.kind with
  | .vst => some ((d.s1, 64) :: apps)
  | .vsts => some (((List.range (512 / memWidth d.x)).map fun i => (d.s1 + BitVec.ofNat 64 i * d.s2, memWidth d.x / 8)) ++ apps)
  | .vstg => none
  | .rowst | .rowadd | .rowcas => some ((d.s1, 64 * 2 ^ d.c) :: apps)
  | .yst => some ((d.s1, 512) :: apps)
  | .ost | .zst => some (((matPieces d).map fun e => (e.2.1, e.2.2)) ++ apps)
  | _ => some apps

/-- A dispatched command may store to a region. -/
def Cmd.storesTo (d : Cmd) (s : State) (core : Nat) (t : Task) (r : CapRegion) : Bool :=
  match d.storeSpans with
  | some l => l.any fun (a, n) => r.touches s core t a n
  | none => true

/-- Every store of a core to a region has landed: those under way, and those of the commands and copies that it has dispatched
(R112; assumption log 37). -/
def State.writesDone (s : State) (core : Nat) (t : Task) (r : CapRegion) : Bool :=
  let c := s.core core
  !(s.fab.fly.any fun f => f.core == core &&
    (match f.what with | .store _ bs g => r.meets t.id t.asid g.addr bs.length | _ => false)) &&
  !(c.vq ++ c.mq).any (fun d => d.storesTo s core t r) &&
  !c.copyq.any fun q => q.cfet.isNone && r.touches s core t (q.words.getD 2 0) (recField q.words 3 39 0)

/-- CAPX (R112, R314): a release; it waits until every earlier store of the core to the region, its engines' too, has landed. -/
def execCapx (x : Pre) (b c : SReg) (s : State) : Res :=
  issue x (fun k => do
    let a ← readS k b
    let w ← readS k c
    let s ← getState
    let core := fieldOf w.toNat 11 0
    let end_ := w.getLsbD 32
    trapIf (fieldOf w.toNat 47 33 != 0 || fieldOf w.toNat 31 12 != 0) 0x02
    match s.taskOf k.core with
    | none => trap 0x02
    | some t => do
      trapIf (!t.carries core) 0x02
      match s.place k.core a false with
      | .error e => trap e a
      | .ok p => do
        let base := s.absAddr k.core p
        let rel := s.relOf k.core
        match s.fab.caps.find? fun r => r.task == t.id && r.base == base with
        | none => trap 0x6D a
        | some r => do
          trapIf (r.holder != rel) 0x6D a
          holdUnless (s.writesDone k.core t r)
          if end_ then
            modState fun s => { s with fab := { s.fab with caps := s.fab.caps.filter (· != r) } }
          else
            modState fun s =>
              let s := { s with fab := { s.fab with caps := s.fab.caps.map fun q => if q == r then { r with holder := core } else q } }
              s.launch k.core k.ts (.deposit (t.coreAt core)
                (BitVec.ofNat 64 (fieldOf w.toNat 63 48 * 2 ^ 48 + r.log * 2 ^ 40 + rel)) base false)
          goOn) s

end Sys2Proof.Machine
end

