-- ==== Sys2Proof/Machine/Switch.lean ====
section
/-!
DEFINITION. Switching a task out and back in (R56, R77 to R80, R236, R237), the context area (R233 to R235), and
per-core pre-emption (R232).
-/
namespace Sys2Proof.Machine
open Sys2Proof

/-! ## The order of starting (R52 to R54) -/

/-- Effective priority of a record (R54). -/
def Rec.effective (r : Rec) (cycle : Nat) : Nat :=
  min (lrCeiling r.words) (lrPriority r.words + (cycle - r.t0) / 65536)

/-- The edges of a record hold its tokens and its room (R59). -/
def State.edgesReady (s : State) (r : Rec) : Bool :=
  let ins := realEdges (lrIn r.words)
  let outs := realEdges (lrOut r.words)
  (ins ++ outs).all fun e =>
    let g := s.edge e
    let a := ins.count e
    decide (a ≤ g.filled) && decide (g.filled - a + g.held + outs.count e ≤ g.capacity)

/-- A record waits: accepted and taken in, or switched out (R52, R57). -/
def State.recWaits (s : State) (r : Rec) : Bool :=
  r.phase == .waiting || (r.phase == .switchedOut && s.sched.saved.any (·.task.id == r.id))

/-- A record is ready (R52, R57). -/
def State.recReady (s : State) (r : Rec) : Bool :=
  s.recWaits r && (r.phase == .switchedOut || s.edgesReady r) && !s.energyDeferred r

/-- Record `a` stands before `b` in the order of R52. -/
def recBefore (cycle : Nat) (a b : Rec) : Bool :=
  let p := a.effective cycle
  let q := b.effective cycle
  decide (q < p) || (p == q && (decide (a.stamp < b.stamp) || (a.stamp == b.stamp && decide (a.port < b.port))))

/-- Insertion in the order of R52. -/
def insertRec (cycle : Nat) (r : Rec) : List Rec → List Rec
  | [] => [r]
  | q :: l => if recBefore cycle r q then r :: q :: l else q :: insertRec cycle r l

/-- The ready records in the order of R52. -/
def State.readyRecs (s : State) : List Rec :=
  (s.sched.recs.filter s.recReady).foldl (fun l r => insertRec s.cycle r l) []

/-- A record needs cores (R52). -/
def Rec.needsCores (r : Rec) : Bool := lrIsTask r.words

/-- Cores of the domain of a record. -/
def Rec.domain (r : Rec) : Nat := levelCores (lrDomain r.words)

/-- Blocks of cores that tasks hold: first core and size. -/
def State.heldBlocks (s : State) : List (Nat × Nat) := s.sched.tasks.map fun t => (t.base, levelCores t.level)

/-- The lowest aligned block of a size with no core in the held blocks (R53). -/
def firstFit (held : List (Nat × Nat)) (n : Nat) : Option Nat :=
  ((List.range (4096 / n)).map (· * n)).find? fun b => held.all fun (h, k) => decide (b + n ≤ h ∨ h + k ≤ b)

/-- Started records that are not yet placed, by the cycle of their start. -/
def State.unplaced (s : State) : List Rec :=
  sortBy (fun r => (r.startedAt, r.id)) (s.sched.recs.filter fun r => r.phase == .loading || r.phase == .loaded)

/-- The held blocks with those that started records will take. -/
def State.reservedBlocks (s : State) (held : List (Nat × Nat)) : List (Nat × Nat) :=
  s.unplaced.foldl (fun h r => match firstFit h r.domain with | some b => h ++ [(b, r.domain)] | none => h) held

/-- A record could be placed, given the blocks that tasks hold. -/
def State.placeable (s : State) (held : List (Nat × Nat)) (r : Rec) : Bool :=
  (firstFit (s.reservedBlocks held) r.domain).isSome

/-! ## The victim (R56) -/

/-- The first ready record that needs cores, when it cannot be placed. -/
def State.blockedRec (s : State) : Option Rec :=
  match s.readyRecs.find? Rec.needsCores with
  | some r => if s.placeable s.heldBlocks r then none else some r
  | none => none

/-- A running task qualifies as the victim for a record (R56, R77). -/
def State.qualifies (s : State) (x r : Rec) : Bool :=
  match s.sched.tasks.find? (·.id == r.id) with
  | none => false
  | some t =>
    r.phase == .running && decide (r.prio + 16 ≤ x.effective s.cycle) &&
    s.placeable ((s.sched.tasks.filter fun q => q.id != t.id).map fun q => (q.base, levelCores q.level)) x &&
    (s.bud.context t.tenant (levelCores t.level)).isSome

/-- The victim: the lowest running priority, then the least recently started. -/
def State.victim (s : State) : Option Rec :=
  match s.blockedRec with
  | none => none
  | some x => (sortBy (fun (r : Rec) => (r.prio, r.startedAt)) (s.sched.recs.filter (s.qualifies x))).head?

/-- The pressure count of R56, by its record X and the cycle since which X's conditions have held. -/
def State.setPressure (s : State) (p : Option (Nat × Nat)) : State := { s with sched := { s.sched with pressure := p } }

/-- The count of R56 goes on while the conditions of its record X hold; it starts again with another X. -/
def State.watchPressure (s : State) : State :=
  match s.victim, s.blockedRec, s.sched.pressure with
  | some _, some x, some (y, _) => if y == x.id then s else s.setPressure (some (x.id, s.cycle))
  | some _, some x, none => s.setPressure (some (x.id, s.cycle))
  | _, _, some _ => s.setPressure none
  | _, _, none => s

/-- The record's break-free deferral for energy is timed (R76). -/
def State.watchRec (s : State) (r : Rec) : Rec :=
  if s.recWaits r && s.energyDeferred { r with deferred := none } then
    { r with deferred := some (r.deferred.getD s.cycle) }
  else { r with deferred := none }

/-- What the scheduler keeps count of in each cycle (R56, R76). -/
def State.watch (s : State) : State :=
  if s.sched.recs.isEmpty then s
  else { s with sched := { s.sched with recs := s.sched.recs.map s.watchRec } }.watchPressure

/-- A record's phase changed. -/
def State.setPhase (s : State) (id : Nat) (p : RecPhase) : State :=
  { s with sched := { s.sched with recs := s.sched.recs.map fun r => if r.id == id then { r with phase := p } else r } }

/-- A thread set is asked to stop at its next boundary. -/
def Thread.asks (f : Due → Due) (t : Thread) : Thread := if t.halted then t else { t with due := f t.due }

/-- SWITCH_OUT_TRIGGER (R56, R78 step 1): after 8,192 cycles the victim's cores are asked to stop; its context space is
taken (R77). -/
def execSwitchOutTrigger (s : State) : Res :=
  match s.sched.switch, s.sched.pressure, s.victim with
  | none, some (_, c), some r =>
    if s.cycle < c + 8192 then .next s
    else
      match s.sched.tasks.find? (·.id == r.id) with
      | none => .next s
      | some t =>
        match s.bud.context t.tenant (levelCores t.level) with
        | none => .next s
        | some off =>
          let s := s.setPhase t.id .switchedOut
          let s := { s with sched := { s.sched with switch := some { task := t.id, ctxOff := off }, pressure := none },
                            bud := { s.bud with ctxUsed := s.bud.ctxUsed ++ [(t.tenant, off, levelCores t.level)] } }
          .next (((List.range t.crews).map t.coreAt).foldl (fun s c =>
            let k := s.core c
            s.setCore c { k with thr := k.thr.map (Thread.asks fun d => { d with switchOut := true }) }) s)
  | _, _, _ => .next s

/-! ## Stop and drain (R78) -/

/-- A thread is out of the way: halted, or held in the resident handler. -/
def Thread.atRest (t : Thread) : Bool := t.halted || t.run == .parked

/-- A matrix queue is settled: empty, or at an `OSWAP` that a stop withdraws, since its partner has not been dispatched (R356). -/
def State.matrixSettled (s : State) (core : Nat) : Bool :=
  match (s.core core).mq with
  | [] => true
  | d :: _ =>
    (s.core core).withdrawn || match d.kind, s.mayPair core d.s1.toNat with
    | .oswap n, some p => !((s.core p).mq.any fun e => e.kind == .oswap n && e.s1 == d.s1)
    | _, _ => false

/-- A vector queue is settled: empty, or its head comes after an `OSWAP` of its thread that the stop withdraws (R231, R356). -/
def State.vectorSettled (s : State) (core : Nat) : Bool :=
  match (s.core core).vq with
  | [] => true
  | d :: _ => s.matrixSettled core && s.behindOther core false d

/-- A core's threads, engines and stores have stopped. -/
def State.coreStopped (s : State) (core : Nat) : Bool :=
  let c := s.core core
  c.thr.toList.all Thread.atRest && s.vectorSettled core && s.matrixSettled core && c.copyq.isEmpty &&
  !s.fab.fly.any fun f => f.core == core && (match f.what with | .store _ _ _ => true | _ => false)

/-- A record that a thread of a core has presented waits for its port's decision (R41). -/
def State.submits (s : State) (core : Nat) : Bool :=
  s.sched.ports.any fun (_, q) => q.held.any fun h => match h.who with | .thread c _ _ => c == core | .host _ => false

/-- A core has stopped for a switch-out: its slabs have landed, its windows have closed and its submissions are decided as well
(R78, step 1). -/
def State.coreQuiet (s : State) (core : Nat) : Bool :=
  let c := s.core core
  s.coreStopped core && !s.submits core && c.preempt.isNone && (c.parts.toList.all fun p => match p with | some q => q.flight == 0 | none => true) &&
  (c.ridge.toList.all fun r => r.windows.isEmpty) && !s.fab.flits.any fun f => f.src == core || f.dst == core

/-- What is under way cannot be delivered now: it is held at its source (R165, R170, R172, R174, R247). -/
def State.flyHeld (s : State) (f : Fly) : Bool :=
  match f.what with
  | .msg d m => s.behindMessage f d m || (s.deliverMsg d m).isNone
  | .deposit d _ _ _ => decide (64 ≤ (s.core d).mailbox.length) || s.behindDeposit f d ||
      !s.replayDue d 2 (s.relOf f.core) 0 0
  | .qupd d p _ _ _ => ((s.core d).binder p).isNone
  | .contrib c =>
    match s.fab.slices.find? (·.covers c.task c.addr), s.sched.tasks.find? (·.id == c.task) with
    | some r, some t => r.admits c && !r.det && r.applies c && !s.replayTurn (t.coreAt r.declarer) 3 c.src c.ts.val (s.sliceDetail r c)
    | _, _ => false
  | _ => false

/-- The thread sets of a task that wait to send a message (R171). -/
def State.stalledSends (s : State) (t : Task) : Nat :=
  sumNat ((List.range t.crews).map fun rel => ((s.core (t.coreAt rel)).thr.toList.filter fun h => h.sending.isSome).length)

/-- What a task's cores have sent and is not received (R78, step 2): one held at its source, or for a descriptor that no handle
binds, counts as well (R171, R304), and a remote operation until its completion word lands (R395). -/
def State.underWay (s : State) (t : Task) : Nat :=
  (s.fab.fly.filter fun f => decide (t.base ≤ f.core ∧ f.core < t.base + levelCores t.level)).length + s.stalledSends t

/-- The task being switched out. -/
def State.switching (s : State) : Option (SwitchOut × Task) :=
  match s.sched.switch with
  | none => none
  | some w => (s.sched.tasks.find? (·.id == w.task)).map fun t => (w, t)

/-- SWITCH_OUT_DRAIN_PASS (R78, steps 1 and 2): once every core has stopped, a pass counts the messages under way. -/
def execSwitchOutDrainPass (s : State) : Res :=
  match s.switching with
  | none => .next s
  | some (w, t) =>
    let put (w : SwitchOut) : State := { s with sched := { s.sched with switch := some w } }
    if !w.stopped then
      .next (put { w with stopped := ((List.range t.crews).map t.coreAt).all s.coreQuiet })
    else .next (put { w with passes := if s.underWay t == 0 then w.passes + 1 else 0 })

/-! ## The context area (R233 to R235) -/

/-- The cells of a span, from 0 on. -/
def cutSpan (m : Memory) (a n : Nat) : Memory :=
  ((m.dropWhile fun c => decide (c.1 < a)).takeWhile fun c => decide (c.1 < a + n)).map fun c => (c.1 - a, c.2)

/-- A span replaced by cells that count from 0. -/
def putSpan (m : Memory) (a n : Nat) (cells : Memory) : Memory :=
  cells.foldl (fun m c => writeSpan m (a + c.1) [c.2]) (clearSpan m a n)

/-- A mailbox entry's and other words' bytes. -/
def wordBytes (l : List Word) : List Byte := l.flatMap fun w => leBytes 8 w.toNat

/-- A hardware queue copy in the layout of R173; zero when unbound. -/
def queueBytes : Option QCopy → List Byte
  | none => List.replicate 64 0
  | some q => wordBytes [q.base,
      BitVec.ofNat 64 (q.nslot * 2 ^ 32 + q.ssize * 2 ^ 16 + boolNat q.seqord * 2 ^ 15 + q.role.val * 2 ^ 13 + q.peer),
      BitVec.ofNat 64 (q.head.toNat * 2 ^ 32 + q.tail.toNat), BitVec.ofNat 64 (q.filled.toNat * 2 ^ 32 + q.free.toNat),
      BitVec.ofNat 64 (q.seq.toNat * 2 ^ 32), BitVec.ofNat 64 q.pdesc, 0, 0]

/-- A stream descriptor in the layout of R175. -/
def streamBytes : Option Stream → List Byte
  | none => List.replicate 32 0
  | some t => wordBytes [t.base, BitVec.ofNat 64 (t.count0 * 2 ^ 32 + wrapNat t.stride0 32),
      BitVec.ofNat 64 (t.count1 * 2 ^ 32 + wrapNat t.stride1 32),
      BitVec.ofNat 64 (t.dir.val * 2 ^ 62 + t.queue.val * 2 ^ 58)]

/-- A lazy-uniform lane in the layout of R221. -/
def laneBytes (l : YLane) : List Byte :=
  ((List.range 6).flatMap fun k => leBytes 4 (l.known.toNat / 2 ^ (32 * (5 - k)))) ++ leBytes 6 l.index.toNat ++
  [BitVec.ofNat 8 l.len, BitVec.ofNat 8 (l.slot.val + boolNat l.exh * 8)]

/-- A key slot in the layout of R211. -/
def keyBytes (k : KeySlot) : List Byte :=
  leBytes 8 k.kind ++ leBytes 8 k.tbase.toNat ++ leBytes 8 k.ibase ++ leBytes 8 k.entries ++ leBytes 32 k.key.toNat

/-- Run states in the thread frame (assumption log 33): not allotted, stopped, running, or the arrival that a `RIDGE` waits with. -/
def runWord (t : Thread) : Nat :=
  match t.run, t.marks with
  | .off, _ => 0
  | .stopped, _ => 1
  | _, [] => 2
  | _, m :: _ => 3 + m.level * 16 + m.addr.toNat * 2 ^ 16 + m.release % 2 ^ 32 * 2 ^ 32

/-- The thread frame (R233). -/
def threadFrame (t : Thread) (rel : Nat) (ts : Fin 4) : List Byte :=
  let miss : List Word := match t.due.misses with
    | m :: _ => [m.addr, BitVec.ofNat 64 (m.kind.val + scopeNo m.scope * 16), (m.elems.map fun (_, _, v) => v).headD 0]
    | [] => [0, 0, 0]
  let loop : List Word := match t.loop with
    | some l => [BitVec.ofNat 64 (l.start.toNat + l.stop.toNat * 2 ^ 16), l.remaining]
    | none => [0, 0]
  wordBytes t.s.toList ++ wordBytes t.k.toList ++ wordBytes (t.m.toList.map (·.val)) ++
  wordBytes [t.epc.setWidth 64, t.cause.setWidth 64, t.einfo, t.estat, t.fpflags.setWidth 64, t.drawctr.setWidth 64,
    t.yxcyc.setWidth 64, t.yexh.setWidth 64] ++
  wordBytes ([fullBits t] ++ loop ++ miss ++ [BitVec.ofNat 64 (runWord t), t.idWord rel ts]) ++
  t.q.toList.flatMap queueBytes ++
  (t.ss.toList ++ t.sv.toList).flatMap streamBytes ++
  wordBytes ((t.ss.toList ++ t.sv.toList).map fun b => match b with
    | some st => BitVec.ofNat 64 (2 ^ 63 + st.pos)
    | none => 0) ++
  List.replicate 64 0 ++
  (t.v.toList.flatMap fun v => leBytes 64 v.toNat) ++
  t.y.toList.flatMap fun y => y.toList.flatMap laneBytes

/-- The pieces of a thread frame that a save writes, by offset: a pre-emption leaves out the message registers and their full
bits, which stay live (R232). -/
def framePieces (t : Thread) (rel : Nat) (ts : Fin 4) (whole : Bool) : List (Nat × List Byte) :=
  let bs := threadFrame t rel ts
  if whole then [(0, bs)] else [(0, bs.take 0x140), (0x1C0, slice bs 0x1C0 0x40), (0x208, bs.drop 0x208)]

/-- Pieces moved by an offset. -/
def shifted (o : Nat) (l : List (Nat × List Byte)) : List (Nat × List Byte) := l.map fun (p, bs) => (o + p, bs)

/-- The thread frames of a core in its context, thread set `t` at `t` × 0x4000 (R235). -/
def Core.frames (c : Core) (rel : Nat) (whole : Bool) : List (Nat × List Byte) :=
  (List.finRange 4).flatMap fun i => shifted (i.val * 0x4000) (framePieces c.thr[i] rel i whole)

/-- An entry of the armed table: descriptor, counter and threshold. -/
def armedBytes (l : List Armed) (i : Nat) : List Byte :=
  match l.find? (·.slot == i) with
  | some a => wordBytes (a.words.take 4) ++ leBytes 8 (a.h.val + 2 ^ 63 + a.ts.val * 16) ++ leBytes 8 a.threshold.toNat
  | none => List.replicate 48 0

/-- A partition: state, masks, both counters, course of the last refresh; 64 bytes. -/
def partBytes (c : Core) (i : Fin 8) : List Byte :=
  wordBytes [partState c.parts[i], (match c.parts[i] with | some p => BitVec.ofNat 64 (p.flight.toNat * 2 ^ 32 + p.stale.toNat) | none => 0),
    c.staleCounts[i].setWidth 64, c.waitCounts[i].setWidth 64,
    (match c.parts[i] with | some p => p.refreshed.setWidth 64 | none => 0)] ++ List.replicate 24 0

/-- An entry of the coprocessor ring: its last bit says that the command is an `OSWAP` that the stop has withdrawn (R356, R365;
assumption log 33). -/
def ringBytes (c : Core) (e : RingEntry) : List Byte :=
  let held := match c.heldSwap with | some d => d.seq == e.seq | none => false
  leBytes 2 e.seq.toNat ++ leBytes 2 e.pc.toNat ++ ((e.words.flatMap fun w => leBytes 2 w.toNat).take 10) ++
    List.replicate (10 - 2 * e.words.length) 0 ++ leBytes 2 (boolNat held * 2 ^ 15)

/-- A list cut or filled with zeros to a length. -/
def fit (n : Nat) (bs : List Byte) : List Byte := bs.take n ++ List.replicate (n - bs.length) 0

/-- The core frame (R234); a pre-emption leaves out the first two rows. -/
def coreFrame (c : Core) (whole : Bool) : List Byte :=
  fit 0x400 (if whole then c.mailbox.flatMap fun (a, b) => wordBytes [a, b] else []) ++
  fit 0x100 (if whole then c.overflow.flatMap fun m =>
    leBytes 8 m.val.toNat ++ leBytes 8 (m.ts.val * 16 + m.reg.val) else []) ++
  wordBytes c.h.toList ++ (List.range 32).flatMap (armedBytes c.armed) ++ c.keys.toList.flatMap keyBytes ++
  c.ring.toList.flatMap (ringBytes c) ++ (List.finRange 8).flatMap (partBytes c) ++
  fit 0x80 (wordBytes ([c.dommask.setWidth 64] ++ ((c.course.toList.drop 1).map fun w => w.setWidth 64) ++
    [c.cpseq.setWidth 64, BitVec.ofNat 64 c.mailbox.length, c.segValid.setWidth 64] ++
    ((c.ridge.toList.drop 1).map fun r => BitVec.ofNat 64 (r.arrivals % 2 ^ 32 * 2 ^ 32 + r.released % 2 ^ 32))))

/-- A core's share of the banks of a level: 128 KiB (R235). -/
def State.bankShare (s : State) (core level : Nat) : List Byte :=
  let n := levelCores level
  readSpan 0x20000 (bankKey level (core / n) (core % n * 0x20000)) s.mem.sram

/-- The pieces of a core's 1 MiB of the context area, by offset (R235). -/
def State.contextPieces (s : State) (t : Task) (rel : Nat) : List (Nat × List Byte) :=
  let core := t.coreAt rel
  let c := s.core core
  let crew := if t.carries rel then
      c.frames rel true ++
      [(0x10000, coreFrame c true), (0x20000, s.matrixImage core), (0x50000, readSpan sysReserved (padKey core) s.mem.sram),
       (0x90000, readSpan 0x10000 (codeKey core 0) s.mem.code)]
    else []
  crew ++ [(0xA0000, s.bankShare core 1)] ++ (if 2 ≤ t.level then [(0xC0000, s.bankShare core 2)] else []) ++
    (if 3 ≤ t.level then [(0xE0000, s.bankShare core 3)] else [])

/-- The core frame's pieces: a pre-emption leaves out the first two rows (R234). -/
def corePieces (c : Core) (whole : Bool) : List (Nat × List Byte) :=
  if whole then [(0, coreFrame c true)] else [(0x500, (coreFrame c false).drop 0x500)]

/-- The frames that a save leaves in the reserved part of the scratchpad: thread frames in turn at local `0x3_C000`, so
that the last one stays (R233), and the core frame at `0x3_E100` (R234). -/
def State.leaveFrames (s : State) (core : Nat) (whole : Bool) : State :=
  let c := s.core core
  let ps := shifted 0x3C000 (framePieces c.thr[3] (s.relOf core) 3 whole) ++ shifted 0x3E100 (corePieces c whole)
  { s with mem := { s.mem with sram := ps.foldl (fun m (o, bs) => writeSpan m (padKey core + o) bs) s.mem.sram } }

/-- Pieces written into a tenant's context space from a MiB on, and whether none has faulted (R236); the translations made on the
way stay cached (R104). -/
def State.writeContext (s : State) (asid : BitVec 16) (tenant mib : Nat) (l : List (Nat × List Byte)) : State × Bool :=
  let base := tblGet s.bud.tctx tenant 0 &&& 0xFFFFFFFFFFF00000
  l.foldl (fun (z : State × Bool) (o, bs) =>
    if !z.2 then z
    else
      match z.1.globalWrite asid (base + BitVec.ofNat 64 (mib * 2 ^ 20 + o)) bs with
      | .ok s => (s, true)
      | .error (_, s) => (s, false)) (s, true)

/-! ## Save (R78 steps 3 and 4) -/

/-- The spans of a domain's banks: first key and bytes, by level. -/
def bankSpans (base level : Nat) : List (Nat × Nat) :=
  let n := levelCores level
  ((List.range (min level 3)).map (· + 1)).map fun l =>
    (bankKey l (base / levelCores l) 0, n / levelCores l * bankSize l)

/-- A core as it is saved. -/
def State.saveCore (s : State) (t : Task) (rel : Nat) : SavedCore :=
  let core := t.coreAt rel
  { rel := rel, core := s.core core, pad := cutSpan s.mem.sram (padKey core) 0x40000,
    operand := cutSpan s.mem.operand (slotKey core 0) 0x40000, code := cutSpan s.mem.code (codeKey core 0) 0x10000 }

/-- The cores that stand for those of a switched-out task in its operations under way. -/
def awayCore (task rel : Nat) : Nat := 8192 + task * 4096 + rel

/-- Something under way with its cores moved. -/
def Fly.move (f : Fly) (at_ : Nat → Nat) : Fly :=
  { f with core := at_ f.core, what := match f.what with
    | .msg d m => .msg (at_ d) m
    | .deposit d a b e => .deposit (at_ d) a b e
    | .qupd d p x n c => .qupd (at_ d) p x n c
    | .contrib c => .contrib { c with core := at_ c.core }
    | w => w }

/-- An operation another device answers, or whose word a task awaits. -/
def Fly.isRemote (f : Fly) : Bool := match f.what with | .remote _ => true | _ => false

/-- A task leaves its domain, which is freed; what is held for it goes with it (R78). -/
def State.vacate (s : State) (t : Task) : State :=
  let n := levelCores t.level
  let inside (c : Nat) : Bool := decide (t.base ≤ c ∧ c < t.base + n)
  let mine := s.fab.fly.filter fun f => f.ofCores t.base n && !f.isRemote
  { s with
    cores := s.cores.filter fun (c, _) => !inside c
    runq := s.runq.filter fun (c, _) => !inside c
    fab := { s.fab with
      fly := (s.fab.fly.filter fun f => !(f.ofCores t.base n && !f.isRemote)).map fun f =>
        if inside f.core then { f with core := awayCore t.id (f.core - t.base) } else f
      parked := s.fab.parked ++ mine.map fun f => (t.id, f.move fun c => if inside c then awayCore t.id (c - t.base) else c) }
    sched := { s.sched with tasks := s.sched.tasks.filter fun q => q.id != t.id } }

/-- The task with its cores, banks and place in the context area. -/
def State.savedOf (s : State) (w : SwitchOut) (t : Task) : SavedTask :=
  { task := t, cores := (List.range t.crews).map (s.saveCore t),
    banks := (bankSpans t.base t.level).map fun (a, n) => cutSpan s.mem.sram a n,
    ctxOff := w.ctxOff, ctxLen := levelCores t.level }

/-- The save has landed: what the task's trace buffers stage reaches memory (R241), and the task waits again, its age afresh
(R57, R78). -/
def State.switchedOut (s : State) (w : SwitchOut) (t : Task) : State :=
  let s := ((List.range t.crews).map t.coreAt).foldl State.traceFlush s
  let v := s.savedOf w t
  let s := s.vacate t
  { s with sched := { s.sched with
      saved := s.sched.saved ++ [v]
      switch := none
      pressure := none
      recs := s.sched.recs.map fun r =>
        if r.id == t.id then { r with phase := .switchedOut, t0 := s.cycle, deferred := none } else r } }

/-- Every core's context written to the context area, until one that faults (R235, R236). -/
def State.saveContext (s : State) (w : SwitchOut) (t : Task) : State × Option Nat :=
  (List.range (levelCores t.level)).foldl (fun (a : State × Option Nat) rel =>
    match a with
    | (s, some c) => (s, some c)
    | (s, none) =>
      let s := if t.carries rel then s.leaveFrames (t.coreAt rel) true else s
      match s.writeContext t.asid t.tenant (w.ctxOff + rel) (s.contextPieces t rel) with
      | (s, true) => (s, none)
      | (s, false) => (s, some (t.coreAt rel))) (s, none)

/-- SWITCH_OUT_COMPLETE (R78 steps 3 and 4, R235, R236): after two passes that read zero, every core's context is
written; a copy that faults waits for the control cores. A task ended meanwhile is ended now (R67). -/
def execSwitchOutComplete (s : State) : Res :=
  match s.switching with
  | none => .next s
  | some (w, t) =>
    if w.passes < 2 || w.faulted.isSome then .next s
    else
      match s.saveContext w t with
      | (s, some c) => .next { s with sched := { s.sched with switch := some { w with faulted := some c } } }
      | (s, none) =>
        let s := s.switchedOut w t
        match t.ended, s.sched.saved.find? (·.task.id == t.id), s.sched.recs.find? (·.id == t.id) with
        | true, some v, some r => .next (s.endSaved v r)
        | _, _, _ => .next s

/-! ## Restore (R79) -/

/-- A thread released from the resident handler: it returns (R230) and issues again. -/
def Thread.release (t : Thread) : Thread := { t.eret with run := .running }

/-- A thread set that is parked with one of some causes is released; a sync record follows (R243). -/
def State.unpark (s : State) (core : Nat) (ts : Fin 4) (causes : List (BitVec 8)) : State :=
  let t := s.thread core ts
  if t.run == .parked && causes.contains t.cause then ((s.setThread core ts t.release).enqueue core ts).traceSync core else s

/-- Every thread set of a core released. -/
def State.unparkAll (s : State) (core : Nat) (causes : List (BitVec 8)) : State :=
  (List.finRange 4).foldl (fun s ts => s.unpark core ts causes) s

/-- A saved core comes back on another core. -/
def State.restoreCore (s : State) (base : Nat) (v : SavedCore) : State :=
  let core := base + v.rel
  let clear (h : Thread) : Thread := { h with due := { h.due with switchOut := false } }
  let s := { s with mem := { s.mem with
    sram := putSpan s.mem.sram (padKey core) 0x40000 v.pad
    operand := putSpan s.mem.operand (slotKey core 0) 0x40000 v.operand
    code := putSpan s.mem.code (codeKey core 0) 0x10000 v.code } }
  let s := s.setCore core { v.core with thr := v.core.thr.map clear }
  (List.finRange 4).foldl (fun s ts =>
    let t := s.thread core ts
    if t.run == .running || t.run == .waiting then s.enqueue core ts else s.unpark core ts [0xA1]) s

/-- A core is asked to stop for a pre-emption (R232). -/
def State.askPreempt (s : State) (core : Nat) : State :=
  let c := s.core core
  s.setCore core { c with
    preempt := some {}
    preemptWaits := false
    thr := c.thr.map (Thread.asks fun d => { d with preempt := true }) }

/-- A slice region's contributions with their cores moved (R79). -/
def SliceRegion.move (r : SliceRegion) (at_ : Nat → Nat) : SliceRegion :=
  { r with buffered := r.buffered.map fun c => { c with core := at_ c.core } }

/-- A switched-out task comes back in a domain of its size: its state, what was held for it, and its threads (R79);
a pre-emption raised meanwhile is asked for then (R232). -/
def State.restoreTask (s : State) (v : SavedTask) (base : Nat) : State :=
  let t := { v.task with base := base }
  let here (c : Nat) : Nat := if awayCore t.id 0 ≤ c ∧ c < awayCore t.id 4096 then base + (c - awayCore t.id 0) else c
  let s := s.freshBuckets t
  let s := { s with
    mem := { s.mem with sram := ((bankSpans base t.level).zip v.banks).foldl (fun m ((a, n), b) => putSpan m a n b) s.mem.sram }
    sched := { s.sched with tasks := s.sched.tasks ++ [t], saved := s.sched.saved.filter fun w => w.task.id != t.id }
    bud := { s.bud with ctxUsed := s.bud.ctxUsed.filter fun u => u != (t.tenant, v.ctxOff, v.ctxLen) }
    fab := { s.fab with
      fly := s.fab.fly.map (Fly.move · here) ++
        (s.fab.parked.filter fun (k, _) => k == t.id).map fun (_, f) => f.move here
      parked := s.fab.parked.filter fun (k, _) => k != t.id
      slices := s.fab.slices.map fun r => if r.task == t.id then r.move fun c => c - v.task.base + base else r } }
  let s := v.cores.foldl (fun s c => s.restoreCore base c) s
  v.cores.foldl (fun s c => if c.core.preemptWaits then s.askPreempt (base + c.rel) else s) s

/-! ## The end of a task in a switch (R236, R237) -/

/-- Every crew of a task that has not finished ends by a machine check with its core's code; a switch-out of the task is
over. -/
def State.loseTask (s : State) (t : Task) (code : Nat → BitVec 8) : State :=
  let s := match s.sched.switch with
    | some w => if w.task == t.id then
        { s with
          sched := { s.sched with switch := none }
          bud := { s.bud with ctxUsed := s.bud.ctxUsed.filter fun u => u != (t.tenant, w.ctxOff, levelCores t.level) } }
        else s
    | none => s
  let s := s.setPhase t.id .running
  ((List.range t.crews).map t.coreAt).foldl (fun s c =>
    match (s.core c).crew with
    | some w => if w.finished || s.crewStopped c then s else s.endCrew c 2 (code c)
    | none => s) s

/-! ## Per-core pre-emption (R232) -/

/-- The core lies in the domain of the task that is being switched out. -/
def State.inSwitch (s : State) (core : Nat) : Bool :=
  match s.switching with
  | some (_, t) => decide (t.base ≤ core ∧ core < t.base + levelCores t.level)
  | none => false

/-- The pieces of a pre-empted core's slot: thread frames and the core frame, without what stays live (R232). -/
def State.preemptPieces (s : State) (core : Nat) : List (Nat × List Byte) :=
  let c := s.core core
  c.frames (s.relOf core) false ++ shifted 0x10000 (corePieces c false)

/-- PER_CORE_PREEMPTION (R232): the control cores ask a core to stop; once its threads and engines have, it takes a
context slot and saves its frames. One raised during a switch-out of its task waits. -/
def execPerCorePreemption (core : Fin 4096) (s : State) : Res :=
  let c := s.core core
  match c.crew, c.preempt, s.taskOf core with
  | some w, none, some _ =>
    if w.finished then .next s
    else if s.inSwitch core then .next (s.setCore core { c with preemptWaits := true })
    else .next (s.askPreempt core)
  | some _, some p, some t =>
    if p.slot.isSome || p.faulted || !s.coreStopped core then .next s
    else
      match s.bud.context t.tenant 1 with
      | none => .next s
      | some off =>
        let z := s.leaveFrames core false
        match z.writeContext t.asid t.tenant off (s.preemptPieces core) with
        | (s, false) => .next (s.setCore core { s.core core with preempt := some { p with faulted := true } })
        | (s, true) =>
          let s := { s with bud := { s.bud with ctxUsed := s.bud.ctxUsed ++ [(t.tenant, off, 1)] } }
          .next (s.setCore core { s.core core with preempt := some { p with slot := some off } })
  | _, _, _ => .next s

/-- PREEMPTION_RELEASE (R232): the slot is freed and every thread resumes at its `EPC`; a core whose frames are not saved, or
whose copy has faulted and is not made again, stays parked (R236). -/
def execPreemptionRelease (core : Fin 4096) (s : State) : Res :=
  let c := s.core core
  match c.preempt, s.taskOf core with
  | some p, some t =>
    match p.slot, p.faulted with
    | some off, false =>
      let s := { s with bud := { s.bud with ctxUsed := s.bud.ctxUsed.filter fun u => u != (t.tenant, off, 1) } }
      let s := s.setCore core { c with
        preempt := none
        thr := c.thr.map fun h => { h with due := { h.due with preempt := false } } }
      .next (s.unparkAll core [0xA0])
    | _, _ => .next s
  | _, _ => .next s

/-- The switch-out whose copy of a core faulted. -/
def State.faultedSwitch (s : State) (core : Nat) : Option (SwitchOut × Task) :=
  match s.switching with
  | some (w, t) => if w.faulted == some core then some (w, t) else none
  | none => none

/-- CONTEXT_COPY_FAULT (R236): the control cores map the page, and the copy is made again, or they cannot, and the task
ends. -/
def execContextCopyFault (core : Fin 4096) (mapped : Bool) (s : State) : Res :=
  match s.faultedSwitch core with
  | some (w, t) =>
    if mapped then .next { s with sched := { s.sched with switch := some { w with faulted := none } } }
    else .next (s.loseTask t fun _ => 0xC7)
  | none =>
    let c := s.core core
    match c.preempt, s.taskOf core with
    | some p, some t =>
      if !p.faulted then .next s
      else if mapped then .next (s.setCore core { c with preempt := some { p with faulted := false } })
      else .next (s.loseTask t fun _ => 0xC7)
    | _, _ => .next s

end Sys2Proof.Machine
end

