-- ==== Sys2Proof/Machine/Traps.lean ====
section
/-!
DEFINITION. Events at instruction boundaries and the resident handler (R159 to R161, R225 to R231, R237, R238, R245 to
R248), and machine checks.
-/
namespace Sys2Proof.Machine
open Sys2Proof

/-! ## Replay of trap positions (R246, R247) -/

/-- The log holds a later position of a cause for a thread. -/
def State.loggedLater (s : State) (core : Nat) (ts : Fin 4) (cause : BitVec 8) : Bool :=
  let now := (s.courseOf core).toNat
  (s.replayLog core 5).any fun e => e.ts == ts.val && e.detail == cause.toNat &&
    (decide (now < e.course) || (e.course == now && decide ((s.thread core ts).retired.toNat < e.retired)))

/-- The trap of a cause would reach a program handler (R229). -/
def State.reachesHandler (s : State) (core : Nat) (ts : Fin 4) (cause : BitVec 8) : Bool :=
  dispOf cause == .program && !(s.thread core ts).phand &&
  (match s.taskOf core with | some t => t.image.ktrap.isSome | none => false)

/-- Under REPLAY a trap that reaches a program handler is taken at its logged count (R247). -/
def State.dueNow (s : State) (core : Nat) (ts : Fin 4) (cause : BitVec 8) : Bool :=
  match s.taskOf core with
  | some t =>
    if t.replaying && s.reachesHandler core ts cause then
      match s.loggedHere core ts 5 with
      | some d => d == cause.toNat
      | none => !s.loggedLater core ts cause
    else true
  | none => true

/-! ## Taking an event at a boundary (R226, R228) -/

/-- The other members of the thread's gang stop at the same boundary (R180). -/
def State.stopPeers (s : State) (core : Nat) (ts : Fin 4) : State :=
  let t := s.thread core ts
  if t.alone then s
  else (List.range t.gwidth).foldl (fun s i =>
    if i == t.gpos then s
    else s.modThread (core - t.gpos + i) ts fun h =>
      if h.alone || h.halted then h else { h with due := { h.due with peerStopped := true } }) s

/-- A thread takes an event at its instruction boundary: `EPC` names the next instruction. One that reaches a program
handler is logged (R246). -/
def State.interrupt (s : State) (core : Nat) (ts : Fin 4) (cause : BitVec 8) (info : Word) (late : Bool)
    (cpseq : BitVec 16) : State :=
  let s := if s.reachesHandler core ts cause then s.record core 5 (s.relOf core) ts cause.toNat else s
  (s.stopPeers core ts).enter core ts cause info (s.thread core ts).pc late cpseq

/-- The thread's pending events changed. -/
def State.modDue (s : State) (core : Nat) (ts : Fin 4) (f : Due → Due) : State :=
  s.modThread core ts fun t => { t with due := f t.due }

/-- Commands of the thread are on an engine. -/
def State.engaged (s : State) (core : Nat) (ts : Fin 4) : Bool :=
  let c := s.core core
  (c.vq ++ c.mq).any (·.ts == ts)

/-- "Gang member lost" (R238). -/
def State.takeLost (s : State) (core : Nat) (ts : Fin 4) : Option State :=
  match (s.thread core ts).due.lost with
  | some rel =>
    if s.dueNow core ts 0xC6 then
      some ((s.modDue core ts fun d => { d with lost := none }).interrupt core ts 0xC6 (BitVec.ofNat 64 rel) false 0)
    else none
  | none => none

/-- The oldest late fault, once the thread's earlier commands have completed (R231); a thread that waits in `MWAIT` takes it
at the boundary after (R362). -/
def State.takeLate (s : State) (core : Nat) (ts : Fin 4) : Option State :=
  match (s.thread core ts).due.lates with
  | f :: r =>
    if !(s.thread core ts).matWait && !s.engaged core ts && s.dueNow core ts f.cause then
      some ((s.modDue core ts fun d => { d with lates := r }).interrupt core ts f.cause f.info true f.seq)
    else none
  | [] => none

/-- A stale lap read 0x85 (R132). -/
def State.takeStale (s : State) (core : Nat) (ts : Fin 4) : Option State :=
  match (s.thread core ts).due.stales with
  | f :: r =>
    if s.dueNow core ts f.cause then
      some ((s.modDue core ts fun d => { d with stales := r }).interrupt core ts f.cause f.info false f.seq)
    else none
  | [] => none

/-- A system event that a flag asks for. -/
def State.takeFlag (s : State) (core : Nat) (ts : Fin 4) (asked : Bool) (cause : BitVec 8) (f : Due → Due) : Option State :=
  if asked then some ((s.modDue core ts f).interrupt core ts cause 0 false 0) else none

/-- The windows and refreshes of a stop at a ridge are over, on every core of the task (R245). -/
def State.ridgeOver (s : State) (core : Nat) : Bool :=
  match s.taskOf core with
  | none => true
  | some t => ((List.range t.crews).map t.coreAt).all fun d =>
    let c := s.core d
    (c.ridge.toList.all fun r => r.windows.isEmpty) &&
    (c.parts.toList.all fun p => match p with | some q => q.flight == 0 | none => true)

/-- The fault of a reissue (R160). -/
def State.takeReissue (s : State) (core : Nat) (ts : Fin 4) : Option State :=
  match (s.thread core ts).due.reissues with
  | f :: r =>
    if s.dueNow core ts f.cause then
      some ((s.modDue core ts fun d => { d with reissues := r }).interrupt core ts f.cause f.info false 0)
    else none
  | [] => none

/-- A scope miss (R159); the handler takes it off the list when its reissue is done. `mpend` says whether another waits
(R227). -/
def State.takeMiss (s : State) (core : Nat) (ts : Fin 4) : Option State :=
  let d := (s.thread core ts).due
  match d.misses with
  | m :: r =>
    let s := s.interrupt core ts 0xA2 m.addr false 0
    some (if r.isEmpty && d.lates.isEmpty then s.modThread core ts fun t => { t with estat := t.estat &&& ~~~(0x400 : Word) }
          else s)
  | [] => none

/-- The event that a thread takes at its boundary, in the order of R228; none while the resident handler runs. -/
def State.dueTrap (s : State) (core : Nat) (ts : Fin 4) : Option State :=
  let t := s.thread core ts
  let d := t.due
  if t.inh then none
  else
    (s.takeLost core ts).or ((s.takeLate core ts).or ((s.takeStale core ts).or
    ((s.takeFlag core ts d.switchOut 0xA1 fun d => { d with switchOut := false }).or
    ((s.takeFlag core ts d.preempt 0xA0 fun d => { d with preempt := false }).or
    ((s.takeFlag core ts d.peerStopped 0xA4 fun d => { d with peerStopped := false }).or
    ((s.takeFlag core ts (d.debug && s.ridgeOver core) 0xA3 fun d => { d with debug := false }).or
    ((s.takeFlag core ts (d.replay && s.ridgeOver core) 0xA5 fun d => { d with replay := false }).or
    ((s.takeReissue core ts).or (s.takeMiss core ts)))))))))

/-- An event that stops the thread from issuing although it cannot be taken yet, or an arrival that its log places here (R247). -/
def State.dueHolds (s : State) (core : Nat) (ts : Fin 4) : Bool :=
  let t := s.thread core ts
  !t.inh && ((!t.matWait && !t.due.lates.isEmpty) || t.due.debug || t.due.replay || t.due.lost.isSome ||
    (!t.phand && (s.loggedHere core ts 5).isSome) || s.replayAwaits core ts)

/-! ## The resident handler (R160, R225, R229, R230) -/

/-- A reissue at an address faults: the thread takes its fault after the miss (R160). -/
def State.reissueFault (s : State) (core : Nat) (ts : Fin 4) (a : Word) (e : BitVec 8) : State :=
  (s.walked (s.asidOf core) a e).modDue core ts fun d => { d with reissues := d.reissues ++ [⟨0, e, a, false⟩] }

/-- The stores of a reissue, in element order; the first that fails leaves its fault (R160). -/
def State.reissueStores (core : Nat) (ts : Fin 4) (m : Miss) : List (Word × Nat × Word) → State → State
  | [], s => s
  | (a, n, v) :: r, s =>
    match s.access core a n n true false with
    | .error e => s.reissueFault core ts a e
    | .ok (acc, s) =>
      State.reissueStores core ts m r
        (s.store core ts acc (leBytes n v.toNat) (m.order == .rel || m.order == .acqrel || m.strong) false)

/-- The reissue of a load or an atomic is performed: a `FENCE` waits for the thread's vector commands and stores (R303), an atomic
for its stores; none while it waits. -/
def State.reissue (s : State) (core : Nat) (ts : Fin 4) (m : Miss) : Option State :=
  let landed := (s.storesOf core ts).isEmpty
  if m.kind == 0 then (if landed && !(s.core core).vq.any (·.ts == ts) then some s else none)
  else if !landed then none
  else
    match m.elems with
    | (a, n, _) :: _ =>
      match s.access core a n n true false with
      | .error e => some (s.reissueFault core ts a e)
      | .ok (_, s) => some s
    | [] => some s

/-- The pending miss goes on: the stores of a reissue are made, and performed once they have landed (R160, R419). -/
def State.missGoes (s : State) (core : Nat) (ts : Fin 4) (m : Miss) : State × Bool :=
  if m.kind == 1 then
    if (s.thread core ts).due.made then (s, (s.storesOf core ts).isEmpty)
    else ((State.reissueStores core ts m m.elems s).modDue core ts fun d => { d with made := true }, false)
  else
    match s.reissue core ts m with
    | some s => (s, true)
    | none => (s, false)

/-- The handler returns; a sync record follows (R230, R243). -/
def State.leave (s : State) (core : Nat) (ts : Fin 4) : State := (s.modThread core ts Thread.eret).traceSync core

/-- A thread is held in the handler. -/
def State.park (s : State) (core : Nat) (ts : Fin 4) : State := s.modThread core ts fun t => { t with run := .parked }

/-- The resident handler settles a trap by its disposition (R225). -/
def State.handler (s : State) (core : Nat) (ts : Fin 4) : State :=
  let t := s.thread core ts
  match dispOf t.cause with
  | .ends => s.endCrew core (errorBit t.cause) t.cause
  | .program =>
    match s.taskOf core with
    | some q =>
      match q.image.ktrap, t.phand with
      | some a, false => s.setThread core ts { t with pc := a, estat := (t.estat ||| 0x200) &&& ~~~(0x100 : Word) }
      | _, _ => s.endCrew core (errorBit t.cause) t.cause
    | none => s.endCrew core (errorBit t.cause) t.cause
  | .system =>
    if t.cause == 0xA2 then
      match t.due.misses with
      | [] => s.leave core ts
      | m :: r =>
        let (s, gone) := s.missGoes core ts m
        if gone then (s.modDue core ts fun d => { d with misses := r, made := false }).leave core ts else s
    else if t.cause == 0xA4 then s.leave core ts
    else s.park core ts

/-! ## The steps -/

/-- A thread is between instructions and could take an event. -/
def Thread.live (t : Thread) : Bool := t.run == .running || t.run == .waiting

/-- LATE_FAULT (R231): the thread takes its oldest late fault. -/
def execLateFault (core : Fin 4096) (ts : Fin 4) (s : State) : Res :=
  let t := s.thread core ts
  if t.live && !t.inh && t.due.lost.isNone then .next ((s.takeLate core ts).getD s) else .next s

/-- SCOPE_MISS (R159): the thread takes 0xA2 when nothing stands before it in the order of R228. -/
def execScopeMiss (core : Fin 4096) (ts : Fin 4) (s : State) : Res :=
  let t := s.thread core ts
  let d := t.due
  if t.live && !d.misses.isEmpty && d.lost.isNone && d.lates.isEmpty && d.stales.isEmpty && !d.switchOut && !d.preempt &&
      !d.peerStopped && !d.debug && !d.replay && d.reissues.isEmpty then .next ((s.dueTrap core ts).getD s)
  else .next s

/-- The gangs of a core are dissolved, and their other members learn which member was lost (R238). -/
def State.loseMember (s : State) (core : Nat) : State :=
  (List.finRange 4).foldl (fun s ts =>
    let t := s.thread core ts
    if t.gwidth ≤ 1 then s
    else (List.range t.gwidth).foldl (fun s i =>
      s.modThread (core - t.gpos + i) ts fun h =>
        { h with gwidth := 1, gpos := 0,
                 due := if i == t.gpos || h.halted then h.due else { h.due with lost := some (s.relOf core) } }) s) s

/-- A machine check strikes a core: its crew ends; on any core of a domain that is being switched out the whole task does (R225,
R237, R238). -/
def State.strike (s : State) (core : Nat) (code : BitVec 8) : State :=
  match s.inSwitch core, s.switching with
  | true, some (_, t) => s.loseTask t fun c => if c == core then code else 0xC7
  | _, _ =>
    match (s.core core).crew with
    | some w =>
      if w.finished || s.crewStopped core then s else (s.loseMember core).endCrew core (errorBit code) code
    | none => s

/-- MACHINE_CHECK (R224, R225): codes 0xC0 to 0xC5 and 0xC9; the thermal stop and the lost context have their own
steps. -/
def execMachineCheck (core : Fin 4096) (code : BitVec 8) (s : State) : Res :=
  if (0xC0 ≤ code.toNat && code.toNat ≤ 0xC5) || code == 0xC9 then .next (s.strike core code) else .next s

/-- GANG_MEMBER_LOST (R238): the threads of a core that lost a gang member take 0xC6. -/
def execGangMemberLost (core : Fin 4096) (s : State) : Res :=
  .next ((List.finRange 4).foldl (fun s ts =>
    let t := s.thread core ts
    if t.live && !t.inh then (s.takeLost core ts).getD s else s) s)

end Sys2Proof.Machine
end

