-- ==== Sys2Proof/Machine/Scheduler.lean ====
section
/-!
DEFINITION. The scheduler: intake, starting, image loading, placement, the system copy engine, edges, `SCHEND` and
`DBGGO` (R44, R46, R52 to R61, R64, R67, R245).
-/
namespace Sys2Proof.Machine
open Sys2Proof

/-! ## Intake (R60) -/

/-- The first edge of a record that fails its intake. -/
def State.badEdge (s : State) (r : Rec) : Option Nat :=
  (realEdges (lrIn r.words) ++ realEdges (lrOut r.words)).find? fun e =>
    !(s.edge e).enable || (s.edge e).tenant != lrTenant r.words

/-- SCHEDULER_INTAKE (R52, R60): the oldest accepted record is taken in; one whose edge fails completes with error bit
3 and an entry of kind 2 in the tenant's log. -/
def execSchedulerIntake (s : State) : Res :=
  match s.sched.recs.find? fun r => r.phase == .accepted with
  | none => .next s
  | some r =>
    match s.badEdge r with
    | some e => .next ((s.logError (lrTenant r.words) 2 r.port r.words (BitVec.ofNat 64 e)).complete r [] { errors := 8 } false)
    | none => .next (s.setPhase r.id .waiting)

/-! ## Starting (R44, R52, R59, R64) -/

/-- The tokens and slots of a record that starts (R59). -/
def State.takeTokens (s : State) (r : Rec) : State :=
  let s := (realEdges (lrIn r.words)).foldl (fun s e => s.setEdge e { s.edge e with filled := (s.edge e).filled - 1 }) s
  (realEdges (lrOut r.words)).foldl (fun s e => s.setEdge e { s.edge e with held := (s.edge e).held + 1 }) s

/-- The record that starts: the first in the order, where a record that needs cores and finds none holds back the later
ones that need cores (R52). -/
def pickStart (fits : Rec → Bool) : Bool → List Rec → Option Rec
  | _, [] => none
  | blocked, r :: l =>
    if !r.needsCores then some r
    else if !blocked && fits r then some r
    else pickStart fits true l

/-- A record's work is handed on: it leaves its slot and runs. -/
def State.handOn (s : State) (r : Rec) : State :=
  (s.freeSlot r).putRec { r with phase := .running, inSlot := false }

/-- A kind-2 record reads its request and issues it to engine 0 (R44); address 0 is no global address and faults as one (assumption
log 105). -/
def State.startCollective (s : State) (r : Rec) : State :=
  let asid := lrAsid r.words
  match s.globalBytes asid (lrArgs r.words) 64 with
  | .error ((c, a), s) => s.complete r (leBytes 8 0x4000000 ++ leBytes 8 a.toNat) { errors := 0x80, cause := c } true
  | .ok (bs, s) =>
    let (code, s) := s.submitColl 0 (wordsOf64 8 bs) asid (lrTenant r.words) 0 none (some r.id)
    if code != 0 then s.complete r (leBytes 8 (0xFF000000 + code) ++ leBytes 8 0) { errors := 0x80 } true
    else s.handOn r

/-- A kind-3 record reads its request and gives it to the system copy engine (R44). -/
def State.startCopy (s : State) (r : Rec) : State :=
  match s.globalBytes (lrAsid r.words) (lrArgs r.words) 32 with
  | .error ((c, a), s) =>
    s.complete r (leBytes 8 (2 ^ 40 + c.toNat * 2 ^ 32) ++ leBytes 8 a.toNat) { errors := 0x80, cause := c } true
  | .ok (bs, s) =>
    let s := { s with sched := { s.sched with copies := s.sched.copies ++ [(⟨r.id, wordsOf64 4 bs⟩ : SysCopy)] } }
    s.handOn r

/-- A record starts (R52, R57): one that was switched out waits for its placement at once. -/
def State.startRec (s : State) (r : Rec) : State :=
  let r' := { r with prio := r.effective s.cycle, startedAt := s.cycle, deferred := none }
  if r.phase == .switchedOut then s.putRec { r' with phase := .loaded }
  else
    let s := s.takeTokens r
    if r.needsCores then s.putRec { r' with phase := .loading }
    else
      let s := s.putRec r'
      match lrKind r.words with
      | 2 => s.startCollective r'
      | 3 => s.startCopy r'
      | _ => s.complete r' [] {} true

/-- SCHEDULER_START (R52): at most one record starts. -/
def execSchedulerStart (s : State) : Res :=
  match pickStart (s.placeable s.heldBlocks) false s.readyRecs with
  | none => .next s
  | some r => .next (s.startRec r)

/-! ## The system copy engine (R44, R164, R177) -/

/-- Reads and writes of the system copy engine under an ASID; writes at destination block `limit` and beyond are not
made. -/
def sysIo (asid : BitVec 16) (dst : Word) (limit : Option Nat) : CopyIo :=
  { rd := fun s _ a n =>
      match s.globalBytes asid a n with
      | .ok (bs, s) => (.ok bs, s)
      | .error ((c, f), s) => (.error (.fault c f), s)
    wr := fun s a bs =>
      let past := match limit with | some k => decide (k ≤ a.toNat / 64 - dst.toNat / 64) | none => false
      if past then (.ok (), s)
      else
        match s.checkedWrite none asid a bs with
        | .ok s => (.ok (), s)
        | .error ((c, f), s) => (.error (.fault c f), s) }

/-- A request that the system copy engine calls malformed (R44, R177), before it looks at its addresses (assumption log 105). -/
def sysMalformed (ws : List Word) : Bool :=
  let kind := recField ws 0 3 0
  let len := recField ws 3 39 0
  let src := (ws.getD 1 0).toNat
  let dst := (ws.getD 2 0).toNat
  recField ws 0 63 5 != 0 || recField ws 3 47 40 != 0 || decide (3 ≤ kind) || len == 0 || decide (2 ^ 32 < len) ||
  (kind == 1 && len % 4096 != 0) || (kind == 0 && decide (src < dst + len ∧ dst < src + len))

/-- A copy of the system copy engine, up to a block limit. -/
def State.sysCopy (s : State) (asid : BitVec 16) (ws : List Word) (limit : Option Nat) : CopyEnd × State :=
  let src := ws.getD 1 0
  let dst := ws.getD 2 0
  let len := recField ws 3 39 0
  let io := sysIo asid dst limit
  let kind := recField ws 0 3 0
  if sysMalformed ws then ({ status := 3, word := 0 }, s)
  else if kind < 2 && !src.getLsbD 63 then ({ status := 1, cause := 0x61, word := src }, s)
  else if !dst.getLsbD 63 then ({ status := 1, cause := 0x61, word := dst }, s)
  else
    let out := match kind with
      | 0 => s.copyBlocks s io none dst (piecesOf dst len) src 0
      | 1 => s.inflate io dst (len / 4096) 0 0 src
      | _ => s.copyBlocks s io (some src) dst (piecesOf dst len) 0 0
    match out with
    | (.ok e, s) => (e, s)
    | (.error _, s) => ({ status := 0, word := 0 }, s)

/-- The completion of a copy (R177). -/
def copyResult (ws : List Word) (e : CopyEnd) : List Byte :=
  leBytes 8 (recField ws 3 63 48 * 2 ^ 48 + e.status * 2 ^ 40 + e.cause.toNat * 2 ^ 32 + e.block % 2 ^ 32) ++
  leBytes 8 e.word.toNat

/-- A kind-3 record ends with its copy's result (R44). -/
def State.endSysCopy (s : State) (r : Rec) (ws : List Word) (e : CopyEnd) (extra : BitVec 16) : State :=
  s.complete r (copyResult ws e)
    { errors := extra ||| (if e.status == 0 then 0 else 0x80), cause := if e.status == 1 then e.cause else 0 } true

/-- SYSTEM_COPY_COMPLETE (R44, R177): the oldest copy of the system copy engine. -/
def execSystemCopyComplete (s : State) : Res :=
  match s.sched.copies with
  | [] => .next s
  | c :: l =>
    let s := { s with sched := { s.sched with copies := l } }
    match s.sched.recs.find? (·.id == c.id) with
    | none => .next s
    | some r =>
      let (e, s) := s.sysCopy (lrAsid r.words) c.words none
      .next (s.endSysCopy r c.words e 0)

/-- Destination blocks of a request. -/
def blocksOf (ws : List Word) : Nat := (piecesOf (ws.getD 2 0) (recField ws 3 39 0)).length

/-- A copy that `SCHEND` ends (R67): it stops before a 64-byte block that the spec leaves open, unless it had ended by
itself before. -/
def State.cutCopy (s : State) (r : Rec) (c : SysCopy) : State :=
  let k := (Config.freeWord s.fresh).toNat % max 1 (blocksOf c.words)
  let s := { s with fresh := s.fresh + 1,
                    sched := { s.sched with copies := s.sched.copies.filter fun q => q.id != c.id } }
  let (e, s) := s.sysCopy (lrAsid r.words) c.words (some k)
  let dst := (c.words.getD 2 0).toNat
  let done := (dst / 64 + k) * 64 - dst
  let inflates := recField c.words 0 3 0 == 1
  let before := if inflates then decide (4096 * e.block < done) else decide (e.block < k)
  if e.status == 3 || (e.status != 0 && before) then s.endSysCopy r c.words e 8
  else s.endSysCopy r c.words { status := 4, block := if inflates then done / 4096 else k, word := BitVec.ofNat 64 done } 8

/-! ## Loading and placement (R46, R53, R79) -/

/-- The first started record in a phase, in the order of starting. -/
def State.firstIn (s : State) (p : RecPhase) : Option Rec := s.unplaced.find? fun r => r.phase == p

/-- IMAGE_LOAD_COMPLETE (R46, R48): the image is loaded, or refused and the task completes with error bit 2. -/
def execImageLoadComplete (s : State) : Res :=
  match s.firstIn .loading with
  | none => .next s
  | some r =>
    match s.loadImage r with
    | (.error e, s) => .next (s.complete r e.bytes { errors := 4 } true)
    | (.ok img, s) =>
      .next ({ s with sched := { s.sched with images := tblSet s.sched.images r.id img } }.setPhase r.id .loaded)

/-- PLACEMENT (R53, R57, R79): the first loaded record takes the lowest free block of its size; no core runs after a
thermal stop (R29). -/
def execPlacement (s : State) : Res :=
  match (if s.boot.phase == .thermal then none else s.firstIn .loaded) with
  | none => .next s
  | some r =>
    match firstFit s.heldBlocks r.domain with
    | none => .next s
    | some base =>
      match s.sched.saved.find? (·.task.id == r.id), s.sched.images.find? (·.1 == r.id) with
      | some v, _ => .next ((s.restoreTask v base).handOn r)
      | none, some (_, img) => .next ((s.startTask r img base).handOn r)
      | none, none => .next s

/-! ## Edges (R58) -/

/-- EDGECTL_WRITE (R58): the fields other than `enable` are taken only while it is 0. -/
def execEdgectlWrite (e : Fin 4096) (v : Word) (s : State) : Res :=
  let g := s.edge e
  let on := v.getLsbD 7
  let g' := if g.enable then g else
    { g with filled := fieldOf v.toNat 38 32, tenant := fieldOf v.toNat 13 8, capacity := fieldOf v.toNat 6 0 }
  let g' :=
    if !on then { g' with enable := false }
    else if g.enable then g'
    else if g'.capacity == 0 || decide (64 < g'.capacity) then g'
    else { g' with enable := true, filled := min g'.filled g'.capacity }
  .next (s.setEdge e g')

/-! ## `SCHEND` (R67) -/

/-- The records that a port accepted with a sequence number and that have not completed. -/
def State.recsNamed (s : State) (v : Word) : List Rec :=
  s.sched.recs.filter fun r => r.port == fieldOf v.toNat 55 48 && lrSeq r.words == fieldOf v.toNat 31 0

/-- `SCHEND` on one record. -/
def State.endRec (s : State) (r : Rec) : State :=
  match r.phase with
  | .accepted | .waiting => s.complete r [] { errors := 8 } false
  | .loading | .loaded | .switchedOut =>
    match s.sched.saved.find? (·.task.id == r.id) with
    | some v => s.endSaved v r
    | none =>
      if r.phase == .switchedOut then s.modTask r.id fun t => { t with ended := true }
      else s.complete r [] { errors := 8 } true
  | .running =>
    match s.sched.tasks.find? (·.id == r.id), s.sched.copies.find? (·.id == r.id) with
    | some t, _ => s.endRunning t
    | none, some c => s.cutCopy r c
    | none, none => s.endColls fun q => q.rcd == some r.id

/-- SCHEND_WRITE (R67). -/
def execSchendWrite (v : Word) (s : State) : Res := .next ((s.recsNamed v).foldl State.endRec s)

/-! ## `DBGGO` (R245, R248) -/

/-- A task's threads that are held at a ridge, or still on their way there. -/
def Task.stoppedAt (t : Task) (s : State) : Bool :=
  let thr := ((List.range t.crews).map t.coreAt).flatMap fun c => (s.core c).thr.toList
  (thr.any fun h => h.run == .parked && (h.cause == 0xA3 || h.cause == 0xA5)) &&
  thr.all fun h => h.halted || (h.run == .parked && (h.cause == 0xA3 || h.cause == 0xA5)) || !(h.due.debug || h.due.replay)

/-- DBGGO_WRITE (R245, R248): the threads of a stopped task return; after a replay stop enforcement is over. -/
def execDbggoWrite (v : Word) (s : State) : Res :=
  .next ((s.recsNamed v).foldl (fun s r =>
    match s.sched.tasks.find? (·.id == r.id) with
    | none => s
    | some t =>
      if !t.stoppedAt s then s
      else
        let cores := (List.range t.crews).map t.coreAt
        let replay := cores.any fun c => (s.core c).thr.toList.any fun h => h.run == .parked && h.cause == 0xA5
        let s := cores.foldl (fun s c => s.unparkAll c [0xA3, 0xA5]) s
        if replay then s.modTask t.id fun t => { t with replayOff := true } else s) s)

end Sys2Proof.Machine
end

