-- ==== Sys2Proof/Machine/Registers.lean ====
section
/-!
DEFINITION. The register space of the link dies (R19 to R21, R31 to R38, R58, R67, R74, R77, R81, R106), and the monitors
(R28, R29).
-/
namespace Sys2Proof.Machine
open Sys2Proof

/-! ## Writes (R5) -/

/-- Bits of `SPCTL`, `HAPBASE`, `XLROOT`, `TCTX` and `TBUD` that a write sets (R33, R37, R74, R77, R106). -/
def spctlMask : Word := 0xFFFF001F01FE007F
def hapbaseMask : Word := 0xFFFFFFF000000000
def xlrootMask : Word := 0x000FFFFFFFF80001
def tctxMask : Word := 0xFFFFFFFFFFF00FFF
def tbudMask : Word := 0x0000000001FF01FF

/-- One 8-byte word of a 256-bit value replaced. -/
def setWord (v : BitVec 256) (i : Nat) (w : Word) : BitVec 256 :=
  BitVec.ofNat 256 (leNat ((leBytes 32 v.toNat).take (8 * i) ++ leBytes 8 w.toNat ++ (leBytes 32 v.toNat).drop (8 * i + 8)))

/-- A number below a bound. -/
def clampFin (n k : Nat) (h : 0 < n) : Fin n := ⟨k % n, Nat.mod_lt _ h⟩

/-- A write to a port's registers at an offset in its 64 bytes (R19, R22). -/
def State.portWrite (s : State) (p off : Nat) (v : Word) : State :=
  if off == 0 then s.hlpctlWrite p (v.setWidth 32)
  else if off == 8 then s.setPort p { s.port p with errLimit := v.setWidth 16 }
  else s

/-- A write to `COMMCTL` (R81). -/
def State.commCtl (s : State) (c : Fin 4096) (v : Word) : Res :=
  if v.getLsbD 0 then execCommEnable c v s
  else if (tblGet s.fab.comms c.val {}).enabled then execCommDisable c s
  else .next (s.commWrite c v)

/-- A write to `XLINV` (R106). -/
def State.xlinvRegister (s : State) (v : Word) : State :=
  s.xlinvWrite (fieldOf v.toNat 63 62) (fieldOf v.toNat 55 16 * 2 ^ 16) (v.setWidth 16)

/-- A write to the boot, aperture, scheduler and identification registers below 0x2000 (R31, R33, R34, R67, R245). -/
def State.lowWrite (s : State) (off : Nat) (v : Word) : Res :=
  if off == 0x100 then .next { s with boot := { s.boot with bootLen := v.setWidth 32 } }
  else if off == 0x104 then execBootgoWrite (v.setWidth 32) s
  else if off == 0x200 then .next { s with sched := { s.sched with hapBase := v &&& hapbaseMask } }
  else if off == 0x208 then .next { s with sched := { s.sched with hapAsid := v.setWidth 16 } }
  else if off == 0x300 then execSchendWrite v s
  else if off == 0x310 then execDbggoWrite v s
  else if off == 0x400 then execDevnumWrite (v.setWidth 16) s
  else if off == 0x408 then execPowerlimWrite (v.setWidth 16) s
  else .next s

/-- A write to the monitors' registers from 0x2000 on (R31). -/
def State.monitorWrite (s : State) (off : Nat) (v : Word) : Res :=
  if off == 0x2880 then .next { s with boot := { s.boot with twarn := v.setWidth 16 } }
  else if 0x2400 ≤ off ∧ off < 0x2800 ∧ off % 16 = 8 then
    .next { s with boot := { s.boot with droopThr := tblSet s.boot.droopThr ((off - 0x2400) / 16) (v.setWidth 16) } }
  else .next s

/-- REGISTER_WRITE: register `off` is written whole with `v`, `HLPIDEXP` in words of 8 bytes; RO fields, and offsets at which
no register starts, ignore it (R5, R32; assumption log 100). -/
def execRegisterWrite (off : Nat) (v : Word) (s : State) : Res :=
  if off < 0x2000 then s.lowWrite off v
  else if off < 0x10000 then s.monitorWrite off v
  else if off < 0x12000 then .next (s.portWrite ((off - 0x10000) / 64) (off % 64) v)
  else if 0x14000 ≤ off ∧ off < 0x16000 then
    let p := (off - 0x14000) / 64
    if 0x20 ≤ off % 64 ∧ off % 8 = 0 then
      .next (s.setPort p { s.port p with idExp := setWord (s.port p).idExp ((off % 64 - 0x20) / 8) v })
    else .next s
  else if 0x20000 ≤ off ∧ off < 0x21000 then
    let p := (off - 0x20000) / 16
    if off % 16 = 0 then .next (s.setSub p { s.sub p with ctl := v &&& spctlMask }) else .next s
  else if 0x30000 ≤ off ∧ off < 0x40000 then
    if off % 16 = 0 then execEdgectlWrite (clampFin 4096 ((off - 0x30000) / 16) (by decide)) v s else .next s
  else if 0x50000 ≤ off ∧ off < 0x50800 then
    let n := (off - 0x50000) / 32
    if off % 32 = 0 then .next { s with bud := { s.bud with tbud := tblSet s.bud.tbud n (v &&& tbudMask) } }
    else if off % 32 = 8 then .next { s with bud := { s.bud with tctx := tblSet s.bud.tctx n (v &&& tctxMask) } }
    else .next s
  else if 0x51000 ≤ off ∧ off < 0x51040 then
    if off % 16 = 0 then
      .next { s with bud := { s.bud with bpool := tblSet s.bud.bpool ((off - 0x51000) / 16) (v.setWidth 32) } }
    else .next s
  else if 0x60000 ≤ off ∧ off < 0x70000 then
    let c : Fin 4096 := clampFin 4096 ((off - 0x60000) / 16) (by decide)
    if off % 16 = 0 then s.commCtl c v else if off % 16 = 8 then .next (s.commMap c v) else .next s
  else if off == 0x70000 then .next { s with xl := { s.xl with rootW := v &&& xlrootMask } }
  else if off == 0x70008 then .next (s.xlinvRegister v)
  else if off == 0x70010 then execXlstatClear v s
  else .next s

/-! ## Reads (R5, R32) -/

/-- Half of a 64-bit register. -/
def halfAt (w : Word) (off : Nat) : BitVec 32 := if off % 8 = 4 then (w >>> 32).setWidth 32 else w.setWidth 32

/-- Four bytes of a list. -/
def quadAt (bs : List Byte) (off : Nat) : BitVec 32 := BitVec.ofNat 32 (leNat ((bs.drop off).take 4))

/-- Two 16-bit readings side by side. -/
def pairAt (t : Tbl (BitVec 16)) (i : Nat) : BitVec 32 := (tblGet t (i + 1) 0 ++ tblGet t i 0 : BitVec 32)

/-- An edge's `EDGECTL` (R58). A count of `filled` past its 7 bits shows above them (assumption log 127). -/
def Edge.reg (g : Edge) : Word :=
  BitVec.ofNat 64 (g.held * 2 ^ 48 + g.filled * 2 ^ 32 + g.tenant * 2 ^ 8 + boolNat g.enable * 2 ^ 7 + g.capacity)

/-- A bucket pair's `TBUCKET` (R74). -/
def Bucket.reg (k : Bucket) : Word := BitVec.ofNat 64 (wrapNat k.energy 32 * 2 ^ 32 + wrapNat k.bandwidth 32)

/-- The four bytes at a 4-byte aligned offset of BAR0 below 0x10000 (R31, R33, R34). -/
def State.lowRead (s : State) (off : Nat) : BitVec 32 :=
  let b := s.boot
  if off == 0x100 then b.bootLen
  else if off == 0x104 then BitVec.ofNat 32 (boolNat b.bootGo)
  else if off == 0x108 then BitVec.ofNat 32 b.bootStat
  else if off / 8 == 0x40 then halfAt s.sched.hapBase off
  else if off == 0x208 then s.sched.hapAsid.setWidth 32
  else if off == 0x400 then b.devnum.setWidth 32
  else if off == 0x408 then b.powerLim.setWidth 32
  else if 0x500 ≤ off ∧ off < 0x600 then
    quadAt (bytes256 (b.meas.toList.getD ((off - 0x500) / 32) 0)) (off % 32)
  else if off == 0x600 then b.logCnt
  else if off == 0x604 then b.logOvf
  else if 0x1000 ≤ off ∧ off < 0x2000 then quadAt (leBytes 16 (tblGet b.log ((off - 0x1000) / 16) 0).toNat) (off % 16)
  else if 0x2000 ≤ off ∧ off < 0x2200 then pairAt b.temps ((off - 0x2000) / 2)
  else if 0x2400 ≤ off ∧ off < 0x2800 then
    let g := (off - 0x2400) / 16
    match off % 16 with
    | 0 => (tblGet b.droopMin g 0).setWidth 32
    | 4 => tblGet b.droopCount g 0
    | 8 => (b.threshold g).setWidth 32
    | _ => 0
  else if 0x2800 ≤ off ∧ off < 0x2860 then (tblGet b.process ((off - 0x2800) / 4) 0).setWidth 32
  else if off == 0x2880 then b.twarn.setWidth 32
  else 0

/-- `TBUD` as it reads: a share above 256 reads as 256 (R74). -/
def tbudRead (w : Word) : Word := BitVec.ofNat 64 (shareOf w true * 2 ^ 16 + shareOf w false)

/-- The four bytes at a 4-byte aligned offset of BAR0; an unassigned offset reads zero (R32). -/
def State.bar0 (s : State) (off : Nat) : BitVec 32 :=
  if off < 0x10000 then s.lowRead off
  else if off < 0x12000 then
    let l := s.port ((off - 0x10000) / 64)
    match off % 64 with | 0 => l.ctl.setWidth 32 | 4 => l.stat | 8 => l.errLimit.setWidth 32 | _ => 0
  else if 0x14000 ≤ off ∧ off < 0x16000 then
    let l := s.port ((off - 0x14000) / 64)
    quadAt (bytes256 l.idHash ++ bytes256 l.idExp) (off % 64)
  else if 0x20000 ≤ off ∧ off < 0x21000 then if off % 16 < 8 then halfAt (s.sub ((off - 0x20000) / 16)).ctl off else 0
  else if 0x30000 ≤ off ∧ off < 0x40000 then if off % 16 < 8 then halfAt (s.edge ((off - 0x30000) / 16)).reg off else 0
  else if 0x50000 ≤ off ∧ off < 0x50800 then
    let n := (off - 0x50000) / 32
    if off % 32 < 8 then halfAt (tbudRead (tblGet s.bud.tbud n 0)) off
    else if off % 32 < 16 then halfAt (tblGet s.bud.tctx n 0) off else 0
  else if 0x51000 ≤ off ∧ off < 0x51040 then
    let d := (off - 0x51000) / 16
    match off % 16 with | 0 => tblGet s.bud.bpool d 30161 | 4 => tblGet s.bud.epool d 558545 | _ => 0
  else if 0x52000 ≤ off ∧ off < 0x53000 then
    let n := off - 0x52000
    if off % 16 < 8 then halfAt (s.bud.bucket (n / 0x400) (n % 0x400 / 16)).reg off else 0
  else if 0x53000 ≤ off ∧ off < 0x53100 then tblGet s.bud.ecoef ((off - 0x53000) / 4) 0
  else if 0x60000 ≤ off ∧ off < 0x70000 then
    let m := tblGet s.fab.comms ((off - 0x60000) / 16) {}
    if off % 16 < 8 then halfAt m.ctl off else halfAt m.map off
  else if off / 8 == 0xE000 then halfAt s.xl.rootW off
  else if off / 8 == 0xE200 then halfAt (BitVec.ofNat 64 s.earlyBytes) off
  else if off == 0x70010 then BitVec.ofNat 32 (boolNat s.xl.dropped * 2 + boolNat s.xl.inval.isSome)
  else if 0x80000 ≤ off ∧ off < 0xA0000 then
    let l := tblGet s.sched.errlogs ((off - 0x80000) / 0x800) {}
    let o := off % 0x800
    if o < 0x400 then quadAt (tblGet l.entries (o / 32) []) (o % 32) else if o == 0x400 then l.count else 0
  else 0

/-- The four bytes at a 4-byte aligned offset of BAR2: `LASTREFUSAL` and `PORTOCC` of a port's page; any other offset reads
zero (R32, R38). -/
def State.bar2 (s : State) (off : Nat) : BitVec 32 :=
  let q := s.sub (off / 4096 % 256)
  match off % 4096 with
  | 0x40 => BitVec.ofNat 32 (q.refusals.toNat * 2 ^ 16 + q.code.toNat)
  | 0x48 => BitVec.ofNat 32 q.occupied
  | 0x4C => q.accepted
  | _ => 0

/-! ## Monitors (R28, R29) -/

/-- A sensor reads 115 °C or more: every core stops, and the device is in maintenance until reset. -/
def State.thermalStop (s : State) : State :=
  let s := { s with boot := { s.boot with phase := .thermal, maintenance := true } }
  s.sched.tasks.foldl (fun s t => s.loseTask t fun _ => 0xC8) s

/-- MONITOR_UPDATE (R28, R29): new readings; the droop responses; a kind-6 record when a sensor is above `TWARN`; the
thermal stop at 115 °C. -/
def execMonitorUpdate (r : Readings) (s : State) : Res :=
  let b := { s.boot with temps := tblOf (r.temps.take 256), process := tblOf (r.process.take 24) }.droops r.droops
  let b := match hottest (r.temps.take 256) b.twarn.toInt with
    | some (i, v) => b.append (logRecord s.cycle v i 6 0 false false 0)
    | none => b
  let s := { s with boot := b }
  match hottest (r.temps.take 256) 1839 with
  | some _ => .next s.thermalStop
  | none => .next s

end Sys2Proof.Machine
end

