-- ==== Sys2Proof/Machine/Scalar.lean ====
section
/-!
DEFINITION. Scalar integer and floating-point instructions of pages 0 and 1 (R266 to R274, R284, R288 to R293).
-/
namespace Sys2Proof.Machine
open Sys2Proof

/-! ## Arithmetic (R269, R270) -/

/-- Truncating signed division; −1 for a divisor of 0 (R270). -/
def divS (x y : Word) : Word := if y = 0 then -1 else x.sdiv y
/-- Unsigned division; all ones for a divisor of 0. -/
def divN (x y : Word) : Word := if y = 0 then -1 else x / y
/-- Signed remainder, of the dividend's sign; the dividend for a divisor of 0. -/
def remS (x y : Word) : Word := if y = 0 then x else x.srem y
/-- Unsigned remainder. -/
def remN (x y : Word) : Word := if y = 0 then x else x % y
/-- High half of the signed product. -/
def mulHigh (x y : Word) : Word := wordOfInt (x.toInt * y.toInt / 2 ^ 64)
/-- High half of the unsigned product. -/
def mulHighN (x y : Word) : Word := BitVec.ofNat 64 (x.toNat * y.toNat / 2 ^ 64)
/-- Shifts by a count modulo 64. -/
def shiftL (x y : Word) : Word := x <<< (y.toNat % 64)
def shiftR (x y : Word) : Word := x >>> (y.toNat % 64)
def shiftA (x y : Word) : Word := x.sshiftRight (y.toNat % 64)
/-- Zero bits above the highest 1. -/
def clzW (x : Word) : Word := if x = 0 then 64 else BitVec.ofNat 64 (63 - x.toNat.log2)
/-- The lowest set bit from a place on. -/
def lowBit (x : Word) : Nat → Nat → Nat
  | 0, i => i
  | n + 1, i => if x.getLsbD i then i else lowBit x n (i + 1)
/-- Zero bits below the lowest 1. -/
def ctzW (x : Word) : Word := BitVec.ofNat 64 (lowBit x 64 0)
/-- Number of 1 bits. -/
def popcW (x : Word) : Word := BitVec.ofNat 64 ((List.range 64).countP x.getLsbD)
/-- Low `n` bits sign-extended. -/
def sextW (x : Word) (n : Nat) : Word := wordOfInt (sextInt x.toNat n)
/-- Low `n` bits zero-extended. -/
def zextW (x : Word) (n : Nat) : Word := BitVec.ofNat 64 (x.toNat % 2 ^ n)

/-! ## Shapes -/

/-- Two sources, one destination, no flag. -/
def alu (x : Pre) (a b c : SReg) (f : Word → Word → Word) (s : State) : Res :=
  issue x (fun k => do
    let u ← readS k b
    let v ← readS k c
    writeS k a (f u v)
    goOn) s

/-- A source and the immediate. -/
def aluImm (x : Pre) (a b : SReg) (f : Word → Word) (s : State) : Res :=
  issue x (fun k => do
    let u ← readS k b
    writeS k a (f u)
    goOn) s

/-- A sum or difference that traps outside 64 bits (R269). -/
def aluTrap (x : Pre) (a b c : SReg) (big : Word → Word → Bool) (f : Word → Word → Word) (s : State) : Res :=
  issue x (fun k => do
    let u ← readS k b
    let v ← readS k c
    trapIf (big u v) 0x06
    writeS k a (f u v)
    goOn) s

/-- A division: DZ at retirement for a divisor of 0 (R270). -/
def aluDiv (x : Pre) (a b c : SReg) (f : Word → Word → Word) (s : State) : Res :=
  issue x (fun k => do
    let u ← readS k b
    let v ← readS k c
    addFlags k (divFlags v)
    writeS k a (f u v)
    goOn) s

/-- Floating arithmetic of R290 in the type of `dtype`; field a is the addend of `FMA`. -/
def fpArith (x : Pre) (a b c : SReg) (op : FOp) (s : State) : Res :=
  issue x (fun k => do
    let t := tyOr x.dtype .f32
    let u ← readS k b
    let v ← readS k c
    let w ← if op == .fma then readS k a else pure 0
    let r := fArith (ffmt t) x.ftzi (ctlOf x) op (lowBits u t.width) (lowBits v t.width) (lowBits w t.width)
    match ← roundScalar k x r with
    | some bits => do writeS k a (BitVec.ofNat 64 bits); goOn
    | none => goOn) s

/-- `FMIN` and `FMAX` (R291). -/
def fpMinMax (x : Pre) (a b c : SReg) (max : Bool) (s : State) : Res :=
  issue x (fun k => do
    let t := tyOr x.dtype .f32
    let u ← readS k b
    let v ← readS k c
    let r := minMaxF (ffmt t) x.ftzi max (lowBits u t.width) (lowBits v t.width)
    addFlags k r.2
    writeS k a (BitVec.ofNat 64 r.1)
    goOn) s

/-- The floating compares (R291). -/
def fpCmp (x : Pre) (a b c : SReg) (rel : FCmp) (s : State) : Res :=
  issue x (fun k => do
    let t := tyOr x.dtype .f32
    let u ← readS k b
    let v ← readS k c
    let r := cmpF (ffmt t) x.ftzi rel (lowBits u t.width) (lowBits v t.width)
    addFlags k r.2
    writeS k a (boolWord r.1)
    goOn) s

/-- Conversions (R292), from type `st` to type `dt`, by a conversion of values. -/
def fpCvt (conv : Ty → Ty → Bool → Ctl → Nat → RoundRes) (x : Pre) (a b : SReg) (st dt : Ty) (s : State) : Res :=
  issue x (fun k => do
    let u ← readS k b
    match ← roundScalar k x (conv st dt x.ftzi (ctlOf x) (lowBits u st.width)) with
    | some bits => do writeS k a (if dt.isFloat then BitVec.ofNat 64 bits else extendTy dt bits); goOn
    | none => goOn) s

/-! ## Instructions -/

/-- ADD (R269): x + y. -/
def execAdd (x : Pre) (a b c : SReg) (s : State) : Res := alu x a b c (· + ·) s

/-- SUB (R269): x − y. -/
def execSub (x : Pre) (a b c : SReg) (s : State) : Res := alu x a b c (· - ·) s

/-- AND (R269): AND. -/
def execAnd (x : Pre) (a b c : SReg) (s : State) : Res := alu x a b c (· &&& ·) s

/-- OR (R269): OR. -/
def execOr (x : Pre) (a b c : SReg) (s : State) : Res := alu x a b c (· ||| ·) s

/-- XOR (R269): XOR. -/
def execXor (x : Pre) (a b c : SReg) (s : State) : Res := alu x a b c (· ^^^ ·) s

/-- SHL (R269): left shift. -/
def execShl (x : Pre) (a b c : SReg) (s : State) : Res := alu x a b c shiftL s

/-- SHR (R269): logical right shift. -/
def execShr (x : Pre) (a b c : SReg) (s : State) : Res := alu x a b c shiftR s

/-- SAR (R269): arithmetic right shift. -/
def execSar (x : Pre) (a b c : SReg) (s : State) : Res := alu x a b c shiftA s

/-- MUL (R269): low product. -/
def execMul (x : Pre) (a b c : SReg) (s : State) : Res := alu x a b c (· * ·) s

/-- MULH (R269): high signed product. -/
def execMulh (x : Pre) (a b c : SReg) (s : State) : Res := alu x a b c mulHigh s

/-- MULHN (R269): high unsigned product. -/
def execMulhn (x : Pre) (a b c : SReg) (s : State) : Res := alu x a b c mulHighN s

/-- ADDV (R269). -/
def execAddv (x : Pre) (a b c : SReg) (s : State) : Res := aluTrap x a b c addOverflows (· + ·) s

/-- SUBV (R269). -/
def execSubv (x : Pre) (a b c : SReg) (s : State) : Res := aluTrap x a b c subOverflows (· - ·) s

/-- DIV (R269, R270). -/
def execDiv (x : Pre) (a b c : SReg) (s : State) : Res := aluDiv x a b c divS s

/-- DIVN (R269, R270). -/
def execDivn (x : Pre) (a b c : SReg) (s : State) : Res := aluDiv x a b c divN s

/-- REM (R269, R270). -/
def execRem (x : Pre) (a b c : SReg) (s : State) : Res := aluDiv x a b c remS s

/-- REMN (R269, R270). -/
def execRemn (x : Pre) (a b c : SReg) (s : State) : Res := aluDiv x a b c remN s

/-- ADDI (R271). -/
def execAddi (x : Pre) (a b : SReg) (imm : Word) (s : State) : Res := aluImm x a b (· + imm) s

/-- ANDI (R271). -/
def execAndi (x : Pre) (a b : SReg) (imm : Word) (s : State) : Res := aluImm x a b (· &&& imm) s

/-- ORI (R271). -/
def execOri (x : Pre) (a b : SReg) (imm : Word) (s : State) : Res := aluImm x a b (· ||| imm) s

/-- XORI (R271). -/
def execXori (x : Pre) (a b : SReg) (imm : Word) (s : State) : Res := aluImm x a b (· ^^^ imm) s

/-- SHLI (R271). -/
def execShli (x : Pre) (a b : SReg) (imm : Word) (s : State) : Res := aluImm x a b (shiftL · imm) s

/-- SHRI (R271). -/
def execShri (x : Pre) (a b : SReg) (imm : Word) (s : State) : Res := aluImm x a b (shiftR · imm) s

/-- SARI (R271). -/
def execSari (x : Pre) (a b : SReg) (imm : Word) (s : State) : Res := aluImm x a b (shiftA · imm) s

/-- LI (R272). -/
def execLi (x : Pre) (a : SReg) (imm : Word) (s : State) : Res :=
  issue x (fun k => do
    writeS k a imm
    goOn) s

/-- CMPEQ (R273). -/
def execCmpeq (x : Pre) (a b c : SReg) (s : State) : Res := alu x a b c (fun u v => boolWord (u == v)) s

/-- CMPNE (R273). -/
def execCmpne (x : Pre) (a b c : SReg) (s : State) : Res := alu x a b c (fun u v => boolWord (u != v)) s

/-- CMPLT (R273). -/
def execCmplt (x : Pre) (a b c : SReg) (s : State) : Res := alu x a b c (fun u v => boolWord (u.slt v)) s

/-- CMPLTN (R273). -/
def execCmpltn (x : Pre) (a b c : SReg) (s : State) : Res := alu x a b c (fun u v => boolWord (u.ult v)) s

/-- CMPLE (R273). -/
def execCmple (x : Pre) (a b c : SReg) (s : State) : Res := alu x a b c (fun u v => boolWord (u.sle v)) s

/-- CMPLEN (R273). -/
def execCmplen (x : Pre) (a b c : SReg) (s : State) : Res := alu x a b c (fun u v => boolWord (u.ule v)) s

/-- SEL (R273): the condition is the register of XR `d`. -/
def execSel (x : Pre) (a b c : SReg) (d : Fin 16) (s : State) : Res :=
  issue x (fun k => do
    let u ← readS k b
    let v ← readS k c
    let w ← readS k (d.castLE (by decide))
    writeS k a (if w = 0 then v else u)
    goOn) s

/-- CLZ (R269). -/
def execClz (x : Pre) (a b : SReg) (s : State) : Res := aluImm x a b clzW s

/-- CTZ (R269). -/
def execCtz (x : Pre) (a b : SReg) (s : State) : Res := aluImm x a b ctzW s

/-- POPC (R269). -/
def execPopc (x : Pre) (a b : SReg) (s : State) : Res := aluImm x a b popcW s

/-- MIN (R269). -/
def execMin (x : Pre) (a b c : SReg) (s : State) : Res := alu x a b c (fun u v => if u.slt v then u else v) s

/-- MINN (R269). -/
def execMinn (x : Pre) (a b c : SReg) (s : State) : Res := alu x a b c (fun u v => if u.ult v then u else v) s

/-- MAX (R269). -/
def execMax (x : Pre) (a b c : SReg) (s : State) : Res := alu x a b c (fun u v => if u.slt v then v else u) s

/-- MAXN (R269). -/
def execMaxn (x : Pre) (a b c : SReg) (s : State) : Res := alu x a b c (fun u v => if u.ult v then v else u) s

/-- SEXT (R274): the immediate is the width less 1. -/
def execSext (x : Pre) (a b : SReg) (imm : Word) (s : State) : Res := aluImm x a b (sextW · (imm.toNat + 1)) s

/-- ZEXT (R274). -/
def execZext (x : Pre) (a b : SReg) (imm : Word) (s : State) : Res := aluImm x a b (zextW · (imm.toNat + 1)) s

/-- PCADDR (R284). -/
def execPcaddr (x : Pre) (a : SReg) (imm : Word) (s : State) : Res :=
  issue x (fun k => do
    writeS k a ((relTarget k.addr imm).setWidth 64)
    goOn) s

/-- FADD (R290). -/
def execFadd (x : Pre) (a b c : SReg) (s : State) : Res := fpArith x a b c .add s

/-- FSUB (R290). -/
def execFsub (x : Pre) (a b c : SReg) (s : State) : Res := fpArith x a b c .sub s

/-- FMUL (R290). -/
def execFmul (x : Pre) (a b c : SReg) (s : State) : Res := fpArith x a b c .mul s

/-- FMA (R290). -/
def execFma (x : Pre) (a b c : SReg) (s : State) : Res := fpArith x a b c .fma s

/-- FDIV (R290). -/
def execFdiv (x : Pre) (a b c : SReg) (s : State) : Res := fpArith x a b c .div s

/-- FSQRT (R290). -/
def execFsqrt (x : Pre) (a b : SReg) (s : State) : Res := fpArith x a b 0 .sqrt s

/-- FMIN (R291). -/
def execFmin (x : Pre) (a b c : SReg) (s : State) : Res := fpMinMax x a b c false s

/-- FMAX (R291). -/
def execFmax (x : Pre) (a b c : SReg) (s : State) : Res := fpMinMax x a b c true s

/-- FCMPEQ (R291). -/
def execFcmpeq (x : Pre) (a b c : SReg) (s : State) : Res := fpCmp x a b c .eq s

/-- FCMPLT (R291). -/
def execFcmplt (x : Pre) (a b c : SReg) (s : State) : Res := fpCmp x a b c .lt s

/-- FCMPLE (R291). -/
def execFcmple (x : Pre) (a b c : SReg) (s : State) : Res := fpCmp x a b c .le s

/-- FCVTI (R292). -/
def execFcvti (x : Pre) (a b : SReg) (s : State) : Res := fpCvt convert x a b (tyOr x.stype .f32) (tyOr x.dtype .i64) s

/-- FCVTIN (R292). -/
def execFcvtin (x : Pre) (a b : SReg) (s : State) : Res := fpCvt convert x a b (tyOr x.stype .f32) (tyOr x.dtype .n64) s

/-- FCVTF (R292). -/
def execFcvtf (x : Pre) (a b : SReg) (s : State) : Res := fpCvt convert x a b (tyOr x.stype .i64) (tyOr x.dtype .f32) s

/-- FCVTFN (R292). -/
def execFcvtfn (x : Pre) (a b : SReg) (s : State) : Res := fpCvt convert x a b (tyOr x.stype .n64) (tyOr x.dtype .f32) s

/-- FCVT (R292). -/
def execFcvt (x : Pre) (a b : SReg) (s : State) : Res := fpCvt convert x a b x.stype x.dtype s

/-- BSADD (R293, R198). -/
def execBsadd (x : Pre) (a b c : SReg) (s : State) : Res :=
  issue x (fun k => do
    let p ← readPair k b
    let q ← readPair k c
    let r := bsAdd p.1 p.2 q.1 q.2
    addFlags k r.2.2
    writePair k a r.1 r.2.1
    goOn) s

/-- BSCVT (R293, R198). -/
def execBscvt (x : Pre) (a b : SReg) (s : State) : Res :=
  issue x (fun k => do
    let p ← readPair k b
    let r := bsCvt p.1 p.2
    addFlags k r.2
    writeS k a (BitVec.ofNat 64 r.1)
    goOn) s

/-- NOP (R288): nothing beyond its prefixes. -/
def execNop (x : Pre) (s : State) : Res := issue x (fun _ => goOn) s

/-- ILL (R288): cause 0x01 whatever its immediate. -/
def execIll (x : Pre) (_imm : Word) (s : State) : Res := issue x (fun _ => trap 0x01) s

end Sys2Proof.Machine
end

