-- ==== Sys2Proof/Machine/System.lean ====
section
/-!
DEFINITION. Control registers: `CSRD` and `CSWR` (R169, R285).
-/
namespace Sys2Proof.Machine
open Sys2Proof

/-- The bits a control register's fields cover; none for an unassigned number (R169). -/
def csrFields (n : Nat) : Option Nat :=
  if n == 0x000 || n == 0x001 then some 0xFFF
  else if n == 0x002 then some 0xFFFF3FFF
  else if n == 0x003 then some 0x7E
  else if 0x011 ≤ n && n ≤ 0x016 then some 0xFFFFFFFFFFFF
  else if n == 0x020 then some 0xFFFFFFFFFFFF
  else if n == 0x030 then some 0xFFFF
  else if n == 0x031 then some 0xFF
  else if n == 0x032 then some 0xFFFFFFFFFFFFFFFF
  else if n == 0x033 then some 0xFFFF000000000F00
  else if n == 0x040 then some 0x3F
  else if n == 0x041 then some 0xFFFF
  else if n == 0x042 then some 0xFFFFFFFF0000001F
  else if n == 0x043 then some 0xFFFFFFFFFFFFFFFF
  else if n == 0x044 then some 0xFFFF
  else if n == 0x050 then some 0xFFFFFFFF00FF
  else if 0x060 ≤ n && n ≤ 0x067 then some 0xFFFFFFFFFFFF
  else if n == 0x070 then some 0x3FFFFFFFF
  else if n == 0x080 then some 0xFFFFFFFFFFFFFFFF
  else if n == 0x081 then some 0xFFFFFFFFFFFFF00F
  else if 0x090 ≤ n && n ≤ 0x092 then some 0xFFFFFFFFFFFF
  else none

/-- Registers written only by code in segment 0 (R169). -/
def csrResident (n : Nat) : Bool := (0x030 ≤ n && n ≤ 0x033) || n == 0x080 || n == 0x081

/-- The `DOMMASK` bits a domain has: its levels and bit 6 (R169). -/
def domLevels (level : Nat) : BitVec 7 :=
  (List.range 6).foldl (fun m i => if i + 1 ≤ level || i + 1 == 6 then m ||| (1 <<< (i + 1)) else m) 0

/-- The domain level of a core's task. -/
def State.levelOf (s : State) (core : Nat) : Nat := match s.taskOf core with | some t => t.level | none => 0

/-- A control register's value (R169). -/
def State.csr (s : State) (k : Ctx) (n : Nat) : Word :=
  let c := s.core k.core
  let t := s.thread k.core k.ts
  let e := c.ring[c.ringSel]
  if n == 0x000 then BitVec.ofNat 64 (s.relOf k.core)
  else if n == 0x001 then BitVec.ofNat 64 k.core
  else if n == 0x002 then t.idWord (s.relOf k.core) k.ts
  else if n == 0x003 then (c.dommask &&& domLevels (s.levelOf k.core)).setWidth 64
  else if 0x011 ≤ n && n ≤ 0x016 then (c.course.toList.getD (n - 0x010) 0).setWidth 64
  else if n == 0x020 then t.drawctr.setWidth 64
  else if n == 0x030 then t.epc.setWidth 64
  else if n == 0x031 then t.cause.setWidth 64
  else if n == 0x032 then t.einfo
  else if n == 0x033 then t.estat
  else if n == 0x040 then t.fpflags.setWidth 64
  else if n == 0x041 then c.cpseq.setWidth 64
  else if n == 0x042 then BitVec.ofNat 64 (e.seq.toNat * 2 ^ 48 + e.pc.toNat * 2 ^ 32 + c.ringSel.val)
  else if n == 0x043 then BitVec.ofNat 64 ((e.words.take 4).foldr (fun h a => h.toNat + 2 ^ 16 * a) 0)
  else if n == 0x044 then (e.words.getD 4 0).setWidth 64
  else if n == 0x050 then
    BitVec.ofNat 64 (c.deposits.toNat * 2 ^ 16 + boolNat c.mbHeld * 2 ^ 7 + c.mailbox.length)
  else if 0x060 ≤ n && n ≤ 0x067 then
    (c.staleCounts.toList.getD (n - 0x060) 0).setWidth 64
  else if n == 0x070 then
    BitVec.ofNat 64 (boolNat c.ehold * 2 ^ 33 + boolNat c.bhold * 2 ^ 32 + c.heldCycles.toNat)
  else if n == 0x080 then c.brkmap
  else if n == 0x081 then c.trctl
  else if n == 0x090 then BitVec.ofNat 64 (s.cycle % 2 ^ 48)
  else if n == 0x091 then t.yxcyc.setWidth 64
  else t.yexh.setWidth 64

/-- A control register written; fields that are RO keep their value (R5, R169). -/
def State.setCsr (s : State) (k : Ctx) (n : Nat) (v : Word) : State :=
  let c := s.core k.core
  if n == 0x003 then s.setCore k.core { c with dommask := v.setWidth 7 &&& domLevels (s.levelOf k.core) }
  else if n == 0x020 then s.modThread k.core k.ts fun t => { t with drawctr := v.setWidth 48 }
  else if n == 0x030 then s.modThread k.core k.ts fun t => { t with epc := v.setWidth 16 }
  else if n == 0x031 then s.modThread k.core k.ts fun t => { t with cause := v.setWidth 8 }
  else if n == 0x032 then s.modThread k.core k.ts fun t => { t with einfo := v }
  else if n == 0x033 then s.modThread k.core k.ts fun t => { t with estat := v }
  else if n == 0x040 then s.modThread k.core k.ts fun t => { t with fpflags := v.setWidth 6 }
  else if n == 0x042 then s.setCore k.core { c with ringSel := ⟨v.toNat % 32, Nat.mod_lt _ (by decide)⟩ }
  else if n == 0x080 then s.setCore k.core { c with brkmap := v }
  else if n == 0x081 then s.setTrctl k.core v
  else s

/-- An access to a control register is refused (R169): an unassigned number, and for a write a reserved bit or a
register of segment 0 written from elsewhere. -/
def csrRefused (k : Ctx) (n : Nat) (w : Option Word) : Bool :=
  match csrFields n with
  | none => true
  | some m =>
    match w with
    | none => false
    | some v => (csrResident n && !k.resident) || v.toNat &&& m != v.toNat

/-- CSRD (R285). -/
def execCsrd (x : Pre) (a : SReg) (imm : Word) (s : State) : Res :=
  issue x (fun k => do
    trapIf (csrRefused k imm.toNat none) 0x02 imm
    let s ← getState
    holdUnless (imm != 0x040 || (s.idleV k && s.idleM k))
    writeS k a (s.csr k imm.toNat)
    goOn) s

/-- CSWR (R285). -/
def execCswr (x : Pre) (a : SReg) (imm : Word) (s : State) : Res :=
  issue x (fun k => do
    let v ← readS k a
    trapIf (csrRefused k imm.toNat (some v)) 0x02 imm
    let s ← getState
    holdUnless (imm != 0x040 || (s.idleV k && s.idleM k))
    modState fun s => s.setCsr k imm.toNat v
    goOn) s

end Sys2Proof.Machine
end

