-- ==== Sys2Proof/Machine/Dispatch.lean ====
section
/-!
DEFINITION. The meaning of every row of the table: one arm for each constructor.
-/
namespace Sys2Proof.Machine
open Sys2Proof

def exec (i : Instr) (s : State) : Host.Outcome State Fault Refusal :=
  match i with
  | .powerOnReset => Sys2Proof.Machine.execPowerOnReset s
  | .bootFetchRetry => Sys2Proof.Machine.execBootFetchRetry s
  | .bootImageReceived image => Sys2Proof.Machine.execBootImageReceived image s
  | .dieRelease die => Sys2Proof.Machine.execDieRelease die s
  | .bootgoWrite v => Sys2Proof.Machine.execBootgoWrite v s
  | .attestationRequest nonce => Sys2Proof.Machine.execAttestationRequest nonce s
  | .measurementExtend m digest => Sys2Proof.Machine.execMeasurementExtend m digest s
  | .securityVersionRaise v => Sys2Proof.Machine.execSecurityVersionRaise v s
  | .devnumWrite v => Sys2Proof.Machine.execDevnumWrite v s
  | .powerlimWrite v => Sys2Proof.Machine.execPowerlimWrite v s
  | .portEnable p v => Sys2Proof.Machine.execPortEnable p v s
  | .portDisable p v => Sys2Proof.Machine.execPortDisable p v s
  | .portRestart p v => Sys2Proof.Machine.execPortRestart p v s
  | .trainingStepComplete p o => Sys2Proof.Machine.execTrainingStepComplete p o s
  | .trainingStepTimeout p code => Sys2Proof.Machine.execTrainingStepTimeout p code s
  | .identityReportReceive p devnum report => Sys2Proof.Machine.execIdentityReportReceive p devnum report s
  | .identityChallenge p nonce => Sys2Proof.Machine.execIdentityChallenge p nonce s
  | .flitReceive p flit good => Sys2Proof.Machine.execFlitReceive p flit good s
  | .flitAckReceive p seq => Sys2Proof.Machine.execFlitAckReceive p seq s
  | .flitResend p seq => Sys2Proof.Machine.execFlitResend p seq s
  | .creditGrant p vc n => Sys2Proof.Machine.execCreditGrant p vc n s
  | .laneLoss p => Sys2Proof.Machine.execLaneLoss p s
  | .rateFallback p => Sys2Proof.Machine.execRateFallback p s
  | .errorThreshold p resends => Sys2Proof.Machine.execErrorThreshold p resends s
  | .linkDown p => Sys2Proof.Machine.execLinkDown p s
  | .monitorUpdate r => Sys2Proof.Machine.execMonitorUpdate r s
  | .droopHoldEnd sg => Sys2Proof.Machine.execDroopHoldEnd sg s
  | .hostApertureAccess write off n data => Sys2Proof.Machine.execHostApertureAccess write off n data s
  | .hostSubmit p off data deferrable => Sys2Proof.Machine.execHostSubmit p off data deferrable s
  | .submissionDecide p => Sys2Proof.Machine.execSubmissionDecide p s
  | .schedulerIntake => Sys2Proof.Machine.execSchedulerIntake s
  | .schedulerStart => Sys2Proof.Machine.execSchedulerStart s
  | .systemCopyComplete => Sys2Proof.Machine.execSystemCopyComplete s
  | .imageLoadComplete => Sys2Proof.Machine.execImageLoadComplete s
  | .placement => Sys2Proof.Machine.execPlacement s
  | .crewFinish core => Sys2Proof.Machine.execCrewFinish core s
  | .trussReport core => Sys2Proof.Machine.execTrussReport core s
  | .energyDeferExpiry n => Sys2Proof.Machine.execEnergyDeferExpiry n s
  | .switchOutTrigger => Sys2Proof.Machine.execSwitchOutTrigger s
  | .switchOutDrainPass => Sys2Proof.Machine.execSwitchOutDrainPass s
  | .switchOutComplete => Sys2Proof.Machine.execSwitchOutComplete s
  | .schendWrite v => Sys2Proof.Machine.execSchendWrite v s
  | .dbggoWrite v => Sys2Proof.Machine.execDbggoWrite v s
  | .edgectlWrite e v => Sys2Proof.Machine.execEdgectlWrite e v s
  | .budgetBoundary coefs epools => Sys2Proof.Machine.execBudgetBoundary coefs epools s
  | .arbiterAgeLimit n => Sys2Proof.Machine.execArbiterAgeLimit n s
  | .accessAtHome n => Sys2Proof.Machine.execAccessAtHome n s
  | .translationWalkComplete asid va => Sys2Proof.Machine.execTranslationWalkComplete asid va s
  | .xlinvAll => Sys2Proof.Machine.execXlinvAll s
  | .xlinvAsid asid => Sys2Proof.Machine.execXlinvAsid asid s
  | .xlinvPage asid va => Sys2Proof.Machine.execXlinvPage asid va s
  | .xlinvNone => Sys2Proof.Machine.execXlinvNone s
  | .xlinvComplete => Sys2Proof.Machine.execXlinvComplete s
  | .xlstatClear v => Sys2Proof.Machine.execXlstatClear v s
  | .commEnable c v => Sys2Proof.Machine.execCommEnable c v s
  | .commDisable c => Sys2Proof.Machine.execCommDisable c s
  | .collectiveRequestTake e => Sys2Proof.Machine.execCollectiveRequestTake e s
  | .collectiveMatch c seq peers tables => Sys2Proof.Machine.execCollectiveMatch c seq peers tables s
  | .collectiveChunkArrive c seq rank stage off data => Sys2Proof.Machine.execCollectiveChunkArrive c seq rank stage off data s
  | .collectiveFaultNotice c seq addr => Sys2Proof.Machine.execCollectiveFaultNotice c seq addr s
  | .collectiveComplete c seq => Sys2Proof.Machine.execCollectiveComplete c seq s
  | .remoteRequestArrive n foreign => Sys2Proof.Machine.execRemoteRequestArrive n foreign s
  | .rstChunkLand n k data => Sys2Proof.Machine.execRstChunkLand n k data s
  | .rfaaPerform n => Sys2Proof.Machine.execRfaaPerform n s
  | .rfenceFlagLand n => Sys2Proof.Machine.execRfenceFlagLand n s
  | .remoteCompletionArrive n word => Sys2Proof.Machine.execRemoteCompletionArrive n word s
  | .ridgeRelease level core => Sys2Proof.Machine.execRidgeRelease level core s
  | .exchangeFlitArrive n => Sys2Proof.Machine.execExchangeFlitArrive n s
  | .exchangeWindowClose core => Sys2Proof.Machine.execExchangeWindowClose core s
  | .slabLand core p slab => Sys2Proof.Machine.execSlabLand core p slab s
  | .sliceContributionArrive n => Sys2Proof.Machine.execSliceContributionArrive n s
  | .messageArrive n => Sys2Proof.Machine.execMessageArrive n s
  | .mailboxDeposit n => Sys2Proof.Machine.execMailboxDeposit n s
  | .queueUpdateArrive n => Sys2Proof.Machine.execQueueUpdateArrive n s
  | .copyRequestComplete core => Sys2Proof.Machine.execCopyRequestComplete core s
  | .cfetLand core => Sys2Proof.Machine.execCfetLand core s
  | .lateFault core ts => Sys2Proof.Machine.execLateFault core ts s
  | .scopeMiss core ts => Sys2Proof.Machine.execScopeMiss core ts s
  | .perCorePreemption core => Sys2Proof.Machine.execPerCorePreemption core s
  | .preemptionRelease core => Sys2Proof.Machine.execPreemptionRelease core s
  | .machineCheck core code => Sys2Proof.Machine.execMachineCheck core code s
  | .gangMemberLost core => Sys2Proof.Machine.execGangMemberLost core s
  | .contextCopyFault core mapped => Sys2Proof.Machine.execContextCopyFault core mapped s
  | .registerWrite off v => Sys2Proof.Machine.execRegisterWrite off v s
  | .vectorCommandComplete core => Sys2Proof.Machine.execVectorCommandComplete core s
  | .matrixCommandComplete core => Sys2Proof.Machine.execMatrixCommandComplete core s
  | .ridgeTokenArrive c rank errors => Sys2Proof.Machine.execRidgeTokenArrive c rank errors s
  | .ill x imm => Sys2Proof.Machine.execIll x imm s
  | .nop x => Sys2Proof.Machine.execNop x s
  | .add x a b c => Sys2Proof.Machine.execAdd x a b c s
  | .addv x a b c => Sys2Proof.Machine.execAddv x a b c s
  | .sub x a b c => Sys2Proof.Machine.execSub x a b c s
  | .subv x a b c => Sys2Proof.Machine.execSubv x a b c s
  | .and x a b c => Sys2Proof.Machine.execAnd x a b c s
  | .or x a b c => Sys2Proof.Machine.execOr x a b c s
  | .xor x a b c => Sys2Proof.Machine.execXor x a b c s
  | .shl x a b c => Sys2Proof.Machine.execShl x a b c s
  | .shr x a b c => Sys2Proof.Machine.execShr x a b c s
  | .sar x a b c => Sys2Proof.Machine.execSar x a b c s
  | .mul x a b c => Sys2Proof.Machine.execMul x a b c s
  | .mulh x a b c => Sys2Proof.Machine.execMulh x a b c s
  | .mulhn x a b c => Sys2Proof.Machine.execMulhn x a b c s
  | .div x a b c => Sys2Proof.Machine.execDiv x a b c s
  | .divn x a b c => Sys2Proof.Machine.execDivn x a b c s
  | .rem x a b c => Sys2Proof.Machine.execRem x a b c s
  | .remn x a b c => Sys2Proof.Machine.execRemn x a b c s
  | .addi x a b imm => Sys2Proof.Machine.execAddi x a b imm s
  | .andi x a b imm => Sys2Proof.Machine.execAndi x a b imm s
  | .ori x a b imm => Sys2Proof.Machine.execOri x a b imm s
  | .xori x a b imm => Sys2Proof.Machine.execXori x a b imm s
  | .shli x a b imm => Sys2Proof.Machine.execShli x a b imm s
  | .shri x a b imm => Sys2Proof.Machine.execShri x a b imm s
  | .sari x a b imm => Sys2Proof.Machine.execSari x a b imm s
  | .li x a imm => Sys2Proof.Machine.execLi x a imm s
  | .cmpeq x a b c => Sys2Proof.Machine.execCmpeq x a b c s
  | .cmpne x a b c => Sys2Proof.Machine.execCmpne x a b c s
  | .cmplt x a b c => Sys2Proof.Machine.execCmplt x a b c s
  | .cmpltn x a b c => Sys2Proof.Machine.execCmpltn x a b c s
  | .cmple x a b c => Sys2Proof.Machine.execCmple x a b c s
  | .cmplen x a b c => Sys2Proof.Machine.execCmplen x a b c s
  | .sel x a b c d => Sys2Proof.Machine.execSel x a b c d s
  | .ldb x a b imm => Sys2Proof.Machine.execLdb x a b imm s
  | .ldbn x a b imm => Sys2Proof.Machine.execLdbn x a b imm s
  | .ldh x a b imm => Sys2Proof.Machine.execLdh x a b imm s
  | .ldhn x a b imm => Sys2Proof.Machine.execLdhn x a b imm s
  | .ldw x a b imm => Sys2Proof.Machine.execLdw x a b imm s
  | .ldwn x a b imm => Sys2Proof.Machine.execLdwn x a b imm s
  | .ldd x a b imm => Sys2Proof.Machine.execLdd x a b imm s
  | .stb x a b imm => Sys2Proof.Machine.execStb x a b imm s
  | .sth x a b imm => Sys2Proof.Machine.execSth x a b imm s
  | .stw x a b imm => Sys2Proof.Machine.execStw x a b imm s
  | .std x a b imm => Sys2Proof.Machine.execStd x a b imm s
  | .beq x a b imm => Sys2Proof.Machine.execBeq x a b imm s
  | .bne x a b imm => Sys2Proof.Machine.execBne x a b imm s
  | .blt x a b imm => Sys2Proof.Machine.execBlt x a b imm s
  | .bge x a b imm => Sys2Proof.Machine.execBge x a b imm s
  | .bltn x a b imm => Sys2Proof.Machine.execBltn x a b imm s
  | .bgen x a b imm => Sys2Proof.Machine.execBgen x a b imm s
  | .beqz x a imm => Sys2Proof.Machine.execBeqz x a imm s
  | .bnez x a imm => Sys2Proof.Machine.execBnez x a imm s
  | .b x imm => Sys2Proof.Machine.execB x imm s
  | .jmp x imm => Sys2Proof.Machine.execJmp x imm s
  | .call x imm => Sys2Proof.Machine.execCall x imm s
  | .jr x a imm => Sys2Proof.Machine.execJr x a imm s
  | .callr x a imm => Sys2Proof.Machine.execCallr x a imm s
  | .jmpf x a imm => Sys2Proof.Machine.execJmpf x a imm s
  | .callf x a imm => Sys2Proof.Machine.execCallf x a imm s
  | .loop x a imm => Sys2Proof.Machine.execLoop x a imm s
  | .csrd x a imm => Sys2Proof.Machine.execCsrd x a imm s
  | .cswr x a imm => Sys2Proof.Machine.execCswr x a imm s
  | .trap x imm => Sys2Proof.Machine.execTrap x imm s
  | .eret x => Sys2Proof.Machine.execEret x s
  | .clz x a b => Sys2Proof.Machine.execClz x a b s
  | .ctz x a b => Sys2Proof.Machine.execCtz x a b s
  | .popc x a b => Sys2Proof.Machine.execPopc x a b s
  | .min x a b c => Sys2Proof.Machine.execMin x a b c s
  | .minn x a b c => Sys2Proof.Machine.execMinn x a b c s
  | .max x a b c => Sys2Proof.Machine.execMax x a b c s
  | .maxn x a b c => Sys2Proof.Machine.execMaxn x a b c s
  | .sext x a b imm => Sys2Proof.Machine.execSext x a b imm s
  | .zext x a b imm => Sys2Proof.Machine.execZext x a b imm s
  | .pcaddr x a imm => Sys2Proof.Machine.execPcaddr x a imm s
  | .fadd x a b c => Sys2Proof.Machine.execFadd x a b c s
  | .fsub x a b c => Sys2Proof.Machine.execFsub x a b c s
  | .fmul x a b c => Sys2Proof.Machine.execFmul x a b c s
  | .fma x a b c => Sys2Proof.Machine.execFma x a b c s
  | .fdiv x a b c => Sys2Proof.Machine.execFdiv x a b c s
  | .fsqrt x a b => Sys2Proof.Machine.execFsqrt x a b s
  | .fmin x a b c => Sys2Proof.Machine.execFmin x a b c s
  | .fmax x a b c => Sys2Proof.Machine.execFmax x a b c s
  | .fcmpeq x a b c => Sys2Proof.Machine.execFcmpeq x a b c s
  | .fcmplt x a b c => Sys2Proof.Machine.execFcmplt x a b c s
  | .fcmple x a b c => Sys2Proof.Machine.execFcmple x a b c s
  | .fcvti x a b => Sys2Proof.Machine.execFcvti x a b s
  | .fcvtin x a b => Sys2Proof.Machine.execFcvtin x a b s
  | .fcvtf x a b => Sys2Proof.Machine.execFcvtf x a b s
  | .fcvtfn x a b => Sys2Proof.Machine.execFcvtfn x a b s
  | .fcvt x a b => Sys2Proof.Machine.execFcvt x a b s
  | .bsadd x a b c => Sys2Proof.Machine.execBsadd x a b c s
  | .bscvt x a b => Sys2Proof.Machine.execBscvt x a b s
  | .vld x a b imm => Sys2Proof.Machine.execVld x a b imm s
  | .vst x a b imm => Sys2Proof.Machine.execVst x a b imm s
  | .vlds x a b c => Sys2Proof.Machine.execVlds x a b c s
  | .vsts x a b c => Sys2Proof.Machine.execVsts x a b c s
  | .vldg x a b c => Sys2Proof.Machine.execVldg x a b c s
  | .vstg x a b c => Sys2Proof.Machine.execVstg x a b c s
  | .vldt x a b c => Sys2Proof.Machine.execVldt x a b c s
  | .st64s x a b c => Sys2Proof.Machine.execSt64s x a b c s
  | .amoadd x a b c => Sys2Proof.Machine.execAmoadd x a b c s
  | .amoswp x a b c => Sys2Proof.Machine.execAmoswp x a b c s
  | .amocas x a b c d => Sys2Proof.Machine.execAmocas x a b c d s
  | .amomin x a b c => Sys2Proof.Machine.execAmomin x a b c s
  | .amominn x a b c => Sys2Proof.Machine.execAmominn x a b c s
  | .amomax x a b c => Sys2Proof.Machine.execAmomax x a b c s
  | .amomaxn x a b c => Sys2Proof.Machine.execAmomaxn x a b c s
  | .amoand x a b c => Sys2Proof.Machine.execAmoand x a b c s
  | .amoor x a b c => Sys2Proof.Machine.execAmoor x a b c s
  | .fence x => Sys2Proof.Machine.execFence x s
  | .qbind x a b => Sys2Proof.Machine.execQbind x a b s
  | .qadvh x a b imm => Sys2Proof.Machine.execQadvh x a b imm s
  | .qadvt x a b imm => Sys2Proof.Machine.execQadvt x a b imm s
  | .qcnt x a b => Sys2Proof.Machine.execQcnt x a b s
  | .qfree x a b => Sys2Proof.Machine.execQfree x a b s
  | .qwaitf x a b imm => Sys2Proof.Machine.execQwaitf x a b imm s
  | .qwaite x a b imm => Sys2Proof.Machine.execQwaite x a b imm s
  | .sbind x a b => Sys2Proof.Machine.execSbind x a b s
  | .sbinds x a b => Sys2Proof.Machine.execSbinds x a b s
  | .sunbind x a imm => Sys2Proof.Machine.execSunbind x a imm s
  | .spos x a b c => Sys2Proof.Machine.execSpos x a b c s
  | .vrowld x a b c => Sys2Proof.Machine.execVrowld x a b c s
  | .vrowst x a b c => Sys2Proof.Machine.execVrowst x a b c s
  | .vrowadd x a b c => Sys2Proof.Machine.execVrowadd x a b c s
  | .vrowcas x a b c => Sys2Proof.Machine.execVrowcas x a b c s
  | .capdef x b c => Sys2Proof.Machine.execCapdef x b c s
  | .capx x b c => Sys2Proof.Machine.execCapx x b c s
  | .capq x a b => Sys2Proof.Machine.execCapq x a b s
  | .msend x a b imm => Sys2Proof.Machine.execMsend x a b imm s
  | .mrecv x a imm => Sys2Proof.Machine.execMrecv x a imm s
  | .mpoll x a => Sys2Proof.Machine.execMpoll x a s
  | .mbwait x a imm => Sys2Proof.Machine.execMbwait x a imm s
  | .mbpop x a => Sys2Proof.Machine.execMbpop x a s
  | .copy x a b => Sys2Proof.Machine.execCopy x a b s
  | .copyb x a b => Sys2Proof.Machine.execCopyb x a b s
  | .cfet x a b c => Sys2Proof.Machine.execCfet x a b c s
  | .cfetb x a b c => Sys2Proof.Machine.execCfetb x a b c s
  | .gang x imm => Sys2Proof.Machine.execGang x imm s
  | .split x => Sys2Proof.Machine.execSplit x s
  | .thstart x a b c => Sys2Proof.Machine.execThstart x a b c s
  | .thstop x a => Sys2Proof.Machine.execThstop x a s
  | .yield x => Sys2Proof.Machine.execYield x s
  | .halt x => Sys2Proof.Machine.execHalt x s
  | .brk x imm => Sys2Proof.Machine.execBrk x imm s
  | .trace x a => Sys2Proof.Machine.execTrace x a s
  | .bgtrd x a imm => Sys2Proof.Machine.execBgtrd x a imm s
  | .vadd x a b c => Sys2Proof.Machine.execVadd x a b c s
  | .vaddSat x a b c => Sys2Proof.Machine.execVaddSat x a b c s
  | .vsub x a b c => Sys2Proof.Machine.execVsub x a b c s
  | .vsubSat x a b c => Sys2Proof.Machine.execVsubSat x a b c s
  | .vmul x a b c => Sys2Proof.Machine.execVmul x a b c s
  | .vmulh x a b c => Sys2Proof.Machine.execVmulh x a b c s
  | .vmulhn x a b c => Sys2Proof.Machine.execVmulhn x a b c s
  | .vmad x a b c => Sys2Proof.Machine.execVmad x a b c s
  | .vaddw x a b c => Sys2Proof.Machine.execVaddw x a b c s
  | .vaddwh x a b c => Sys2Proof.Machine.execVaddwh x a b c s
  | .vdot x a b c => Sys2Proof.Machine.execVdot x a b c s
  | .vand x a b c => Sys2Proof.Machine.execVand x a b c s
  | .vor x a b c => Sys2Proof.Machine.execVor x a b c s
  | .vxor x a b c => Sys2Proof.Machine.execVxor x a b c s
  | .vshl x a b c => Sys2Proof.Machine.execVshl x a b c s
  | .vshr x a b c => Sys2Proof.Machine.execVshr x a b c s
  | .vsar x a b c => Sys2Proof.Machine.execVsar x a b c s
  | .vshli x a b imm => Sys2Proof.Machine.execVshli x a b imm s
  | .vshri x a b imm => Sys2Proof.Machine.execVshri x a b imm s
  | .vsari x a b imm => Sys2Proof.Machine.execVsari x a b imm s
  | .vmin x a b c => Sys2Proof.Machine.execVmin x a b c s
  | .vminn x a b c => Sys2Proof.Machine.execVminn x a b c s
  | .vmax x a b c => Sys2Proof.Machine.execVmax x a b c s
  | .vmaxn x a b c => Sys2Proof.Machine.execVmaxn x a b c s
  | .vabs x a b => Sys2Proof.Machine.execVabs x a b s
  | .vcmpeq x a b c => Sys2Proof.Machine.execVcmpeq x a b c s
  | .vcmpne x a b c => Sys2Proof.Machine.execVcmpne x a b c s
  | .vcmplt x a b c => Sys2Proof.Machine.execVcmplt x a b c s
  | .vcmpltn x a b c => Sys2Proof.Machine.execVcmpltn x a b c s
  | .vcmple x a b c => Sys2Proof.Machine.execVcmple x a b c s
  | .vcmplen x a b c => Sys2Proof.Machine.execVcmplen x a b c s
  | .vsel x a b c => Sys2Proof.Machine.execVsel x a b c s
  | .vbcast x a b => Sys2Proof.Machine.execVbcast x a b s
  | .vextr x a b imm => Sys2Proof.Machine.execVextr x a b imm s
  | .vins x a b imm => Sys2Proof.Machine.execVins x a b imm s
  | .vlane x a imm => Sys2Proof.Machine.execVlane x a imm s
  | .vfadd x a b c => Sys2Proof.Machine.execVfadd x a b c s
  | .vfsub x a b c => Sys2Proof.Machine.execVfsub x a b c s
  | .vfmul x a b c => Sys2Proof.Machine.execVfmul x a b c s
  | .vfma x a b c => Sys2Proof.Machine.execVfma x a b c s
  | .vfnma x a b c => Sys2Proof.Machine.execVfnma x a b c s
  | .vfmin x a b c => Sys2Proof.Machine.execVfmin x a b c s
  | .vfmax x a b c => Sys2Proof.Machine.execVfmax x a b c s
  | .vfabs x a b => Sys2Proof.Machine.execVfabs x a b s
  | .vfneg x a b => Sys2Proof.Machine.execVfneg x a b s
  | .vfcmpeq x a b c => Sys2Proof.Machine.execVfcmpeq x a b c s
  | .vfcmplt x a b c => Sys2Proof.Machine.execVfcmplt x a b c s
  | .vfcmple x a b c => Sys2Proof.Machine.execVfcmple x a b c s
  | .vfdiv x a b c => Sys2Proof.Machine.execVfdiv x a b c s
  | .vfsqrt x a b => Sys2Proof.Machine.execVfsqrt x a b s
  | .vfrcp x a b => Sys2Proof.Machine.execVfrcp x a b s
  | .vfrsq x a b => Sys2Proof.Machine.execVfrsq x a b s
  | .vcvt x a b c => Sys2Proof.Machine.execVcvt x a b c s
  | .vpack x a b c => Sys2Proof.Machine.execVpack x a b c s
  | .vunpk x a b => Sys2Proof.Machine.execVunpk x a b s
  | .vunpkh x a b => Sys2Proof.Machine.execVunpkh x a b s
  | .vperm x a b c => Sys2Proof.Machine.execVperm x a b c s
  | .vslideup x a b imm => Sys2Proof.Machine.execVslideup x a b imm s
  | .vslidedn x a b imm => Sys2Proof.Machine.execVslidedn x a b imm s
  | .vzip x a b c => Sys2Proof.Machine.execVzip x a b c s
  | .vziph x a b c => Sys2Proof.Machine.execVziph x a b c s
  | .vunzip x a b c => Sys2Proof.Machine.execVunzip x a b c s
  | .vunzipo x a b c => Sys2Proof.Machine.execVunzipo x a b c s
  | .vtrn x a b c => Sys2Proof.Machine.execVtrn x a b c s
  | .vtrn2 x a b c => Sys2Proof.Machine.execVtrn2 x a b c s
  | .vscan x a b => Sys2Proof.Machine.execVscan x a b s
  | .vscanx x a b => Sys2Proof.Machine.execVscanx x a b s
  | .vred x a b => Sys2Proof.Machine.execVred x a b s
  | .vredw x a b => Sys2Proof.Machine.execVredw x a b s
  | .vredmax x a b => Sys2Proof.Machine.execVredmax x a b s
  | .vredmaxn x a b => Sys2Proof.Machine.execVredmaxn x a b s
  | .vfred x a b => Sys2Proof.Machine.execVfred x a b s
  | .vfredmax x a b => Sys2Proof.Machine.execVfredmax x a b s
  | .kand x a b c => Sys2Proof.Machine.execKand x a b c s
  | .kor x a b c => Sys2Proof.Machine.execKor x a b c s
  | .knot x a b => Sys2Proof.Machine.execKnot x a b s
  | .kpopc x a b => Sys2Proof.Machine.execKpopc x a b s
  | .kfirst x a b => Sys2Proof.Machine.execKfirst x a b s
  | .kmov x a b => Sys2Proof.Machine.execKmov x a b s
  | .kmovs x a b => Sys2Proof.Machine.execKmovs x a b s
  | .yseed x a b => Sys2Proof.Machine.execYseed x a b s
  | .ydraw x a b => Sys2Proof.Machine.execYdraw x a b s
  | .ycmp x a b c => Sys2Proof.Machine.execYcmp x a b c s
  | .ycmpy x a b c => Sys2Proof.Machine.execYcmpy x a b c s
  | .yrnd x a b c => Sys2Proof.Machine.execYrnd x a b c s
  | .ycvt x a b => Sys2Proof.Machine.execYcvt x a b s
  | .ymov x a b => Sys2Proof.Machine.execYmov x a b s
  | .ystat x a b c => Sys2Proof.Machine.execYstat x a b c s
  | .yst x a b imm => Sys2Proof.Machine.execYst x a b imm s
  | .yld x a b imm => Sys2Proof.Machine.execYld x a b imm s
  | .vexp2 x a b => Sys2Proof.Machine.execVexp2 x a b s
  | .vlog2 x a b => Sys2Proof.Machine.execVlog2 x a b s
  | .vtanh x a b => Sys2Proof.Machine.execVtanh x a b s
  | .vsinpi x a b => Sys2Proof.Machine.execVsinpi x a b s
  | .vcospi x a b => Sys2Proof.Machine.execVcospi x a b s
  | .oclm x a b imm => Sys2Proof.Machine.execOclm x a b imm s
  | .orel x b imm => Sys2Proof.Machine.execOrel x b imm s
  | .old x a b c => Sys2Proof.Machine.execOld x a b c s
  | .oldb x a b c => Sys2Proof.Machine.execOldb x a b c s
  | .oldt x a b c => Sys2Proof.Machine.execOldt x a b c s
  | .oldtb x a b c => Sys2Proof.Machine.execOldtb x a b c s
  | .oswap x a b => Sys2Proof.Machine.execOswap x a b s
  | .ost x a b c => Sys2Proof.Machine.execOst x a b c s
  | .zclr x a => Sys2Proof.Machine.execZclr x a s
  | .zst x a b c => Sys2Proof.Machine.execZst x a b c s
  | .zld x a b c => Sys2Proof.Machine.execZld x a b c s
  | .zmovv x a b c => Sys2Proof.Machine.execZmovv x a b c s
  | .mwait x => Sys2Proof.Machine.execMwait x s
  | .mstat x a imm => Sys2Proof.Machine.execMstat x a imm s
  | .mmaBf x a b c => Sys2Proof.Machine.execMmaBf x a b c s
  | .mmaBfOw x a b c => Sys2Proof.Machine.execMmaBfOw x a b c s
  | .mmaHf x a b c => Sys2Proof.Machine.execMmaHf x a b c s
  | .mmaHfOw x a b c => Sys2Proof.Machine.execMmaHfOw x a b c s
  | .mmaF32 x a b c => Sys2Proof.Machine.execMmaF32 x a b c s
  | .mmaF32Ow x a b c => Sys2Proof.Machine.execMmaF32Ow x a b c s
  | .mmaE4 x a b c => Sys2Proof.Machine.execMmaE4 x a b c s
  | .mmaE4Ow x a b c => Sys2Proof.Machine.execMmaE4Ow x a b c s
  | .mmaE5 x a b c => Sys2Proof.Machine.execMmaE5 x a b c s
  | .mmaE5Ow x a b c => Sys2Proof.Machine.execMmaE5Ow x a b c s
  | .mmaE45 x a b c => Sys2Proof.Machine.execMmaE45 x a b c s
  | .mmaE45Ow x a b c => Sys2Proof.Machine.execMmaE45Ow x a b c s
  | .mmaI8 x a b c d => Sys2Proof.Machine.execMmaI8 x a b c d s
  | .mmaI8Ow x a b c d => Sys2Proof.Machine.execMmaI8Ow x a b c d s
  | .mmaI4 x a b c d => Sys2Proof.Machine.execMmaI4 x a b c d s
  | .mmaI4Ow x a b c d => Sys2Proof.Machine.execMmaI4Ow x a b c d s
  | .mmaQ8 x a b c d => Sys2Proof.Machine.execMmaQ8 x a b c d s
  | .mmaQ8Ow x a b c d => Sys2Proof.Machine.execMmaQ8Ow x a b c d s
  | .mmaQ4q8 x a b c d => Sys2Proof.Machine.execMmaQ4q8 x a b c d s
  | .mmaQ4q8Ow x a b c d => Sys2Proof.Machine.execMmaQ4q8Ow x a b c d s
  | .mmaQ4 x a b c d => Sys2Proof.Machine.execMmaQ4 x a b c d s
  | .mmaQ4Ow x a b c d => Sys2Proof.Machine.execMmaQ4Ow x a b c d s
  | .pdecl x a b c => Sys2Proof.Machine.execPdecl x a b c s
  | .pfree x a => Sys2Proof.Machine.execPfree x a s
  | .pinfo x a b c => Sys2Proof.Machine.execPinfo x a b c s
  | .lapx x a => Sys2Proof.Machine.execLapx x a s
  | .lapw x a b => Sys2Proof.Machine.execLapw x a b s
  | .ridge x a imm d => Sys2Proof.Machine.execRidge x a imm d s
  | .ridgea x imm d => Sys2Proof.Machine.execRidgea x imm d s
  | .ridgew x a imm => Sys2Proof.Machine.execRidgew x a imm s
  | .xtt x b => Sys2Proof.Machine.execXtt x b s
  | .sldecl x b c => Sys2Proof.Machine.execSldecl x b c s
  | .radd x b c => Sys2Proof.Machine.execRadd x b c s
  | .raddv x b c => Sys2Proof.Machine.execRaddv x b c s
  | .amrg x a b c d => Sys2Proof.Machine.execAmrg x a b c d s
  | .rfold x b => Sys2Proof.Machine.execRfold x b s
  | .rst x b => Sys2Proof.Machine.execRst x b s
  | .rfaa x b => Sys2Proof.Machine.execRfaa x b s
  | .rfence x b => Sys2Proof.Machine.execRfence x b s
  | .trig x a b c d => Sys2Proof.Machine.execTrig x a b c d s
  | .hcnt x a b c => Sys2Proof.Machine.execHcnt x a b c s
  | .hcnts x a b c => Sys2Proof.Machine.execHcnts x a b c s
  | .hwait x a b c => Sys2Proof.Machine.execHwait x a b c s
  | .cpost x a b c => Sys2Proof.Machine.execCpost x a b c s
  | .crevoke x a => Sys2Proof.Machine.execCrevoke x a s

end Sys2Proof.Machine
end

