-- ==== Sys2Proof/Machine/Issue.lean ====
section
/-!
DEFINITION. What a thread does at its turn: boundary events, the resident handler, fetching (R179, R262), the holds of
R29, R72 and R180, and what an issued instruction costs and records (R72, R75, R167, R243).
-/
namespace Sys2Proof.Machine
open Sys2Proof

/-! ## Fetching (R103, R179, R262) -/

/-- What fetching from an address comes to: an instruction with the address after it and its words, or an exact trap. -/
inductive Fetched where
  | instr (i : Instr) (next : BitVec 16) (words : List Half)
  | trap (cause : BitVec 8) (info : Word)

/-- The word at an instruction address of a core. -/
def State.codeWord (s : State) (core : Nat) (a : BitVec 16) : Half :=
  BitVec.ofNat 16 (readLE s.mem.code (codeKey core a.toNat) 2)

/-- Why a word cannot be fetched: segment 0 outside the resident handler, a segment that is not valid, with the cause of
the fetch that failed (R103, R179). -/
def State.fetchBar (s : State) (core : Nat) (inh : Bool) (a : BitVec 16) : Option (BitVec 8 × Word) :=
  let c := s.core core
  let g := segOf a
  if g == 0 && !inh then some (0x05, 0)
  else if !c.segValid.getLsbD g then some ((c.segFail.toList.getD g none).getD (0x05, 0))
  else none

/-- The words of a chain, one after the other; a fault that they reveal is taken at once (R262). -/
noncomputable def State.fetchChain (s : State) (core : Nat) (inh : Bool) : Nat → Chain → BitVec 16 → List Half → Fetched
  | 0, _, _, _ => .trap 0x01 0
  | fuel + 1, ch, a, ws =>
    match s.fetchBar core inh a with
    | some (c, i) => .trap c i
    | none =>
      let w := s.codeWord core a
      match ch.feed w.toNat with
      | .more ch => s.fetchChain core inh fuel ch (a + 2) (ws ++ [w])
      | .bad _ => .trap 0x01 0
      | .done i => .instr i (a + 2) (ws ++ [w])

/-- The instruction at an address: at most four prefix words and the base word (R249). -/
noncomputable def State.fetchAt (s : State) (core : Nat) (inh : Bool) (a : BitVec 16) : Fetched :=
  if a.getLsbD 0 then .trap 0x08 0 else s.fetchChain core inh longestWords {} a []

/-! ## Holds -/

/-- The super-group of a core. -/
def sgroupOf (core : Nat) : Nat := core / 64

/-- Issue in the core's super-group is held for droop (R29). -/
def State.droopHolds (s : State) (core : Nat) : Bool := s.boot.droopHeld.contains (sgroupOf core)

/-- Every member of a gang can issue the leader's next instruction: it runs, no handler runs on it, and no event waits at
its boundary (R180). -/
def State.gangReady (s : State) (core : Nat) (ts : Fin 4) : Bool :=
  let t := s.thread core ts
  t.alone || (List.range t.gwidth).all fun i =>
    let c := core - t.gpos + i
    let h := s.thread c ts
    h.live && !h.inh && !h.phand && (s.dueTrap c ts).isNone && !s.dueHolds c ts

/-- The cores on which the thread's instruction issues: its own, or those of its gang (R180). -/
def State.issueCores (s : State) (core : Nat) (ts : Fin 4) : List Nat :=
  let t := s.thread core ts
  if t.alone then [core] else (List.range t.gwidth).map fun i => core - t.gpos + i

/-- The exit address of R51. -/
def exitAddress : BitVec 16 := 0xFF0

/-- What a thread does at its turn: nothing, since it cannot issue; something without an instruction; or it issues one. -/
inductive Turn where
  | idle (s : State)
  | settled (s : State)
  | run (i : Instr) (s : State)

/-- The thread fetches and issues. -/
noncomputable def State.fetchTurn (s : State) (core : Nat) (ts : Fin 4) : Turn :=
  let t := s.thread core ts
  if !t.inh && t.pc == exitAddress then .settled (s.haltGang core ts)
  else
    match s.fetchAt core t.inh t.pc with
    | .trap c i => .settled ((s.stopPeers core ts).exactTrap core ts c i t.pc)
    | .instr i next ws => .run i { (s.issueCores core ts).foldl State.clearHeld s with fetch := some ⟨core, ts, t.pc, next, ws, none⟩ }

/-- A thread's turn. -/
noncomputable def State.turnOf (s : State) (core : Nat) (ts : Fin 4) : Turn :=
  let t := s.thread core ts
  if !t.live then .idle s
  else if t.inh && segOf t.pc == 0 then .settled (s.handler core ts)
  else
    match s.dueTrap core ts with
    | some s => .settled s
    | none =>
      if t.stopReq && !t.inh && !t.phand then .settled (s.haltThread core ts)
      else if !t.alone && t.gpos != 0 then .idle s
      else if s.dueHolds core ts || s.droopHolds core || !s.gangReady core ts then .idle s
      else if !t.inh && s.energyHeld core then
        .idle ((s.issueCores core ts).foldl (fun s c => s.noteHeld c true) s)
      else s.fetchTurn core ts

/-! ## What an instruction costs and records (R72, R75, R167, R243) -/

/-- The issue port of an instruction by its page and opcode (R167). -/
def portOf (r : Raw) : Nat :=
  match r.page with
  | 0 => if 25 ≤ r.op ∧ r.op ≤ 35 then 1 else if 52 ≤ r.op then 4 else 0
  | 1 => 0
  | 2 => 1
  | 7 => if r.op == 8 || r.op == 9 then 1 else 2
  | 4 | 5 | 6 => 2
  | 8 | 9 => 3
  | _ => 4

/-- The energy class that the issue of an instruction debits; accesses, engines' memory traffic, lazy-uniform extensions
and copies debit theirs where they happen (R75). -/
def classOf (r : Raw) : Option Nat :=
  match r.page with
  | 0 => if 25 ≤ r.op ∧ r.op ≤ 35 then none else some 0
  | 1 => if 8 ≤ r.op then some 1 else some 0
  | 2 => if r.op ≤ 6 || (8 ≤ r.op && r.op ≤ 14) || (25 ≤ r.op && r.op ≤ 28) then none else some 0
  | 3 => if r.op ≤ 4 then some 14 else some 0
  | 4 => some 5
  | 5 => some 6
  | 6 => if r.op == 0 || 12 ≤ r.op && r.op ≤ 13 || (r.op == 9 && r.pre.dtype.isFloat) then some 6 else some 5
  | 7 => if r.op == 8 || r.op == 9 then none else if 10 ≤ r.op then some 7 else some 5
  | 8 => if r.op == 2 || r.op == 3 || r.op == 5 || r.op == 7 || r.op == 8 then none else some 0
  | 9 => if r.op == 2 then some 12 else if r.op ≤ 1 then some 9 else if r.op == 7 || 9 ≤ r.op then some 11 else some 10
  | 10 => if 5 ≤ r.op && r.op != 8 then some 14 else some 0
  | _ => some 14

/-- The first word of the instruction at issue carries a break bit, while `BRKMAP` bit 63 is 1 (R244). -/
def State.carriesBreak (s : State) (k : Ctx) : Bool :=
  let c := s.core k.core
  c.breaks.contains k.addr && c.brkmap.getLsbD 63

/-- A core becomes break-pending. -/
def State.noteBreak (s : State) (core : Nat) : State := s.setCore core { s.core core with breakPending := true }

/-- An instruction has issued on a thread set: it has retired, or it has trapped exactly. -/
def State.hasIssued (old s : State) (k : Ctx) : Bool :=
  (s.thread k.core k.ts).retired != (old.thread k.core k.ts).retired ||
  (!(old.thread k.core k.ts).inh && (s.thread k.core k.ts).inh)

/-- An instruction that a thread has issued is charged and recorded; `broke` when its core becomes break-pending. -/
def State.charge (s : State) (r : Raw) (broke : Bool) (k : Ctx) : State :=
  let s := if broke then s.noteBreak k.core else s
  let s := match classOf r with
    | some c => s.debitClass k.core c 1
    | none => s
  s.traceIssue k.core k.ts (portOf r) k.addr

/-- The threads that an instruction at issue concerns, each at the address of its own word: the members of a gang issue the
leader's, and those of a gang that forms have each issued their `GANG` (R180, R321). -/
def State.issuers (old s : State) (k : Ctx) : List Ctx :=
  (if (old.thread k.core k.ts).alone then s.gangOf k else old.gangOf k).map fun m =>
    { m with addr := if (old.thread k.core k.ts).alone then (old.thread m.core m.ts).pc else k.addr }

/-- After an instruction: every thread that it has issued on is charged for it. Its core becomes break-pending when the word
carries a break bit, the cores of a gang when that of one member does (R244). -/
def State.afterIssue (old s : State) (i : Instr) : State :=
  match old.fetch, toRaw i with
  | some k, some r =>
    let ms := old.issuers s k
    let done := ms.filter fun m => old.hasIssued s m
    let broke := (if (old.thread k.core k.ts).alone then done else [k]).any old.carriesBreak
    done.foldl (fun s m => s.charge r broke m) s
  | _, _ => s

end Sys2Proof.Machine
end

