-- ==== Sys2Proof/Machine/Pending.lean ====
section
/-!
DEFINITION. The events that are due: what is under way in the device and may come about next.
-/
namespace Sys2Proof.Machine
open Sys2Proof

/-- What has reached a posted buffer and is not kept there yet, or waits there no more (R404). -/
def State.landable (s : State) (n k : Nat) (r : RemoteOp) : Bool := !(s.mustKeep n k r && (s.keptAt n k).isSome)

/-- The next step of a remote operation that this device makes by itself (R94 to R97): its completion word is delivered unless
its task is switched out; its request leaves; what has passed its checks moves. A transfer of another device's moves by what
the early-arrival store keeps of it only, and so does one that is cut short. -/
def State.remoteEvent (s : State) (f : Fly) (r : RemoteOp) : Option Instr :=
  let n := f.id
  if r.status.isSome then
    (if s.sched.saved.any (·.task.id == r.task) then none else some (.remoteCompletionArrive n 0))
  else if !r.checked then
    (if r.sent || s.behindRequest f r then none else some (.remoteRequestArrive n none))
  else
    match r.kind with
    | 0 =>
      if r.foreign.isSome || r.cut then (s.fab.kept.find? fun e => e.op == n && s.landable n e.k r).map fun e => .rstChunkLand n e.k []
      else ((List.range r.chunkCount).find? fun k => !r.landed.contains k && s.landable n k r).map fun k => .rstChunkLand n k []
    | 1 => if s.behindRst f r || !s.landable n 0 r then none else some (.rfenceFlagLand n)
    | 2 => if s.landable n 0 r then some (.rfaaPerform n) else none
    | _ => if s.postedAway r then none else some (.remoteRequestArrive n none)

/-- A deposit meets a full mailbox that does not yet say so: `held` is to be set (R172). -/
def State.meetsFull (s : State) (f : Fly) : Bool :=
  match f.what with
  | .deposit d _ _ _ => decide (64 ≤ (s.core d).mailbox.length) && !(s.core d).mbHeld && !s.behindDeposit f d &&
      s.replayDue d 2 (s.relOf f.core) 0 0
  | _ => false

/-- The arrival of what is under way, unless its source holds it. -/
def State.flyEvent (s : State) (f : Fly) : Option Instr :=
  if s.flyHeld f && !s.meetsFull f then none
  else
    match f.what with
    | .store _ _ _ => if s.mayLand f then some (.accessAtHome f.id) else none
    | .msg _ _ => some (.messageArrive f.id)
    | .deposit _ _ _ _ => some (.mailboxDeposit (.sent f.id))
    | .qupd _ _ _ _ _ => some (.queueUpdateArrive f.id)
    | .contrib _ => some (.sliceContributionArrive f.id)
    | .remote r => s.remoteEvent f r

/-- Running priority of the task of a core. -/
def State.prioOf (s : State) (core : Nat) : Nat :=
  match s.taskOf core with
  | some t => match s.sched.recs.find? (·.id == t.id) with | some r => r.prio | none => 0
  | none => 0

/-! ## Arbiters (R55, R69) -/

/-- The home of a contribution: the bank of its region. -/
def State.contribHome (s : State) (c : Contrib) : Nat :=
  match bankWindow c.addr.toNat, s.sched.tasks.find? (·.id == c.task) with
  | some (l, u, off), some t => sramUnit (bankKey l (t.base / levelCores l + u) off)
  | _, _ => 0

/-- The arbiters of a message from one core to another: the networks at both ends; of one from outside those of its target. -/
def pathBetween (a b : Nat) : List (Nat × Nat) :=
  if a < foreignCore then (pathOf a (commonScope a b) ++ pathOf b (commonScope a b)).eraseDups else pathOf b 5

/-- The arbiters that something under way passes: the networks on its way, and its home's (R55). -/
def State.arbitersOf (s : State) (f : Fly) : List (Nat × Nat) :=
  let onWay (home : Nat) : List (Nat × Nat) := pathOf f.core (reachOf f.core home) ++ homeArbiter home
  match f.what with
  | .store _ _ tag => onWay tag.home
  | .msg d _ | .deposit d _ _ _ | .qupd d _ _ _ _ => pathBetween f.core d
  | .contrib c => onWay (s.contribHome c)
  | .remote r => if r.foreign.isNone then pathOf f.core 5 else []

/-- Something under way as a request at its arbiters. -/
def State.askFor (s : State) (f : Fly) : Ask := ⟨(f.id, 8), f.core, f.id, f.cyc, s.arbitersOf f, f.aged⟩

/-- Who waits at an arbiter still does: a thread set that waits, an engine with commands, a copy engine with requests, a
transfer under way. -/
def State.stillAsks (s : State) (a : Ask) : Bool :=
  match a.who with
  | (c, 4) => !(s.core c).vq.isEmpty
  | (c, 5) => !(s.core c).mq.isEmpty
  | (c, 6) => !(s.core c).copyq.isEmpty
  | (n, 7) => s.fab.fly.any (·.id == n)
  | (c, n) => (s.core c).thr.toList[n]?.any fun t => t.run == .waiting

/-- The requests at the arbiters: what is under way and can come about, and what waits there. -/
def State.wants (s : State) : List Ask :=
  (s.fab.fly.filterMap fun f => if (s.flyEvent f).isSome then some (s.askFor f) else none) ++ s.fab.asks.filter s.stillAsks

/-- A request has waited 1,024 cycles at its arbiter (R55). -/
def State.isAged (s : State) (a : Ask) : Bool := a.aged || decide (a.cyc + 1024 ≤ s.cycle)

/-- A request is served before another at one arbiter (R55): in the order of arrival at equal priority, at a higher priority
unless the other has waited 1,024 cycles and came first. -/
def State.servedBefore (s : State) (g f : Ask) : Bool :=
  if g.cyc < f.cyc || (g.cyc == f.cyc && g.id < f.id) then s.isAged g || decide (s.prioOf f.core ≤ s.prioOf g.core)
  else !s.isAged f && decide (s.prioOf f.core < s.prioOf g.core)

/-- Among some requests one is served before a request at an arbiter that both pass. -/
def State.outranked (s : State) (l : List Ask) (a : Ask) : Bool :=
  l.any fun g => g.who != a.who && g.at_.any a.at_.contains && s.servedBefore g a

/-- What is under way comes about, at each arbiter that which is served first (R55, R69). -/
def State.flyEvents (s : State) : List Instr :=
  let l := s.wants
  s.fab.fly.filterMap fun f => match s.flyEvent f with
    | some e => if s.outranked l (s.askFor f) then none else some e
    | none => none

/-- Requests that have waited 1,024 cycles at their arbiter and are not yet marked (R55). -/
def State.ageEvents (s : State) : List Instr :=
  s.fab.fly.filterMap fun f =>
    if !(s.arbitersOf f).isEmpty && !f.aged && decide (f.cyc + 1024 ≤ s.cycle) then some (.arbiterAgeLimit f.id) else none

/-- A thread, an engine or a transfer gives up its place at the arbiters. -/
def State.dropAsk (s : State) (who : Nat × Nat) : State :=
  if s.fab.asks.any (·.who == who) then
    { s with fab := { s.fab with asks := s.fab.asks.filter (·.who != who) } }
  else s

/-- The request at arbiters that someone makes now: it keeps the place of one that waits there already. -/
def State.newAsk (s : State) (who : Nat × Nat) (core : Nat) (l : List (Nat × Nat)) : Ask :=
  match s.fab.asks.find? (·.who == who) with
  | some a => { a with at_ := l }
  | none => ⟨who, core, s.fab.nextId, s.cycle, l, false⟩

/-- A request waits at its arbiters. -/
def State.putAsk (s : State) (a : Ask) : State :=
  { s with fab := { s.fab with asks := s.fab.asks.filter (·.who != a.who) ++ [a], nextId := max s.fab.nextId (a.id + 1) } }

/-- What a step of someone comes to (R55): the state `t` that it leads to, unless an arbiter that its accesses pass serves another
request first; it then waits there, in the state that `wait` gives. -/
def State.arbitrate (s : State) (who : Nat × Nat) (core : Nat) (t : State) (wait : State → State) : State :=
  let a := s.newAsk who core t.touched
  if t.touched.isEmpty || !s.outranked s.wants a then t.dropAsk who else wait (s.putAsk a)

/-- Who makes the accesses of an event: an engine of a core, or a transfer. -/
def askerOf : Instr → Option (Nat × Nat)
  | .vectorCommandComplete c => some (c.val, 4)
  | .matrixCommandComplete c => some (c.val, 5)
  | .copyRequestComplete c | .cfetLand c => some (c.val, 6)
  | .rstChunkLand n _ _ | .rfaaPerform n | .rfenceFlagLand n => some (n, 7)
  | _ => none

/-- The core that stands for an asker in the order of priority. -/
def State.askerCore (s : State) (who : Nat × Nat) : Nat :=
  if who.2 == 7 then (match s.fab.fly.find? (·.id == who.1) with | some f => f.core | none => foreignCore) else who.1

/-- A core number of the package. -/
def coreFin (c : Nat) : Fin 4096 := clampFin 4096 c (by decide)

/-- The slabs of each partition of a core whose last flit has been written (R145). -/
def Core.slabEvents (c : Core) (core : Nat) : List Instr :=
  (List.finRange 8).filterMap fun p =>
    match c.parts[p] with
    | some q => ((List.finRange 26).find? fun i => q.flight.getLsbD i.val && decide (q.landsAt i.val ≤ q.clock)).map fun i =>
        .slabLand (coreFin core) p i
    | none => none

/-- Releases that a core is the first member of (R116). -/
def State.ridgeEvents (s : State) (core : Nat) : List Instr :=
  (List.finRange 8).filterMap fun l =>
    if l.val != 0 && l.val != 7 && (s.members core l.val).head? == some core && s.ridgeReady core l.val then
      some (.ridgeRelease l (coreFin core))
    else none

/-- Optional events as a list. -/
def whenDue (b : Bool) (i : Instr) : List Instr := if b then [i] else []

/-- What is due at a core. -/
def State.coreEvents (s : State) (core : Nat) : List Instr :=
  let c := s.core core
  let k := coreFin core
  whenDue (!c.vq.isEmpty) (.vectorCommandComplete k) ++
  whenDue (!c.mq.isEmpty) (.matrixCommandComplete k) ++
  (match c.copyq with
    | r :: _ => [if r.cfet.isSome then .cfetLand k else .copyRequestComplete k]
    | [] => []) ++
  c.slabEvents core ++ s.ridgeEvents core ++
  whenDue (match c.preempt with | some p => p.slot.isNone && !p.faulted && s.coreStopped core | none => false)
    (.perCorePreemption k) ++
  whenDue (c.thr.toList.any fun t => t.due.lost.isSome && t.live && !t.inh) (.gangMemberLost k) ++
  whenDue (match c.crew with
    | some w => !w.finished && s.crewStopped core && s.gangsStopped core
    | none => false) (.crewFinish k) ++
  whenDue (match s.taskOf core with | some t => (t.dueLevel (s.relOf core)).isSome | none => false) (.trussReport k)

/-- What is due in the scheduler (R35, R52, R53, R56, R78). -/
def State.schedEvents (s : State) : List Instr :=
  (s.sched.ports.filterMap fun (p, q) =>
    if q.held.isEmpty then none else some (Instr.submissionDecide (clampFin 256 p (by decide)))) ++
  whenDue (s.sched.recs.any fun r => r.phase == .accepted) .schedulerIntake ++
  whenDue (pickStart (s.placeable s.heldBlocks) false s.readyRecs).isSome .schedulerStart ++
  whenDue (s.firstIn .loading).isSome .imageLoadComplete ++
  whenDue (s.boot.phase != .thermal && (match s.firstIn .loaded with
    | some r => (firstFit s.heldBlocks r.domain).isSome
    | none => false)) .placement ++
  whenDue (!s.sched.copies.isEmpty) .systemCopyComplete ++
  whenDue (match s.sched.pressure with
    | some (_, c) => s.sched.switch.isNone && decide (c + 8192 ≤ s.cycle)
    | none => false) .switchOutTrigger ++
  (match s.switching with
    | some (w, _) => if w.passes < 2 then [.switchOutDrainPass] else whenDue w.faulted.isNone .switchOutComplete
    | none => [])

/-- On a communicator of one rank, that rank's request is the whole collective (R85). -/
def State.soleMatch (s : State) (q : Coll) : Option Instr :=
  let early (p : Coll) : Bool := clComm p.words == clComm q.words && decide ((clSeq p.words).toNat < (clSeq q.words).toNat)
  if q.phase == .taken && q.ending.isNone && (tblGet s.fab.comms (clComm q.words) {}).size == 1 && s.collRuns q &&
      !s.fab.colls.any early then
    some (.collectiveMatch (clampFin 4096 (clComm q.words) (by decide)) (clSeq q.words)
      [BitVec.ofNat 512 (packLanes 64 (q.words.map (·.toNat)))] [])
  else none

/-- The first chunk that a matched request may take from the early-arrival store (R91, R92). -/
def State.drainEvent (s : State) (q : Coll) : Option Instr :=
  if q.phase == .matched && q.ending.isNone && s.collRuns q then
    (q.early.find? fun (rank, stage, off, _) => stage == stageDone || s.chunkTurn q rank off).map fun (rank, stage, off, bs) =>
      .collectiveChunkArrive (clampFin 4096 (clComm q.words) (by decide)) (clSeq q.words) rank stage off bs
  else none

/-- What is due in the collective engines (R85, R89, R90). -/
def State.collEvents (s : State) : List Instr :=
  ([0, 1].filterMap fun e => if (s.nextColl e).isSome then some (Instr.collectiveRequestTake e) else none) ++
  s.fab.colls.filterMap s.soleMatch ++ s.fab.colls.filterMap s.drainEvent ++
  s.fab.colls.filterMap fun q =>
    if s.collRuns q && (s.collEnding q).isSome then
      some (.collectiveComplete (clampFin 4096 (clComm q.words) (by decide)) (clSeq q.words))
    else none

/-- The first flit whose cycle of arrival has come (R123). -/
def State.dueFlit (s : State) : Option XFlit :=
  (s.fab.flits.filter fun f => decide (f.at_ ≤ s.cycle)).foldl (fun b f =>
    match b with
    | none => some f
    | some g => if f.at_ < g.at_ then some f else some g) none

/-- Events that come at their cycle: the reset's first step, budget boundaries, exchange flits and windows (R25, R70,
R123). -/
def State.timedEvent (s : State) : Option Instr :=
  if s.boot.phase == .off then some .powerOnReset
  else if s.bud.period < s.cycle / 1024 then some (.budgetBoundary [] [])
  else
    match s.dueFlit with
    | some f => some (.exchangeFlitArrive f.id)
    | none =>
      (s.cores.find? fun (core, c) => c.ridge.toList.any fun r => r.windows.any fun w =>
        decide (w.stop ≤ s.cycle) && !s.fab.flits.any fun f => f.dst == core && decide (f.at_ < w.stop)).map
          fun (core, _) => .exchangeWindowClose (coreFin core)

/-- Everything else that is due, in no order that the spec gives. -/
def State.dueEvents (s : State) : List Instr :=
  s.flyEvents ++ s.ageEvents ++ s.cores.flatMap (fun (c, _) => s.coreEvents c) ++ s.schedEvents ++ s.collEvents ++
  (s.ports.filterMap fun (p, l) =>
    if l.overThreshold then some (.errorThreshold (clampFin 128 p (by decide)) l.resends) else none) ++
  whenDue s.invalReady .xlinvComplete ++ s.boot.droopHeld.map fun g => .droopHoldEnd (clampFin 64 g (by decide))

/-- The event that the device takes at its turn: a timed one, else the due ones by turns. -/
def State.nextEvent (s : State) : Option Instr :=
  match s.timedEvent with
  | some e => some e
  | none =>
    let l := s.dueEvents
    l[s.turn / 2 % max 1 l.length]?

end Sys2Proof.Machine
end

