-- ==== Sys2Proof/Machine/Step.lean ====
section
/-!
DEFINITION. One step of the device: the environment's next event, an event that is due, or a thread's turn.
-/
namespace Sys2Proof.Machine
open Sys2Proof

/-- Overflow entries move into their registers once those are empty and, under REPLAY, their place in the log has come (R171,
R247). -/
def State.settleOverflow (s : State) : State :=
  s.cores.foldl (fun s (c, k) => if k.overflow.isEmpty then s else State.moveOverflow 17 c s) s

/-- The ports send what they may (R14); credits that were kept back go out once their channel is held no more (R91); the
collective engines heed link events (R89). -/
def State.runLinks (s : State) : State :=
  let s := (if s.fab.notes.isEmpty then s else s.heedNotes).pump.unstick
  s.releaseCredits s.keepsCredit

/-- Time passes after a step: the latch is empty, the scheduler's conditions are watched (R56), lap plans run (R145), flits whose
cycle has come leave (R123), trace buffers drain (R241), and the links run. -/
def State.tick (s : State) : State :=
  ((((({ s with cycle := s.cycle + s.pace, turn := s.turn + 1, fetch := none, touched := [] }.watch).runPlans s.cycle).sendFlits).drainTraces
    ).settleOverflow).runLinks

/-- A step of the device other than an instruction. -/
def isEvent (i : Instr) : Bool := (toRaw i).isNone

/-- The next entry of the agenda takes place; an instruction in it is passed over. -/
def State.agendaStep (s : State) (e : Instr) (r : List Instr) : Res :=
  let s := { s with agenda := r, fetch := none }
  if isEvent e then exec e s else .next s

/-- A thread waits at an arbiter, with its gang (R55, R180). -/
def State.waitsThere (s : State) (core : Nat) (ts : Fin 4) : State :=
  (s.issueCores core ts).foldl (fun s c => s.modThread c ts fun t => { t with run := .waiting }) s

/-- The instruction at issue on a thread set is executed, charged and recorded, unless one of its accesses waits at an arbiter. -/
def State.runStep (s : State) (core : Nat) (ts : Fin 4) (i : Instr) : Res :=
  match exec i s with
  | .next t => .next (s.afterIssue (s.arbitrate (core, ts.val) core t fun s => s.waitsThere core ts) i)
  | .fault f => .fault f
  | .refused r => .refused r

/-- An event takes place, unless one of its accesses waits at an arbiter. -/
def State.eventStep (s : State) (e : Instr) : Res :=
  match exec e s, askerOf e with
  | .next t, some who => .next (s.arbitrate who (s.askerCore who) t id)
  | r, _ => r

/-- The thread sets of a core that may issue, the one that has gone longest without issuing first, ties to the lower number
(R167). -/
def State.byAge (s : State) (core : Nat) : List (Fin 4) :=
  sortBy (fun ts => ((s.thread core ts).issued, ts.val)) ((List.finRange 4).filter fun ts => (s.thread core ts).live)

/-- The thread sets that have issued with one note the step (R167). -/
def State.noteIssue (s : State) (core : Nat) (ts : Fin 4) : State :=
  (s.issueCores core ts).foldl (fun s c => s.modThread c ts fun t => { t with issued := s.turn + 1 }) s

/-- A thread set has issued in a step: an instruction of it has retired or trapped, or the thread has stopped. -/
def State.hasActed (s t : State) (core : Nat) (ts : Fin 4) : Bool :=
  (t.thread core ts).retired != (s.thread core ts).retired || (!(s.thread core ts).inh && (t.thread core ts).inh) ||
  !(t.thread core ts).live

/-- A thread set takes its turn, when it can issue or has something else to do. -/
noncomputable def State.tryTurn (s : State) (core : Nat) (ts : Fin 4) : Option Res :=
  match s.turnOf core ts with
  | .idle _ => none
  | .settled t => some (.next ((t.noteIssue core ts).dropAsk (core, ts.val)))
  | .run i u =>
    match u.runStep core ts i with
    | .next t => if u.hasActed t core ts then some (.next (t.noteIssue core ts)) else none
    | e => some e

/-- The turn of a thread set that does not issue: it waits. -/
noncomputable def State.waitTurn (s : State) (core : Nat) (ts : Fin 4) : Res :=
  match s.turnOf core ts with
  | .idle t | .settled t => .next (t.dropAsk (core, ts.val))
  | .run i u => u.runStep core ts i

/-- The turn of a thread in the order: of its core's thread sets the one that has gone longest without issuing issues, of those
that can (R167); when none can, the thread whose turn it is waits. It goes to the end of the order of turns, and one that cannot
issue leaves it (assumption log 2). -/
noncomputable def State.threadStep (s : State) (core : Nat) (ts : Fin 4) (r : List (Nat × Fin 4)) : Res :=
  let s := { s with runq := if (s.thread core ts).live then r ++ [(core, ts)] else r }
  match (s.byAge core).findSome? fun u => s.tryTurn core u with
  | some res => res
  | none => s.waitTurn core ts

/-- A thread's turn, or an event that is due when no thread is in the issue order. -/
noncomputable def State.threadsFirst (s : State) : Res :=
  match s.runq with
  | (core, ts) :: r => s.threadStep core ts r
  | [] =>
    match s.nextEvent with
    | some e => s.eventStep e
    | none => .next s

/-- What takes place in a step: flits whose cycle has come go before everything but the environment (R123). -/
noncomputable def State.act (s : State) : Res :=
  match s.agenda with
  | e :: r => s.agendaStep e r
  | [] =>
    let s := { s with fetch := none, touched := [] }
    if s.turn % 2 == 0 && s.dueFlit.isNone then s.threadsFirst
    else
      match s.nextEvent with
      | some e => s.eventStep e
      | none => s.threadsFirst

/-- One step of the device. -/
noncomputable def step (s : State) : Res :=
  match s.act with
  | .next t => .next t.tick
  | .fault f => .fault f
  | .refused r => .refused r

/-! ## A program from outside -/

/-- The launch record that a loaded program stands under: kind 0, tenant 0, one crew of four threads in a tile. -/
def probeWords : List Word := [0x0001000000000000, 0x104, 0, 0, 0, 0, 0, 0]

/-- The image of a loaded program: its entry is the first address of segment 1. -/
def probeImage : Image :=
  { resident := [(1, [])], entry := 0x1000, ktrap := none, trctl := 0, kbrk := 0, replay := none }

/-- The record of a loaded program. -/
def State.probeRec (s : State) : Rec :=
  { id := s.sched.nextRec, port := 0, words := probeWords, stamp := s.cycle, t0 := s.cycle, phase := .running }

/-- Instruction memory of core 0 with words from the entry on and nothing else. -/
def probeCode (m : Memory) (ws : List Half) : Memory :=
  writeSpan (clearSpan m (codeKey 0 0) 0x10000) (codeKey 0 0x1000) (ws.flatMap fun w => leBytes 2 w.toNat)

/-- The state in which a task of one crew has just started on core 0 with an instruction, numbered as the table numbers
it, at its entry, and in which nothing keeps its leader from issuing next: no event and no exchange flit before it, no hold for
droop or energy. -/
def State.withFetchWord (s : State) (nbits w : Nat) : State :=
  let s := { s with sched := { s.sched with tasks := s.sched.tasks.filter (·.id != s.sched.nextRec) } }
  let t := s.startTask s.probeRec probeImage 0
  { t with
    agenda := []
    turn := 0
    runq := (0, 0) :: t.runq.filter (· != (0, 0))
    fab := { t.fab with flits := t.fab.flits.filter fun f => decide (t.cycle < f.at_) }
    boot := { t.boot with droopHeld := t.boot.droopHeld.filter (· != 0) }
    sched := { t.sched with nextRec := t.sched.nextRec + 1 }
    bud := if t.bud.enforced true then t.bud.setBucket 0 0 { t.bud.bucket 0 0 with energy := 1 } else t.bud
    mem := { t.mem with code := probeCode t.mem.code (tableWords nbits w) } }

end Sys2Proof.Machine
end

