-- ==== Sys2Proof/Safety.lean ====
section
/-!
DEFINITION. The terms that claims are stated in: when a thread's instruction issues, what its registers read, and the states
in which it retires, traps or waits.
-/
namespace Sys2Proof.Machine
open Sys2Proof

/-- The wait of XW is over (R256). -/
def State.waitOver (s : State) (k : Ctx) (x : Pre) : Bool :=
  match x.wait with
  | none => true
  | some w =>
    match s.queue k w.queue with
    | none => false
    | some q => decide (w.count.val ≤ (if w.free then q.free else q.filled).toNat)

/-- An instruction with these prefixes issues on the thread of `k`, outside a gang or in a handler. -/
structure State.Issues (s : State) (k : Ctx) (x : Pre) : Prop where
  latch : s.fetch = some k
  alone : (s.thread k.core k.ts).alone = true
  leads : k.lead = none
  waited : s.waitOver k x = true

/-- The thread of `k`. -/
def State.own (s : State) (k : Ctx) : Thread := s.thread k.core k.ts

/-- A scalar register is a plain register now: no stream is bound to it (R175) and no command will write it (R332). -/
def State.plain (s : State) (k : Ctx) (n : SReg) : Prop :=
  n = 0 ∨ (s.scalarBusy k n.val = false ∧ (s.own k).stream false n = none)

/-- The value of a scalar register; `s0` reads 0 (R168). -/
def State.sreg (s : State) (k : Ctx) (n : SReg) : Word := if n = 0 then 0 else (s.own k).s[n]

/-- The state after an instruction that has changed only its thread retires. -/
def State.retires (s : State) (k : Ctx) (f : Flow) (u : Thread → Thread) : State :=
  (s.unpopped.modThread k.core k.ts u).retire k f

/-- The state after an instruction traps exactly. -/
def State.traps (s : State) (k : Ctx) (cause : BitVec 8) (info : Word) : State :=
  s.unpopped.exactTrap k.core k.ts cause info k.addr

/-- The state after an instruction that waits. -/
def State.held (s : State) (k : Ctx) : State := s.unpopped.waits k

/-- The state after an instruction that has dispatched a command; the issue of an access is debited (R72). -/
def State.handed (s : State) (k : Ctx) (mx : Bool) (d : Cmd) : State := ((s.unpopped.push k mx d).debitCmd k d).retire k .next

/-- The state after a command has been performed: it leaves its engine's queue, the stores that waited behind it enter the thread's
digest (R248), and thread sets that have stopped take what their last commands leave (R353, R406). -/
def State.settled (s : State) (core : Nat) (mx : Bool) (ts : Fin 4) : State := ((s.popCmd core mx).foldOn core ts).ended core

/-- The state after a command has faulted late (R231). -/
def State.faulted (s : State) (core : Nat) (d : Cmd) (cause : BitVec 8) (info : Word) : State :=
  (s.lateFault core d cause info).ended core

/-- The state after a command has changed only its thread: it is settled. -/
def State.completed (s : State) (core : Nat) (mx : Bool) (ts : Fin 4) (u : Thread → Thread) : State :=
  (s.modThread core ts u).settled core mx ts

/-- A command with the marks that its dispatch gave it. -/
def Cmd.sent (d : Cmd) (id : Nat) (ts : Fin 4) (seq : BitVec 16) : Cmd := { d with id := id, ts := ts, seq := seq }

/-- The vector engine of a core performs this command next: it is the oldest, and no earlier command of its thread set is on
the matrix engine. -/
def State.vectorNext (s : State) (core : Nat) (d : Cmd) : Prop :=
  (∃ r, (s.core core).vq = d :: r) ∧ ∀ e ∈ (s.core core).mq, e.ts = d.ts → d.id ≤ e.id

/-- The matrix engine of a core performs this command next. -/
def State.matrixNext (s : State) (core : Nat) (d : Cmd) : Prop :=
  (∃ r, (s.core core).mq = d :: r) ∧ ∀ e ∈ (s.core core).vq, e.ts = d.ts → d.id ≤ e.id

/-- No stream is bound to the vector registers read, nor to the registers written. -/
def State.unbound (s : State) (k : Ctx) (reads : List VReg) (writes : List RegName) : Prop :=
  (∀ n ∈ reads, (s.own k).stream true n = none) ∧ ∀ r ∈ writes, (s.own k).stream r.1 r.2 = none

/-- There is room for a command and no other engine's command in its way (R176). -/
def State.room (s : State) (k : Ctx) (mx : Bool) (reads : List VReg) (writes : List RegName) : Bool :=
  s.mayDispatch k mx (reads.map (fun n => (true, n)) ++ writes)

/-- All memories are in canonical form, those of saved tasks and cores too. -/
def State.canonical (s : State) : Prop :=
  s.mem.phys.wf = true ∧ s.mem.sram.wf = true ∧ s.mem.code.wf = true ∧ s.mem.operand.wf = true ∧ s.mem.stage.wf = true ∧
  s.mem.control.wf = true ∧
  ∀ q ∈ s.sched.saved, (∀ m ∈ q.banks, Memory.wf m = true) ∧
    ∀ c ∈ q.cores, Memory.wf c.pad = true ∧ Memory.wf c.operand = true ∧ Memory.wf c.code = true

end Sys2Proof.Machine
end

