-- ==== Sys2Proof/Claims.lean ====
section
/-!
DEFINITION. What the rules say that instructions compute, written on integers and bits, for the claims to compare with.
-/
namespace Sys2Proof.Claims
open Sys2Proof Sys2Proof.Machine

/-! ## Scalar integer instructions (R269 to R274) -/

/-- The instructions with two source registers, a destination and no flag: prefixes, destination, sources, and the result
by the integers that the sources hold. -/
def alu : Instr → Option (Pre × SReg × SReg × SReg × (Word → Word → Word))
  | .add x a b c => some (x, a, b, c, fun u v => BitVec.ofInt 64 (u.toInt + v.toInt))
  | .sub x a b c => some (x, a, b, c, fun u v => BitVec.ofInt 64 (u.toInt - v.toInt))
  | .and x a b c => some (x, a, b, c, fun u v => u &&& v)
  | .or x a b c => some (x, a, b, c, fun u v => u ||| v)
  | .xor x a b c => some (x, a, b, c, fun u v => u ^^^ v)
  | .shl x a b c => some (x, a, b, c, fun u v => BitVec.ofNat 64 (u.toNat * 2 ^ (v.toNat % 64)))
  | .shr x a b c => some (x, a, b, c, fun u v => BitVec.ofNat 64 (u.toNat / 2 ^ (v.toNat % 64)))
  | .sar x a b c => some (x, a, b, c, fun u v => BitVec.ofInt 64 (u.toInt / 2 ^ (v.toNat % 64)))
  | .mul x a b c => some (x, a, b, c, fun u v => BitVec.ofNat 64 (u.toNat * v.toNat))
  | .mulh x a b c => some (x, a, b, c, fun u v => BitVec.ofInt 64 (u.toInt * v.toInt / 2 ^ 64))
  | .mulhn x a b c => some (x, a, b, c, fun u v => BitVec.ofNat 64 (u.toNat * v.toNat / 2 ^ 64))
  | .min x a b c => some (x, a, b, c, fun u v => BitVec.ofInt 64 (Min.min u.toInt v.toInt))
  | .minn x a b c => some (x, a, b, c, fun u v => BitVec.ofNat 64 (Min.min u.toNat v.toNat))
  | .max x a b c => some (x, a, b, c, fun u v => BitVec.ofInt 64 (Max.max u.toInt v.toInt))
  | .maxn x a b c => some (x, a, b, c, fun u v => BitVec.ofNat 64 (Max.max u.toNat v.toNat))
  | .cmpeq x a b c => some (x, a, b, c, fun u v => if u.toInt = v.toInt then 1 else 0)
  | .cmpne x a b c => some (x, a, b, c, fun u v => if u.toInt ≠ v.toInt then 1 else 0)
  | .cmplt x a b c => some (x, a, b, c, fun u v => if u.toInt < v.toInt then 1 else 0)
  | .cmpltn x a b c => some (x, a, b, c, fun u v => if u.toNat < v.toNat then 1 else 0)
  | .cmple x a b c => some (x, a, b, c, fun u v => if u.toInt ≤ v.toInt then 1 else 0)
  | .cmplen x a b c => some (x, a, b, c, fun u v => if u.toNat ≤ v.toNat then 1 else 0)
  | _ => none

/-- The instructions with one source register and an immediate. -/
def aluImm : Instr → Option (Pre × SReg × SReg × (Word → Word))
  | .addi x a b i => some (x, a, b, fun u => BitVec.ofInt 64 (u.toInt + i.toInt))
  | .andi x a b i => some (x, a, b, fun u => u &&& i)
  | .ori x a b i => some (x, a, b, fun u => u ||| i)
  | .xori x a b i => some (x, a, b, fun u => u ^^^ i)
  | .shli x a b i => some (x, a, b, fun u => BitVec.ofNat 64 (u.toNat * 2 ^ i.toNat))
  | .shri x a b i => some (x, a, b, fun u => BitVec.ofNat 64 (u.toNat / 2 ^ i.toNat))
  | .sari x a b i => some (x, a, b, fun u => BitVec.ofInt 64 (u.toInt / 2 ^ i.toNat))
  | .sext x a b i => some (x, a, b, fun u => BitVec.ofInt 64 (u.toInt.bmod (2 ^ (i.toNat + 1))))
  | .zext x a b i => some (x, a, b, fun u => BitVec.ofNat 64 (u.toNat % 2 ^ (i.toNat + 1)))
  | _ => none

/-- The divisions, with the result by the integers that the sources hold (R269, R270). -/
def division : Instr → Option (Pre × SReg × SReg × SReg × (Word → Word → Word))
  | .div x a b c => some (x, a, b, c, fun u v => if v = 0 then -1 else BitVec.ofInt 64 (u.toInt.tdiv v.toInt))
  | .divn x a b c => some (x, a, b, c, fun u v => if v = 0 then -1 else BitVec.ofNat 64 (u.toNat / v.toNat))
  | .rem x a b c => some (x, a, b, c, fun u v => if v = 0 then u else BitVec.ofInt 64 (u.toInt.tmod v.toInt))
  | .remn x a b c => some (x, a, b, c, fun u v => if v = 0 then u else BitVec.ofNat 64 (u.toNat % v.toNat))
  | _ => none

/-- The conditional branches: prefixes, sources, halfwords and the condition (R278). -/
def branch : Instr → Option (Pre × SReg × SReg × Word × (Word → Word → Bool))
  | .beq x a b i => some (x, a, b, i, fun u v => decide (u.toInt = v.toInt))
  | .bne x a b i => some (x, a, b, i, fun u v => decide (u.toInt ≠ v.toInt))
  | .blt x a b i => some (x, a, b, i, fun u v => decide (u.toInt < v.toInt))
  | .bge x a b i => some (x, a, b, i, fun u v => decide (v.toInt ≤ u.toInt))
  | .bltn x a b i => some (x, a, b, i, fun u v => decide (u.toNat < v.toNat))
  | .bgen x a b i => some (x, a, b, i, fun u v => decide (v.toNat ≤ u.toNat))
  | .beqz x a i => some (x, a, 0, i, fun u _ => decide (u.toInt = 0))
  | .bnez x a i => some (x, a, 0, i, fun u _ => decide (u.toInt ≠ 0))
  | _ => none

/-- (addr + 2 × i) mod 2^16 (R278). -/
def relative (k : Ctx) (i : Word) : BitVec 16 := BitVec.ofInt 16 (k.addr.toInt + 2 * i.toInt)

/-- (s[a] + i) mod 2^16 (R280). -/
def based (u i : Word) : BitVec 16 := BitVec.ofInt 16 (u.toInt + i.toInt)

/-! ## Scalar floating point (R289 to R293) -/

/-- The floating instructions: prefixes, destination, two sources, and the result with its flags from the two sources and
the old destination (R290, R291). -/
def float : Instr → Option (Pre × SReg × SReg × SReg × (Word → Word → Word → Nat × Flags))
  | .fadd x a b c => some (x, a, b, c, fun u v _ => arith x .add u v 0)
  | .fsub x a b c => some (x, a, b, c, fun u v _ => arith x .sub u v 0)
  | .fmul x a b c => some (x, a, b, c, fun u v _ => arith x .mul u v 0)
  | .fdiv x a b c => some (x, a, b, c, fun u v _ => arith x .div u v 0)
  | .fma x a b c => some (x, a, b, c, fun u v w => arith x .fma u v w)
  | .fsqrt x a b => some (x, a, b, 0, fun u _ _ => arith x .sqrt u 0 0)
  | .fmin x a b c => some (x, a, b, c, fun u v _ => minMaxF (ffmt (ftype x)) x.ftzi false (low x u) (low x v))
  | .fmax x a b c => some (x, a, b, c, fun u v _ => minMaxF (ffmt (ftype x)) x.ftzi true (low x u) (low x v))
  | .fcmpeq x a b c => some (x, a, b, c, fun u v _ => truth (cmpF (ffmt (ftype x)) x.ftzi .eq (low x u) (low x v)))
  | .fcmplt x a b c => some (x, a, b, c, fun u v _ => truth (cmpF (ffmt (ftype x)) x.ftzi .lt (low x u) (low x v)))
  | .fcmple x a b c => some (x, a, b, c, fun u v _ => truth (cmpF (ffmt (ftype x)) x.ftzi .le (low x u) (low x v)))
  | _ => none
where
  /-- `f32` for code 0 (R289) -/
  ftype (x : Pre) : Ty := if x.dtype = .dflt then .f32 else x.dtype
  /-- the low bits of an operand -/
  low (x : Pre) (u : Word) : Nat := u.toNat % 2 ^ (ftype x).width
  arith (x : Pre) (op : FOp) (u v w : Word) : Nat × Flags :=
    (fArith (ffmt (ftype x)) x.ftzi (ctlOf x) op (low x u) (low x v) (low x w)).get
  truth (r : Bool × Flags) : Nat × Flags := (if r.1 then 1 else 0, r.2)

/-- The conversions with their source and destination types (R192, R289, R292). -/
def conversion : Instr → Option (Pre × SReg × SReg × Ty × Ty × (Ty → Ty → Bool → Ctl → Nat → RoundRes))
  | .fcvti x a b => some (x, a, b, pick x.stype .f32, pick x.dtype .i64, convert)
  | .fcvtin x a b => some (x, a, b, pick x.stype .f32, pick x.dtype .n64, convert)
  | .fcvtf x a b => some (x, a, b, pick x.stype .i64, pick x.dtype .f32, convert)
  | .fcvtfn x a b => some (x, a, b, pick x.stype .n64, pick x.dtype .f32, convert)
  | .fcvt x a b => some (x, a, b, x.stype, x.dtype, convert)
  | _ => none
where
  /-- the default for code 0 -/
  pick (t d : Ty) : Ty := if t = .dflt then d else t

/-! ## Memory instructions (R275, R276, R301) -/

/-- The loads: prefixes, destination, base, offset, bytes, and whether the value is signed. -/
def load : Instr → Option (Pre × SReg × SReg × Word × Nat × Bool)
  | .ldb x a b i => some (x, a, b, i, 1, true)
  | .ldbn x a b i => some (x, a, b, i, 1, false)
  | .ldh x a b i => some (x, a, b, i, 2, true)
  | .ldhn x a b i => some (x, a, b, i, 2, false)
  | .ldw x a b i => some (x, a, b, i, 4, true)
  | .ldwn x a b i => some (x, a, b, i, 4, false)
  | .ldd x a b i => some (x, a, b, i, 8, false)
  | _ => none

/-- The stores: prefixes, data, base, offset and bytes. -/
def store : Instr → Option (Pre × SReg × SReg × Word × Nat)
  | .stb x a b i => some (x, a, b, i, 1)
  | .sth x a b i => some (x, a, b, i, 2)
  | .stw x a b i => some (x, a, b, i, 4)
  | .std x a b i => some (x, a, b, i, 8)
  | _ => none

/-- The atomics: prefixes, destination, address, operand, the comparand of `AMOCAS`, and the new value by the number of bytes,
the old value, the operand and the comparand. -/
def atomic : Instr → Option (Pre × SReg × SReg × SReg × SReg × (Nat → Nat → Nat → Nat → Option Nat))
  | .amoadd x a b c => some (x, a, b, c, 0, fun _ o v _ => some (o + v))
  | .amoswp x a b c => some (x, a, b, c, 0, fun _ _ v _ => some v)
  | .amocas x a b c d => some (x, a, b, c, d.castLE (by decide), fun _ o v w => if o = w then some v else none)
  | .amomin x a b c => some (x, a, b, c, 0, fun n o v _ => some (if sextInt v (8 * n) < sextInt o (8 * n) then v else o))
  | .amominn x a b c => some (x, a, b, c, 0, fun _ o v _ => some (Min.min o v))
  | .amomax x a b c => some (x, a, b, c, 0, fun n o v _ => some (if sextInt o (8 * n) < sextInt v (8 * n) then v else o))
  | .amomaxn x a b c => some (x, a, b, c, 0, fun _ o v _ => some (Max.max o v))
  | .amoand x a b c => some (x, a, b, c, 0, fun _ o v _ => some (o &&& v))
  | .amoor x a b c => some (x, a, b, c, 0, fun _ o v _ => some (o ||| v))
  | _ => none

/-! ## Vector engine (R329 to R347) -/

/-- A field of `w` bits as a number. -/
def num (w : Nat) (sg : Bool) (x : Nat) : Int := if sg ∧ 2 ^ (w - 1) ≤ x then (x : Int) - 2 ^ w else x

/-- An exact result in `w` bits: clamped under saturation, else modulo 2^w (R182). -/
def narrow (w : Nat) (sg sat : Bool) (v : Int) : Nat :=
  let lo : Int := if sg then -(2 ^ (w - 1)) else 0
  let hi : Int := if sg then 2 ^ (w - 1) - 1 else 2 ^ w - 1
  ((if sat then Max.max lo (Min.min hi v) else v) % 2 ^ w).toNat

/-- The sum of the chosen ones of `n` numbers. -/
def total (p : Nat → Bool) (v : Nat → Int) (n : Nat) : Int := ((List.range n).map fun j => if p j then v j else 0).sum

/-- The type of an integer instruction of page 4 or 6. -/
def ity (x : Pre) : Ty := if x.dtype = .dflt then .i32 else x.dtype

/-- A register result: prefixes, vector sources, scalar source, destination, lane width, and lane `i` of the destination by the
registers that the engine finds and the value of the scalar source. -/
structure VecResult where
  x : Pre
  reads : List VReg
  b : SReg
  dest : VReg
  w : Nat
  lane : Thread → Word → Nat → Nat

/-- Lanes put under the mask (R257). -/
def kept (x : Pre) (reads : List VReg) (b : SReg) (a : VReg) (w : Nat) (f : Thread → Word → Nat → Nat) : VecResult :=
  ⟨x, reads, b, a, w, fun t u i => if t.active x w i then f t u i else if x.zero then 0 else laneOf t.v[a] i w⟩

/-- An integer operation on the lanes of `b`, `c` and the old destination. -/
def intOp (x : Pre) (a b c : VReg) (sg sat : Bool) (f : Int → Int → Int) : VecResult :=
  let w := (ity x).width
  kept x [b, c] 0 a w fun t _ i => narrow w sg sat (f (num w sg (laneOf t.v[b] i w)) (num w sg (laneOf t.v[c] i w)))

/-- An operation on lanes as unsigned fields. -/
def bitOp (x : Pre) (a b c : VReg) (f : Nat → Nat → Nat) : VecResult :=
  let w := (ity x).width
  kept x [b, c] 0 a w fun t _ i => f (laneOf t.v[b] i w) (laneOf t.v[c] i w)

/-- An operation on one source whose lane may come from anywhere in it. -/
def moveOp (x : Pre) (a b : VReg) (f : (Nat → Nat) → Nat → Nat) : VecResult :=
  let w := (ity x).width
  kept x [b] 0 a w fun t _ i => f (fun j => laneOf t.v[b] j w) i

/-- A rearrangement of two sources (R343). -/
def mixOp (x : Pre) (a b c : VReg) (f : (Nat → Nat) → (Nat → Nat) → Nat → Nat) : VecResult :=
  let w := (ity x).width
  kept x [b, c] 0 a w fun t _ i => f (fun j => laneOf t.v[b] j w) (fun j => laneOf t.v[c] j w) i

/-- A reduction into lane 0, every other lane 0 (R345). -/
def reduce (x : Pre) (a b : VReg) (w : Nat) (f : Thread → Nat) : VecResult :=
  ⟨x, [b], 0, a, w, fun t _ i => if i = 0 then f t else 0⟩

/-- The commands of pages 4 and 6 that give a vector register an integer or moved result. -/
def vector (i : Instr) : Option VecResult :=
  match i with
  | .vadd x a b c => some (intOp x a b c (ity x).isSigned false (· + ·))
  | .vaddSat x a b c => some (intOp x a b c (ity x).isSigned true (· + ·))
  | .vsub x a b c => some (intOp x a b c (ity x).isSigned false (· - ·))
  | .vsubSat x a b c => some (intOp x a b c (ity x).isSigned true (· - ·))
  | .vmul x a b c => some (intOp x a b c (ity x).isSigned x.sat (· * ·))
  | .vmulh x a b c => some (intOp x a b c true false fun u v => u * v / 2 ^ (ity x).width)
  | .vmulhn x a b c => some (intOp x a b c false false fun u v => u * v / 2 ^ (ity x).width)
  | .vmad x a b c =>
    let w := (ity x).width
    let sg := (ity x).isSigned
    some (kept x [a, b, c] 0 a w fun t _ i => narrow w sg x.sat
      (num w sg (laneOf t.v[a] i w) + num w sg (laneOf t.v[b] i w) * num w sg (laneOf t.v[c] i w)))
  | .vaddw x a b c => some (widening x a b c 0)
  | .vaddwh x a b c => some (widening x a b c (x.stype.lanes / 2))
  | .vdot x a b c =>
    some (kept x [a, b, c] 0 a 32 fun t _ i => narrow 32 true x.sat (num 32 true (laneOf t.v[a] i 32) +
      total (fun _ => true) (fun k => num 8 x.stype.isSigned (laneOf t.v[b] (4 * i + k) 8) *
        num 8 x.stype.isSigned (laneOf t.v[c] (4 * i + k) 8)) 4))
  | .vand x a b c => some (bitOp x a b c fun u v => u &&& v)
  | .vor x a b c => some (bitOp x a b c fun u v => u ||| v)
  | .vxor x a b c => some (bitOp x a b c fun u v => u ^^^ v)
  | .vshl x a b c => some (bitOp x a b c fun u v => u * 2 ^ (v % (ity x).width) % 2 ^ (ity x).width)
  | .vshr x a b c => some (bitOp x a b c fun u v => u / 2 ^ (v % (ity x).width))
  | .vsar x a b c =>
    let w := (ity x).width
    some (bitOp x a b c fun u v => narrow w true false (num w true u / 2 ^ (v % w)))
  | .vshli x a b n => some (moveOp x a b fun l i => l i * 2 ^ (n.toNat % (ity x).width) % 2 ^ (ity x).width)
  | .vshri x a b n => some (moveOp x a b fun l i => l i / 2 ^ (n.toNat % (ity x).width))
  | .vsari x a b n =>
    let w := (ity x).width
    some (moveOp x a b fun l i => narrow w true false (num w true (l i) / 2 ^ (n.toNat % w)))
  | .vmin x a b c => some (intOp x a b c true false Min.min)
  | .vminn x a b c => some (intOp x a b c false false Min.min)
  | .vmax x a b c => some (intOp x a b c true false Max.max)
  | .vmaxn x a b c => some (intOp x a b c false false Max.max)
  | .vabs x a b => some (moveOp x a b fun l i => (num (ity x).width true (l i)).natAbs % 2 ^ (ity x).width)
  | .vsel x a b c =>
    let w := (ity x).width
    some ⟨x, [b, c], 0, a, w, fun t _ i => if t.active x w i then laneOf t.v[b] i w else laneOf t.v[c] i w⟩
  | .vbcast x a b => some (kept x [] b a (ity x).width fun _ u _ => u.toNat % 2 ^ (ity x).width)
  | .vins x a b n =>
    let w := (ity x).width
    some ⟨x, [], b, a, w, fun t u i => if i = n.toNat then u.toNat % 2 ^ w else laneOf t.v[a] i w⟩
  | .vlane x a n => some ⟨x, [], 0, a, (ity x).width, fun _ _ i => ((n.toInt + i) % 2 ^ (ity x).width).toNat⟩
  | .vpack x a b c =>
    let d := x.dtype
    let s := x.stype
    some (kept x [b, c] 0 a d.width fun t _ i =>
      let v := if i < s.lanes then laneOf t.v[b] i s.width else laneOf t.v[c] (i - s.lanes) s.width
      if x.sat then narrow d.width d.isSigned true (num s.width s.isSigned v) else v % 2 ^ d.width)
  | .vunpk x a b => some (unpacked x a b 0)
  | .vunpkh x a b => some (unpacked x a b x.dtype.lanes)
  | .vperm x a b c => some (mixOp x a b c fun l m i => l (m i % (ity x).lanes))
  | .vslideup x a b n => some (moveOp x a b fun l i => if n.toNat ≤ i then l (i - n.toNat) else 0)
  | .vslidedn x a b n => some (moveOp x a b fun l i => if i + n.toNat < (ity x).lanes then l (i + n.toNat) else 0)
  | .vzip x a b c => some (mixOp x a b c fun l m i => if i % 2 = 0 then l (i / 2) else m (i / 2))
  | .vziph x a b c => some (mixOp x a b c fun l m i =>
      let h := (ity x).lanes / 2
      if i % 2 = 0 then l (h + i / 2) else m (h + i / 2))
  | .vunzip x a b c => some (mixOp x a b c fun l m i =>
      let h := (ity x).lanes / 2
      if i < h then l (2 * i) else m (2 * (i - h)))
  | .vunzipo x a b c => some (mixOp x a b c fun l m i =>
      let h := (ity x).lanes / 2
      if i < h then l (2 * i + 1) else m (2 * (i - h) + 1))
  | .vtrn x a b c => some (mixOp x a b c fun l m i => if i % 2 = 0 then l i else m (i - 1))
  | .vtrn2 x a b c => some (mixOp x a b c fun l m i => if i % 2 = 0 then l (i + 1) else m i)
  | .vscan x a b => if x.dtype.isFloat then none else some (scanned x a b 1)
  | .vscanx x a b => if x.dtype.isFloat then none else some (scanned x a b 0)
  | .vred x a b => some (reduce x a b (ity x).width fun t => summed x b (ity x) t)
  | .vredw x a b => some (reduce x a b (ity x).width fun t => summed x b x.stype t)
  | .vredmax x a b => some (reduce x a b (ity x).width fun t => greatest x b true (-(2 ^ ((ity x).width - 1))) t)
  | .vredmaxn x a b => some (reduce x a b (ity x).width fun t => greatest x b false 0 t)
  | _ => none
where
  /-- `VADDW`, `VADDWH` (R334) -/
  widening (x : Pre) (a b c : VReg) (off : Nat) : VecResult :=
    let d := x.dtype
    let s := x.stype
    kept x [b, c] 0 a d.width fun t _ i => narrow d.width d.isSigned x.sat
      (num d.width d.isSigned (laneOf t.v[b] i d.width) + num s.width s.isSigned (laneOf t.v[c] (i + off) s.width))
  /-- `VUNPK`, `VUNPKH` (R341) -/
  unpacked (x : Pre) (a b : VReg) (off : Nat) : VecResult :=
    let d := x.dtype
    let s := x.stype
    kept x [b] 0 a d.width fun t _ i => narrow d.width false false (num s.width s.isSigned (laneOf t.v[b] (i + off) s.width))
  /-- integer prefix sums over the active lanes before lane `i` + `k` (R344) -/
  scanned (x : Pre) (a b : VReg) (k : Nat) : VecResult :=
    let w := (ity x).width
    let sg := (ity x).isSigned
    kept x [b] 0 a w fun t _ i =>
      narrow w sg x.sat (total (t.active x w) (fun j => num w sg (laneOf t.v[b] j w)) (i + k))
  /-- the sum of the active lanes of a type (R345) -/
  summed (x : Pre) (b : VReg) (s : Ty) (t : Thread) : Nat :=
    narrow (ity x).width (ity x).isSigned x.sat
      (total (t.active x s.width) (fun j => num s.width s.isSigned (laneOf t.v[b] j s.width)) s.lanes)
  /-- the greatest active lane, or the least value of the type (R345) -/
  greatest (x : Pre) (b : VReg) (sg : Bool) (least : Int) (t : Thread) : Nat :=
    let w := (ity x).width
    narrow w sg false (((List.range (ity x).lanes).filter (t.active x w)).foldr
      (fun j m => Max.max (num w sg (laneOf t.v[b] j w)) m) least)

/-- The commands that give a mask register a result: prefixes, vector sources, scalar source, destination, and bit `j`. -/
def mask (i : Instr) : Option (Pre × List VReg × SReg × KReg × (Thread → Word → Nat → Bool)) :=
  match i with
  | .vcmpeq x a b c => some (relation x a b c true (· == ·))
  | .vcmpne x a b c => some (relation x a b c true (· != ·))
  | .vcmplt x a b c => some (relation x a b c true fun u v => decide (u < v))
  | .vcmpltn x a b c => some (relation x a b c false fun u v => decide (u < v))
  | .vcmple x a b c => some (relation x a b c true fun u v => decide (u ≤ v))
  | .vcmplen x a b c => some (relation x a b c false fun u v => decide (u ≤ v))
  | .kand x a b c => some (x, [], 0, a, fun t _ j => (t.kreg b).getLsbD j && (t.kreg c).getLsbD j)
  | .kor x a b c => some (x, [], 0, a, fun t _ j => (t.kreg b).getLsbD j || (t.kreg c).getLsbD j)
  | .knot x a b => some (x, [], 0, a, fun t _ j => !(t.kreg b).getLsbD j)
  | .kmov x a b => some (x, [], b, a, fun _ u j => u.getLsbD j)
  | _ => none
where
  /-- A compare (R336). -/
  relation (x : Pre) (a : KReg) (b c : VReg) (sg : Bool) (p : Int → Int → Bool) :
      Pre × List VReg × SReg × KReg × (Thread → Word → Nat → Bool) :=
    let w := (ity x).width
    (x, [b, c], 0, a, fun t _ j =>
      if (ity x).lanes ≤ j then false
      else if t.active x w j then p (num w sg (laneOf t.v[b] j w)) (num w sg (laneOf t.v[c] j w))
      else if x.zero then false else t.k[a].getLsbD j)

/-- The commands that give a scalar register a result: prefixes, vector sources, destination and value (R337, R347). -/
def toScalar : Instr → Option (Pre × List VReg × SReg × (Thread → Word))
  | .vextr x a b n => some (x, [b], a, fun t =>
      BitVec.ofInt 64 (num (ity x).width (ity x).isSigned (laneOf t.v[b] n.toNat (ity x).width)))
  | .kpopc x a b => some (x, [], a, fun t =>
      BitVec.ofNat 64 ((List.range 64).filter fun j => (t.kreg b).getLsbD j).length)
  | .kfirst x a b => some (x, [], a, fun t =>
      BitVec.ofNat 64 ((List.range 64).takeWhile fun j => !(t.kreg b).getLsbD j).length)
  | .kmovs x a b => some (x, [], a, fun t => t.kreg b)
  | _ => none

/-! ## Floating vector commands (R202, R338, R339, R376) -/

/-- The type of a floating instruction of page 5 or 7. -/
def fty (x : Pre) : Ty := if x.dtype = .dflt then .f32 else x.dtype

/-- The floating commands lane by lane: prefixes, sources, destination, and the lane's result with its flags from the lanes
of `b`, `c` and the old destination. -/
def floatVector (i : Instr) :
    Option (Pre × List VReg × VReg × VReg × VReg × (Nat → Nat → Nat → Nat × Flags)) :=
  match i with
  | .vfadd x a b c => some (x, [b, c], a, b, c, op x .add)
  | .vfsub x a b c => some (x, [b, c], a, b, c, op x .sub)
  | .vfmul x a b c => some (x, [b, c], a, b, c, op x .mul)
  | .vfma x a b c => some (x, [a, b, c], a, b, c, op x .fma)
  | .vfnma x a b c => some (x, [a, b, c], a, b, c, op x .fnma)
  | .vfdiv x a b c => some (x, [b, c], a, b, c, op x .div)
  | .vfsqrt x a b => some (x, [b], a, b, b, fun u _ _ => op x .sqrt u 0 0)
  | .vfrcp x a b => some (x, [b], a, b, b, fun u _ _ => op x .rcp u 0 0)
  | .vfrsq x a b => some (x, [b], a, b, b, fun u _ _ => op x .rsq u 0 0)
  | .vfmin x a b c => some (x, [b, c], a, b, c, fun u v _ => minMaxF (ffmt (fty x)) x.ftzi false u v)
  | .vfmax x a b c => some (x, [b, c], a, b, c, fun u v _ => minMaxF (ffmt (fty x)) x.ftzi true u v)
  | .vfabs x a b => some (x, [b], a, b, b, fun u _ _ => (u % 2 ^ ((fty x).width - 1), 0))
  | .vfneg x a b => some (x, [b], a, b, b, fun u _ _ => (u ^^^ 2 ^ ((fty x).width - 1), 0))
  | .vexp2 x a b => some (x, [b], a, b, b, fun u _ _ => (fTrans (ffmt (fty x)) x.ftzi (ctlOf x) .exp2 u).get)
  | .vlog2 x a b => some (x, [b], a, b, b, fun u _ _ => (fTrans (ffmt (fty x)) x.ftzi (ctlOf x) .log2 u).get)
  | .vtanh x a b => some (x, [b], a, b, b, fun u _ _ => (fTrans (ffmt (fty x)) x.ftzi (ctlOf x) .tanh u).get)
  | .vsinpi x a b => some (x, [b], a, b, b, fun u _ _ => (fTrans (ffmt (fty x)) x.ftzi (ctlOf x) .sinpi u).get)
  | .vcospi x a b => some (x, [b], a, b, b, fun u _ _ => (fTrans (ffmt (fty x)) x.ftzi (ctlOf x) .cospi u).get)
  | _ => none
where
  /-- a rounded operation of R338 or R202 -/
  op (x : Pre) (o : FOp) (u v z : Nat) : Nat × Flags := (fArith (ffmt (fty x)) x.ftzi (ctlOf x) o u v z).get

/-- The commands that round under a lazy-uniform register: prefixes, vector sources, destination, the first register of U, lane
width, the destination lanes that they cover, and what the rounding of a lane gives (R185, R338, R340, R373, R376). -/
structure Rounded where
  x : Pre
  reads : List VReg
  dest : VReg
  base : Nat
  w : Nat
  lanes : List Nat
  lane : Thread → Nat → RoundRes

/-- `VCVT` and `YRND` and the rounded commands of pages 5 and 7. -/
def rounded (i : Instr) : Option Rounded :=
  match i with
  | .vfadd x a b c => some (op x .add a [b, c] b c)
  | .vfsub x a b c => some (op x .sub a [b, c] b c)
  | .vfmul x a b c => some (op x .mul a [b, c] b c)
  | .vfma x a b c => some (op x .fma a [a, b, c] b c)
  | .vfnma x a b c => some (op x .fnma a [a, b, c] b c)
  | .vfdiv x a b c => some (op x .div a [b, c] b c)
  | .vfsqrt x a b => some (op x .sqrt a [b] b b)
  | .vfrcp x a b => some (op x .rcp a [b] b b)
  | .vfrsq x a b => some (op x .rsq a [b] b b)
  | .vexp2 x a b => some (trans x .exp2 a b)
  | .vlog2 x a b => some (trans x .log2 a b)
  | .vtanh x a b => some (trans x .tanh a b)
  | .vsinpi x a b => some (trans x .sinpi a b)
  | .vcospi x a b => some (trans x .cospi a b)
  | .vcvt x a b p =>
    let d := ity x
    let s := if x.stype = .dflt then .i32 else x.stype
    let n := 512 / Max.max d.width s.width
    let first := if d.width < s.width then p.val * n else 0
    some ⟨x, [b], a, x.yreg.val, d.width, (List.range n).map (first + ·), fun t j =>
      convert s d x.ftzi (ctlOf x) (laneOf t.v[b] (if s.width < d.width then p.val * n + j else j - first) s.width)⟩
  | .yrnd x a b c =>
    let s := if x.stype = .dflt then .f32 else x.stype
    let d := if x.dtype = .dflt then .bf16 else x.dtype
    some ⟨x, [b], a, c.val, d.width, List.range 16, fun t j =>
      convert s d x.ftzi { ctlOf x with rnd := .sr } (laneOf t.v[b] j s.width)⟩
  | _ => none
where
  /-- a rounded operation of R338 or R202 -/
  op (x : Pre) (o : FOp) (a : VReg) (l : List VReg) (b c : VReg) : Rounded :=
    let w := (fty x).width
    ⟨x, l, a, x.yreg.val, w, List.range (512 / w), fun t j =>
      fArith (ffmt (fty x)) x.ftzi (ctlOf x) o (laneOf t.v[b] j w) (laneOf t.v[c] j w)
        (laneOf t.v[a] j w)⟩
  /-- a transcendental (R376) -/
  trans (x : Pre) (o : FTrans) (a b : VReg) : Rounded :=
    let w := (fty x).width
    ⟨x, [b], a, x.yreg.val, w, List.range (512 / w), fun t j => fTrans (ffmt (fty x)) x.ftzi (ctlOf x) o (laneOf t.v[b] j w)⟩

/-- Node `i` of a level of the pairwise tree of R201, with the flags of what it combines: level 0 holds the lanes. -/
def node {α : Type} (first later : α → α → α × Flags) (leaf : Nat → α) : Nat → Nat → α × Flags
  | 0, i => (leaf i, 0)
  | n + 1, i =>
    let a := node first later leaf n (2 * i)
    let b := node first later leaf n (2 * i + 1)
    let r := (if n = 0 then first else later) a.1 b.1
    (r.1, a.2 ||| b.2 ||| r.2)

/-- `VFRED` of the active lanes (R201, R346). -/
def fsum (x : Pre) (b : VReg) (t : Thread) : Nat × Flags :=
  let f := ffmt (fty x)
  let w := (fty x).width
  let op (z : Bool) (u v : Nat) : Nat × Flags := (fArith f z (ctlOf x) .add u v 0).get
  node (op x.ftzi) (op false) (fun i => if t.active x w i then laneOf t.v[b] i w else 2 ^ (w - 1)) (512 / w).log2 0

/-- `VFREDMAX` of the active lanes: an inactive one is −∞, or is passed over in a format without −∞ (R201, R346). -/
def fgreatest (x : Pre) (b : VReg) (t : Thread) : Nat × Flags :=
  let f := ffmt (fty x)
  let w := (fty x).width
  let op (z : Bool) (u v : Nat) : Nat × Flags := minMaxF f z true u v
  if f.noInf then
    let side (u v : Option Nat) : Option Nat × Flags :=
      match u, v with
      | none, o | o, none => (o, 0)
      | some u, some v => let r := op false u v; (some r.1, r.2)
    let r := node side side (fun i => if t.active x w i then some (flushLane f x.ftzi (laneOf t.v[b] i w)) else none)
      (512 / w).log2 0
    (r.1.getD (2 ^ (w - 1) + f.maxBits), r.2)
  else
    node (op x.ftzi) (op false) (fun i => if t.active x w i then laneOf t.v[b] i w else 2 ^ (w - 1) + f.infBits)
      (512 / w).log2 0

/-- The serial floating sum of the active lanes below `i`, and its flags (R344). -/
def serial (x : Pre) (b : VReg) (t : Thread) : Nat → Option Nat × Flags
  | 0 => (none, 0)
  | i + 1 =>
    let f := ffmt (fty x)
    let w := (fty x).width
    let s := serial x b t i
    if t.active x w i then
      let u := unpackF f x.ftzi (laneOf t.v[b] i w)
      let v : XV × Flags := match s.1 with | none => (u.1, 0) | some r => addX (x.rnd == .rdn) (unpackF f false r).1 u.1
      let r := (deliver f (ctlOf x) v.1 (v.2 ||| sigFlags [u.2])).get
      (some r.1, s.2 ||| r.2)
    else s

/-- What `VSCAN` and `VSCANX` show of a sum: −0 while no lane has been added. -/
def shown (x : Pre) (s : Option Nat × Flags) : Nat := s.1.getD (2 ^ ((fty x).width - 1))

/-! ## Engine dispatch (R176, R332, R361) -/

/-- What an instruction hands to an engine: its prefixes, the engine (true: matrix), the registers that it names as read and
written, its scalar sources, and whether values of them are accepted (R354, R358, R361). -/
structure Handed where
  x : Pre
  mx : Bool := false
  reads : List VReg := []
  writes : List RegName := []
  b : SReg := 0
  c : SReg := 0
  ok : Word → Word → Prop := fun _ _ => True

/-- `n` vector registers from `a`. -/
def regs (a : VReg) (n : Nat) : List VReg := (List.range n).map fun i => Fin.ofNat 32 (a.val + i)

/-- A line word without reserved bits (R354). -/
def line (tr : Bool) (w : Word) : Prop := w.toNat < 2 ^ 34 ∧ (tr = false → w.toNat < 2 ^ 32)

/-- The instructions that only dispatch a command. -/
def engine (i : Instr) : Option Handed :=
  match vector i with
  | some r => some { x := r.x, reads := r.reads, writes := [(true, r.dest)], b := r.b }
  | none =>
    match mask i with
    | some (x, l, b, _, _) => some { x := x, reads := l, b := b }
    | none =>
      match toScalar i with
      | some (x, l, a, _) => some { x := x, reads := l, writes := [(false, a)] }
      | none =>
        match floatVector i with
        | some (x, l, a, _, _, _) => some { x := x, reads := l, writes := [(true, a)] }
        | none => other i
where
  /-- Those without a table of results above. -/
  other : Instr → Option Handed
    | .vfcmpeq x _ b c | .vfcmplt x _ b c | .vfcmple x _ b c => some { x := x, reads := [b, c] }
    | .vcvt x a b _ => some { x := x, reads := [b], writes := [(true, a)] }
    | .vscan x a b | .vscanx x a b | .vfred x a b | .vfredmax x a b => some { x := x, reads := [b], writes := [(true, a)] }
    | .vld x a b _ => some { x := x, writes := [(true, a)], b := b }
    | .vst x a b _ => some { x := x, reads := [a], b := b }
    | .vlds x a b c => some { x := x, writes := [(true, a)], b := b, c := c }
    | .vsts x a b c => some { x := x, reads := [a], b := b, c := c }
    | .vldg x a b c => some { x := x, reads := [c], writes := [(true, a)], b := b }
    | .vstg x a b c => some { x := x, reads := [a, c], b := b }
    | .vldt x a b c => some { x := x, writes := (regs a 16).map fun n => (true, n), b := b, c := c }
    | .vrowld x a b c => some { x := x, writes := (regs a (2 ^ c.val)).map fun n => (true, n), b := b }
    | .vrowst x a b c => some { x := x, reads := regs a (2 ^ c.val), b := b }
    | .vrowadd x a b c =>
      let s := if x.stype = .dflt then fty x else x.stype
      some { x := x, reads := regs a (2 ^ c.val * s.width / (fty x).width), b := b }
    | .vrowcas x a b c =>
      some { x := x, reads := regs a (2 * 2 ^ c.val), writes := (regs a (2 ^ c.val)).map fun n => (true, n), b := b }
    | .ycmp x _ _ c => some { x := x, reads := [c] }
    | .ycmpy x _ _ _ | .ymov x _ _ => some { x := x }
    | .yrnd x a b _ => some { x := x, reads := [b], writes := [(true, a)] }
    | .ycvt x a _ | .ystat x a _ _ => some { x := x, writes := [(true, a)] }
    | .yst x _ b _ | .yld x _ b _ => some { x := x, b := b }
    | .orel x _ _ | .zclr x _ => some { x := x, mx := true }
    | .old x _ b c | .oldb x _ b c | .ost x _ b c | .zst x _ b c | .zld x _ b c =>
      some { x := x, mx := true, b := b, c := c, ok := fun _ v => line false v }
    | .oldt x _ b c | .oldtb x _ b c => some { x := x, mx := true, b := b, c := c, ok := fun _ v => line true v }
    | .zmovv x a _ c => some { x := x, mx := true, writes := [(true, a)], b := c, ok := fun v _ =>
        v.toNat % 32 + v.toNat / 256 % 8 * 256 = v.toNat ∧ v.toNat / 256 % 8 < 64 / (fty x).lanes }
    | .mstat x a _ => some { x := x, mx := true, writes := [(false, a)] }
    | .mmaBf x _ _ _ | .mmaBfOw x _ _ _ | .mmaHf x _ _ _ | .mmaHfOw x _ _ _ | .mmaF32 x _ _ _ | .mmaF32Ow x _ _ _
    | .mmaE4 x _ _ _ | .mmaE4Ow x _ _ _ | .mmaE5 x _ _ _ | .mmaE5Ow x _ _ _ | .mmaE45 x _ _ _ | .mmaE45Ow x _ _ _ =>
      some { x := x, mx := true }
    | .mmaI8 x _ _ _ d | .mmaI8Ow x _ _ _ d | .mmaI4 x _ _ _ d | .mmaI4Ow x _ _ _ d =>
      some { x := x, mx := true, b := d.castLE (by decide), ok := fun v _ => v.toNat < 4 }
    | .mmaQ8 x _ _ _ d | .mmaQ8Ow x _ _ _ d | .mmaQ4q8 x _ _ _ d | .mmaQ4q8Ow x _ _ _ d | .mmaQ4 x _ _ _ d
    | .mmaQ4Ow x _ _ _ d => some { x := x, mx := true, b := d.castLE (by decide) }
    | _ => none

/-- A vector access in memory: prefixes, scalar sources, the register loaded or stored, the index register if there is one, and
the address of lane `i` by the index register and the scalars (R297, R298). -/
structure VecAccess where
  x : Pre
  b : SReg
  c : SReg := 0
  a : VReg
  index : List VReg := []
  addr : VWord → Word → Word → Nat → Word

/-- Bytes of a lane in memory: 4-bit types go by the byte (R297). -/
def laneBytes (x : Pre) : Nat := (ity x).width / 8 + (if (ity x).width = 4 then 1 else 0)

/-- The vector loads. -/
def vectorLoad : Instr → Option VecAccess
  | .vld x a b n => some { x := x, b := b, a := a, addr := fun _ u _ i => u + 64 * n + BitVec.ofNat 64 (i * laneBytes x) }
  | .vlds x a b c => some { x := x, b := b, c := c, a := a, addr := fun _ u v i => u + BitVec.ofNat 64 i * v }
  | .vldg x a b c => some { x := x, b := b, a := a, index := [c], addr := fun w u _ i => u + BitVec.ofInt 64 (num 32 true (laneOf w i 32)) }
  | _ => none

/-- The vector stores. -/
def vectorStore : Instr → Option VecAccess
  | .vst x a b n => some { x := x, b := b, a := a, addr := fun _ u _ i => u + 64 * n + BitVec.ofNat 64 (i * laneBytes x) }
  | .vsts x a b c => some { x := x, b := b, c := c, a := a, addr := fun _ u v i => u + BitVec.ofNat 64 i * v }
  | .vstg x a b c => some { x := x, b := b, a := a, index := [c], addr := fun w u _ i => u + BitVec.ofInt 64 (num 32 true (laneOf w i 32)) }
  | _ => none

/-- The sum of an element of a row with the element of its operand (R311). -/
def rowSum (x : Pre) (st : Ty) (old operand : Nat) : RoundRes :=
  let d := fty x
  let u := unpackF (ffmt d) x.ftzi old
  let v := unpackF (ffmt st) x.ftzi operand
  let r := addX (x.rnd == .rdn) u.1 v.1
  deliver (ffmt d) (ctlOf x) r.1 (r.2 ||| sigFlags [u.2, v.2])

/-- The doublewords of a lane as `YST` writes them (R221). -/
def yBytes (l : YLane) (o : Nat) : Nat :=
  if o < 0x18 then if 32 * (o / 4) < l.len then l.known.toNat / 2 ^ (160 - 32 * (o / 4)) / 256 ^ (o % 4) % 256 else 0
  else if o < 0x1E then l.index.toNat / 256 ^ (o - 0x18) % 256
  else if o = 0x1E then l.len
  else l.slot.val + (if l.exh then 8 else 0)

/-! ## Matrix engine (R354, R355, R357 to R360) -/

/-- Element `k` of a line of elements of `w` bits. -/
def elem (line w k : Nat) : Nat := line / 2 ^ (k * w) % 2 ^ w

/-- The address of a row of a matrix access: the base and so many strides (R354). -/
def rowAt (p line : Word) (n : Nat) : Word := p + BitVec.ofNat 64 n * BitVec.ofInt 64 (num 32 true (line.toNat % 2 ^ 32))

/-- The exact sum of the products of elements 0 to `n` with its flags; a NaN operand sets NV (R190, R199). -/
def exactDot (rdn : Bool) (a b : Nat → XV × Bool) : Nat → XV × Flags
  | 0 => product 0
  | n + 1 =>
    let s := exactDot rdn a b n
    let p := product (n + 1)
    let r := addX rdn s.1 p.1
    (r.1, s.2 ||| p.2 ||| r.2)
where
  /-- one product -/
  product (k : Nat) : XV × Flags :=
    let p := mulX (a k).1 (b k).1
    (p.1, p.2 ||| (match p.1 with | .nan => flagNV | _ => 0) ||| sigFlags [(a k).2, (b k).2])

/-- A value added to an accumulator lane, or put over it, and rounded once (R199, R360). -/
def into (x : Pre) (ow : Bool) (lane : Nat) (v : XV × Flags) : Nat × Flags :=
  if ow then (deliver fmtF32 (ctlOf x) v.1 v.2).get
  else
    let z := unpackF fmtF32 x.ftzi (lane % 2 ^ 32)
    let r := addX (x.rnd == .rdn) v.1 z.1
    (deliver fmtF32 (ctlOf x) r.1 (v.2 ||| r.2 ||| sigFlags [z.2])).get

/-- The floating multiply-accumulates: prefixes, accumulator, slots, the types of A and B, the depth, the cycles, and whether the
accumulator is overwritten (R359). -/
def mmaFloat : Instr → Option (Pre × ZReg × OReg × OReg × Ty × Ty × Nat × Nat × Bool)
  | .mmaBf x a b c => some (x, a, b, c, .bf16, .bf16, 64, 128, false)
  | .mmaBfOw x a b c => some (x, a, b, c, .bf16, .bf16, 64, 128, true)
  | .mmaHf x a b c => some (x, a, b, c, .f16, .f16, 64, 128, false)
  | .mmaHfOw x a b c => some (x, a, b, c, .f16, .f16, 64, 128, true)
  | .mmaF32 x a b c => some (x, a, b, c, .f32, .f32, 32, 256, false)
  | .mmaF32Ow x a b c => some (x, a, b, c, .f32, .f32, 32, 256, true)
  | .mmaE4 x a b c => some (x, a, b, c, .e4m3, .e4m3, 128, 128, false)
  | .mmaE4Ow x a b c => some (x, a, b, c, .e4m3, .e4m3, 128, 128, true)
  | .mmaE5 x a b c => some (x, a, b, c, .e5m2, .e5m2, 128, 128, false)
  | .mmaE5Ow x a b c => some (x, a, b, c, .e5m2, .e5m2, 128, 128, true)
  | .mmaE45 x a b c => some (x, a, b, c, .e4m3, .e5m2, 128, 128, false)
  | .mmaE45Ow x a b c => some (x, a, b, c, .e4m3, .e5m2, 128, 128, true)
  | _ => none

/-- The scaled multiply-accumulates: prefixes, accumulator, slots, the register of scale words, the widths of the codes of A and
B, and whether the accumulator is overwritten (R200, R359). -/
def mmaScaled : Instr → Option (Pre × ZReg × OReg × OReg × Fin 16 × Nat × Nat × Bool)
  | .mmaQ8 x a b c d => some (x, a, b, c, d, 8, 8, false)
  | .mmaQ8Ow x a b c d => some (x, a, b, c, d, 8, 8, true)
  | .mmaQ4q8 x a b c d => some (x, a, b, c, d, 4, 8, false)
  | .mmaQ4q8Ow x a b c d => some (x, a, b, c, d, 4, 8, true)
  | .mmaQ4 x a b c d => some (x, a, b, c, d, 4, 4, false)
  | .mmaQ4Ow x a b c d => some (x, a, b, c, d, 4, 4, true)
  | _ => none

/-- Fields of a block scale word (R194): G, and the zero point. -/
def scaleGroup (w : Nat) : Nat := 32 * 2 ^ (w / 2 ^ 24 % 4)
def scalePoint (w : Nat) : Int := num 8 true (w / 2 ^ 16 % 2 ^ 8)

/-- Two scale words for codes of these widths are in error (R195). -/
def scalesBad (wa wb a b : Nat) : Prop :=
  a / 2 ^ 26 ≠ 0 ∨ b / 2 ^ 26 ≠ 0 ∨ a / 2 ^ 24 % 4 = 3 ∨ b / 2 ^ 24 % 4 = 3 ∨ a / 2 ^ 24 % 4 ≠ b / 2 ^ 24 % 4 ∨
  (wa = 4 ∧ ¬(0 ≤ scalePoint a ∧ scalePoint a ≤ 15)) ∨ (wb = 4 ∧ ¬(0 ≤ scalePoint b ∧ scalePoint b ≤ 15))

/-- The real factor of a code under its scale word: the code less the zero point, a `q8` code signed (R193). -/
def codeOf (w scale c : Nat) : Int := num w (w == 8) c - scalePoint scale

/-- The integer multiply-accumulates: prefixes, accumulator, slots, the register of signedness, the width of an element, and
whether the accumulator is overwritten (R359, R360). -/
def mmaInteger : Instr → Option (Pre × ZReg × OReg × OReg × Fin 16 × Nat × Bool)
  | .mmaI8 x a b c d => some (x, a, b, c, d, 8, false)
  | .mmaI8Ow x a b c d => some (x, a, b, c, d, 8, true)
  | .mmaI4 x a b c d => some (x, a, b, c, d, 4, false)
  | .mmaI4Ow x a b c d => some (x, a, b, c, d, 4, true)
  | _ => none

end Sys2Proof.Claims
end

