-- ==== Sys2Proof/Certificates/Slice0/Obligations.lean ====
section
/-!
DEFINITION. The statements for the provers.
-/
open Sys2Proof Sys2Proof.Machine

/-! ## Encodings -/

/-- Words written out from R250 to R268 decode to the instructions they stand for: `NOP`, `DIV s3, s4, s5` and its form
`DIVN`, `RET` (R268), `LI` with its three immediate prefixes, and `MIN`, whose page prefix precedes its word. -/
def Obligations.WrittenWordsDecode : Prop :=
  decode [0x0400] = .ok (.nop {}, []) ∧
  decode [0x2DCA] = .ok (.div {} 3 4 5, []) ∧
  decode [0x2DCB] = .ok (.divn {} 3 4 5, []) ∧
  decode [0xE300, 0xBF80] = .ok (.jr {} 31 0, []) ∧
  decode [0xE410, 0xE400, 0xE400, 0x50C0] = .ok (.li {} 1 0x80000040, []) ∧
  decode [0xE840, 0x0DCA] = .ok (.min {} 3 4 5, [])

/-- For every well-formed instruction, with every operand at every value that the encoding admits, decoding its words gives it
back and leaves what follows them (R249 to R261, R265). -/
def Obligations.DecodeEncode : Prop :=
  ∀ (i : Instr) (ws : List Half), i.wf = true → decode (encode i ++ ws) = .ok (i, ws)

/-- A word with opcode 63, a fifth prefix word, a fourth XI and a second XR, XP, XW, XM, XT or XS are no instruction, whatever
follows (R253, R254, R261). -/
def Obligations.BadChainsRefused : Prop :=
  ∀ (w : Half) (ws : List Half),
    (w.toNat / 1024 = 63 → decode (w :: ws) = .error .reservedPrefix) ∧
    (∀ ch : Chain, ch.n = 4 → 56 ≤ w.toNat / 1024 → w.toNat / 1024 ≠ 63 →
      decodeChain ch (w :: ws) = .error .tooManyPrefixes) ∧
    (∀ ch : Chain, ch.n < 4 → ch.k = 3 → w.toNat / 1024 = 57 → decodeChain ch (w :: ws) = .error .tooManyPrefixes) ∧
    (∀ ch : Chain, ch.n < 4 → ch.xr.isSome = true → w.toNat / 1024 = 56 →
      decodeChain ch (w :: ws) = .error .repeatedPrefix) ∧
    (∀ ch : Chain, ch.n < 4 →
      (ch.xp.isSome = true ∧ w.toNat / 1024 = 58 ∨ ch.xw.isSome = true ∧ w.toNat / 1024 = 59 ∨
        ch.xm.isSome = true ∧ w.toNat / 1024 = 60 ∨ ch.xt.isSome = true ∧ w.toNat / 1024 = 61 ∨
        ch.xs.isSome = true ∧ w.toNat / 1024 = 62) →
      decodeChain ch (w :: ws) = .error .repeatedPrefix)

/-! ## Steps -/

/-- A thread set of a core whose turn has come, when it is the one that has gone longest without issuing of those that can issue
(R167), no flit or event comes first, and the words at its program counter are fetched as a well-formed instruction: the step
executes that instruction with the latch set, charges and records it (R72, R243), and time passes. An access of it that an arbiter
puts behind another does not come to pass in this step (R55). How turns come round is the model's choice (assumption log 2). -/
def Obligations.StepRunsDecoded : Prop :=
  ∀ (s : State) (core : Nat) (ts us : Fin 4) (r : List (Nat × Fin 4)) (pre l : List (Fin 4)) (i : Instr) (next : BitVec 16)
    (ws : List Half) (t : State),
    let t0 := s.thread core ts
    let s0 := { s with fetch := none, touched := [], runq := if (s.thread core us).live then r ++ [(core, us)] else r }
    let s1 := { s0.clearHeld core with fetch := some ⟨core, ts, t0.pc, next, ws, none⟩ }
    let z := s1.afterIssue (t.dropAsk (core, ts.val)) i
    s.agenda = [] → s.turn % 2 = 0 → s.dueFlit = none → s.runq = (core, us) :: r →
    s.byAge core = pre ++ ts :: l → (∀ v ∈ pre, s0.tryTurn core v = none) →
    t0.live = true → t0.alone = true → t0.inh = false → t0.pc ≠ exitAddress → (t0.stopReq && !t0.phand) = false →
    s0.dueTrap core ts = none → s0.dueHolds core ts = false → s0.droopHolds core = false → s0.energyHeld core = false →
    s0.fetchAt core false t0.pc = .instr i next ws →
    exec i s1 = .next t →
    (t.touched = [] ∨ s1.outranked s1.wants (s1.newAsk (core, ts.val) core t.touched) = false) →
    s1.hasActed z core ts = true →
    step s = .next (z.noteIssue core ts).tick

/-- The device never stops: every state has a next state, in which no instruction is at issue. An instruction that no thread
issues faults, and no instruction with a thread does: the only fault of the machine. Every event answers a next state. All of it
is the model's own choice (assumption log 1): the spec describes what threads issue (R267) and events do, and no step of the
device. -/
def Obligations.StepAnswersNext : Prop :=
  (∀ s : State, ∃ t, step s = .next t ∧ t.fetch = none) ∧
  (∀ (i : Instr) (s : State), isEvent i = false →
    (s.fetch = none → exec i s = .fault .noThread) ∧ (s.fetch ≠ none → ∃ t, exec i s = .next t)) ∧
  (∀ (i : Instr) (s : State), isEvent i = true → ∃ t, exec i s = .next t)

/-! ## Scalar results -/

/-- The register instructions of R269 and R273 without flags, and the immediate forms of R271 and R274: the destination takes the
result, the program counter goes on as the loop rule says, and nothing else changes. -/
def Obligations.IntegerResults : Prop :=
  (∀ (s : State) (k : Ctx) (i : Instr) (x : Pre) (a b c : SReg) (f : Word → Word → Word),
    Claims.alu i = some (x, a, b, c, f) → s.Issues k x → s.plain k a → s.plain k b → s.plain k c →
    exec i s = .next (s.retires k .next (·.setS a (f (s.sreg k b) (s.sreg k c))))) ∧
  (∀ (s : State) (k : Ctx) (i : Instr) (x : Pre) (a b : SReg) (f : Word → Word),
    Claims.aluImm i = some (x, a, b, f) → i.wf = true → s.Issues k x → s.plain k a → s.plain k b →
    exec i s = .next (s.retires k .next (·.setS a (f (s.sreg k b)))))

/-- `PCADDR` (R284): the destination takes (addr + 2 × i) mod 2^16, zero-extended, and nothing else changes. -/
def Obligations.PcaddrResult : Prop :=
  ∀ (s : State) (k : Ctx) (x : Pre) (a : SReg) (i : Word), s.Issues k x → s.plain k a →
    exec (.pcaddr x a i) s = .next (s.retires k .next (·.setS a
      (BitVec.ofNat 64 (((k.addr.toInt + 2 * i.toInt) % 2 ^ 16).toNat))))

/-- `LI` (R272), `SEL` (R273), `ADDV` and `SUBV` (R269), which trap with cause 0x06 and change no register when the signed result
lies outside 64 bits, and `CLZ`, `CTZ` and `POPC` (R269): the zero bits above the highest 1 or below the lowest 1, 64 of them
for 0, and the number of 1 bits. -/
def Obligations.OtherIntegerResults : Prop :=
  (∀ (s : State) (k : Ctx) (x : Pre) (a b c : SReg) (d : Fin 16) (i : Word), s.Issues k x → s.plain k a →
    exec (.li x a i) s = .next (s.retires k .next (·.setS a i)) ∧
    (s.plain k b → s.plain k c → s.plain k (d.castLE (by decide)) →
      exec (.sel x a b c d) s = .next (s.retires k .next
        (·.setS a (if s.sreg k (d.castLE (by decide)) ≠ 0 then s.sreg k b else s.sreg k c))))) ∧
  (∀ (s : State) (k : Ctx) (x : Pre) (a b c : SReg), s.Issues k x → s.plain k a → s.plain k b → s.plain k c →
    let u := (s.sreg k b).toInt
    let v := (s.sreg k c).toInt
    (-(2 ^ 63) ≤ u + v ∧ u + v < 2 ^ 63 →
      exec (.addv x a b c) s = .next (s.retires k .next (·.setS a (BitVec.ofInt 64 (u + v))))) ∧
    (¬(-(2 ^ 63) ≤ u + v ∧ u + v < 2 ^ 63) → exec (.addv x a b c) s = .next (s.traps k 0x06 0)) ∧
    (-(2 ^ 63) ≤ u - v ∧ u - v < 2 ^ 63 →
      exec (.subv x a b c) s = .next (s.retires k .next (·.setS a (BitVec.ofInt 64 (u - v))))) ∧
    (¬(-(2 ^ 63) ≤ u - v ∧ u - v < 2 ^ 63) → exec (.subv x a b c) s = .next (s.traps k 0x06 0))) ∧
  (∀ (s : State) (k : Ctx) (x : Pre) (a b : SReg), s.Issues k x → s.plain k a → s.plain k b →
    let u := s.sreg k b
    (∃ n : Nat, exec (.clz x a b) s = .next (s.retires k .next (·.setS a (BitVec.ofNat 64 n))) ∧ n ≤ 64 ∧
      (∀ j, 64 ≤ j + n → u.getLsbD j = false) ∧ (n < 64 → u.getLsbD (63 - n) = true)) ∧
    (∃ n : Nat, exec (.ctz x a b) s = .next (s.retires k .next (·.setS a (BitVec.ofNat 64 n))) ∧ n ≤ 64 ∧
      (∀ j, j < n → u.getLsbD j = false) ∧ (n < 64 → u.getLsbD n = true)) ∧
    exec (.popc x a b) s = .next (s.retires k .next
      (·.setS a (BitVec.ofNat 64 ((List.range 64).filter fun j => u.getLsbD j).length))))

/-- The divisions (R269, R270): truncated quotients and remainders of the dividend's sign; a divisor of 0 gives all ones or
the dividend and sets DZ, and no other flag changes. -/
def Obligations.DivisionResults : Prop :=
  ∀ (s : State) (k : Ctx) (i : Instr) (x : Pre) (a b c : SReg) (f : Word → Word → Word),
    Claims.division i = some (x, a, b, c, f) → s.Issues k x → s.plain k a → s.plain k b → s.plain k c →
    exec i s = .next (s.retires k .next fun t =>
      { t.setS a (f (s.sreg k b) (s.sreg k c)) with
        fpflags := if s.sreg k c = 0 then t.fpflags ||| flagDZ else t.fpflags })

/-! ## Scalar floating point (R289 to R293) -/

/-- The floating instructions and conversions under every rounding mode but SR (R290 to R292): the destination takes the rounded
result, a signed integer sign-extended and every other result zero-extended, the sticky flags gather the flags of R188, and
nothing else changes. -/
def Obligations.FloatResults : Prop :=
  (∀ (s : State) (k : Ctx) (i : Instr) (x : Pre) (a b c : SReg) (f : Word → Word → Word → Nat × Flags),
    Claims.float i = some (x, a, b, c, f) → x.rnd ≠ .sr → s.Issues k x → s.plain k a → s.plain k b → s.plain k c →
    let r := f (s.sreg k b) (s.sreg k c) (s.sreg k a)
    exec i s = .next (s.retires k .next fun t => { t.setS a (BitVec.ofNat 64 r.1) with fpflags := t.fpflags ||| r.2 })) ∧
  (∀ (s : State) (k : Ctx) (i : Instr) (x : Pre) (a b : SReg) (st dt : Ty) (f : Ty → Ty → Bool → Ctl → Nat → RoundRes),
    Claims.conversion i = some (x, a, b, st, dt, f) → x.rnd ≠ .sr → s.Issues k x → s.plain k a → s.plain k b →
    let r := (f st dt x.ftzi (ctlOf x) ((s.sreg k b).toNat % 2 ^ st.width)).get
    exec i s = .next (s.retires k .next fun t =>
      { t.setS a (if dt.isFloat then BitVec.ofNat 64 r.1 else extendTy dt r.1) with fpflags := t.fpflags ||| r.2 }))

/-- `BSADD` and `BSCVT` (R293) on plain registers: pair 0 reads as 0, and the pair sum goes to the destination pair. That a
destination pair 0 writes `s1` alone is the model's choice (assumption log 34). -/
def Obligations.BlockSums : Prop :=
  ∀ (s : State) (k : Ctx) (x : Pre) (a b c : SReg), s.Issues k x →
    s.plain k a → s.plain k (pairHigh a) → s.plain k b → s.plain k (pairHigh b) → s.plain k c → s.plain k (pairHigh c) →
    let pair (n : SReg) : Int × Int := if n = 0 then (0, 0) else ((s.sreg k n).toInt, sextInt (s.sreg k (pairHigh n)).toNat 32)
    let r := bsAdd (pair b).1 (pair b).2 (pair c).1 (pair c).2
    let q := bsCvt (pair b).1 (pair b).2
    exec (.bsadd x a b c) s = .next (s.retires k .next fun t =>
      { (t.setS a (BitVec.ofInt 64 r.1)).setS (pairHigh a) (BitVec.ofInt 64 r.2.1) with fpflags := t.fpflags ||| r.2.2 }) ∧
    exec (.bscvt x a b) s = .next (s.retires k .next fun t =>
      { t.setS a (BitVec.ofNat 64 q.1) with fpflags := t.fpflags ||| q.2 })

/-! ## Transfers of control (R278 to R284) -/

/-- The conditional branches (R278) go to the relative target when the condition holds and else to the next instruction; `B`,
`JMP`, `CALL`, `JR` and `CALLR` to an even target (R279, R280), the calls with a link to the next instruction; an odd target traps
with 0x08 and no link is written (R281). -/
def Obligations.TransferResults : Prop :=
  (∀ (s : State) (k : Ctx) (i : Instr) (x : Pre) (a b : SReg) (imm : Word) (p : Word → Word → Bool),
    Claims.branch i = some (x, a, b, imm, p) → s.Issues k x → s.plain k a → s.plain k b → k.addr.getLsbD 0 = false →
    exec i s = .next (s.retires k (if p (s.sreg k a) (s.sreg k b) then .jump (Claims.relative k imm) else .next) id)) ∧
  (∀ (s : State) (k : Ctx) (x : Pre) (a : SReg) (i : Word), s.Issues k x → k.addr.getLsbD 0 = false →
    let link (t : Thread) : Thread := t.setS 31 (k.next.setWidth 64)
    exec (.b x i) s = .next (s.retires k (.jump (Claims.relative k i)) id) ∧
    (i.getLsbD 0 = false → exec (.jmp x i) s = .next (s.retires k (.jump (i.setWidth 16)) id)) ∧
    (s.plain k 31 → exec (.call x i) s = .next (s.retires k (.call (Claims.relative k i)) link)) ∧
    (s.plain k a → (Claims.based (s.sreg k a) i).getLsbD 0 = false →
      exec (.jr x a i) s = .next (s.retires k (.jump (Claims.based (s.sreg k a) i)) id) ∧
      (s.plain k 31 → exec (.callr x a i) s = .next (s.retires k (.call (Claims.based (s.sreg k a) i)) link)))) ∧
  (∀ (s : State) (k : Ctx) (x : Pre) (a : SReg) (i : Word), s.Issues k x →
    (i.getLsbD 0 = true → exec (.jmp x i) s = .next (s.traps k 0x08 0)) ∧
    (s.plain k a → (Claims.based (s.sreg k a) i).getLsbD 0 = true →
      exec (.jr x a i) s = .next (s.traps k 0x08 0) ∧ exec (.callr x a i) s = .next (s.traps k 0x08 0)))

/-- `JMPF` and `CALLF` (R280): they wait for a fetch of the target's segment, trap with 0x05 when the segment is invalid, or
with the cause of the fetch that failed, and otherwise act as `JR` and `CALLR`: an odd target traps with 0x08 (R281). -/
def Obligations.CheckedTransfers : Prop :=
  ∀ (s : State) (k : Ctx) (x : Pre) (a : SReg) (i : Word), s.Issues k x → s.plain k a →
    let t := Claims.based (s.sreg k a) i
    let g : Fin 16 := ⟨t.toNat / 4096, by omega⟩
    let c := s.core k.core
    (c.segFetch[g] ≠ 0 → exec (.jmpf x a i) s = .next (s.held k) ∧ exec (.callf x a i) s = .next (s.held k)) ∧
    (c.segFetch[g] = 0 → c.segValid.getLsbD g.val = false →
      let e := (c.segFail[g]).getD (0x05, 0)
      exec (.jmpf x a i) s = .next (s.traps k e.1 e.2) ∧ exec (.callf x a i) s = .next (s.traps k e.1 e.2)) ∧
    (c.segFetch[g] = 0 → c.segValid.getLsbD g.val = true → t.getLsbD 0 = true →
      exec (.jmpf x a i) s = .next (s.traps k 0x08 0) ∧ exec (.callf x a i) s = .next (s.traps k 0x08 0)) ∧
    (c.segFetch[g] = 0 → c.segValid.getLsbD g.val = true → t.getLsbD 0 = false →
      exec (.jmpf x a i) s = .next (s.retires k (.jump t) id) ∧
      (s.plain k 31 → exec (.callf x a i) s = .next (s.retires k (.call t) (·.setS 31 (k.next.setWidth 64)))))

/-- `LOOP` (R282): an end that is not after the next instruction traps with 0x01, a count of 0 goes on at the end, and any other
count starts the loop. The loop rule (R282, R283): an instruction that ends the body without a taken transfer goes back to the
start and counts down while more than one iteration remains, and else clears the state and goes on; a jump from the body to
outside clears the state, and a call keeps it. -/
def Obligations.LoopResults : Prop :=
  (∀ (s : State) (k : Ctx) (x : Pre) (a : SReg) (i : Word), s.Issues k x → s.plain k a →
    let stop := Claims.relative k i
    (stop.toNat ≤ k.next.toNat → exec (.loop x a i) s = .next (s.traps k 0x01 0)) ∧
    (k.next.toNat < stop.toNat → s.sreg k a = 0 → exec (.loop x a i) s = .next (s.retires k (.call stop) id)) ∧
    (k.next.toNat < stop.toNat → s.sreg k a ≠ 0 →
      exec (.loop x a i) s = .next (s.retires k .next fun t => { t with loop := some ⟨k.next, stop, s.sreg k a⟩ }))) ∧
  (∀ (t : Thread) (addr next u : BitVec 16) (l : LoopState), t.loop = some l →
    (l.stop = next → 1 < l.remaining.toNat →
      t.follow addr next .next = { t with pc := l.start, loop := some { l with remaining := l.remaining - 1 } }) ∧
    (l.stop = next → l.remaining.toNat ≤ 1 → t.follow addr next .next = { t with pc := next, loop := none }) ∧
    (l.stop ≠ next → t.follow addr next .next = { t with pc := next }) ∧
    (l.start.toNat ≤ addr.toNat ∧ addr.toNat < l.stop.toNat → ¬(l.start.toNat ≤ u.toNat ∧ u.toNat < l.stop.toNat) →
      t.follow addr next (.jump u) = { t with pc := u, loop := none }) ∧
    (¬(l.start.toNat ≤ addr.toNat ∧ addr.toNat < l.stop.toNat) → t.follow addr next (.jump u) = { t with pc := u }) ∧
    (l.start.toNat ≤ u.toNat ∧ u.toNat < l.stop.toNat → t.follow addr next (.jump u) = { t with pc := u }) ∧
    t.follow addr next (.call u) = { t with pc := u })

/-! ## Taking a trap and returning (R224 to R230, R286, R287) -/

/-- Taking a trap outside the resident handler (R226, R227): `EPC`, `CAUSE`, `EINFO` and `ESTAT` are set, fetch goes on at
0x0020, and no other register, no other thread and no memory changes. An exact trap while the resident handler runs ends the
crew with 0x09 (R228): every thread stops, the engines' commands are discarded, `EINFO` holds the cause that was not taken, and
the crew reports error bit 0. -/
def Obligations.TrapTaken : Prop :=
  (∀ (s : State) (core : Nat) (ts : Fin 4) (cause : BitVec 8) (info : Word) (epc : BitVec 16),
    (s.thread core ts).inh = false →
    let t := s.thread core ts
    let z := s.exactTrap core ts cause info epc
    let u := z.thread core ts
    u.epc = epc ∧ u.cause = cause ∧ u.einfo = info ∧ u.pc = 0x0020 ∧ u.inh = true ∧ u.phand = t.phand ∧
    u.estat.getLsbD 10 = t.due.more ∧ u.estat.getLsbD 11 = false ∧ u.estat.extractLsb' 48 16 = 0 ∧
    u.estat.extractLsb' 12 36 = 0 ∧ u.estat.extractLsb' 0 8 = 0 ∧
    (∀ n : SReg, u.s[n] = t.s[n]) ∧ (∀ n : VReg, u.v[n] = t.v[n]) ∧ (∀ n : KReg, u.k[n] = t.k[n]) ∧
    (∀ n : YReg, u.y[n] = t.y[n]) ∧ u.m = t.m ∧ u.q = t.q ∧ u.ss = t.ss ∧ u.sv = t.sv ∧ u.loop = t.loop ∧
    u.drawctr = t.drawctr ∧ u.fpflags = t.fpflags ∧ u.yxcyc = t.yxcyc ∧ u.yexh = t.yexh ∧
    z.mem = s.mem ∧ (∀ c us, (c, us) ≠ (core, ts) → z.thread c us = s.thread c us)) ∧
  (∀ (s : State) (core : Nat) (ts : Fin 4) (cause : BitVec 8) (info : Word) (epc : BitVec 16),
    (s.thread core ts).inh = true →
    let z := s.exactTrap core ts cause info epc
    (∀ us, (z.thread core us).live = false) ∧ (z.core core).vq = [] ∧ (z.core core).mq = [] ∧ (z.core core).copyq = [] ∧
    (z.thread core ts).einfo = cause.setWidth 64 ∧
    (∀ w, (s.core core).crew = some w → ∃ q, (z.core core).crew = some q ∧ q.errors = w.errors ||| 1 ∧ q.clean = false ∧
      (w.errors = 0 → q.cause = 0x09)))

/-- `NOP` has no effect but its prefixes: with XW it waits until its queue has enough slots; `ILL` traps exactly with 0x01 whatever
its immediate, and is encoded as 0x0000 (R288). -/
def Obligations.NopAndIll : Prop :=
  (∀ (s : State) (k : Ctx) (x : Pre) (i : Word), s.Issues k x →
    exec (.nop x) s = .next (s.retires k .next id) ∧ exec (.ill x i) s = .next (s.traps k 0x01 0)) ∧
  (∀ (s : State) (k : Ctx) (x : Pre) (w : Wait) (q : QCopy), s.fetch = some k → (s.thread k.core k.ts).alone = true →
    x.wait = some w → s.queue k w.queue = some q → s.waitOver k x = false → exec (.nop x) s = .next (s.held k)) ∧
  encode (.ill {} 0) = [0x0000] ∧ decode [0x0000] = .ok (.ill {} 0, [])

/-- `TRAP #n` raises cause 0xE0 + n and `BRK` raises 0x07, each with `EPC` naming the next instruction, which at the end of a
loop's body the loop rule decides (R283, R286, R326). `ERET` (R230, R287) goes to `EPC`; from the resident handler it clears `inh`
and keeps `phand`, giving the program handler back what the system action saved, from the program handler it clears `phand`, and
outside both it traps with 0x02. -/
def Obligations.TrapAndReturn : Prop :=
  (∀ (s : State) (k : Ctx) (x : Pre) (n : Word), s.Issues k x →
    let z := s.unpopped.retire k .next
    (n.toNat < 32 →
      exec (.trap x n) s = .next (z.exactTrap k.core k.ts (BitVec.ofNat 8 (0xE0 + n.toNat)) 0 (z.own k).pc)) ∧
    exec (.brk x n) s = .next (z.exactTrap k.core k.ts 0x07 0 (z.own k).pc)) ∧
  (∀ (s : State) (k : Ctx) (x : Pre), s.Issues k x →
    ((s.own k).inh = false → (s.own k).phand = false → exec (.eret x) s = .next (s.traps k 0x02 0)) ∧
    ((s.own k).inh = true ∨ (s.own k).phand = true → ∃ t, exec (.eret x) s = .next t ∧
      (t.own k).pc = (s.own k).epc ∧ (t.own k).inh = false ∧ (t.own k).loop = (s.own k).loop ∧
      ((s.own k).inh = false → (t.own k).phand = false ∧ (t.own k).epc = (s.own k).epc) ∧
      ((s.own k).inh = true → (s.own k).saved = none → (t.own k).phand = (s.own k).phand ∧ (t.own k).epc = (s.own k).epc) ∧
      (∀ e c i st, (s.own k).inh = true → (s.own k).saved = some (e, c, i, st) →
        (t.own k).epc = e ∧ (t.own k).cause = c ∧ (t.own k).einfo = i ∧ (t.own k).phand = st.getLsbD 9) ∧
      (t.own k).s = (s.own k).s ∧ t.mem = s.mem))

/-- The resident handler on a trap of disposition P or E (R225, R229): control passes to the program handler with `phand` 1 and
`inh` 0 when the task has one and `phand` is 0, and otherwise the crew ends with the cause. The dispositions are those of R224:
system for 0xA0 to 0xA5, the end of the crew for 0x09, 0xC0 to 0xC5 and 0xC7 to 0xC9, the program handler for the other causes. -/
def Obligations.ResidentHandler : Prop :=
  (∀ (s : State) (core : Nat) (ts : Fin 4),
    let t := s.thread core ts
    let z := s.handler core ts
    (dispOf t.cause = .ends → z = s.endCrew core (errorBit t.cause) t.cause) ∧
    (dispOf t.cause = .program → t.phand = true → z = s.endCrew core (errorBit t.cause) t.cause) ∧
    (∀ q a, dispOf t.cause = .program → t.phand = false → s.taskOf core = some q → q.image.ktrap = some a →
      (z.thread core ts).pc = a ∧ (z.thread core ts).phand = true ∧ (z.thread core ts).inh = false ∧
      (z.thread core ts).epc = t.epc ∧ (z.thread core ts).cause = t.cause ∧ (z.thread core ts).einfo = t.einfo ∧
      (z.thread core ts).s = t.s) ∧
    (∀ q, dispOf t.cause = .program → s.taskOf core = some q → q.image.ktrap = none →
      z = s.endCrew core (errorBit t.cause) t.cause)) ∧
  (∀ c : BitVec 8,
    (dispOf c = .system ↔ 0xA0 ≤ c.toNat ∧ c.toNat ≤ 0xA5) ∧
    (dispOf c = .ends ↔ c = 0x09 ∨ (0xC0 ≤ c.toNat ∧ c.toNat ≤ 0xC9 ∧ c ≠ 0xC6)))

/-- Events due at one boundary are taken one at a time in the order of R228, each with `EPC` naming the next instruction, and
none while the resident handler runs. A late fault carries `late` and its sequence number (R227, R231). R228 does not place a lost
gang member: that it comes first is the model's choice (assumption log 79).
Trap events (R159, R225, R231, R238): a late fault, a scope miss and a lost gang member are taken at the boundary with their
cause, information and the next instruction in `EPC`; a machine check ends the crew with error bit 1 and its code. -/
def Obligations.BoundaryEvents : Prop :=
  (∀ (s : State) (core : Nat) (ts : Fin 4),
    let t := s.thread core ts
    let d := t.due
    let takes (cause : BitVec 8) (info : Word) : Prop :=
      ∃ z, s.dueTrap core ts = some z ∧ (z.thread core ts).cause = cause ∧ (z.thread core ts).einfo = info ∧
        (z.thread core ts).epc = t.pc ∧ (z.thread core ts).pc = 0x0020 ∧ (z.thread core ts).inh = true
    (t.inh = true → s.dueTrap core ts = none) ∧
    (t.inh = false → d.lost = none →
      (∀ f r, d.lates = f :: r → t.matWait = false → s.engaged core ts = false → s.dueNow core ts f.cause = true →
        takes f.cause f.info ∧ ∀ z, s.dueTrap core ts = some z →
          (z.thread core ts).estat.getLsbD 11 = true ∧ (z.thread core ts).estat.extractLsb' 48 16 = f.seq) ∧
      (d.lates = [] →
        (∀ f r, d.stales = f :: r → s.dueNow core ts f.cause = true → takes f.cause f.info) ∧
        (d.stales = [] →
          (d.switchOut = true → takes 0xA1 0) ∧
          (d.switchOut = false → d.preempt = true → takes 0xA0 0) ∧
          (d.switchOut = false → d.preempt = false → d.peerStopped = true → takes 0xA4 0) ∧
          (d.switchOut = false → d.preempt = false → d.peerStopped = false →
            (d.debug = true → s.ridgeOver core = true → takes 0xA3 0) ∧
            (d.debug = false → d.replay = true → s.ridgeOver core = true → takes 0xA5 0) ∧
            (d.debug = false → d.replay = false → d.reissues = [] → ∀ m r, d.misses = m :: r → takes 0xA2 m.addr) ∧
            (d.debug = false → d.replay = false → d.reissues = [] → d.misses = [] → s.dueTrap core ts = none)))))) ∧
  (∀ (s : State) (core : Fin 4096) (ts : Fin 4),
    let h := s.thread core ts
    let d := h.due
    let takes (i : Instr) (cause : BitVec 8) (info : Word) (late : Bool) : Prop := ∃ t, exec i s = .next t ∧
      (let z := t.thread core ts
       z.cause = cause ∧ z.einfo = info ∧ z.epc = h.pc ∧ z.pc = 0x0020 ∧ z.inh = true ∧ z.estat.getLsbD 11 = late ∧ z.s = h.s)
    (h.live = true → h.inh = false → d.lost = none →
      (d.lates = [] → exec (.lateFault core ts) s = .next s) ∧
      (∀ f r, d.lates = f :: r → h.matWait = false → s.engaged core ts = false → s.dueNow core ts f.cause = true →
        takes (.lateFault core ts) f.cause f.info true) ∧
      (d.misses = [] → exec (.scopeMiss core ts) s = .next s) ∧
      (∀ m r, d.misses = m :: r → d.lates = [] → d.stales = [] → d.switchOut = false → d.preempt = false →
        d.peerStopped = false → d.debug = false → d.replay = false → d.reissues = [] →
        takes (.scopeMiss core ts) 0xA2 m.addr false)) ∧
    (∀ rel, h.live = true → h.inh = false → d.lost = some rel → s.dueNow core ts 0xC6 = true →
      (∀ u : Fin 4, u ≠ ts → (s.thread core u).due.lost = none) →
      takes (.gangMemberLost core) 0xC6 (BitVec.ofNat 64 rel) false) ∧
    (∀ (code : BitVec 8) (w : Crew) (q : Task), (s.core core).crew = some w → s.taskOf core = some q →
      ((code.toNat < 0xC0 ∨ 0xC6 ≤ code.toNat ∧ code ≠ 0xC9) → exec (.machineCheck core code) s = .next s) ∧
      ((0xC0 ≤ code.toNat ∧ code.toNat ≤ 0xC5 ∨ code = 0xC9) → w.finished = false → s.inSwitch core = false →
        s.crewStopped core = false → ∃ t z, exec (.machineCheck core code) s = .next t ∧ (∀ u, (t.thread core u).live = false) ∧
          (t.core core).vq = [] ∧ (t.core core).mq = [] ∧ (t.core core).crew = some z ∧ z.errors = w.errors ||| 2 ∧
          z.clean = false ∧ (w.errors = 0 → z.cause = code) ∧ t.mem = s.mem)))

/-! ## Loads, stores and atomics (R101, R103, R275 to R277, R301 to R303) -/

/-- A load whose access passes its checks at once gives its register the bytes of the place, as its thread sees them, sign- or
zero-extended, and stores nothing (R275); the own scratchpad, banks and global memory alike. A `strong` load waits until the
thread's own stores to those bytes have landed, so that it is satisfied at their home (R158).
A load from the own scratchpad below the system block (R101): aligned, it reads the bytes there. -/
def Obligations.LoadResults : Prop :=
  (∀ (s : State) (k : Ctx) (i : Instr) (x : Pre) (a b : SReg) (imm : Word) (n : Nat) (signed : Bool) (acc : Access) (s1 : State),
    Claims.load i = some (x, a, b, imm, n, signed) → s.Issues k x → s.plain k a → s.plain k b →
    let ea := s.sreg k b + imm
    s.unpopped.access k.core ea n n false (sysAccess k (s.own k)) = .ok (acc, s1) →
    s.acquiring k.core k.ts = false → s.strongHolds k x acc n = false → s.portHeld k acc.place = false →
    s1.lapCheckAt k.core acc.place n = .plain →
    let v := leNat (s1.seenBytes k.core k.ts acc.loc n)
    exec i s = .next (((((s1.debitAccess k ea acc.place n).touch k.core acc).missed k.core k.ts x 0 ea n 0 acc.scope).modThread k.core k.ts
      (·.setS a (if signed then BitVec.ofInt 64 (sextInt v (8 * n)) else BitVec.ofNat 64 v))).retire k .next)) ∧
  (∀ (s : State) (k : Ctx) (i : Instr) (x : Pre) (a b : SReg) (imm : Word) (n : Nat) (signed : Bool) (acc : Access) (s1 : State),
    Claims.load i = some (x, a, b, imm, n, signed) → s.Issues k x → s.plain k a → s.plain k b →
    s.unpopped.access k.core (s.sreg k b + imm) n n false (sysAccess k (s.own k)) = .ok (acc, s1) →
    s.strongHolds k x acc n = true → exec i s = .next (s.held k)) ∧
  (∀ (s : State) (k : Ctx) (i : Instr) (x : Pre) (a b : SReg) (imm : Word) (n : Nat) (signed : Bool),
    Claims.load i = some (x, a, b, imm, n, signed) → s.Issues k x → s.plain k a → s.plain k b → s.mem.sram.wf = true →
    let ea := (s.sreg k b + imm).toNat
    ea < 0x3C000 → ea % n = 0 → s.acquiring k.core k.ts = false → s.lapCheck k.core ea n = .plain →
    s.storesOf k.core k.ts = [] →
    let v := leNat ((List.range n).map fun j => readByte s.mem.sram (padKey k.core + ea + j))
    ∃ t, exec i s = .next t ∧
      (t.own k).pc = ((s.own k).loopNext k.next).pc ∧ (t.own k).retired = (s.own k).retired + 1 ∧
      (∀ r : SReg, r ≠ 0 → (t.own k).s[r] = if r = a then
        (if signed then BitVec.ofInt 64 (sextInt v (8 * n)) else BitVec.ofNat 64 v) else (s.own k).s[r]) ∧
      (t.own k).v = (s.own k).v ∧ (t.own k).fpflags = (s.own k).fpflags ∧ (t.own k).epc = (s.own k).epc ∧
      t.mem = s.mem ∧ (∀ c u, (c, u) ≠ (k.core, k.ts) → t.thread c u = s.thread c u))

/-- A load or store whose access a check of R101 refuses traps exactly with that cause and the address, and changes no
register and no memory (R267, R277), and debits the class of its space (R72): misaligned addresses with 0x60. That a translation
made before a later check failed stays cached at its station (R104) is the model's choice (assumption log 18).
The order of the address checks (R101) on an access aligned to its size: a misaligned address traps with 0x60 whatever else is
wrong with it; a global address with reserved bits set with 0x64, a refused translation with its cause and a region that the core
may not write with 0x68, each before the checks after it; and a store that the core may not make to lap cells of its own scratchpad
traps with 0x68, one that it may make with 0x84. -/
def Obligations.AccessFaults : Prop :=
  (∀ (s : State) (k : Ctx) (i : Instr) (x : Pre) (a b : SReg) (imm : Word) (n : Nat) (e : BitVec 8), s.Issues k x →
    s.plain k a → s.plain k b →
    let ea := s.sreg k b + imm
    let refused (e : BitVec 8) : State := ((s.unpopped.walked (s.asidOf k.core) ea e).debitSpace k ea).exactTrap k.core k.ts e ea k.addr
    (∀ signed, Claims.load i = some (x, a, b, imm, n, signed) →
      s.unpopped.access k.core ea n n false (sysAccess k (s.own k)) = .error e → exec i s = .next (refused e)) ∧
    (Claims.store i = some (x, a, b, imm, n) →
      s.unpopped.access k.core ea n n true (sysAccess k (s.own k)) = .error e → exec i s = .next (refused e)) ∧
    (ea.toNat % n ≠ 0 → ∀ w, s.unpopped.access k.core ea n n w (sysAccess k (s.own k)) = .error 0x60)) ∧
  (∀ (s : State) (core : Nat) (a : Word) (n : Nat) (w : Bool) (t : Task), s.taskOf core = some t → n ∈ [1, 2, 4, 8] →
    let may := s.mayStore (s.taskNo core) (s.relOf core) (s.asidOf core)
    (a.toNat % n ≠ 0 → s.access core a n n w false = .error 0x60) ∧
    (a.toNat % n = 0 →
      (0x3C000 ≤ a.toNat → a.toNat < 0x40000 → s.access core a n n w false = .error 0x62) ∧
      (0x8000000000000000 ≤ a.toNat → a.toNat / 2 ^ 56 % 128 ≠ 0 → s.access core a n n w false = .error 0x64) ∧
      (0x40000 ≤ a.toNat → a.toNat < 0x100000000 → s.access core a n n w false = .error 0x61) ∧
      (0x100400000 ≤ a.toNat → a.toNat < 0x100C00000 → t.level < 3 → s.access core a n n w false = .error 0x63) ∧
      (0x8000000000000000 ≤ a.toNat → a.toNat / 2 ^ 56 % 128 = 0 →
        (∀ e, s.globalCell (s.asidOf core) a w = .error e → s.access core a n n w false = .error e) ∧
        (∀ r, s.globalCell (s.asidOf core) a w = .ok r → w = true → may a n = false →
          s.access core a n n w false = .error 0x68)) ∧
      (a.toNat < 0x3C000 → w = true →
        (may (s.absAddr core (.pad core a.toNat)) n = false → s.access core a n n w false = .error 0x68) ∧
        (may (s.absAddr core (.pad core a.toNat)) n = true → s.lapProtected core a.toNat n = true →
          s.access core a n n w false = .error 0x84))))

/-- A store to the own scratchpad writes the low bytes of its register, little-endian, at once when no earlier store of the thread
is under way, and no other byte of any memory, no register and no flag (R276, R153). -/
def Obligations.ScratchpadStore : Prop :=
  ∀ (s : State) (k : Ctx) (i : Instr) (x : Pre) (a b : SReg) (imm : Word) (n : Nat),
    Claims.store i = some (x, a, b, imm, n) → s.Issues k x → s.plain k a → s.plain k b → s.mem.sram.wf = true →
    let ea := (s.sreg k b + imm).toNat
    ea < 0x3C000 → ea % n = 0 → k.core < 4096 → s.acquiring k.core k.ts = false → s.lapProtected k.core ea n = false →
    s.storesOf k.core k.ts = [] →
    s.mayStore (s.taskNo k.core) (s.relOf k.core) (s.asidOf k.core) (s.absAddr k.core (.pad k.core ea)) n = true →
    ∃ t, exec i s = .next t ∧
      (t.own k).pc = ((s.own k).loopNext k.next).pc ∧ (t.own k).retired = (s.own k).retired + 1 ∧
      (t.own k).s = (s.own k).s ∧ (t.own k).v = (s.own k).v ∧ (t.own k).fpflags = (s.own k).fpflags ∧
      (∀ j, j < n → readByte t.mem.sram (padKey k.core + ea + j) = BitVec.ofNat 8 ((s.sreg k a).toNat / 256 ^ j)) ∧
      (∀ g, g < padKey k.core + ea ∨ padKey k.core + ea + n ≤ g → readByte t.mem.sram g = readByte s.mem.sram g) ∧
      t.mem.phys = s.mem.phys ∧ t.mem.code = s.mem.code ∧ t.mem.operand = s.mem.operand ∧ t.mem.stage = s.mem.stage ∧
      (∀ c u, (c, u) ≠ (k.core, k.ts) → t.thread c u = s.thread c u)

/-- A store elsewhere, or to the own scratchpad behind an earlier one of the thread (R102, R155), retires once its checks pass and
is then under way (R103, R277); `ACCESS_AT_HOME` lands it: the bytes are those of the register, no memory changes before, and
it is under way no longer after. -/
def Obligations.StoreElsewhere : Prop :=
  (∀ (s : State) (k : Ctx) (i : Instr) (x : Pre) (a b : SReg) (imm : Word) (n : Nat) (acc : Access) (s1 : State),
    Claims.store i = some (x, a, b, imm, n) → s.Issues k x → s.plain k a → s.plain k b →
    let ea := s.sreg k b + imm
    s.unpopped.access k.core ea n n true (sysAccess k (s.own k)) = .ok (acc, s1) → 
    let tag : StoreTag := ⟨acc.home, orderedStore x acc.scope, false, s1.absAddr k.core acc.place⟩
    (acc.place.isOwn k.core = false ∨ s1.storeAhead k.core k.ts acc.loc n tag = true) →
    s.acquiring k.core k.ts = false → s.portHeld k acc.place = false →
    ∃ t f, exec i s = .next t ∧ t.fab.fly = s1.fab.fly ++ [f] ∧ t.mem = s1.mem ∧ f.core = k.core ∧ f.ts = k.ts ∧
      f.what = .store acc.loc (leBytes n (s.sreg k a).toNat) tag ∧
      (t.own k).pc = ((s.own k).loopNext k.next).pc) ∧
  (∀ (s : State) (f : Fly) (l : Loc) (bs : List Byte) (t : StoreTag),
    s.fab.fly.find? (·.id == f.id) = some f → f.what = .store l bs t → s.mayLand f = true →
    exec (.accessAtHome f.id) s = .next ((s.landed f.id).land l bs) ∧
    ∀ g ∈ (s.landed f.id).fab.fly, g.id ≠ f.id)

/-- The atomics (R301, R302) on the own scratchpad, banks and global memory: the old value goes to the register and the new
one, or for `AMOCAS` none on a mismatch, to the place, at once.
`FENCE` (R303): relaxed it has no effect; with an order it waits until the thread's vector commands are done. That it waits for
the thread's stores too, and that a `strong` one without an order waits, is the model's choice (assumption log 37). -/
def Obligations.AtomicResults : Prop :=
  (∀ (s : State) (k : Ctx) (i : Instr) (x : Pre) (a b c d : SReg) (f : Nat → Nat → Nat → Nat → Option Nat) (acc : Access)
    (s1 : State),
    Claims.atomic i = some (x, a, b, c, d, f) → s.Issues k x → s.plain k a → s.plain k b → s.plain k c → s.plain k d →
    let ea := s.sreg k b
    let n := if x.dtype = .i32 ∨ x.dtype = .n32 then 4 else 8
    s.unpopped.access k.core ea n n true (sysAccess k (s.own k)) = .ok (acc, s1) →
    s.portHeld k acc.place = false → s.storesDone k = true → s.acquiring k.core k.ts = false →
    (∀ t, s1.taskOf k.core = some t → t.record = false ∧ t.replay = false) →
    let old := leNat (s1.bytesAt acc.loc n)
    let s2 := match f n old ((s.sreg k c).toNat % 2 ^ (8 * n)) ((s.sreg k d).toNat % 2 ^ (8 * n)) with
      | some r => s1.land acc.loc (leBytes n r)
      | none => s1
    exec i s = .next (((((s2.debitAccess k ea acc.place n).touch k.core acc).missed k.core k.ts x 2 ea n (s.sreg k c) acc.scope).modThread
      k.core k.ts (·.setS a (if x.dtype = .i32 then BitVec.ofInt 64 (sextInt old 32) else BitVec.ofNat 64 old))).retire
        k .next)) ∧
  (∀ (s : State) (k : Ctx) (x : Pre), s.Issues k x →
    (x.order = .relaxed ∧ x.strong = false ∨ (s.idleV k = true ∧ s.storesDone k = true) →
      exec (.fence x) s = .next (s.retires k .next id)) ∧
    (¬(x.order = .relaxed ∧ x.strong = false) → ¬(s.idleV k = true ∧ s.storesDone k = true) →
      exec (.fence x) s = .next (s.held k)))

/-! ## Capabilities (R109 to R112, R313 to R315) -/

/-- `CAPX` by the holder moves the region to a core, which is told by a mailbox entry, or ends it; `CAPQ` reads the region of
an address; both leave registers and memory as they are, but for the destination of `CAPQ`. `CAPX` waits until every store of the core
to the region has landed (R112); which commands and copies count as stores to it before they are performed is the model's choice
(assumption log 37), and so is the absolute near form in word 1 of the entry (assumption log 35). It traps with 0x02 on a reserved bit or a core without a crew, whatever its `end` bit, and with
0x6D on a core that does not hold the region.
`CAPDEF` (R109, R313): a naturally aligned range of global or near memory that no region of the task overlaps becomes a
region of this core. -/
def Obligations.CapabilityResults : Prop :=
  (∀ (s : State) (k : Ctx) (x : Pre) (a b c : SReg) (q : Task) (p : Place), s.Issues k x → s.plain k a → s.plain k b →
    s.plain k c → s.taskOf k.core = some q → s.place k.core (s.sreg k b) false = .ok p →
    let base := s.absAddr k.core p
    let w := s.sreg k c
    exec (.capq x a b) s = .next (s.retires k .next (·.setS a (match s.capAt q.id q.asid base with
      | some r => BitVec.ofNat 64 (r.log * 2 ^ 40 + r.holder)
      | none => 0x8000000000000000))) ∧
    let good : Prop :=
      w.toNat / 2 ^ 33 % 2 ^ 15 = 0 ∧ w.toNat / 2 ^ 12 % 2 ^ 20 = 0 ∧ q.carries (w.toNat % 4096) = true
    (¬good → exec (.capx x b c) s = .next (s.traps k 0x02 0)) ∧
    (∀ r, s.fab.caps.find? (fun r => r.task == q.id && r.base == base) = some r → good →
      (r.holder ≠ s.relOf k.core → exec (.capx x b c) s = .next (s.traps k 0x6D (s.sreg k b))) ∧
      (r.holder = s.relOf k.core → s.writesDone k.core q r = false → exec (.capx x b c) s = .next (s.held k)) ∧
      (r.holder = s.relOf k.core → s.writesDone k.core q r = true → ∃ t, exec (.capx x b c) s = .next t ∧
          (t.own k).s = (s.own k).s ∧ t.mem = s.mem ∧
          (w.getLsbD 32 = true → t.fab.caps = s.fab.caps.filter (· != r) ∧ t.fab.fly = s.fab.fly) ∧
          (w.getLsbD 32 = false →
            (∀ z ∈ t.fab.caps, z ∈ s.fab.caps ∨ z = { r with holder := w.toNat % 4096 }) ∧
            ∃ f, t.fab.fly = s.fab.fly ++ [f] ∧ f.what = .deposit (q.coreAt (w.toNat % 4096))
              (BitVec.ofNat 64 (w.toNat / 2 ^ 48 * 2 ^ 48 + r.log * 2 ^ 40 + s.relOf k.core)) base false)))) ∧
  (∀ (s : State) (k : Ctx) (x : Pre) (b c : SReg) (q : Task) (acc : Access) (s1 : State), s.Issues k x → s.plain k b →
    s.plain k c → s.taskOf k.core = some q →
    let a := s.sreg k b
    let n := (s.sreg k c).toNat
    let base := s.absAddr k.core acc.place
    (a.toNat < 0x40000 → exec (.capdef x b c) s = .next (s.traps k 0x69 a)) ∧
    (0x40000 ≤ a.toNat → (n < 8 ∨ 36 < n ∨ a.toNat % 2 ^ n ≠ 0) → exec (.capdef x b c) s = .next (s.traps k 0x69 a)) ∧
    (0x40000 ≤ a.toNat → 8 ≤ n → n ≤ 36 → a.toNat % 2 ^ n = 0 →
      s.unpopped.access k.core a 1 1 false false = .ok (acc, s1) → acc.place.isGlobal = true →
      a.toNat % 2 ^ 56 + 2 ^ n ≤ 2 ^ 56 → s.fab.caps = [] →
      ∃ t, exec (.capdef x b c) s = .next t ∧ t.fab.caps = s1.fab.caps ++ [⟨q.id, q.asid, base, n, s.relOf k.core⟩] ∧
        (t.own k).s = (s.own k).s ∧ t.mem = s1.mem))

/-! ## Queues and streams (R173 to R175, R304 to R308) -/

/-- `QCNT`, `QFREE`, `QWAITF`, `QWAITE`, `QADVT` and `QADVH` on a bound handle, and 0x03 on an unbound one (R174, R305, R306):
counts read, waits end when enough slots are there and trap on more than the queue has, and an advance moves head or tail and
the counts, telling the other end, traps on more than there are, and does nothing for 0. R174 says nothing of `QADVT` at the
consumer's end of a queue between two cores and `QADVH` at the producer's: that they only count is the model's choice (assumption
log 36). -/
def Obligations.QueueResults : Prop :=
  ∀ (s : State) (k : Ctx) (x : Pre) (a : SReg) (h : QReg) (b : SReg) (imm : Word), s.Issues k x → s.plain k a →
    s.plain k b →
    (s.queue k h = none →
      exec (.qcnt x a h) s = .next (s.traps k 0x03 0) ∧ exec (.qfree x a h) s = .next (s.traps k 0x03 0) ∧
      exec (.qadvt x h b imm) s = .next (s.traps k 0x03 0) ∧ exec (.qadvh x h b imm) s = .next (s.traps k 0x03 0) ∧
      exec (.qwaitf x h b imm) s = .next (s.traps k 0x03 0) ∧ exec (.qwaite x h b imm) s = .next (s.traps k 0x03 0)) ∧
    (∀ q, s.queue k h = some q →
      let n := (s.sreg k b + imm).toNat
      let m := BitVec.ofNat 32 n
      exec (.qcnt x a h) s = .next (s.retires k .next (·.setS a (q.filled.setWidth 64))) ∧
      exec (.qfree x a h) s = .next (s.retires k .next (·.setS a (q.free.setWidth 64))) ∧
      (n ≤ q.filled.toNat → n ≤ q.nslot → exec (.qwaitf x h b imm) s = .next (s.retires k .next id)) ∧
      (q.filled.toNat < n → n ≤ q.nslot → exec (.qwaitf x h b imm) s = .next (s.held k)) ∧
      (n ≤ q.free.toNat → n ≤ q.nslot → exec (.qwaite x h b imm) s = .next (s.retires k .next id)) ∧
      (q.free.toNat < n → n ≤ q.nslot → exec (.qwaite x h b imm) s = .next (s.held k)) ∧
      (q.nslot < n → exec (.qwaitf x h b imm) s = .next (s.traps k 0x03 0) ∧
        exec (.qwaite x h b imm) s = .next (s.traps k 0x03 0)) ∧
      (n = 0 → exec (.qadvt x h b imm) s = .next (s.retires k .next id) ∧
        exec (.qadvh x h b imm) s = .next (s.retires k .next id)) ∧
      (q.free.toNat < n → exec (.qadvt x h b imm) s = .next (s.traps k 0x03 0)) ∧
      (q.filled.toNat < n → exec (.qadvh x h b imm) s = .next (s.traps k 0x03 0)) ∧
      (0 < n → n ≤ q.free.toNat → ∃ t z, exec (.qadvt x h b imm) s = .next t ∧ t.queue k h = some z ∧
        z.tail = q.tail + m ∧ z.free = q.free - m ∧ z.head = q.head ∧ t.mem = s.mem ∧ (t.own k).s = (s.own k).s ∧
        (q.role ≠ 1 → z.filled = q.filled + m ∧ t.fab = s.fab) ∧
        (q.role = 1 → z.filled = q.filled ∧ ∃ f, t.fab.fly = s.fab.fly ++ [f] ∧
          f.what = .qupd (s.peerCore k.core q) q.pdesc true m q.tail)) ∧
      (0 < n → n ≤ q.filled.toNat → ∃ t z, exec (.qadvh x h b imm) s = .next t ∧ t.queue k h = some z ∧
        z.head = q.head + m ∧ z.filled = q.filled - m ∧ z.tail = q.tail ∧ t.mem = s.mem ∧ (t.own k).s = (s.own k).s ∧
        (q.role ≠ 2 → z.free = q.free + m ∧ t.fab = s.fab) ∧
        (q.role = 2 → z.free = q.free ∧ ∃ f, t.fab.fly = s.fab.fly ++ [f] ∧
          f.what = .qupd (s.peerCore k.core q) q.pdesc false m q.head)))

/-- `QBIND` (R304): the copy bound before leaves its handle first: its words of heads, counts and order are written back to its
descriptor, 24 bytes at its address + 16 that a store of the thread could write, and its updates that wait for their turn are
under way again; field b 0 leaves the handle unbound, and another register binds the descriptor at its address, 64-byte aligned
in local space, which R173 and R304 admit; a descriptor that they forbid, or at another address, traps with 0x03.
`SBIND` and `SBINDS` (R307): the register takes the stream descriptor at a 32-byte aligned address, in a queue direction from the
head or tail of the queue that it names; 0x02 on a register below 24, 0x04 on a reserved bit or a bad address, 0x03 on an unbound
queue. `SUNBIND` and `SPOS` (R308): a bound register is unbound, a write stream once its elements are written, an unbound one is
left as it is; the position of a stream, 0 for none. The model's choices: a stream over a queue keeps the head or tail of its
binding (assumption log 30), an element is read when its instruction issues, and `SUNBIND` of a write stream waits for all commands
and stores of the thread, where R308 names the appended elements (assumption log 27).
A bound read stream feeds a scalar operand with the next element of its memory and moves on by one; a bound write stream
takes a result to the next address (R175): shown on the register forms of `ADDI`. -/
def Obligations.StreamResults : Prop :=
  (∀ (s : State) (k : Ctx) (x : Pre) (h : QReg) (b : SReg), s.Issues k x → s.plain k b → s.mem.sram.wf = true →
    let old := s.queue k h
    let p := s.sreg k b
    let u := match old with | none => s | some q => s.writeBack k.core q
    let bs := u.seenBytes k.core k.ts (.sram (padKey k.core + p.toNat)) 64
    let q := readQueue p.toNat bs
    let good : Prop := badQueue bs = false ∧ (s.core k.core).bindsElsewhere p.toNat k.ts h = false ∧
      (match s.taskOf k.core with
        | some t => q.role ≠ 0 → q.peer ≠ s.relOf k.core ∧ t.carries q.peer = true ∧ (t.kind = 1 → q.seqord = true)
        | none => q.role = 0)
    let binds (i : Instr) (z : Option QCopy) : Prop := ∃ t l, exec i s = .next t ∧ t.queue k h = z ∧
      (∀ g, g ≠ h → t.queue k g = s.queue k g) ∧ (t.own k).s = (s.own k).s ∧ (t.own k).v = (s.own k).v ∧
      (t.own k).pc = ((s.own k).loopNext k.next).pc ∧ (t.own k).retired = (s.own k).retired + 1 ∧
      (∀ c us, (c, us) ≠ (k.core, k.ts) → t.thread c us = s.thread c us) ∧
      t.mem.phys = s.mem.phys ∧ t.mem.code = s.mem.code ∧ t.mem.operand = s.mem.operand ∧ t.fab.fly = s.fab.fly ++ l ∧
      (old = none → t.mem = s.mem ∧ l = []) ∧
      (∀ o, old = some o → let a := padKey k.core + o.addr
        readLE t.mem.sram (a + 16) 8 = o.head.toNat * 2 ^ 32 + o.tail.toNat ∧
        readLE t.mem.sram (a + 24) 8 = o.filled.toNat * 2 ^ 32 + o.free.toNat ∧
        readLE t.mem.sram (a + 32) 8 = o.seq.toNat * 2 ^ 32 ∧
        (∀ g, g < a + 16 ∨ a + 40 ≤ g → readByte t.mem.sram g = readByte s.mem.sram g) ∧
        l.map (·.what) = o.held.map fun (v, n) => .qupd k.core o.addr true n v)
    (∀ o, old = some o → s.acquiring k.core k.ts = false ∧
      ∃ r, s.unpopped.access k.core (BitVec.ofNat 64 (o.addr + 16)) 24 8 true (sysAccess k (s.own k)) = .ok r) →
    binds (.qbind x h 0) none ∧
    (b ≠ 0 →
      ((0x40000 ≤ p.toNat ∨ p.toNat % 64 ≠ 0) → exec (.qbind x h b) s = .next (s.traps k 0x03 0)) ∧
      (p.toNat < 0x3C000 → p.toNat % 64 = 0 → s.acquiring k.core k.ts = false →
        (good → binds (.qbind x h b) (some q)) ∧ (¬good → exec (.qbind x h b) s = .next (s.traps k 0x03 0))))) ∧
  (∀ (s : State) (k : Ctx) (x : Pre) (b : SReg) (v : VReg) (n : Fin 8), s.Issues k x → s.plain k b →
    let p := s.sreg k b
    let bs := s.seenBytes k.core k.ts (.sram (padKey k.core + p.toNat)) 32
    let st := readStream bs
    let both (u : State) : Prop := exec (.sbind x v b) s = .next u ∧ exec (.sbinds x v b) s = .next u
    let binds (z : Stream) : Prop := exec (.sbind x v b) s = .next (s.retires k .next (·.bind true n (some z))) ∧
      exec (.sbinds x v b) s = .next (s.retires k .next (·.bind false n (some z)))
    (bindable v = none → both (s.traps k 0x02 0)) ∧
    (bindable v = some n →
      ((0x40000 ≤ p.toNat ∨ p.toNat % 32 ≠ 0) → both (s.traps k 0x04 0)) ∧
      (p.toNat < 0x3C000 → p.toNat % 32 = 0 → s.acquiring k.core k.ts = false →
        (recField (wordsOf64 4 bs) 3 57 0 ≠ 0 → both (s.traps k 0x04 0)) ∧
        (recField (wordsOf64 4 bs) 3 57 0 = 0 →
          (st.dir.val < 2 → binds st) ∧
          (2 ≤ st.dir.val → s.queue k st.queue = none → both (s.traps k 0x03 0)) ∧
          (∀ q, 2 ≤ st.dir.val → s.queue k st.queue = some q →
            binds { st with start := if st.dir = 2 then q.head else q.tail }))))) ∧
  (∀ (s : State) (k : Ctx) (x : Pre) (a v : SReg) (imm : Word) (c : Fin 8), s.Issues k x → s.plain k a →
    ((s.own k).stream (imm == 0) v = none → exec (.sunbind x v imm) s = .next (s.retires k .next id)) ∧
    (∀ n st, (s.own k).stream (imm == 0) v = some (n, st) →
      let ready := st.dir.val % 2 = 0 ∨ (s.idleV k = true ∧ s.idleM k = true ∧ s.storesDone k = true)
      (ready → exec (.sunbind x v imm) s = .next (s.retires k .next (·.bind (imm == 0) n none))) ∧
      (¬ready → exec (.sunbind x v imm) s = .next (s.held k))) ∧
    exec (.spos x a v c) s = .next (s.retires k .next
      (·.setS a (match (s.own k).stream (c == 0) v with | some (_, st) => BitVec.ofNat 64 st.pos | none => 0)))) ∧
  (∀ (s : State) (k : Ctx) (x : Pre) (a b : SReg) (imm : Word) (n : Fin 8) (st : Stream), s.Issues k x → s.mem.sram.wf = true →
    s.scalarBusy k a.val = false → s.scalarBusy k b.val = false → k.core < 4096 → st.pos < st.total →
    let ea := (st.addr st.pos).toNat
    ea < 0x3C000 → ea % 8 = 0 → s.acquiring k.core k.ts = false → s.storesOf k.core k.ts = [] →
    (b ≠ 0 → (s.own k).stream false b = some (n, st) → s.plain k a → st.dir = 0 → s.lapCheck k.core ea 8 = .plain →
      let v := leNat ((List.range 8).map fun j => readByte s.mem.sram (padKey k.core + ea + j))
      ∃ t, exec (.addi x a b imm) s = .next t ∧ (a ≠ 0 → (t.own k).s[a] = BitVec.ofNat 64 v + imm) ∧
        (t.own k).ss[n] = some { st with pos := st.pos + 1 } ∧ t.mem = s.mem ∧
        (t.own k).pc = ((s.own k).loopNext k.next).pc) ∧
    (a ≠ 0 → (s.own k).stream false a = some (n, st) → s.plain k b → st.dir = 1 → s.lapProtected k.core ea 8 = false →
      s.mayStore (s.taskNo k.core) (s.relOf k.core) (s.asidOf k.core) (s.absAddr k.core (.pad k.core ea)) 8 = true →
      ∃ t, exec (.addi x a b imm) s = .next t ∧ (t.own k).s = (s.own k).s ∧
        (t.own k).ss[n] = some { st with pos := st.pos + 1 } ∧
        readLE t.mem.sram (padKey k.core + ea) 8 = (s.sreg k b + imm).toNat ∧
        (∀ g, g < padKey k.core + ea ∨ padKey k.core + ea + 8 ≤ g → readByte t.mem.sram g = readByte s.mem.sram g) ∧
        (t.own k).pc = ((s.own k).loopNext k.next).pc))

/-! ## The engines (R163, R176, R296 to R299, R329 to R347, R349 to R363) -/

/-- An instruction that dispatches a command (R176, R332, R361): it traps with 0x02 on a scalar that its entry forbids, waits
while its engine has two commands or an earlier command stands in the way, and else retires with its command at the end of
the engine's queue, numbered by `CPSEQ`, which counts on; the ring keeps its address and words; no register and no memory
changes. -/
def Obligations.EngineAccepts : Prop :=
  ∀ (s : State) (k : Ctx) (i : Instr) (h : Claims.Handed), Claims.engine i = some h → s.Issues k h.x →
    s.plain k h.b → s.plain k h.c → s.unbound k h.reads h.writes →
    let c := s.core k.core
    (¬h.ok (s.sreg k h.b) (s.sreg k h.c) → exec i s = .next (s.traps k 0x02 0)) ∧
    (h.ok (s.sreg k h.b) (s.sreg k h.c) → s.room k h.mx h.reads h.writes = false → exec i s = .next (s.held k)) ∧
    (h.ok (s.sreg k h.b) (s.sreg k h.c) → s.room k h.mx h.reads h.writes = true →
      ∃ t d, exec i s = .next t ∧ d.ts = k.ts ∧ d.seq = c.cpseq ∧ d.x = h.x ∧
        (t.core k.core).cpseq = c.cpseq + 1 ∧
        (t.core k.core).ring[c.cpseq.toNat % 32]'(Nat.mod_lt _ (by decide)) = ⟨c.cpseq, k.addr, k.words⟩ ∧
        (t.core k.core).vq = (if h.mx then c.vq else c.vq ++ [d]) ∧
        (t.core k.core).mq = (if h.mx then c.mq ++ [d] else c.mq) ∧
        (t.own k).pc = ((s.own k).loopNext k.next).pc ∧ (t.own k).retired = (s.own k).retired + 1 ∧
        (t.own k).s = (s.own k).s ∧ (t.own k).v = (s.own k).v ∧ (t.own k).k = (s.own k).k ∧ (t.own k).y = (s.own k).y ∧
        (t.own k).fpflags = (s.own k).fpflags ∧ (t.own k).epc = (s.own k).epc ∧ t.mem = s.mem ∧
        (∀ core ts, (core, ts) ≠ (k.core, k.ts) → t.thread core ts = s.thread core ts))

/-- What the integer and rearranging commands of pages 4 and 6 give (R333 to R335, R337, R341 to R345), from the registers that
the engine finds when it performs them: each lane of the destination, and nothing else changes but what the completion of any
command settles: it leaves its queue, and the thread's digest takes in the stores that it waited with (R248). -/
def Obligations.VectorResults : Prop :=
  ∀ (s : State) (k : Ctx) (i : Instr) (r : Claims.VecResult), Claims.vector i = some r → r.x.order = .relaxed →
    s.Issues k r.x → s.plain k r.b → s.unbound k r.reads [(true, r.dest)] → s.room k false r.reads [(true, r.dest)] = true →
    ∃ d, exec i s = .next (s.handed k false d) ∧
      ∀ (u : State) (core : Fin 4096) (id : Nat) (ts : Fin 4) (seq : BitVec 16), u.vectorNext core (d.sent id ts seq) →
        ∃ V : VWord, exec (.vectorCommandComplete core) u =
            .next (u.completed core false ts fun t => { t with v := t.v.set r.dest V }) ∧
          ∀ j, j < 512 / r.w → laneOf V j r.w = r.lane (u.thread core ts) (s.sreg k r.b) j

/-- What the compares and mask commands give a mask register (R336, R347): every one of its 64 bits; a write to `k0` is
discarded.
What `VEXTR`, `KPOPC`, `KFIRST` and `KMOVS` give a scalar register (R337, R347); until then an instruction that names the
register waits (R332). -/
def Obligations.MaskResults : Prop :=
  (∀ (s : State) (k : Ctx) (i : Instr) (x : Pre) (l : List VReg) (b : SReg) (a : KReg) (f : Thread → Word → Nat → Bool),
    Claims.mask i = some (x, l, b, a, f) → x.order = .relaxed → s.Issues k x → s.plain k b → s.unbound k l [] →
    s.room k false l [] = true →
    ∃ d, exec i s = .next (s.handed k false d) ∧
      ∀ (u : State) (core : Fin 4096) (id : Nat) (ts : Fin 4) (seq : BitVec 16), u.vectorNext core (d.sent id ts seq) →
        ∃ K : Word, exec (.vectorCommandComplete core) u =
            .next (u.completed core false ts fun t => { t with k := if a = 0 then t.k else t.k.set a K }) ∧
          ∀ j, j < 64 → K.getLsbD j = f (u.thread core ts) (s.sreg k b) j) ∧
  (∀ (s : State) (k : Ctx) (i : Instr) (x : Pre) (l : List VReg) (a : SReg) (f : Thread → Word),
    Claims.toScalar i = some (x, l, a, f) → x.order = .relaxed → s.Issues k x → s.unbound k l [(false, a)] →
    s.room k false l [(false, a)] = true →
    ∃ d, exec i s = .next (s.handed k false d) ∧
      (∀ b : SReg, a ≠ 0 →
        let z : State := { s.handed k false d with fetch := some k }
        (z.thread k.core k.ts).alone = true → exec (.addi {} b a 0) z = .next (z.held k)) ∧
      ∀ (u : State) (core : Fin 4096) (id : Nat) (ts : Fin 4) (seq : BitVec 16), u.vectorNext core (d.sent id ts seq) →
        exec (.vectorCommandComplete core) u =
          .next (u.completed core false ts fun t => t.setS a (f t)))

/-- What the floating commands give lane by lane under every rounding mode but SR (R202, R338, R339, R376), and the compares
their mask: an inactive lane keeps its value or becomes 0 and sets no flag; the flags of the active lanes are gathered.
Under every mode, `VCVT` and `YRND` among them (R185, R217, R340, R373): the lanes of U are extended as far as the roundings need
them, each active lane is rounded by its lane of U, an exhausted one is marked, and the lanes that the command does not cover keep
their values; a fault of an extension is late. `VFRED` and `VFREDMAX` give lane 0 the root of the pairwise tree (R201, R346), and
the floating `VSCAN` and `VSCANX` each lane its serial sum (R344). -/
def Obligations.FloatVectorResults : Prop :=
  (∀ (s : State) (k : Ctx) (i : Instr) (x : Pre) (l : List VReg) (a b c : VReg) (f : Nat → Nat → Nat → Nat × Flags),
    Claims.floatVector i = some (x, l, a, b, c, f) → x.rnd ≠ .sr → (Claims.fty x).isFloat = true → x.order = .relaxed →
    s.Issues k x → s.unbound k l [(true, a)] → s.room k false l [(true, a)] = true →
    ∃ d, exec i s = .next (s.handed k false d) ∧
      ∀ (u : State) (core : Fin 4096) (id : Nat) (ts : Fin 4) (seq : BitVec 16), u.vectorNext core (d.sent id ts seq) →
        let t := u.thread core ts
        let w := (Claims.fty x).width
        let r (j : Nat) := f (laneOf t.v[b] j w) (laneOf t.v[c] j w) (laneOf t.v[a] j w)
        let act := (List.range (512 / w)).filter (t.active x w)
        ∃ V : VWord, exec (.vectorCommandComplete core) u =
            .next (u.completed core false ts fun t =>
              { t with v := t.v.set a V, fpflags := t.fpflags ||| act.foldr (fun j g => (r j).2 ||| g) 0 }) ∧
          ∀ j, j < 512 / w → laneOf V j w =
            if t.active x w j then (r j).1 % 2 ^ w else if x.zero then 0 else laneOf t.v[a] j w) ∧
  (∀ (s : State) (k : Ctx) (x : Pre) (a : KReg) (b c : VReg), (Claims.fty x).isFloat = true → x.order = .relaxed →
    s.Issues k x → s.unbound k [b, c] [] → s.room k false [b, c] [] = true →
    ∀ (i : Instr) (o : FCmp), (i, o) ∈ [(Instr.vfcmpeq x a b c, FCmp.eq), (.vfcmplt x a b c, .lt), (.vfcmple x a b c, .le)] →
    ∃ d, exec i s = .next (s.handed k false d) ∧
      ∀ (u : State) (core : Fin 4096) (id : Nat) (ts : Fin 4) (seq : BitVec 16), u.vectorNext core (d.sent id ts seq) →
        let t := u.thread core ts
        let w := (Claims.fty x).width
        let r (j : Nat) := cmpF (ffmt (Claims.fty x)) x.ftzi o (laneOf t.v[b] j w) (laneOf t.v[c] j w)
        let act := (List.range (512 / w)).filter (t.active x w)
        ∃ K : Word, exec (.vectorCommandComplete core) u =
            .next (u.completed core false ts fun t =>
              { t with k := if a = 0 then t.k else t.k.set a K,
                       fpflags := t.fpflags ||| act.foldr (fun j g => (r j).2 ||| g) 0 }) ∧
          ∀ j, j < 64 → K.getLsbD j =
            if 512 / w ≤ j then false else if t.active x w j then (r j).1 else if x.zero then false else t.k[a].getLsbD j) ∧
  (∀ (s : State) (k : Ctx) (i : Instr) (r : Claims.Rounded), Claims.rounded i = some r → r.x.order = .relaxed →
    s.Issues k r.x → s.unbound k r.reads [(true, r.dest)] → s.room k false r.reads [(true, r.dest)] = true →
    ∃ d, exec i s = .next (s.handed k false d) ∧
      ∀ (u : State) (core : Fin 4096) (id : Nat) (ts : Fin 4) (seq : BitVec 16), u.vectorNext core (d.sent id ts seq) →
        let t := u.thread core ts
        let act := r.lanes.filter (t.active r.x r.w)
        let grows (ys : Vector YVec 8) : List Nat :=
          act.filterMap fun j => if (r.lane t j).open_ (yLane ys r.base j) then some (16 * r.base + j) else none
        let e := u.extend (drawerOf u core (d.sent id ts seq)) grows t.y
        (∀ c a u1, e = .error (.fault c a u1) →
          exec (.vectorCommandComplete core) u = .next (u1.faulted core (d.sent id ts seq) c a)) ∧
        (e = .error .wait → exec (.vectorCommandComplete core) u = .next u) ∧
        (∀ Y u1, e = .ok (Y, u1) →
          let res (j : Nat) := (r.lane t j).by_ (yLane Y r.base j)
          ∃ (V : VWord) (Z : Vector YVec 8), exec (.vectorCommandComplete core) u =
              .next (u1.completed core false ts fun h => { h with
                v := h.v.set r.dest V, y := Z, fpflags := h.fpflags ||| act.foldr (fun j g => (res j).1.2 ||| g) 0 }) ∧
            (∀ j, j < 512 / r.w → laneOf V j r.w =
              if j ∉ r.lanes then laneOf t.v[r.dest] j r.w
              else if t.active r.x r.w j then (res j).1.1 % 2 ^ r.w else if r.x.zero then 0 else laneOf t.v[r.dest] j r.w) ∧
            (∀ j, 16 * r.base + j < 128 → yLane Z r.base j = if j ∈ act then (res j).2 else yLane Y r.base j) ∧
            ∀ j, j < 16 * r.base → yLane Z 0 j = yLane Y 0 j)) ∧
  (∀ (s : State) (k : Ctx) (x : Pre) (a b : VReg), (Claims.fty x).isFloat = true → x.order = .relaxed →
    s.Issues k x → s.unbound k [b] [(true, a)] → s.room k false [b] [(true, a)] = true →
    let w := (Claims.fty x).width
    (∀ (i : Instr) (f : Thread → Nat × Flags),
      (i, f) ∈ [(Instr.vfred x a b, Claims.fsum x b), (.vfredmax x a b, Claims.fgreatest x b)] →
      ∃ d, exec i s = .next (s.handed k false d) ∧
        ∀ (u : State) (core : Fin 4096) (id : Nat) (ts : Fin 4) (seq : BitVec 16), u.vectorNext core (d.sent id ts seq) →
          let r := f (u.thread core ts)
          exec (.vectorCommandComplete core) u = .next (u.completed core false ts fun t =>
            { t with v := t.v.set a (BitVec.ofNat 512 (r.1 % 2 ^ w)), fpflags := t.fpflags ||| r.2 })) ∧
    (x.dtype.isFloat = true → ∀ (i : Instr) (n : Nat), (i, n) ∈ [(Instr.vscan x a b, 1), (.vscanx x a b, 0)] →
      ∃ d, exec i s = .next (s.handed k false d) ∧
        ∀ (u : State) (core : Fin 4096) (id : Nat) (ts : Fin 4) (seq : BitVec 16), u.vectorNext core (d.sent id ts seq) →
          let t := u.thread core ts
          ∃ V : VWord, exec (.vectorCommandComplete core) u = .next (u.completed core false ts fun t =>
              { t with v := t.v.set a V, fpflags := t.fpflags ||| (Claims.serial x b t (512 / w)).2 }) ∧
            ∀ j, j < 512 / w → laneOf V j w =
              if t.active x w j then Claims.shown x (Claims.serial x b t (j + n)) % 2 ^ w
              else if x.zero then 0 else laneOf t.v[a] j w))

/-- Vector loads and stores in the core's own scratchpad outside partitions (R297, R298): each active lane is the value at its
address, and no memory changes; or each active lane's bytes go to its address, a later lane over an earlier one, and no other
byte and no register changes. `VLDT` loads its block transposed (R299). The row instructions on a row of a bank (R309 to R312):
a row that is not aligned, or that lies in a scratchpad, is a late fault; `VROWLD` loads it, `VROWST` stores it, `VROWADD` adds its
operand to every element, rounded by its lane of U where the mode is SR, and `VROWCAS` replaces it when it equals the comparand and
gives the old row; no other byte of memory and no other register changes. -/
def Obligations.VectorMemory : Prop :=
  (∀ (s : State) (k : Ctx) (i : Instr) (r : Claims.VecAccess), Claims.vectorLoad i = some r → s.Issues k r.x →
    s.plain k r.b → s.plain k r.c → s.unbound k r.index [(true, r.a)] → s.room k false r.index [(true, r.a)] = true →
    ∃ d, exec i s = .next (s.handed k false d) ∧
      ∀ (u : State) (core : Fin 4096) (id : Nat) (ts : Fin 4) (seq : BitVec 16), u.vectorNext core (d.sent id ts seq) →
        let t := u.thread core ts
        let nb := Claims.laneBytes r.x
        let at_ (j : Nat) : Nat :=
          (r.addr (match r.index with | n :: _ => t.v[n] | [] => 0) (s.sreg k r.b) (s.sreg k r.c) j).toNat
        (∀ j, j < 64 / nb → t.active r.x (8 * nb) j = true → at_ j < 0x3C000 ∧ at_ j % nb = 0) →
        (∀ p : Fin 8, (u.core core).parts[p] = none) → (∀ f ∈ u.fab.fly, f.core ≠ core.val) → u.mem.sram.wf = true →
        t.run ≠ .stopped →
        ∃ z, exec (.vectorCommandComplete core) u = .next z ∧ z.mem = u.mem ∧ (z.core core).vq = (u.core core).vq.drop 1 ∧
          ∃ V : VWord, z.thread core ts = { t with
              v := t.v.set r.a V, digest := (z.thread core ts).digest, behind := (z.thread core ts).behind } ∧
            ∀ j, j < 64 / nb → laneOf V j (8 * nb) =
              if t.active r.x (8 * nb) j then leNat ((List.range nb).map fun o => readByte u.mem.sram (padKey core + at_ j + o))
              else if r.x.zero then 0 else laneOf t.v[r.a] j (8 * nb)) ∧
  (∀ (s : State) (k : Ctx) (i : Instr) (r : Claims.VecAccess), Claims.vectorStore i = some r → s.Issues k r.x →
    s.plain k r.b → s.plain k r.c → s.unbound k (r.a :: r.index) [] → s.room k false (r.a :: r.index) [] = true →
    ∃ d, exec i s = .next (s.handed k false d) ∧
      ∀ (u : State) (core : Fin 4096) (id : Nat) (ts : Fin 4) (seq : BitVec 16), u.vectorNext core (d.sent id ts seq) →
        let t := u.thread core ts
        let nb := Claims.laneBytes r.x
        let at_ (j : Nat) : Nat :=
          (r.addr (match r.index with | n :: _ => t.v[n] | [] => 0) (s.sreg k r.b) (s.sreg k r.c) j).toNat
        let act (j : Nat) : Prop := j < 64 / nb ∧ t.active r.x (8 * nb) j = true
        (∀ j, act j → at_ j < 0x3C000 ∧ at_ j % nb = 0 ∧
          u.mayStore (u.taskNo core) (u.relOf core) (u.asidOf core) (u.absAddr core (.pad core (at_ j))) nb = true) →
        (∀ p : Fin 8, (u.core core).parts[p] = none) → (∀ f ∈ u.fab.fly, f.core ≠ core.val) → u.mem.sram.wf = true →
        ∃ z, exec (.vectorCommandComplete core) u = .next z ∧ (z.core core).vq = (u.core core).vq.drop 1 ∧
          (z.thread core ts).v = t.v ∧ (z.thread core ts).s = t.s ∧
          (∀ j, act j → (∀ l, act l → j < l → at_ l + nb ≤ at_ j ∨ at_ j + nb ≤ at_ l) → ∀ o, o < nb →
            readByte z.mem.sram (padKey core + at_ j + o) = BitVec.ofNat 8 (laneOf t.v[r.a] j (8 * nb) / 256 ^ o)) ∧
          (∀ g, (∀ j, act j → g < padKey core + at_ j ∨ padKey core + at_ j + nb ≤ g) →
            readByte z.mem.sram g = readByte u.mem.sram g) ∧
          z.mem.phys = u.mem.phys ∧ z.mem.code = u.mem.code ∧ z.mem.operand = u.mem.operand ∧ z.mem.stage = u.mem.stage) ∧
  (∀ (s : State) (k : Ctx) (x : Pre) (a : VReg) (b c : SReg), s.Issues k x → s.plain k b → s.plain k c →
    let ws : List RegName := (Claims.regs a 16).map fun n => (true, n)
    s.unbound k [] ws → s.room k false [] ws = true →
    ∃ d, exec (.vldt x a b c) s = .next (s.handed k false d) ∧
      ∀ (u : State) (core : Fin 4096) (id : Nat) (ts : Fin 4) (seq : BitVec 16), u.vectorNext core (d.sent id ts seq) →
        let at_ (i j : Nat) : Nat := (s.sreg k b + BitVec.ofNat 64 j * s.sreg k c + BitVec.ofNat 64 (4 * i)).toNat
        (∀ i j, i < 16 → j < 16 → at_ i j < 0x3C000 ∧ at_ i j % 4 = 0) →
        (∀ p : Fin 8, (u.core core).parts[p] = none) → (∀ f ∈ u.fab.fly, f.core ≠ core.val) → u.mem.sram.wf = true →
        ∃ z, exec (.vectorCommandComplete core) u = .next z ∧ z.mem = u.mem ∧ (z.core core).vq = (u.core core).vq.drop 1 ∧
          ∀ (r : VReg) (j : Nat), j < 16 → laneOf (z.thread core ts).v[r] j 32 =
            if a.val ≤ r.val ∧ r.val < a.val + 16 then readLE u.mem.sram (padKey core + at_ (r.val - a.val) j) 4
            else laneOf (u.thread core ts).v[r] j 32) ∧
  (∀ (s : State) (k : Ctx) (x : Pre) (a : VReg) (b : SReg) (c : Fin 8) (i : Instr) (reads : List VReg) (writes : List RegName),
    let n := 2 ^ c.val
    let named (l : List VReg) : List RegName := l.map fun n => (true, n)
    let st : Ty := if x.stype = .dflt then Claims.fty x else x.stype
    let wd := (Claims.fty x).width
    (i, reads, writes) ∈ [(Instr.vrowld x a b c, ([] : List VReg), named (Claims.regs a n)), (.vrowst x a b c, Claims.regs a n, []),
      (.vrowadd x a b c, Claims.regs a (n * st.width / wd), []), (.vrowcas x a b c, Claims.regs a (2 * n), named (Claims.regs a n))] →
    x.order = .relaxed → s.Issues k x → s.plain k b → s.unbound k reads writes → s.room k false reads writes = true →
    ∃ d, exec i s = .next (s.handed k false d) ∧
      ∀ (u : State) (core : Fin 4096) (id : Nat) (ts : Fin 4) (seq : BitVec 16), u.vectorNext core (d.sent id ts seq) →
        let p := s.sreg k b
        let t := u.thread core ts
        let v (j : Nat) : VWord := t.v.toList.getD j 0
        (p.toNat % (64 * n) ≠ 0 → exec (.vectorCommandComplete core) u = .next (u.faulted core (d.sent id ts seq) 0x60 p)) ∧
        (p.toNat % (64 * n) = 0 → (∃ o off, u.place core p false = .ok (.pad o off)) →
          exec (.vectorCommandComplete core) u = .next (u.faulted core (d.sent id ts seq) 0x6E p)) ∧
        (∀ l q off, p.toNat % (64 * n) = 0 → u.place core p false = .ok (.bank l q off) → off + 64 * n ≤ bankSize l →
          (∀ f ∈ u.fab.fly, f.core ≠ core.val) → u.mem.sram.wf = true →
          let g := bankKey l q off
          let may : Prop :=
            u.mayStore (u.taskNo core) (u.relOf core) (u.asidOf core) (u.absAddr core (.bank l q off)) (64 * n) = true
          let old (j : Nat) : Nat := readLE u.mem.sram (g + 64 * j) 64
          let outside (z : State) : Prop := ∀ y, y < g ∨ g + 64 * n ≤ y → readByte z.mem.sram y = readByte u.mem.sram y
          let loaded (z : State) : Prop := ∀ r : VReg, (z.thread core ts).v[r] =
            if a.val ≤ r.val ∧ r.val < a.val + n then BitVec.ofNat 512 (old (r.val - a.val)) else t.v[r]
          let stored (z : State) : Prop := ∀ j, j < n → readLE z.mem.sram (g + 64 * j) 64 = (v (a.val + j)).toNat
          (i = .vrowld x a b c → ∃ z, exec (.vectorCommandComplete core) u = .next z ∧ loaded z ∧ z.mem = u.mem) ∧
          (i = .vrowst x a b c → may → ∃ z, exec (.vectorCommandComplete core) u = .next z ∧ stored z ∧ outside z ∧
            (z.thread core ts).v = t.v) ∧
          (i = .vrowcas x a b c → may → ∃ z, exec (.vectorCommandComplete core) u = .next z ∧ loaded z ∧ outside z ∧
            ((∀ j, j < n → old j = (v (a.val + n + j)).toNat) → stored z) ∧
            ((∃ j, j < n ∧ old j ≠ (v (a.val + n + j)).toNat) → z.mem = u.mem)) ∧
          (let elem (m : Memory) (e : Nat) : Nat := readLE m (g + e * (wd / 8)) (wd / 8)
           let operand (e : Nat) : Nat := laneOf (v (a.val + e / (512 / st.width))) (e % (512 / st.width)) st.width
           i = .vrowadd x a b c → may →
           (Claims.fty x ∈ [Ty.i32, .n32, .i64, .n64] → st = Claims.fty x → ∃ z, exec (.vectorCommandComplete core) u = .next z ∧
             outside z ∧ (z.thread core ts).v = t.v ∧ (z.thread core ts).fpflags = t.fpflags ∧
             ∀ e, e < 512 * n / wd → elem z.mem.sram e = Claims.narrow wd (Claims.fty x).isSigned x.sat
               (Claims.num wd (Claims.fty x).isSigned (elem u.mem.sram e) + Claims.num wd (Claims.fty x).isSigned (operand e))) ∧
           (Claims.fty x ∈ [Ty.bf16, .f16, .f32] → st = Claims.fty x ∨ st = .f32 →
             let res (e : Nat) : RoundRes := Claims.rowSum x st (elem u.mem.sram e) (operand e)
             let all := List.range (512 * n / wd)
             let grows (ys : Vector YVec 8) : List Nat :=
               all.filterMap fun e => if (res e).open_ (yLane ys x.yreg.val e) then some (16 * x.yreg.val + e) else none
             ∀ Y u1, u.extend { drawerOf u core (d.sent id ts seq) with atHome := true } grows t.y = .ok (Y, u1) →
               let sum (e : Nat) : Nat × Flags := ((res e).by_ (yLane Y x.yreg.val e)).1
               ∃ z, exec (.vectorCommandComplete core) u = .next z ∧ outside z ∧ (z.thread core ts).v = t.v ∧
                 (z.thread core ts).y = t.y ∧
                 (z.thread core ts).fpflags = t.fpflags ||| all.foldr (fun e f => (sum e).2 ||| f) 0 ∧
                 ∀ e, e < 512 * n / wd → elem z.mem.sram e = (sum e).1 % 2 ^ wd))))

/-- The lazy-uniform instructions that make and move values (R211, R214, R369, R370, R374): `YDRAW` waits for room, takes sixteen
indices and traps with 0x0C when the thread's range would be exceeded, `YSEED` fills a key slot from a good descriptor and
traps with 0x02 on a bad one, `YMOV` copies active lanes, `YSTAT` shows what a lane holds.
The decisions (R216, R218, R219, R371, R372): `YCMP` extends the active lanes until each is decided and gives U < t, 0 with NV for a
NaN; `YCMPY` orders two lanes by their prefixes, or, spent, by their indices with both marked and counted; `YCVT` gives U toward zero.
In the own scratchpad, `YST` writes a register in the format of R221 and `YLD` reads it back, with 0x40 late at the first lane that
breaks it and 0x60 late for an address that is not aligned (R375). -/
def Obligations.LazyUniforms : Prop :=
  ∀ (s : State) (k : Ctx) (x : Pre), s.Issues k x → x.order = .relaxed →
    (s.room k false [] [] = false → ∀ (a : YReg) (b : Fin 8), exec (.ydraw x a b) s = .next (s.held k)) ∧
    (∀ (a : YReg) (b : Fin 8), 2 ^ 34 - 16 < (s.own k).drawctr.toNat % 2 ^ 34 → s.room k false [] [] = true →
      exec (.ydraw x a b) s = .next (s.traps k 0x0C 0)) ∧
    (∀ (a : YReg) (b : Fin 8), (s.own k).drawctr.toNat % 2 ^ 34 ≤ 2 ^ 34 - 16 → s.room k false [] [] = true →
      ∃ t d, exec (.ydraw x a b) s = .next t ∧ (t.own k).drawctr = (s.own k).drawctr + 16 ∧
        (t.core k.core).vq = (s.core k.core).vq ++ [d] ∧
        ∀ (u : State) (core : Fin 4096) (id : Nat) (ts : Fin 4) (seq : BitVec 16), u.vectorNext core (d.sent id ts seq) →
          exec (.vectorCommandComplete core) u = .next (u.completed core false ts fun t =>
            { t with y := t.y.set a (Vector.ofFn fun j : Fin 16 =>
              ⟨0, 0, (s.own k).drawctr + BitVec.ofNat 48 j.val, b, false⟩) })) ∧
    (∀ (a : Fin 8) (b : SReg), s.plain k b → (s.sreg k b).toNat < 0x3C000 → (s.sreg k b).toNat % 64 = 0 →
      s.acquiring k.core k.ts = false →
      let bs := s.seenBytes k.core k.ts (.sram (padKey k.core + (s.sreg k b).toNat)) 64
      (badKey bs = true → exec (.yseed x a b) s = .next (s.traps k 0x02 0)) ∧
      (badKey bs = false → s.room k false [] [] = true →
        ∃ d, exec (.yseed x a b) s = .next (s.handed k false d) ∧
          ∀ (u : State) (core : Fin 4096) (id : Nat) (ts : Fin 4) (seq : BitVec 16), u.vectorNext core (d.sent id ts seq) →
            exec (.vectorCommandComplete core) u = .next ((u.setCore core { u.core core with
              keys := (u.core core).keys.set a (readKey bs) }).settled core false ts))) ∧
    (∀ a b : YReg, s.room k false [] [] = true →
      ∃ d, exec (.ymov x a b) s = .next (s.handed k false d) ∧
        ∀ (u : State) (core : Fin 4096) (id : Nat) (ts : Fin 4) (seq : BitVec 16), u.vectorNext core (d.sent id ts seq) →
          exec (.vectorCommandComplete core) u = .next (u.completed core false ts fun t =>
            { t with y := t.y.set a (Vector.ofFn fun j : Fin 16 => if t.active x 32 j then t.y[b][j] else t.y[a][j]) })) ∧
    (∀ (a : VReg) (b : YReg) (c : Fin 8), s.unbound k [] [(true, a)] → s.room k false [] [(true, a)] = true →
      ∃ d, exec (.ystat x a b c) s = .next (s.handed k false d) ∧
        ∀ (u : State) (core : Fin 4096) (id : Nat) (ts : Fin 4) (seq : BitVec 16), u.vectorNext core (d.sent id ts seq) →
          ∃ V : VWord, exec (.vectorCommandComplete core) u =
            .next (u.completed core false ts fun t => { t with v := t.v.set a V }) ∧
          ∀ j : Fin 16, let l := (u.thread core ts).y[b][j]
            laneOf V j 32 = (if c = 0 then l.len + l.slot.val * 256 + (if l.exh then 2048 else 0)
              else if c = 1 then l.index.toNat % 2 ^ 32 else l.index.toNat / 2 ^ 32) % 2 ^ 32) ∧
    (∀ (a : KReg) (b : YReg) (c : VReg), s.unbound k [c] [] → s.room k false [c] [] = true →
      ∃ d, exec (.ycmp x a b c) s = .next (s.handed k false d) ∧
        ∀ (u : State) (core : Fin 4096) (id : Nat) (ts : Fin 4) (seq : BitVec 16), u.vectorNext core (d.sent id ts seq) →
          let t := u.thread core ts
          let ty : Ty := if x.stype = .dflt then .f32 else x.stype
          let thr (j : Nat) := threshold ty x.ftzi (laneOf t.v[c] j ty.width)
          let act := (List.range 16).filter (t.active x 32)
          let grows (ys : Vector YVec 8) : List Nat := act.filterMap fun j => match thr j with
            | some (n, e) => if (yLane ys b.val j).openBelow n e then some (16 * b.val + j) else none
            | none => none
          ∀ Y u1, u.extend (drawerOf u core (d.sent id ts seq)) grows t.y = .ok (Y, u1) →
            ∃ K : Word, exec (.vectorCommandComplete core) u = .next (u1.completed core false ts fun h => { h with
                k := if a = 0 then h.k else h.k.set a K, y := Y,
                fpflags := h.fpflags ||| (if act.any (thr · == none) then flagNV else 0) }) ∧
              ∀ j, j < 64 → K.getLsbD j =
                if 16 ≤ j then false
                else if t.active x 32 j then (match thr j with
                  | some (n, e) => decide ((yLane Y b.val j).known.toNat * 2 ^ e < n * 2 ^ 192)
                  | none => false)
                else if x.zero then false else t.k[a].getLsbD j) ∧
    (∀ (a : KReg) (b c : YReg), s.room k false [] [] = true →
      ∃ d, exec (.ycmpy x a b c) s = .next (s.handed k false d) ∧
        ∀ (u : State) (core : Fin 4096) (id : Nat) (ts : Fin 4) (seq : BitVec 16), u.vectorNext core (d.sent id ts seq) →
          let t := u.thread core ts
          let act := (List.range 16).filter (t.active x 32)
          let grows (ys : Vector YVec 8) : List Nat := act.flatMap fun j =>
            let g := openPair (yLane ys b.val j) (yLane ys c.val j)
            (if g.1 then [16 * b.val + j] else []) ++ (if g.2 then [16 * c.val + j] else [])
          ∀ Y u1, u.extend (drawerOf u core (d.sent id ts seq)) grows t.y = .ok (Y, u1) →
            let spent (j : Nat) : Bool := act.contains j && (Y[b].toList.getD j {}).known == (Y[c].toList.getD j {}).known &&
              decide (192 ≤ (Y[b].toList.getD j {}).len) &&
              !((Y[b].toList.getD j {}).index == (Y[c].toList.getD j {}).index &&
                (Y[b].toList.getD j {}).slot == (Y[c].toList.getD j {}).slot)
            ∃ (K : Word) (Z : Vector YVec 8), exec (.vectorCommandComplete core) u =
                .next (u1.completed core false ts fun h => { h with
                  k := if a = 0 then h.k else h.k.set a K, y := Z,
                  yexh := h.yexh + BitVec.ofNat 48 ((List.range 16).filter spent).length }) ∧
              (∀ j : Fin 16, K.getLsbD j.val =
                if t.active x 32 j.val then
                  let l := Y[b][j]
                  let m := Y[c][j]
                  if l.index = m.index ∧ l.slot = m.slot then false
                  else if l.known ≠ m.known then decide (l.known.toNat < m.known.toNat)
                  else decide (l.index.toNat < m.index.toNat ∨ (l.index = m.index ∧ l.slot.val < m.slot.val))
                else if x.zero then false else t.k[a].getLsbD j.val) ∧
              (∀ j, 16 ≤ j → K.getLsbD j = false) ∧
              ∀ (r : YReg) (j : Fin 16), Z[r][j] =
                if (r = b ∨ r = c) ∧ spent j.val = true then { Y[r][j] with exh := true } else Y[r][j]) ∧
    (∀ (a : VReg) (b : YReg), s.unbound k [] [(true, a)] → s.room k false [] [(true, a)] = true →
      ∃ d, exec (.ycvt x a b) s = .next (s.handed k false d) ∧
        ∀ (u : State) (core : Fin 4096) (id : Nat) (ts : Fin 4) (seq : BitVec 16), u.vectorNext core (d.sent id ts seq) →
          let t := u.thread core ts
          let act := (List.range 16).filter (t.active x 32)
          let grows (ys : Vector YVec 8) : List Nat :=
            act.filterMap fun j => if (yLane ys b.val j).openFloat then some (16 * b.val + j) else none
          ∀ Y u1, u.extend (drawerOf u core (d.sent id ts seq)) grows t.y = .ok (Y, u1) →
            ∃ (V : VWord) (Z : Vector YVec 8), exec (.vectorCommandComplete core) u =
                .next (u1.completed core false ts fun h => { h with v := h.v.set a V, y := Z }) ∧
              (∀ j : Fin 16, laneOf V j 32 =
                if t.active x 32 j.val then
                  (deliver fmtF32 { rnd := .rtz } (.fin false Y[b][j].known.toNat (-192)) 0).get.1 % 2 ^ 32
                else if x.zero then 0 else laneOf t.v[a] j 32) ∧
              ∀ (r : YReg) (j : Fin 16), Z[r][j] =
                if r = b ∧ t.active x 32 j.val = true ∧ Y[r][j].known = 0 then { Y[r][j] with exh := true } else Y[r][j]) ∧
    (∀ (a : YReg) (b : SReg) (m : Word), s.plain k b → s.room k false [] [] = true →
      let ea := s.sreg k b + 512 * m
      (∃ d, exec (.yst x a b m) s = .next (s.handed k false d) ∧
        ∀ (u : State) (core : Fin 4096) (id : Nat) (ts : Fin 4) (seq : BitVec 16), u.vectorNext core (d.sent id ts seq) →
          let t := u.thread core ts
          (ea.toNat % 32 ≠ 0 →
            exec (.vectorCommandComplete core) u = .next (u.faulted core (d.sent id ts seq) 0x60 ea)) ∧
          (ea.toNat % 32 = 0 → ea.toNat + 512 ≤ 0x3C000 → (∀ j : Fin 16, t.y[a][j].len ≤ 192) →
            (∀ j, j < 64 → u.mayStore (u.taskNo core) (u.relOf core) (u.asidOf core)
              (u.absAddr core (.pad core (ea.toNat + 8 * j))) 8 = true) →
            (∀ p : Fin 8, (u.core core).parts[p] = none) → (∀ f ∈ u.fab.fly, f.core ≠ core.val) → u.mem.sram.wf = true →
            ∃ z, exec (.vectorCommandComplete core) u = .next z ∧ (z.thread core ts).y = t.y ∧
              (∀ (j : Fin 16) (o : Nat), o < 32 →
                (readByte z.mem.sram (padKey core + ea.toNat + 32 * j.val + o)).toNat = Claims.yBytes t.y[a][j] o) ∧
              ∀ g, g < padKey core + ea.toNat ∨ padKey core + ea.toNat + 512 ≤ g →
                readByte z.mem.sram g = readByte u.mem.sram g)) ∧
      (∃ d, exec (.yld x a b m) s = .next (s.handed k false d) ∧
        ∀ (u : State) (core : Fin 4096) (id : Nat) (ts : Fin 4) (seq : BitVec 16), u.vectorNext core (d.sent id ts seq) →
          let t := u.thread core ts
          let at_ (j o n : Nat) : Nat := readLE u.mem.sram (padKey core + ea.toNat + 32 * j + o) n
          let good (j : Nat) : Prop := at_ j 0x1E 1 ≤ 192 ∧ at_ j 0x1E 1 % 32 = 0 ∧ at_ j 0x1F 1 < 16 ∧
            ∀ c, c < 6 → at_ j 0x1E 1 ≤ 32 * c → at_ j (4 * c) 4 = 0
          (ea.toNat % 32 ≠ 0 →
            exec (.vectorCommandComplete core) u = .next (u.faulted core (d.sent id ts seq) 0x60 ea)) ∧
          (ea.toNat % 32 = 0 → ea.toNat + 512 ≤ 0x3C000 →
            (∀ p : Fin 8, (u.core core).parts[p] = none) → (∀ f ∈ u.fab.fly, f.core ≠ core.val) → u.mem.sram.wf = true →
            ∃ z, exec (.vectorCommandComplete core) u = .next z ∧ z.mem = u.mem ∧
              (∀ r : YReg, r ≠ a → (z.thread core ts).y[r] = t.y[r]) ∧
              ((∀ j, j < 16 → good j) → ∀ j : Fin 16, let l := (z.thread core ts).y[a][j]
                l.len = at_ j 0x1E 1 ∧ l.index.toNat = at_ j 0x18 6 ∧ l.slot.val = at_ j 0x1F 1 % 8 ∧
                l.exh = decide (8 ≤ at_ j 0x1F 1) ∧ ∀ c, c < 6 → l.known.toNat / 2 ^ (160 - 32 * c) % 2 ^ 32 = at_ j (4 * c) 4) ∧
              (∀ j, j < 16 → ¬good j → (∀ i, i < j → good i) → (z.thread core ts).y = t.y ∧
                (z.thread core ts).due.lates = t.due.lates.filter (!·.ofCmd) ++
                  [⟨seq, 0x40, ea + BitVec.ofNat 64 (32 * j), true⟩]))))

/-- The other matrix instructions (R353, R356, R362): `OCLM` claims a range of slots when none is another thread's and says
whether it did, `OSWAP` counts the exchanges of its mask and traps with 0x02 on a mask out of range, `MWAIT` waits until the
thread's matrix commands have completed. Performed (R353, R358, R363): `OREL` gives up the slots of its range that the thread set
holds, with role A, and no others; `MSTAT` gives the slots claimed by the thread set or by any, those of role B, or the array's
cycles; `ZMOVV` converts part of a row of an accumulator, read as `f32` or as 48-bit integers. -/
def Obligations.MatrixIssue : Prop :=
  ∀ (s : State) (k : Ctx) (x : Pre), s.Issues k x →
    (∀ (a : SReg) (b : OReg) (n : Word), s.plain k a →
      let c := s.core k.core
      let mine (j : Fin 32) : Prop := b.val ≤ j.val ∧ j.val ≤ b.val + n.toNat
      (∀ j : Fin 32, mine j → c.slots[j].owner = none ∨ c.slots[j].owner = some k.ts) →
        ∃ t, exec (.oclm x a b n) s = .next t ∧ (a ≠ 0 → (t.own k).s[a] = 0) ∧ t.mem = s.mem ∧
          ∀ j : Fin 32, (t.core k.core).slots[j] = if mine j then { c.slots[j] with owner := some k.ts } else c.slots[j]) ∧
    (∀ (a : SReg) (b : OReg) (n : Word) (j : Fin 32), s.plain k a → b.val ≤ j.val → j.val ≤ b.val + n.toNat →
      (∃ ts, (s.core k.core).slots[j].owner = some ts ∧ ts ≠ k.ts) →
        exec (.oclm x a b n) s = .next (s.retires k .next (·.setS a 1))) ∧
    (∀ (a : OReg) (b : SReg), s.plain k b → (s.sreg k b = 0 ∨ 0xFFF < (s.sreg k b).toNat) →
      exec (.oswap x a b) s = .next (s.traps k 0x02 0)) ∧
    (∀ (a : OReg) (b : SReg), s.plain k b → s.sreg k b ≠ 0 → (s.sreg k b).toNat ≤ 0xFFF → s.room k true [] [] = true →
      ∃ t d, exec (.oswap x a b) s = .next t ∧ (t.core k.core).mq = (s.core k.core).mq ++ [d] ∧ d.s1 = s.sreg k b ∧
        tblGet (t.core k.core).swaps (s.sreg k b).toNat 0 = tblGet (s.core k.core).swaps (s.sreg k b).toNat 0 + 1 ∧
        (t.own k).s = (s.own k).s ∧ t.mem = s.mem) ∧
    (s.idleM k = true → (s.own k).unfolded = [] → (∀ f ∈ s.storesOf k.core k.ts, f.byEngine = false) →
      exec (.mwait x) s = .next (s.retires k .next id)) ∧
    (s.idleM k = false → exec (.mwait x) s =
      .next ((s.unpopped.modThread k.core k.ts fun t => { t with matWait := true }).waits k)) ∧
    (∀ (b : OReg) (n : Word), s.room k true [] [] = true →
      ∃ d, exec (.orel x b n) s = .next (s.handed k true d) ∧
        ∀ (u : State) (core : Fin 4096) (id : Nat) (ts : Fin 4) (seq : BitVec 16), u.matrixNext core (d.sent id ts seq) →
          exec (.matrixCommandComplete core) u = .next ((u.setCore core { u.core core with
            slots := Vector.ofFn fun j : Fin 32 =>
              if b.val ≤ j.val ∧ j.val ≤ b.val + n.toNat ∧ (u.core core).slots[j].owner = some ts then {}
              else (u.core core).slots[j] }).settled core true ts)) ∧
    (∀ (a : SReg) (n : Word), n.toNat < 4 → s.unbound k [] [(false, a)] → s.room k true [] [(false, a)] = true →
      ∃ d, exec (.mstat x a n) s = .next (s.handed k true d) ∧
        ∀ (u : State) (core : Fin 4096) (id : Nat) (ts : Fin 4) (seq : BitVec 16), u.matrixNext core (d.sent id ts seq) →
          let q := u.core core
          ∃ v : Word, exec (.matrixCommandComplete core) u = .next (u.completed core true ts (·.setS a v)) ∧
            (n = 3 → v = q.arrayCycles.setWidth 64) ∧
            (n ≠ 3 → v.toNat < 2 ^ 32 ∧ ∀ j : Fin 32, v.getLsbD j.val =
              if n = 0 then q.slots[j].owner == some ts else if n = 1 then q.slots[j].owner.isSome else q.slots[j].roleB)) ∧
    (∀ (a : VReg) (b : ZReg) (c : SReg), s.plain k c → s.unbound k [] [(true, a)] → s.room k true [] [(true, a)] = true →
      let sel := (s.sreg k c).toNat
      let ty := Claims.fty x
      let w := ty.width
      sel % 32 + sel / 256 % 8 * 256 = sel → sel / 256 % 8 < 64 / ty.lanes →
      ∃ d, exec (.zmovv x a b c) s = .next (s.handed k true d) ∧
        ∀ (u : State) (core : Fin 4096) (id : Nat) (ts : Fin 4) (seq : BitVec 16), u.matrixNext core (d.sent id ts seq) →
          let lane (j : Nat) : Nat := u.zLane core b.val (sel % 32) (sel / 256 % 8 * ty.lanes + j)
          let asFloat : Prop := x.stype = .f32 ∨ (x.stype = .dflt ∧ ty.isFloat = true)
          let res (j : Nat) : Nat × Flags :=
            if asFloat then (convert .f32 ty false (ctlOf x) (lane j % 2 ^ 32)).get
            else if ty.isFloat then (deliver (ffmt ty) (ctlOf x) (.ofInt (Claims.num 48 true (lane j))) 0).get
            else (Claims.narrow w ty.isSigned x.sat (Claims.num 48 true (lane j)), 0)
          ∃ V : VWord, exec (.matrixCommandComplete core) u = .next (u.completed core true ts fun t => { t with
              v := t.v.set a V, fpflags := t.fpflags ||| (List.range ty.lanes).foldr (fun j f => (res j).2 ||| f) 0 }) ∧
            ∀ j, j < ty.lanes → laneOf V j w = (res j).1 % 2 ^ w)

/-- The integer multiply-accumulates (R193, R197, R359, R360): with claimed slots of the right roles, every lane of the
accumulator is the sum of its products, exactly, added to the old lane or overwriting it, and clamped to 48 bits with the flag
ACCOVF and, without saturation, a late fault 0x41; no other accumulator and no slot changes. `ZCLR` makes every lane 0.
The floating and the scaled ones (R194, R195, R199, R200, R359, R360): a slot that the thread set does not hold, one of the wrong role
and a scale word in error are late faults 0x43, 0x40 and 0x42 without effect; else every lane is the exact sum of its products, or of
its codes less their zero points times the two scales, added to the old lane or put over it, rounded once; the flags of all lanes
are gathered, and the array's cycles count on.
In the own scratchpad outside partitions (R354, R355, R357): `OLD`, `OLDB`, `OLDT` and `OLDTB` fill a claimed slot and set its role,
`OST` writes one, `ZST` and `ZLD` move an accumulator; an address or stride that is not aligned is a late fault 0x60. -/
def Obligations.MatrixResults : Prop :=
  (∀ (s : State) (k : Ctx) (i : Instr) (x : Pre) (a : ZReg) (b c : OReg) (e : Fin 16) (w : Nat) (ow : Bool),
    Claims.mmaInteger i = some (x, a, b, c, e, w, ow) → s.Issues k x →
    let r : SReg := e.castLE (by decide)
    s.plain k r → (s.sreg k r).toNat < 4 → s.room k true [] [] = true → c.val < 31 →
    ∃ d, exec i s = .next (s.handed k true d) ∧
      ∀ (u : State) (core : Fin 4096) (id : Nat) (ts : Fin 4) (seq : BitVec 16), u.matrixNext core (d.sent id ts seq) →
        let q := u.core core
        let c1 : OReg := ⟨(c.val + 1) % 32, Nat.mod_lt _ (by decide)⟩
        q.slots[b].owner = some ts → q.slots[c].owner = some ts → q.slots[c1].owner = some ts →
        q.slots[b].roleB = false → q.slots[c].roleB = true → q.slots[c1].roleB = true → u.mem.operand.wf = true →
        let elem (slot line n : Nat) (sg : Bool) : Int :=
          Claims.num w sg (readLE u.mem.operand (slotKey core slot + 128 * line) 128 / 2 ^ (n * w) % 2 ^ w)
        let sum (m j : Nat) : Int := Claims.total (fun _ => true) (fun n =>
          elem b m n (!(s.sreg k r).getLsbD 0) * elem (c.val + j / 32) (j % 32) n (!(s.sreg k r).getLsbD 1)) (1024 / w)
        let full (m j : Nat) : Int := (if ow then 0 else sextInt (u.zLane core a m j) 48) + sum m j
        let clamp (v : Int) : Int := Max.max (-(2 ^ 47)) (Min.min (2 ^ 47 - 1) v)
        ∃ z, exec (.matrixCommandComplete core) u = .next z ∧
          (∀ m j, m < 32 → j < 64 → sextInt (z.zLane core a m j) 48 = clamp (full m j)) ∧
          (∀ (a' : ZReg) (m j : Nat), a' ≠ a → m < 32 → j < 64 → z.zLane core a' m j = u.zLane core a' m j) ∧
          (∀ slot line : Nat, slot < 32 → line < 32 → z.slotLine core slot line = u.slotLine core slot line) ∧
          ((∃ m j, m < 32 ∧ j < 64 ∧ full m j ≠ clamp (full m j)) →
            (z.thread core ts).fpflags = (u.thread core ts).fpflags ||| flagACCOVF ∧
            (x.sat = false → (z.thread core ts).due.lates = (u.thread core ts).due.lates.filter (!·.ofCmd) ++ [⟨seq, 0x41, 0, true⟩])) ∧
          ((∀ m j, m < 32 → j < 64 → full m j = clamp (full m j)) →
            (z.thread core ts).fpflags = (u.thread core ts).fpflags ∧
            (z.thread core ts).due.lates = (u.thread core ts).due.lates)) ∧
  (∀ (s : State) (k : Ctx) (x : Pre) (a : ZReg), s.Issues k x → s.room k true [] [] = true →
    ∃ d, exec (.zclr x a) s = .next (s.handed k true d) ∧
      ∀ (u : State) (core : Fin 4096) (id : Nat) (ts : Fin 4) (seq : BitVec 16), u.matrixNext core (d.sent id ts seq) →
        u.mem.operand.wf = true →
        ∃ z, exec (.matrixCommandComplete core) u = .next z ∧ ∀ m j, m < 32 → j < 64 → z.zLane core a m j = 0) ∧
  (∀ (s : State) (k : Ctx) (i : Instr) (x : Pre) (a : ZReg) (b c : OReg) (r : SReg) (ow : Bool) (cycles : Nat)
      (bad : Prop) (val : State → Fin 4096 → Nat → Nat → XV × Flags),
    ((∃ ta tb n, r = 0 ∧ Claims.mmaFloat i = some (x, a, b, c, ta, tb, n, cycles, ow) ∧ bad = False ∧
        val = fun u core m j => Claims.exactDot (x.rnd == .rdn)
          (fun e => unpackF (ffmt ta) x.ftzi (Claims.elem (u.slotLine core b.val m) ta.width e))
          (fun e => unpackF (ffmt tb) x.ftzi (Claims.elem (u.slotLine core (c.val + j / 32) (j % 32)) tb.width e)) (n - 1)) ∨
      (∃ (e : Fin 16) (wa wb : Nat), r = e.castLE (by decide) ∧ Claims.mmaScaled i = some (x, a, b, c, e, wa, wb, ow) ∧
        let sa := (s.sreg k r).toNat % 2 ^ 32
        let sb := (s.sreg k r).toNat / 2 ^ 32
        let g := Claims.scaleGroup sa
        let na := unpackF fmtF16 x.ftzi (sa % 2 ^ 16)
        let nb := unpackF fmtF16 x.ftzi (sb % 2 ^ 16)
        let p := mulX na.1 nb.1
        cycles = (if wb = 4 then g / 2 else g) + 8 ∧ bad = Claims.scalesBad wa wb sa sb ∧
        val = fun u core m j =>
          let t := mulX (.ofInt (Claims.total (fun _ => true) (fun e =>
            Claims.codeOf wa sa (Claims.elem (u.slotLine core b.val m) wa e) *
              Claims.codeOf wb sb (Claims.elem (u.slotLine core (c.val + j / 32) (j % 32)) wb e)) g)) p.1
          (t.1, p.2 ||| sigFlags [na.2, nb.2] ||| t.2))) →
    s.Issues k x → s.plain k r → s.room k true [] [] = true → c.val < 31 →
    ∃ d, exec i s = .next (s.handed k true d) ∧
      ∀ (u : State) (core : Fin 4096) (id : Nat) (ts : Fin 4) (seq : BitVec 16), u.matrixNext core (d.sent id ts seq) →
        let q := u.core core
        let c1 : OReg := ⟨(c.val + 1) % 32, Nat.mod_lt _ (by decide)⟩
        let mine : Prop := q.slots[b].owner = some ts ∧ q.slots[c].owner = some ts ∧ q.slots[c1].owner = some ts
        let roles : Prop := q.slots[b].roleB = false ∧ q.slots[c].roleB = true ∧ q.slots[c1].roleB = true
        let late (cause : BitVec 8) : Prop :=
          exec (.matrixCommandComplete core) u = .next (u.faulted core (d.sent id ts seq) cause 0)
        let lane (m j : Nat) : Nat × Flags := Claims.into x ow (u.zLane core a.val m j) (val u core m j)
        (¬mine → late 0x43) ∧ (mine → ¬roles → late 0x40) ∧ (mine → roles → bad → late 0x42) ∧
        (mine → roles → ¬bad → u.mem.operand.wf = true → ∃ z, exec (.matrixCommandComplete core) u = .next z ∧
          (∀ m j, m < 32 → j < 64 → z.zLane core a.val m j = (lane m j).1 % 2 ^ 48) ∧
          (∀ (a' : ZReg) (m j : Nat), a' ≠ a → m < 32 → j < 64 → z.zLane core a'.val m j = u.zLane core a'.val m j) ∧
          (∀ slot line : Nat, slot < 32 → line < 32 → z.slotLine core slot line = u.slotLine core slot line) ∧
          (z.thread core ts).fpflags = (u.thread core ts).fpflags |||
            ((List.range 32).flatMap fun m => (List.range 64).map fun j => (lane m j).2).foldr (· ||| ·) 0 ∧
          (z.core core).arrayCycles = q.arrayCycles + BitVec.ofNat 48 cycles ∧
          (z.thread core ts).due = (u.thread core ts).due)) ∧
  (∀ (s : State) (k : Ctx) (x : Pre) (b c : SReg), s.Issues k x → s.plain k b → s.plain k c → s.room k true [] [] = true →
    let p := s.sreg k b
    let line := s.sreg k c
    let at_ (n : Nat) : Nat := (Claims.rowAt p line n).toNat
    let rows (n len : Nat) : Prop := ∀ m, m < n → at_ m + len ≤ 0x3C000
    let odd (al : Nat) : Prop := p.toNat % al ≠ 0 ∨ line.toNat % al ≠ 0
    let quiet (u : State) (core : Fin 4096) : Prop :=
      (∀ q : Fin 8, (u.core core).parts[q] = none) ∧ (∀ f ∈ u.fab.fly, f.core ≠ core.val) ∧ u.mem.sram.wf = true ∧
      u.mem.operand.wf = true
    let may (u : State) (core : Fin 4096) (len piece : Nat) : Prop := ∀ m j, m < 32 → j < len / piece →
      u.mayStore (u.taskNo core) (u.relOf core) (u.asidOf core) (u.absAddr core (.pad core (at_ m + piece * j))) piece = true
    let apart (m len : Nat) : Prop := ∀ l, l < 32 → m < l → at_ l + len ≤ at_ m ∨ at_ m + len ≤ at_ l
    let outside (u z : State) (core : Fin 4096) (len : Nat) : Prop :=
      ∀ g, (∀ m, m < 32 → g < padKey core + at_ m ∨ padKey core + at_ m + len ≤ g) → readByte z.mem.sram g = readByte u.mem.sram g
    (∀ (a : OReg) (i : Instr) (tr roleB : Bool), Claims.line tr line →
      (i, tr, roleB) ∈ [(Instr.old x a b c, false, false), (.oldb x a b c, false, true), (.oldt x a b c, true, false),
        (.oldtb x a b c, true, true)] →
      ∃ d, exec i s = .next (s.handed k true d) ∧
        ∀ (u : State) (core : Fin 4096) (id : Nat) (ts : Fin 4) (seq : BitVec 16), u.matrixNext core (d.sent id ts seq) →
          let w := 4 * 2 ^ (line.toNat / 2 ^ 32)
          let read (m n : Nat) : Nat := readLE u.mem.sram (padKey core + at_ m) n
          ((u.core core).slots[a].owner ≠ some ts →
            exec (.matrixCommandComplete core) u = .next (u.faulted core (d.sent id ts seq) 0x43 0)) ∧
          ((u.core core).slots[a].owner = some ts → odd 16 →
            exec (.matrixCommandComplete core) u = .next (u.faulted core (d.sent id ts seq) 0x60 p)) ∧
          ((u.core core).slots[a].owner = some ts → ¬odd 16 → quiet u core →
            (if tr then rows (1024 / w) (4 * w) else rows 32 128) →
            ∃ z, exec (.matrixCommandComplete core) u = .next z ∧ (z.core core).slots[a].roleB = roleB ∧
              z.mem.sram = u.mem.sram ∧
              (∀ n, n < 32 → if tr then ∀ e, e < 1024 / w →
                  Claims.elem (z.slotLine core a.val n) w e = Claims.elem (read e (4 * w)) w n
                else z.slotLine core a.val n = read n 128) ∧
              (∀ o n : Nat, o < 32 → o ≠ a.val → n < 32 → z.slotLine core o n = u.slotLine core o n) ∧
              ∀ (a' : ZReg) (m j : Nat), m < 32 → j < 64 → z.zLane core a'.val m j = u.zLane core a'.val m j)) ∧
    (Claims.line false line →
      (∀ a : OReg, ∃ d, exec (.ost x a b c) s = .next (s.handed k true d) ∧
        ∀ (u : State) (core : Fin 4096) (id : Nat) (ts : Fin 4) (seq : BitVec 16), u.matrixNext core (d.sent id ts seq) →
          ((u.core core).slots[a].owner ≠ some ts →
            exec (.matrixCommandComplete core) u = .next (u.faulted core (d.sent id ts seq) 0x43 0)) ∧
          ((u.core core).slots[a].owner = some ts → odd 16 →
            exec (.matrixCommandComplete core) u = .next (u.faulted core (d.sent id ts seq) 0x60 p)) ∧
          ((u.core core).slots[a].owner = some ts → ¬odd 16 → quiet u core → rows 32 128 → may u core 128 16 →
            ∃ z, exec (.matrixCommandComplete core) u = .next z ∧ z.mem.operand = u.mem.operand ∧ outside u z core 128 ∧
              ∀ m, m < 32 → apart m 128 → readLE z.mem.sram (padKey core + at_ m) 128 = u.slotLine core a.val m)) ∧
      (∀ a : ZReg,
        (∃ d, exec (.zst x a b c) s = .next (s.handed k true d) ∧
          ∀ (u : State) (core : Fin 4096) (id : Nat) (ts : Fin 4) (seq : BitVec 16), u.matrixNext core (d.sent id ts seq) →
            (odd 8 → exec (.matrixCommandComplete core) u = .next (u.faulted core (d.sent id ts seq) 0x60 p)) ∧
            (¬odd 8 → quiet u core → rows 32 512 → may u core 512 8 →
              ∃ z, exec (.matrixCommandComplete core) u = .next z ∧ z.mem.operand = u.mem.operand ∧ outside u z core 512 ∧
                ∀ m, m < 32 → apart m 512 → ∀ j, j < 64 → readLE z.mem.sram (padKey core + at_ m + 8 * j) 8 =
                  (BitVec.ofInt 64 (Claims.num 48 true (u.zLane core a.val m j))).toNat)) ∧
        (∃ d, exec (.zld x a b c) s = .next (s.handed k true d) ∧
          ∀ (u : State) (core : Fin 4096) (id : Nat) (ts : Fin 4) (seq : BitVec 16), u.matrixNext core (d.sent id ts seq) →
            (odd 8 → exec (.matrixCommandComplete core) u = .next (u.faulted core (d.sent id ts seq) 0x60 p)) ∧
            (¬odd 8 → quiet u core → rows 32 512 →
              ∃ z, exec (.matrixCommandComplete core) u = .next z ∧ z.mem.sram = u.mem.sram ∧
                (∀ m j, m < 32 → j < 64 → z.zLane core a.val m j =
                  readLE u.mem.sram (padKey core + at_ m + 8 * j) 8 % 2 ^ 48) ∧
                (∀ (a' : ZReg) (m j : Nat), a' ≠ a → m < 32 → j < 64 → z.zLane core a'.val m j = u.zLane core a'.val m j) ∧
                ∀ o n : Nat, o < 32 → n < 32 → z.slotLine core o n = u.slotLine core o n)))))

/-! ## Gangs, frames and control registers (R169, R180, R285) -/

/-- The frame of the scalar register instructions: whenever a well-formed one retires, only its destination register may
differ; every other register of every class, every bound stream and queue, the flags but for the sticky ones that a division or
a floating instruction sets, the exception registers, every other thread, the engines' queues, mailboxes, counters and slots of
every core and every byte of every memory are as they were (R188, R267). -/
def Obligations.RegisterFrame : Prop :=
  ∀ (s : State) (k : Ctx) (i : Instr) (x : Pre) (a b c : SReg),
    ((∃ f, Claims.alu i = some (x, a, b, c, f)) ∨ (∃ f, c = 0 ∧ Claims.aluImm i = some (x, a, b, f)) ∨
      (∃ f, Claims.division i = some (x, a, b, c, f)) ∨
      (∃ f, x.rnd ≠ .sr ∧ Claims.float i = some (x, a, b, c, f)) ∨
      (∃ f, c = 0 ∧ x.rnd ≠ .sr ∧ Claims.conversion i = some (x, a, b, f))) →
    s.Issues k x → (∀ n ∈ [a, b, c], (s.own k).stream false n = none) →
    ∀ t, exec i s = .next t → (t.own k).retired ≠ (s.own k).retired →
      let u := s.own k
      let z := t.own k
      (∀ n : SReg, n ≠ a → z.s[n] = u.s[n]) ∧ z.v = u.v ∧ z.k = u.k ∧ z.y = u.y ∧ z.m = u.m ∧ z.q = u.q ∧ z.ss = u.ss ∧
      z.sv = u.sv ∧ z.epc = u.epc ∧ z.cause = u.cause ∧ z.einfo = u.einfo ∧ z.estat = u.estat ∧ z.drawctr = u.drawctr ∧
      z.yxcyc = u.yxcyc ∧ z.yexh = u.yexh ∧ z.fpflags &&& u.fpflags = u.fpflags ∧
      ((∃ f, Claims.alu i = some (x, a, b, c, f)) ∨ (∃ f, Claims.aluImm i = some (x, a, b, f)) → z.fpflags = u.fpflags) ∧
      (∀ core ts, (core, ts) ≠ (k.core, k.ts) → t.thread core ts = s.thread core ts) ∧
      (∀ core, (t.core core).vq = (s.core core).vq ∧ (t.core core).mq = (s.core core).mq ∧
        (t.core core).cpseq = (s.core core).cpseq ∧ (t.core core).mailbox = (s.core core).mailbox ∧
        (t.core core).h = (s.core core).h ∧ (t.core core).slots = (s.core core).slots) ∧
      (∀ g, readByte t.mem.sram g = readByte s.mem.sram g ∧ readByte t.mem.phys g = readByte s.mem.phys g ∧
        readByte t.mem.code g = readByte s.mem.code g ∧ readByte t.mem.operand g = readByte s.mem.operand g)

/-- `CSRD` and `CSWR` (R169, R285): what the registers named here read, what a write of them leaves, the trap 0x02 with the
number for an unassigned register, a reserved bit or a register of segment 0, and the wait for the flags of engine
commands. -/
def Obligations.ControlRegisters : Prop :=
  ∀ (s : State) (k : Ctx) (x : Pre) (a : SReg), s.Issues k x → s.plain k a →
    let t := s.own k
    let c := s.core k.core
    let v := s.sreg k a
    let idle := s.idleV k && s.idleM k
    (∀ (n w : Word), (n, w) ∈ [(0x000, BitVec.ofNat 64 (s.relOf k.core)), (0x001, BitVec.ofNat 64 k.core),
        (0x020, t.drawctr.setWidth 64), (0x030, t.epc.setWidth 64), (0x031, t.cause.setWidth 64), (0x032, t.einfo),
        (0x033, t.estat), (0x040, t.fpflags.setWidth 64), (0x041, c.cpseq.setWidth 64), (0x080, c.brkmap), (0x081, c.trctl),
        (0x091, t.yxcyc.setWidth 64), (0x092, t.yexh.setWidth 64)] →
      (n = 0x040 → idle = true) → exec (.csrd x a n) s = .next (s.retires k .next (·.setS a w))) ∧
    (idle = false → exec (.csrd x a 0x040) s = .next (s.held k)) ∧
    (∀ n : Word, n.toNat ∉ [0x000, 0x001, 0x002, 0x003, 0x011, 0x012, 0x013, 0x014, 0x015, 0x016, 0x020, 0x030, 0x031, 0x032,
        0x033, 0x040, 0x041, 0x042, 0x043, 0x044, 0x050, 0x060, 0x061, 0x062, 0x063, 0x064, 0x065, 0x066, 0x067, 0x070, 0x080,
        0x081, 0x090, 0x091, 0x092] →
      exec (.csrd x a n) s = .next (s.traps k 0x02 n) ∧ exec (.cswr x a n) s = .next (s.traps k 0x02 n)) ∧
    (v.toNat < 2 ^ 48 → exec (.cswr x a 0x020) s = .next (s.retires k .next fun t => { t with drawctr := v.setWidth 48 })) ∧
    (2 ^ 48 ≤ v.toNat → exec (.cswr x a 0x020) s = .next (s.traps k 0x02 0x020)) ∧
    (v.toNat < 64 → idle = true →
      exec (.cswr x a 0x040) s = .next (s.retires k .next fun t => { t with fpflags := v.setWidth 6 })) ∧
    (v.toNat < 64 → idle = false → exec (.cswr x a 0x040) s = .next (s.held k)) ∧
    (∀ n : Word, n ∈ [(0x030 : Word), 0x031, 0x032, 0x033, 0x080, 0x081] → 0x1000 ≤ k.addr.toNat →
      exec (.cswr x a n) s = .next (s.traps k 0x02 n)) ∧
    (k.addr.toNat < 0x1000 → v.toNat < 2 ^ 16 →
      exec (.cswr x a 0x030) s = .next (s.retires k .next fun t => { t with epc := v.setWidth 16 })) ∧
    (v.toNat < 2 ^ 12 → ∀ n : Word, n ∈ [(0x000 : Word), 0x001, 0x041, 0x043, 0x090, 0x091, 0x092] →
      exec (.cswr x a n) s = .next (s.retires k .next id))

/-! ## Messages, mailboxes and copies (R170 to R172, R174, R177 to R179, R316 to R320) -/

/-- Messages (R170, R171, R316, R317): `MSEND` sends, waits while its core has no room for one more message, keeping its place
in the order of issue, or traps with 0x02 on a word or target that is not a thread set of the task; with no message under way to a
core, room is an empty register or an overflow buffer with fewer than sixteen entries; an arrival fills its empty register, unless
an earlier message of its source to it is in the overflow buffer, and else goes there while it has fewer than sixteen entries;
`MRECV` waits, empties the register and takes the oldest entry for it back in; `MPOLL` reads the sixteen full bits.
The mailbox (R172, R318) and queue updates (R174): an entry goes in while there are fewer than 64 and otherwise waits at its
source, which `held` shows while one waits or comes to a full mailbox next; the control cores' entries carry the tag 0xFFFF;
`MBWAIT` waits for a count and reads it; `MBPOP` waits for an entry and takes the oldest into a register pair; an update adds to
the free or filled slots of the handle that binds its descriptor, for an ordered queue in its turn, and waits while none does
(R304). The model's choices: messages under way take their places in the counting of room (assumption log 90), and `held` is set with
the 64th entry when another deposit is under way (assumption log 91). -/
def Obligations.MessageResults : Prop :=
  ((∀ (s : State) (k : Ctx) (x : Pre) (a b : SReg) (imm : Word) (q : Task), s.Issues k x → s.plain k a → s.plain k b →
    s.taskOf k.core = some q →
    let w := (s.sreg k b).toNat
    ((2 ^ 14 ≤ w ∨ q.crews ≤ w / 4 ∨ q.threads ≤ w % 4) → exec (.msend x a b imm) s = .next (s.traps k 0x02 0)) ∧
    let room := s.messageRoom (q.base + w / 4) (clampFin 4 (w % 4) (by decide)) (clampFin 16 (imm.toNat % 16) (by decide))
    (w < 2 ^ 14 → w / 4 < q.crews → w % 4 < q.threads → room = false → ∃ t, exec (.msend x a b imm) s = .next t ∧
      (t.own k).run = .waiting ∧ (t.own k).pc = (s.own k).pc ∧ (t.own k).s = (s.own k).s ∧
      (t.own k).sending = some ((s.own k).sending.getD s.fab.nextId) ∧ t.fab.fly = s.fab.fly ∧ t.mem = s.mem) ∧
    (w < 2 ^ 14 → w / 4 < q.crews → w % 4 < q.threads → room = true →
      ∃ t f, exec (.msend x a b imm) s = .next t ∧ t.fab.fly = s.fab.fly ++ [f] ∧ f.core = k.core ∧ f.ts = k.ts ∧
        (∃ m, f.what = .msg (q.base + w / 4) m ∧ m.ts.val = w % 4 ∧ m.reg.val = imm.toNat % 16 ∧ m.val = s.sreg k a) ∧
        (t.own k).s = (s.own k).s ∧ t.mem = s.mem ∧ (t.own k).pc = ((s.own k).loopNext k.next).pc)) ∧
  (∀ (s : State) (dst : Nat) (u : Fin 4) (r : Fin 16), (∀ f ∈ s.fab.fly, ∀ m, f.what ≠ .msg dst m) →
    (s.messageRoom dst u r = true ↔ ((s.thread dst u).m[r]).full = false ∨ (s.core dst).overflow.length < 16)) ∧
  (∀ (s : State) (k : Ctx) (x : Pre) (a : SReg) (r : Fin 16), s.Issues k x → s.plain k a →
    let n : Word := BitVec.ofNat 64 r.val
    let reg := (s.own k).m[r]
    (∃ w : Word, exec (.mpoll x a) s = .next (s.retires k .next (·.setS a w)) ∧
      (∀ j : Fin 16, w.getLsbD j = ((s.own k).m[j]).full) ∧ ∀ j, 16 ≤ j → w.getLsbD j = false) ∧
    (reg.full = false → exec (.mrecv x a n) s = .next (s.held k)) ∧
    (reg.full = true → (∀ q, s.taskOf k.core = some q → q.record = false ∧ q.replay = false) →
      (s.core k.core).overflow.length ≤ 16 → ∃ t, exec (.mrecv x a n) s = .next t ∧ (a ≠ 0 → (t.own k).s[a] = reg.val) ∧
      t.mem = s.mem ∧
      (let full := ∀ m ∈ (s.core k.core).overflow, (((s.core k.core).thr[m.ts]).m[m.reg]).full = true
       match (s.core k.core).overflow.find? fun m => m.ts == k.ts && m.reg == r with
        | some m => (t.own k).m[r] = ⟨m.val, true⟩ ∧
          (full → (t.core k.core).overflow = (s.core k.core).overflow.erase m)
        | none => ((t.own k).m[r]).full = false ∧ (full → (t.core k.core).overflow = (s.core k.core).overflow)))) ∧
  (∀ (s : State) (f : Fly) (dst : Nat) (m : Msg), s.fab.fly.find? (·.id == f.id) = some f → f.what = .msg dst m →
    s.behindStores f = false → s.behindMessage f dst m = false →
    (∀ q, s.taskOf dst = some q → q.record = false ∧ q.replay = false) →
    let reg := (s.thread dst m.ts).m[m.reg]
    let earlier := ∃ o ∈ (s.core dst).overflow, o.ts = m.ts ∧ o.reg = m.reg ∧ o.src = m.src
    (reg.full = false → ¬earlier → ∃ t, exec (.messageArrive f.id) s = .next t ∧ (t.thread dst m.ts).m[m.reg] = ⟨m.val, true⟩ ∧
      t.mem = s.mem ∧ t.fab.fly = s.fab.fly.filter (·.id != f.id)) ∧
    ((reg.full = true ∨ earlier) → (s.core dst).overflow.length < 16 → ∃ t, exec (.messageArrive f.id) s = .next t ∧
      (t.core dst).overflow = (s.core dst).overflow ++ [m] ∧ (t.thread dst m.ts).m = (s.thread dst m.ts).m ∧
      t.fab.fly = s.fab.fly.filter (·.id != f.id)) ∧
    ((reg.full = true ∨ earlier) → 16 ≤ (s.core dst).overflow.length → exec (.messageArrive f.id) s = .next s))) ∧
  ((∀ (s : State) (k : Ctx) (x : Pre) (a : SReg) (n : Word), s.Issues k x → s.plain k a → s.plain k (pairHigh a) →
    let l := (s.core k.core).mailbox
    (n.toNat ≤ l.length → exec (.mbwait x a n) s = .next (s.retires k .next (·.setS a (BitVec.ofNat 64 l.length)))) ∧
    (l.length < n.toNat → exec (.mbwait x a n) s = .next (s.held k)) ∧
    (l = [] → exec (.mbpop x a) s = .next (s.held k)) ∧
    (∀ w0 w1 r, l = (w0, w1) :: r → ∃ t, exec (.mbpop x a) s = .next t ∧ (t.core k.core).mailbox = r ∧
      (a ≠ 0 → (t.own k).s[a] = w0) ∧ (pairHigh a ≠ 0 → (t.own k).s[pairHigh a] = w1) ∧
      (∀ n : SReg, n ≠ a → n ≠ pairHigh a → (t.own k).s[n] = (s.own k).s[n]) ∧ t.mem = s.mem)) ∧
  (∀ (s : State) (f : Fly) (dst : Nat) (w0 w1 : Word) (e : Bool), s.fab.fly.find? (·.id == f.id) = some f →
    f.what = .deposit dst w0 w1 e → s.behindStores f = false → s.behindDeposit f dst = false →
    (∀ q, s.taskOf dst = some q → q.record = false ∧ q.replay = false) →
    let c := s.core dst
    (c.mailbox.length < 64 → ∃ t, exec (.mailboxDeposit (.sent f.id)) s = .next t ∧
      (t.core dst).mailbox = c.mailbox ++ [(w0, w1)] ∧ (t.core dst).deposits = c.deposits + 1 ∧ t.mem = s.mem ∧
      ((t.core dst).mbHeld = true ↔ c.mailbox.length = 63 ∧
        ∃ g ∈ s.fab.fly, g.id ≠ f.id ∧ ∃ u v b, g.what = .deposit dst u v b) ∧
      t.fab.fly = s.fab.fly.filter (·.id != f.id)) ∧
    (64 ≤ c.mailbox.length → exec (.mailboxDeposit (.sent f.id)) s = .next (s.setCore dst { c with mbHeld := true }))) ∧
  (∀ (s : State) (core : Fin 4096) (w0 w1 : Word), ∃ t f,
    exec (.mailboxDeposit (.system core w0 w1)) s = .next t ∧ t.fab.fly = s.fab.fly ++ [f] ∧ t.mem = s.mem ∧
    f.what = .deposit core (BitVec.ofNat 64 (0xFFFF * 2 ^ 48 + w0.toNat % 2 ^ 48)) w1 true) ∧
  (∀ (s : State) (f : Fly) (dst p : Nat) (filled : Bool) (n carried : BitVec 32),
    s.fab.fly.find? (·.id == f.id) = some f → f.what = .qupd dst p filled n carried → s.behindStores f = false →
    ((∀ (u : Fin 4) (r : QReg) (q : QCopy), ((s.core dst).thr[u]).q[r] = some q → q.addr ≠ p) →
      exec (.queueUpdateArrive f.id) s = .next s) ∧
    (∀ (u : Fin 4) (r : QReg) (q : QCopy), (s.core dst).binder p = some (u, r, q) →
      ∃ t z, exec (.queueUpdateArrive f.id) s = .next t ∧ (t.thread dst u).q[r] = some z ∧ t.mem = s.mem ∧
        t.fab.fly = s.fab.fly.filter (·.id != f.id) ∧ z.head = q.head ∧ z.tail = q.tail ∧
        (filled = false → z.free = q.free + n ∧ z.filled = q.filled) ∧
        (filled = true → z.free = q.free ∧ (q.seqord = false → z.filled = q.filled + n) ∧
          (q.seqord = true → q.held = [] →
            (carried = q.seq → z.filled = q.filled + n ∧ z.seq = q.seq + n ∧ z.held = []) ∧
            (BitVec.slt 0 (carried - q.seq) = true → z.filled = q.filled ∧ z.seq = q.seq ∧ z.held = [(carried, n)]))))))

/-- The copy queue at issue (R177, R179, R319, R320): with fewer than eight entries in use a request goes in and the register
reads 0, and a segment fetch makes its segment invalid; with eight, `COPY` and `CFET` wait and `COPYB` and `CFETB` give 1;
operands out of range trap.
Copies and fetches performed (R177, R179): a copy between ranges of the core's own scratchpad that do not overlap, with no
store of the core under way and no partition or other core's region there, moves every byte, changes no other, and deposits
its tag with status 0 and its length; a malformed request deposits status 3 and moves nothing; a fetch that reads its 4 KiB
puts them into instruction memory and makes the segment valid when it is the last, and is made only after the thread's earlier
stores have landed (R163). -/
def Obligations.CopyResults : Prop :=
  (∀ (s : State) (k : Ctx) (x : Pre) (a b c : SReg), s.Issues k x → s.plain k a → s.plain k b → s.plain k c →
    let p := s.sreg k b
    let g := s.sreg k b
    let w := s.sreg k c
    (p.toNat < 0x3C000 → p.toNat % 32 = 0 → s.acquiring k.core k.ts = false →
      (s.copyLoad k.core < 8 → ∀ i ∈ [Instr.copy x a b, .copyb x a b], ∃ t r, exec i s = .next t ∧
        (t.core k.core).copyq = (s.core k.core).copyq ++ [r] ∧ r.ts = k.ts ∧ r.cfet = none ∧
        r.words = wordsOf64 4 (s.seenBytes k.core k.ts (.sram (padKey k.core + p.toNat)) 32) ∧
        (a ≠ 0 → (t.own k).s[a] = 0) ∧ t.mem = s.mem ∧ (t.own k).pc = ((s.own k).loopNext k.next).pc) ∧
      (8 ≤ s.copyLoad k.core → exec (.copy x a b) s = .next (s.held k) ∧
        exec (.copyb x a b) s = .next (s.retires k .next (·.setS a 1)))) ∧
    ((g = 0 ∨ 15 < g.toNat ∨ w.getLsbD 63 = false) →
      exec (.cfet x a b c) s = .next (s.traps k 0x02 0) ∧ exec (.cfetb x a b c) s = .next (s.traps k 0x02 0)) ∧
    (g ≠ 0 → g.toNat ≤ 15 → w.getLsbD 63 = true → w.toNat % 64 ≠ 0 →
      exec (.cfet x a b c) s = .next (s.traps k 0x60 w) ∧ exec (.cfetb x a b c) s = .next (s.traps k 0x60 w)) ∧
    (g ≠ 0 → g.toNat ≤ 15 → w.getLsbD 63 = true → w.toNat % 64 = 0 → s.acquiring k.core k.ts = false →
      (s.copyLoad k.core < 8 → ∀ i ∈ [Instr.cfet x a b c, .cfetb x a b c], ∃ t r, exec i s = .next t ∧
        (t.core k.core).copyq = (s.core k.core).copyq ++ [r] ∧ (∃ n, r.cfet = some (n, w) ∧ n.val = g.toNat) ∧
        (t.core k.core).segValid.getLsbD g.toNat = false ∧ (a ≠ 0 → (t.own k).s[a] = 0) ∧ t.mem = s.mem) ∧
      (8 ≤ s.copyLoad k.core → exec (.cfet x a b c) s = .next (s.held k) ∧
        exec (.cfetb x a b c) s = .next (s.retires k .next (·.setS a 1))))) ∧
  ((∀ (s : State) (core : Fin 4096) (r : CopyReq) (rest : List CopyReq) (src dst len tag : Nat),
    (s.core core).copyq = r :: rest → r.cfet = none → (∀ f ∈ s.fab.fly, f.core ≠ core.val) →
    r.words = [0, BitVec.ofNat 64 src, BitVec.ofNat 64 dst, BitVec.ofNat 64 (tag * 2 ^ 48 + len)] → tag < 2 ^ 16 → 0 < len →
    src + len ≤ 0x3C000 → dst + len ≤ 0x3C000 → (src + len ≤ dst ∨ dst + len ≤ src) →
    (∀ p : Fin 8, (s.core core).parts[p] = none) → s.mem.sram.wf = true →
    (∀ q, s.taskOf core = some q → q.record = false ∧ q.replay = false) →
    (∀ a, dst ≤ a → a < dst + len →
      s.mayStore (s.taskNo core) (s.relOf core) (s.asidOf core) (s.absAddr core (.pad core a)) 1 = true) →
    ∃ t f, exec (.copyRequestComplete core) s = .next t ∧ (t.core core).copyq = rest ∧ t.fab.fly = s.fab.fly ++ [f] ∧
      f.what = .deposit core (BitVec.ofNat 64 (tag * 2 ^ 48)) (BitVec.ofNat 64 len) true ∧
      (∀ j, j < len → readByte t.mem.sram (padKey core + dst + j) = readByte s.mem.sram (padKey core + src + j)) ∧
      (∀ g, g < padKey core + dst ∨ padKey core + dst + len ≤ g → readByte t.mem.sram g = readByte s.mem.sram g) ∧
      t.mem.phys = s.mem.phys) ∧
  (∀ (s : State) (core : Fin 4096) (r : CopyReq) (rest : List CopyReq), (s.core core).copyq = r :: rest → r.cfet = none →
    (∀ f ∈ s.fab.fly, f.core ≠ core.val) → s.copyMalformed core r = true →
    (∀ q, s.taskOf core = some q → q.record = false ∧ q.replay = false) →
    ∃ t f w, exec (.copyRequestComplete core) s = .next t ∧ (t.core core).copyq = rest ∧ t.fab.fly = s.fab.fly ++ [f] ∧
      f.what = .deposit core w 0 true ∧ w.toNat / 2 ^ 40 % 2 ^ 8 = 3 ∧
      w.toNat / 2 ^ 48 = (r.words.getD 3 0).toNat / 2 ^ 48 ∧ t.mem = s.mem) ∧
  (∀ (s s1 : State) (core : Fin 4096) (r : CopyReq) (rest : List CopyReq) (g : Fin 16) (a : Word) (bs : List Byte),
    (s.core core).copyq = r :: rest → r.cfet = some (g, a) →
    ((∃ f ∈ s.storesOf core r.ts, f.id < r.id) → exec (.cfetLand core) s = .next s) ∧
    (s.bandwidthHeld core = false → (∀ f ∈ s.storesOf core r.ts, ¬f.id < r.id) →
    s.fetchBytes core a = (.ok bs, s1) → (s1.core core).brkmap.getLsbD 63 = false → s1.mem.code.wf = true →
    ∃ t, exec (.cfetLand core) s = .next t ∧ (t.core core).copyq = (s1.core core).copyq.drop 1 ∧
      (t.core core).segFetch[g] = (s1.core core).segFetch[g] - 1 ∧
      ((s1.core core).segFetch[g] = 1 → (t.core core).segValid.getLsbD g.val = true) ∧
      (∀ j, j < bs.length → readByte t.mem.code (codeKey core (g.val * 4096) + j) = bs.getD j 0) ∧ t.mem.sram = s1.mem.sram)))

/-! ## Threads and gangs (R321 to R327) -/

/-- `SPLIT`, `THSTART`, `THSTOP`, `HALT`, `YIELD`, `TRACE` and `BGTRD` (R322 to R327): `SPLIT` dissolves the issuer's gang, whether
one member issues it in its handler or the gang executes it, and has no effect outside one (that `SPLIT`, `HALT` and `THSTOP` of a member in its handler act on
the whole gang is the model's choice, assumption log 114); a thread set starts at an even address
when it is stopped, with status 0, once the issuer's stores have landed (the model's choice, assumption log 37), and otherwise the register reads 1, 2 or 3; one that is
named stops at its next boundary; `HALT` stops the issuer with its gang; `YIELD` and `TRACE` change no register, and `TRACE` puts a
marker record of format 3, with the time since the core's last record and the value of its register, into the stream region while
`itrace` and `enable` are 1, and otherwise has no effect (R243, R326); `BGTRD` reads the state of every thread set or the issuer's
gang. -/
def Obligations.ThreadResults : Prop :=
  (∀ (s : State) (k : Ctx) (x : Pre) (a b c : SReg), s.Issues k x → s.plain k a → s.plain k b → s.plain k c →
    let n := (s.sreg k b).toNat
    let p := s.sreg k c
    let own := s.own k
    let w := own.gwidth
    let first := k.core - own.gpos
    let stops (i : Instr) : Prop := ∃ z, exec i s = .next z ∧ (z.own k).run = .stopped ∧ (z.own k).s = own.s ∧ z.mem = s.mem ∧
      ∀ i, i < w → (z.thread (first + i) k.ts).live = false
    (w = 1 → own.gpos = 0 → exec (.split x) s = .next (s.retires k .next id)) ∧
    (own.gpos < w → own.gpos ≤ k.core → ∃ z, exec (.split x) s = .next z ∧ z.mem = s.mem ∧
      (z.own k).pc = (own.loopNext k.next).pc ∧ (z.own k).retired = own.retired + 1 ∧
      ∀ i, i < w → (z.thread (first + i) k.ts).gwidth = 1 ∧ (z.thread (first + i) k.ts).gpos = 0 ∧
        (z.thread (first + i) k.ts).s = (s.thread (first + i) k.ts).s) ∧
    exec (.yield x) s = .next (s.retires k .next id) ∧
    (3 < n → exec (.thstart x a b c) s = .next (s.retires k .next (·.setS a 2))) ∧
    (∀ ts : Fin 4, n = ts.val →
      let t := s.thread k.core ts
      (t.run = .off → exec (.thstart x a b c) s = .next (s.retires k .next (·.setS a 2))) ∧
      (t.run ≠ .off → p.getLsbD 0 = true → exec (.thstart x a b c) s = .next (s.retires k .next (·.setS a 3))) ∧
      (t.run ≠ .off → p.getLsbD 0 = false → (t.run ≠ .stopped ∨ ts = k.ts) →
        exec (.thstart x a b c) s = .next (s.retires k .next (·.setS a 1))) ∧
      (t.run = .stopped → p.getLsbD 0 = false → ts ≠ k.ts →
        (s.storesDone k = false → exec (.thstart x a b c) s = .next (s.held k)) ∧
        (s.storesDone k = true → ∃ z, exec (.thstart x a b c) s = .next z ∧
          (z.thread k.core ts).run = .running ∧ (z.thread k.core ts).pc = p.setWidth 16 ∧
          (z.thread k.core ts).gwidth = 1 ∧ (k.core, ts) ∈ z.runq ∧ (z.thread k.core ts).s = t.s ∧
          (a ≠ 0 → (z.own k).s[a] = 0)))) ∧
    (3 < n → exec (.thstop x b) s = .next (s.traps k 0x02 0)) ∧
    (∀ ts : Fin 4, n = ts.val →
      let t := s.thread k.core ts
      (ts ≠ k.ts → t.gwidth ≠ 1 → exec (.thstop x b) s = .next (s.traps k 0x02 0)) ∧
      (ts ≠ k.ts → t.gwidth = 1 → (t.run = .off ∨ t.run = .stopped) →
        exec (.thstop x b) s = .next (s.retires k .next id)) ∧
      (ts ≠ k.ts → t.gwidth = 1 → t.live = true → ∃ z, exec (.thstop x b) s = .next z ∧
        (z.thread k.core ts).stopReq = true ∧ (z.thread k.core ts).pc = t.pc ∧ (z.thread k.core ts).run = t.run) ∧
      (ts = k.ts → own.run = .running → own.gpos < w → own.gpos ≤ k.core → stops (.thstop x b))) ∧
    (own.run = .running → own.gpos < w → own.gpos ≤ k.core → stops (.halt x)) ∧
    (∃ z, exec (.trace x a) s = .next z ∧ (z.own k).s = own.s ∧ (z.own k).v = own.v ∧
      (z.own k).pc = (own.loopNext k.next).pc ∧ z.mem = s.mem ∧
      (let q := s.core k.core
       let gone := s.cycle - q.trTime
       let bs : List Byte := BitVec.ofNat 8 (0xC0 + k.ts.val * 16 + 4) :: BitVec.ofNat 8 gone :: leBytes 8 (s.sreg k a).toNat
       let at_ := q.trBytes.toNat % q.streamSize
       (¬(q.trctl.getLsbD 0 = true ∧ q.trctl.getLsbD 2 = true ∧ q.trctl.getLsbD 63 = true) → z = s.retires k .next id) ∧
       (q.trctl.getLsbD 0 = true → q.trctl.getLsbD 2 = true → q.trctl.getLsbD 63 = true → q.trGap = 0 → gone < 128 →
         q.trSince < 255 → q.stagedBytes + 10 ≤ 8192 → at_ + 10 ≤ q.streamSize → q.trBytes.toNat + 10 ≤ q.streamSize →
         (z.core k.core).trStaged = q.trStaged ++ [((q.traceBase + BitVec.ofNat 64 (0x10040 + at_)).toNat, bs)] ∧
         (z.core k.core).trBytes = q.trBytes + 10 ∧ (z.core k.core).trTime = s.cycle))) ∧
    (∃ v : Word, exec (.bgtrd x a 0) s = .next (s.retires k .next (·.setS a v)) ∧ v.toNat < 2 ^ 16 ∧
      ∀ ts : Fin 4,
        let t := s.thread k.core ts
        v.toNat / 16 ^ ts.val % 16 = (match t.run with
          | .off => 0
          | .stopped => 1
          | .parked => 4
          | .running => if t.inh ∨ t.phand then 4 else 2
          | .waiting => if t.inh ∨ t.phand then 4 else if ts = k.ts then 2 else 3)) ∧
    (∀ i : Word, i ≠ 0 →
      (w = 1 → exec (.bgtrd x a i) s = .next (s.retires k .next (·.setS a 0))) ∧
      (w ≠ 1 → exec (.bgtrd x a i) s = .next (s.retires k .next
        (·.setS a (BitVec.ofNat 64 (w * 2 ^ 24 + own.gpos * 2 ^ 16 + (s.relOf k.core - own.gpos)))))))) ∧
  (∀ (s : State) (k : Ctx) (x : Pre), s.fetch = some k → k.lead = none → (s.own k).alone = false → (s.own k).gpos = 0 →
    (∀ m ∈ s.gangOf k, s.waitOver m x = true) →
    ∃ t, exec (.split x) s = .next t ∧ t.mem = s.mem ∧ ∀ m ∈ s.gangOf k,
      (t.own m).gwidth = 1 ∧ (t.own m).gpos = 0 ∧ (t.own m).pc = ((s.own k).loopNext k.next).pc ∧
      (t.own m).retired = (s.own m).retired + 1 ∧ (t.own m).s = (s.own m).s)

/-- `GANG` (R321): it traps with 0x02 when the block holds a core without a crew or whose crew has finished, or a thread set of
the block is in a gang; it waits, keeping its width and the address after it, until the thread set of every other core of the block
waits in `GANG` with the same width; and then the gang forms, each member with the width and its place, one more instruction
retired, and going on where its first core does after its `GANG`; no memory and no other thread changes. The model's choices: the
trap covers every thread set of the block that is in a gang or whose crew has finished (assumption log 13), and the members take
the leader's loop state (assumption log 14).
A gang executes its leader's instruction on every member, with the member's own registers; every member counts it and goes on
where the leader does (R180). -/
def Obligations.GangResults : Prop :=
  (∀ (s : State) (k : Ctx) (x : Pre) (g : Fin 5) (q : Task), s.Issues k x → g ≠ 0 → s.taskOf k.core = some q →
    let w := 2 ^ g.val
    let rel := s.relOf k.core
    let first := k.core - rel % w
    let n : Word := BitVec.ofNat 64 g.val
    let h (i : Nat) : Thread := s.thread (first + i) k.ts
    rel ≤ k.core →
    (q.crews < rel - rel % w + w → exec (.gang x n) s = .next (s.traps k 0x02 0)) ∧
    ((∃ i, i < w ∧ (h i).gwidth ≠ 1) → exec (.gang x n) s = .next (s.traps k 0x02 0)) ∧
    ((∃ i, i < w ∧ ∀ c, (s.core (first + i)).crew = some c → c.finished = true) →
      exec (.gang x n) s = .next (s.traps k 0x02 0)) ∧
    (rel - rel % w + w ≤ q.crews →
      (∀ i, i < w → (h i).gwidth = 1 ∧ ∃ c, (s.core (first + i)).crew = some c ∧ c.finished = false) →
      ((∃ i, i < w ∧ first + i ≠ k.core ∧ ∀ p, (h i).joining ≠ some (w, p)) → ∃ t,
        exec (.gang x n) s = .next t ∧ (t.own k).run = .waiting ∧ (t.own k).joining = some (w, k.next) ∧
        (t.own k).pc = (s.own k).pc ∧ (t.own k).retired = (s.own k).retired ∧ (t.own k).s = (s.own k).s ∧ t.mem = s.mem ∧
        (∀ c us, (c, us) ≠ (k.core, k.ts) → t.thread c us = s.thread c us)) ∧
      (∀ p, (∀ i, i < w → first + i ≠ k.core → ∃ p, (h i).joining = some (w, p)) →
        (first = k.core → p = k.next) → (first ≠ k.core → (h 0).joining = some (w, p)) → ∃ t,
        exec (.gang x n) s = .next t ∧ t.mem = s.mem ∧
        (∀ i, i < w →
          let z := t.thread (first + i) k.ts
          z.gwidth = w ∧ z.gpos = i ∧ z.run = .running ∧ z.joining = none ∧ z.pc = ((h 0).loopNext p).pc ∧
          z.loop = ((h 0).loopNext p).loop ∧ z.retired = (h i).retired + 1 ∧ z.s = (h i).s ∧ z.v = (h i).v) ∧
        (∀ c us, (∀ i, i < w → (c, us) ≠ (first + i, k.ts)) → t.thread c us = s.thread c us)))) ∧
  (∀ (s : State) (k : Ctx) (i : Instr) (x : Pre) (a b c : SReg) (f : Word → Word → Word),
    Claims.alu i = some (x, a, b, c, f) → s.fetch = some k → k.lead = none → (s.own k).alone = false → (s.own k).gpos = 0 →
    (∀ m ∈ s.gangOf k, s.waitOver m x = true ∧ s.plain m a ∧ s.plain m b ∧ s.plain m c) →
    ∃ t, exec i s = .next t ∧ t.fetch = some k ∧ t.mem = s.mem ∧ ∀ m ∈ s.gangOf k,
      (a ≠ 0 → (t.own m).s[a] = f (s.sreg m b) (s.sreg m c)) ∧ (∀ n : SReg, n ≠ a → (t.own m).s[n] = (s.own m).s[n]) ∧
      (t.own m).pc = ((s.own k).loopNext k.next).pc ∧ (t.own m).retired = (s.own m).retired + 1)

/-! ## Partitions (R133, R134, R144 to R148, R381 to R385) -/

/-- The partition instructions (R133, R134, R144, R148, R381 to R385): `PDECL` declares a partition, not yet confirmed, of a good
descriptor with its split table, its two counters 0, and traps with 0x02 at a level out of reach, 0x82 on a number in use, 0x80 on a malformed
descriptor, 0x81 on a depth that the core's blocks do not have and 0x87 on arrays out of place; `PFREE` and `LAPX` mark, `LAPW`
waits for the slabs that the refresh of an arrival not yet released, else the last one, sets in flight (which refresh that is, is
the model's reading, assumption log 125), `PINFO` reads its item, each with 0x82 on an absent partition but for item 8; and a slab
leaves the in-flight mask when its plan has run to its last flit, not before (R145; the plan's clock is the model's choice,
assumption log 46). That `PINFO` waits for the thread's vector commands before its own checks is the model's choice (assumption
log 120). -/
def Obligations.PartitionResults : Prop :=
  (∀ (s : State) (k : Ctx) (x : Pre) (a : Fin 8) (b : SReg) (c : Fin 8) (q : Task), s.Issues k x → s.plain k b →
    s.taskOf k.core = some q → (s.sreg k b).toNat < 0x3C000 → (s.sreg k b).toNat + 128 ≤ 0x3C000 →
    (s.sreg k b).toNat % 16 = 0 → s.acquiring k.core k.ts = false →
    let bs := s.seenBytes k.core k.ts (.sram (padKey k.core + (s.sreg k b).toNat)) 128
    let ws := wordsOf64 16 bs
    let reach := (s.core k.core).domEff.getLsbD c.val = true ∧ c.val ≤ q.level
    (¬reach → exec (.pdecl x a b c) s = .next (s.traps k 0x02 0)) ∧
    (reach → ∀ p, (s.core k.core).parts[a] = some p → exec (.pdecl x a b c) s = .next (s.traps k 0x82 0)) ∧
    (reach → (s.core k.core).parts[a] = none → pdBadFields ws = true → exec (.pdecl x a b c) s = .next (s.traps k 0x80 0)) ∧
    (reach → (s.core k.core).parts[a] = none → pdBadFields ws = false →
      let n := pdPoints ws
      let at_ := pdField ws 4 17 0
      let tbl := s.seenBytes k.core k.ts (.sram (padKey k.core + at_)) (4 * n)
      let splits : List (BitVec 32) := (List.range n).map fun i => BitVec.ofNat 32 (leNat ((tbl.drop (4 * i)).take 4))
      let ds := pdDims ws splits
      let fits := n = 0 ∨ at_ + 4 * n ≤ 0x3C000
      let sound := ds.all Dim.rising = true ∧ s.ownersCrewed k.core c.val ws ds = true ∧ pdTooMany ws ds = false
      ((¬fits ∨ ¬sound) → exec (.pdecl x a b c) s = .next (s.traps k 0x80 0)) ∧
      (∀ own e, fits → sound → ownDims ws ds (s.relOf k.core) = some own → badDepth own = some e →
        exec (.pdecl x a b c) s = .next (s.traps k 0x81 (BitVec.ofNat 64 e))) ∧
      (∀ own, fits → sound → ownDims ws ds (s.relOf k.core) = some own → badDepth own = none →
        s.badPlacement k.core ⟨ws, own⟩ = true → exec (.pdecl x a b c) s = .next (s.traps k 0x87 0)) ∧
      (fits → sound → (∀ own, ownDims ws ds (s.relOf k.core) = some own →
        badDepth own = none ∧ s.badPlacement k.core ⟨ws, own⟩ = false) →
      ∃ t p, exec (.pdecl x a b c) s = .next t ∧ (t.core k.core).parts[a] = some p ∧ p.level = c.val ∧ p.desc = ws ∧
        p.splits = splits ∧ p.confirmed = false ∧ p.hash = pdHash ws splits ∧
        (t.core k.core).staleCounts[a] = 0 ∧ (t.core k.core).waitCounts[a] = 0 ∧
        (∀ n : Fin 8, n ≠ a → (t.core k.core).parts[n] = (s.core k.core).parts[n]) ∧
        (t.own k).s = (s.own k).s ∧ t.mem = s.mem))) ∧
  (∀ (s : State) (k : Ctx) (x : Pre) (a : SReg) (n : Fin 8) (b : SReg), s.Issues k x → s.plain k a → s.plain k b →
    let m := s.sreg k b
    ((s.core k.core).parts[n] = none → exec (.pfree x n) s = .next (s.traps k 0x82 0) ∧
      exec (.lapx x n) s = .next (s.traps k 0x82 0) ∧
      ((s.own k).lapFor = none → exec (.lapw x n b) s = .next (s.traps k 0x82 0)) ∧
      (m.toNat < 8 → s.idleV k = true → exec (.pinfo x a n b) s = .next (s.traps k 0x82 0)) ∧
      (m = 8 → s.idleV k = true → exec (.pinfo x a n b) s = .next (s.retires k .next (·.setS a 0)))) ∧
    (8 < m.toNat → s.idleV k = true → exec (.pinfo x a n b) s = .next (s.traps k 0x02 0)) ∧
    (s.idleV k = false → exec (.pinfo x a n b) s = .next (s.held k)) ∧
    (∀ p, (s.core k.core).parts[n] = some p →
      (∃ t z, exec (.pfree x n) s = .next t ∧ (t.core k.core).parts[n] = some z ∧ z = { p with freeMark := true } ∧
        t.mem = s.mem) ∧
      (∃ t z, exec (.lapx x n) s = .next t ∧ (t.core k.core).parts[n] = some z ∧ z = { p with refreshMark := true } ∧
        t.mem = s.mem) ∧
      (let r := (s.core k.core).ridgeAt p.level
       let coming := r.released < r.arrivals ∧ p.sentRefresh = true
       let flying := p.flight &&& m.setWidth 26 ≠ 0
       ((s.own k).lapFor = none → ¬coming → ¬flying → exec (.lapw x n b) s = .next (s.retires k .next id)) ∧
       ((s.own k).lapFor = none → coming ∨ flying → ∃ t, exec (.lapw x n b) s = .next t ∧ (t.own k).run = .waiting ∧
         (t.own k).lapFor = some (if r.released < r.arrivals ∧ p.sentRefresh = true then r.arrivals else r.released) ∧
         (t.own k).pc = (s.own k).pc ∧ (t.own k).s = (s.own k).s ∧ t.mem = s.mem) ∧
       (∀ j, (s.own k).lapFor = some j →
         (r.released < j ∨ (r.released = j ∧ flying) → exec (.lapw x n b) s = .next (s.held k)) ∧
         (j < r.released ∨ (r.released = j ∧ ¬flying) → exec (.lapw x n b) s = .next (s.retires k .next id)))) ∧
      (m.toNat < 8 → s.idleV k = true → exec (.pinfo x a n b) s = .next (s.retires k .next
        (·.setS a (p.info (s.relOf k.core) m.toNat (s.core k.core).staleCounts[n] (s.core k.core).waitCounts[n])))) ∧
      (m = 8 → s.idleV k = true → exec (.pinfo x a n b) s = .next (s.retires k .next (·.setS a (partState (some p))))) ∧
      (m = 4 → s.idleV k = true → p.confirmed = true → exec (.pinfo x a n b) s = .next (s.retires k .next
        (·.setS a (BitVec.ofNat 64 (p.flight.toNat * 2 ^ 32 + p.stale.toNat))))))) ∧
  (∀ (s : State) (core : Fin 4096) (n : Fin 8) (slab : Fin 26) (p : Part) (q : Task) (g : Geom),
    (s.core core).parts[n] = some p → s.taskOf core = some q → p.geom (s.relOf core) = some g →
    (p.flight.getLsbD slab.val = false → exec (.slabLand core n slab) s = .next s) ∧
    (p.clock < p.landsAt slab.val → exec (.slabLand core n slab) s = .next s) ∧
    (p.flight.getLsbD slab.val = true → p.landsAt slab.val ≤ p.clock → ∃ t z,
        exec (.slabLand core n slab) s = .next t ∧ (t.core core).parts[n] = some z ∧
        (∀ j : Fin 26, z.flight.getLsbD j.val = (p.flight.getLsbD j.val && j != slab)) ∧ z.stale = p.stale ∧
        t.mem.phys = s.mem.phys))

/-! ## Courses (R114 to R125, R386 to R388) -/

/-- Arrivals (R114, R115, R386): a level above the task's, or without its mask bit, traps with 0x90; an unreleased arrival holds
the next one; otherwise the core arrives, in this cycle, and `RIDGEA` goes on while `RIDGE` waits with its mark.
Releases waited for (R115, R119, R387): a marked `RIDGE` and a `RIDGEW` wait while their release has not come or its window is
open, take the causes left to the core as exact traps, each once the window of its own release has run and all of a release on one
thread, and otherwise give the status word, a `RIDGE` that of the release its mark names, and go on; before any release the word
is the course. -/
def Obligations.RidgeResults : Prop :=
  (∀ (s : State) (k : Ctx) (x : Pre) (a : SReg) (l : Fin 6) (q : Task), s.Issues k x → s.plain k a → l ≠ 0 →
    s.taskOf k.core = some q → (s.own k).markAt l.val k.addr = none →
    let n : Word := BitVec.ofNat 64 l.val
    let c := s.core k.core
    let r := c.ridgeAt l.val
    ((q.level < l.val ∨ (c.domEff.getLsbD l.val = false ∧ c.dommask.getLsbD l.val = false)) →
      exec (.ridgea x n 0) s = .next (s.traps k 0x90 0) ∧ exec (.ridge x a n 0) s = .next (s.traps k 0x90 0)) ∧
    (l.val ≤ q.level → c.domEff.getLsbD l.val = true →
      (r.released < r.arrivals → exec (.ridgea x n 0) s = .next (s.held k) ∧
        (r.owed = [] → exec (.ridge x a n 0) s = .next (s.held k))) ∧
      (r.released = r.arrivals → ∃ t, exec (.ridgea x n 0) s = .next t ∧
        ((t.core k.core).ridgeAt l.val).arrivals = r.arrivals + 1 ∧ ((t.core k.core).ridgeAt l.val).at_ = s.cycle ∧
        ((t.core k.core).ridgeAt l.val).released = r.released ∧ (t.own k).pc = ((s.own k).loopNext k.next).pc ∧
        (t.own k).s = (s.own k).s ∧ t.mem = s.mem) ∧
      (r.released = r.arrivals → r.owed = [] → ∃ t, exec (.ridge x a n 0) s = .next t ∧
        ((t.core k.core).ridgeAt l.val).arrivals = r.arrivals + 1 ∧ ((t.core k.core).ridgeAt l.val).at_ = s.cycle ∧
        (t.own k).marks = ⟨l.val, r.arrivals + 1, k.addr, none⟩ :: (s.own k).marks ∧ (t.own k).rwait = some (l.val, r.arrivals + 1) ∧
        (t.own k).run = .waiting ∧ (t.own k).pc = (s.own k).pc ∧ (t.own k).s = (s.own k).s ∧ t.mem = s.mem))) ∧
  (∀ (s : State) (k : Ctx) (x : Pre) (a : SReg) (l : Fin 7) (m : Nat) (v : Option Word), s.Issues k x → s.plain k a → l ≠ 0 →
    let n : Word := BitVec.ofNat 64 l.val
    let r := (s.core k.core).ridgeAt l.val
    let word : Word := if r.released = 0 then BitVec.ofNat 64 (((s.core k.core).course[l]).toNat % 2 ^ 32) else r.status
    ((s.own k).markAt l.val k.addr = some ⟨l.val, m, k.addr, v⟩ → r.owed = [] →
      (r.released < m → ∃ t, exec (.ridge x a n 0) s = .next t ∧ (t.own k).run = .waiting ∧ (t.own k).pc = (s.own k).pc ∧
        (t.own k).s = (s.own k).s) ∧
      (m ≤ r.released → (∀ w ∈ r.windows, w.release ≠ m) → 0 < r.released → ∃ t, exec (.ridge x a n 0) s = .next t ∧
        (a ≠ 0 → (t.own k).s[a] = v.getD r.status) ∧ ⟨l.val, m, k.addr, v⟩ ∉ (t.own k).marks ∧ t.mem = s.mem ∧
        (t.own k).pc = ((s.own k).loopNext k.next).pc)) ∧
    ((s.own k).rwait = none → r.owed = [] →
      (r.released < r.arrivals → ∃ t, exec (.ridgew x a n) s = .next t ∧ (t.own k).run = .waiting ∧
        (t.own k).pc = (s.own k).pc ∧ (t.own k).s = (s.own k).s) ∧
      (r.released = r.arrivals → (∀ w ∈ r.windows, w.release ≠ r.arrivals) → ∃ t, exec (.ridgew x a n) s = .next t ∧
        (a ≠ 0 → (t.own k).s[a] = word) ∧ t.mem = s.mem ∧ (t.own k).pc = ((s.own k).loopNext k.next).pc)) ∧
    (∀ (e : Owed) (z : List Owed), (s.own k).rwait = none → r.owed = e :: z → e.taker = none → r.released = r.arrivals →
      (∀ w ∈ r.windows, w.release ≠ r.arrivals) →
      ((∃ w ∈ r.windows, w.release = e.release) → exec (.ridgew x a n) s = .next (s.held k)) ∧
      ((∀ w ∈ r.windows, w.release ≠ e.release) → ∃ t, exec (.ridgew x a n) s = .next t ∧
        ((s.own k).inh = false → (t.own k).cause = e.cause ∧ (t.own k).pc = 0x0020 ∧ (t.own k).epc = k.addr ∧
          ((t.core k.core).ridgeAt l.val).owed = z.map fun p =>
            if p.release = e.release then { p with taker := some k.ts } else p))))

/-- What a release does (R116, R117): nothing while a member has not arrived or its traffic has not landed; else every member's
arrivals are released, and its course counts on. At level 6 the device sends its token, on virtual channel 1, to the other ranks,
once, and releases when one has come from each, which are then used up (R116, R118). Tokens of level 6 are kept until they are
used. The model's choices (assumption log 59): they wait in a queue for each rank, and one for a communicator that is not enabled or
from a rank outside it is ignored; while virtual channel 1 is held a token waits at its source (R91). -/
def Obligations.RidgeReleases : Prop :=
  (∀ (s : State) (l : Fin 8) (core : Fin 4096), s.ridgeReady core l.val = false →
    exec (.ridgeRelease l core) s = .next s) ∧
  (∀ (s : State) (l : Fin 6) (core : Fin 4096), l ≠ 0 → s.ridgeReady core l.val = true →
    ∃ t, exec (.ridgeRelease (l.castLE (by decide)) core) s = .next t ∧ ∀ c ∈ s.members core l.val,
      ((t.core c).ridgeAt l.val).released = ((s.core c).ridgeAt l.val).arrivals ∧
      ((t.core c).ridgeAt l.val).arrivals = ((s.core c).ridgeAt l.val).arrivals ∧
      (t.core c).course[l.val] = (s.core c).course[l.val] + 1) ∧
  (∀ (s : State) (core : Fin 4096) (d : Nat), s.ridgeReady core 6 = true →
    (s.members core 6).find? (fun c => ((s.core c).ridgeAt 6).pending) = some d →
    let c := ((s.core d).ridgeAt 6).comm
    let m := tblGet s.fab.comms c {}
    let sum := s.ridgeSum (s.members core 6) 6
    ∃ t, exec (.ridgeRelease 6 core) s = .next t ∧
      ((∃ r ∈ m.others, tblGet m.tokens r [] = []) → t.cores = s.cores ∧ t.mem = s.mem ∧
        tblGet t.fab.comms c {} = { m with sent := true } ∧
        (m.sent = true → t.ports = s.ports) ∧
        (∀ r p, m.sent = false → m.others = [r] → s.wayTo (m.ranks.getD r 0) = some p → ∃ q, (t.port p).outq =
          (s.port p).outq ++ [q] ∧ q.vc = 1 ∧
          q.msg = .token (m.ranks.getD r 0).toNat c (fieldOf m.ctl.toNat 43 32) sum.errors sum.digest)) ∧
      ((∀ r ∈ m.others, tblGet m.tokens r [] ≠ []) →
        (tblGet t.fab.comms c {}).sent = false ∧
        (∀ r ∈ m.others, tblGet (tblGet t.fab.comms c {}).tokens r [] = (tblGet m.tokens r []).drop 1) ∧
        ∀ c ∈ s.members core 6,
          ((t.core c).ridgeAt 6).released = ((s.core c).ridgeAt 6).arrivals ∧
          ((t.core c).ridgeAt 6).arrivals = ((s.core c).ridgeAt 6).arrivals ∧
          (t.core c).course[6] = (s.core c).course[6] + 1)) ∧
  (∀ (s : State) (c : Fin 4096) (rank : Nat) (e : BitVec 16) (d : Word),
    let m := tblGet s.fab.comms c.val {}
    ((m.ctl.getLsbD 0 = false ∨ rank ∉ m.others ∨ s.vcHeld 1 = true) →
      exec (.ridgeTokenArrive c rank ⟨e, d⟩) s = .next s) ∧
    (m.ctl.getLsbD 0 = true → rank ∈ m.others → s.vcHeld 1 = false → ∃ t, exec (.ridgeTokenArrive c rank ⟨e, d⟩) s = .next t ∧
      tblGet (tblGet t.fab.comms c.val {}).tokens rank [] = tblGet m.tokens rank [] ++ [(e, d)] ∧ t.mem = s.mem ∧
      t.cores = s.cores))

/-- Exchanges (R121 to R125, R388): `XTT` installs the timetable of its level or removes it, and traps with 0x91 on a malformed one;
a flit that is alone in its cycle at an open receive unit lands its 16 bytes, and flits that meet or find none are discarded,
with a collision; a window closes when its last cycle has come and its flits have arrived. -/
def Obligations.ExchangeResults : Prop :=
  (∀ (s : State) (k : Ctx) (x : Pre) (b : SReg), s.Issues k x → s.plain k b → (s.sreg k b).toNat < 0x3C000 →
    (s.sreg k b).toNat % 8 = 0 → s.acquiring k.core k.ts = false →
    let p := (s.sreg k b).toNat
    let h := leNat (s.seenBytes k.core k.ts (.sram (padKey k.core + p)) 8)
    let n := h % 2 ^ 11
    let l := h / 2 ^ 29 % 8
    let es := s.seenBytes k.core k.ts (.sram (padKey k.core + p + 8)) (8 * n)
    let ws := (List.range n).map fun i => leNat ((es.drop (8 * i)).take 8)
    ((1024 < n ∨ 0x3C000 < p + 8 + 8 * n) → exec (.xtt x b) s = .next (s.traps k 0x91 0)) ∧
    (n ≤ 1024 → p + 8 + 8 * n ≤ 0x3C000 → s.badTimetable k.core h ws = true → exec (.xtt x b) s = .next (s.traps k 0x91 0)) ∧
    (n ≤ 1024 → p + 8 + 8 * n ≤ 0x3C000 → s.badTimetable k.core h ws = false → ∃ t, exec (.xtt x b) s = .next t ∧
      (n = 0 → ((t.core k.core).ridgeAt l).table = none) ∧
      (n ≠ 0 → ∃ z, ((t.core k.core).ridgeAt l).table = some z ∧ z.window = h / 2 ^ 44 % 2 ^ 20 ∧
        z.entries.length = (untilEnd ws).length) ∧ (t.own k).s = (s.own k).s ∧ t.mem = s.mem)) ∧
  (∀ (s : State) (f : XFlit), s.fab.flits.find? (·.id == f.id) = some f → f.dst < 4096 → s.mem.sram.wf = true →
    (s.cycle < f.at_ → exec (.exchangeFlitArrive f.id) s = .next s) ∧
    (f.at_ ≤ s.cycle → (s.fab.flits.filter fun g => g.dst == f.dst && g.at_ == f.at_) = [f] →
      (∀ u bs, (s.core f.dst).receiveUnit f.at_ = some u → u < 0x3C00 → f.data = some bs → bs.length = 16 →
        ∃ t, exec (.exchangeFlitArrive f.id) s = .next t ∧
          (∀ j, j < 16 → readByte t.mem.sram (padKey f.dst + 16 * u + j) = bs.getD j 0) ∧
          (∀ g, g < padKey f.dst + 16 * u ∨ padKey f.dst + 16 * u + 16 ≤ g → readByte t.mem.sram g = readByte s.mem.sram g) ∧
          ∀ g ∈ t.fab.flits, g ≠ f) ∧
      ((s.core f.dst).receiveUnit f.at_ = none → ∃ t, exec (.exchangeFlitArrive f.id) s = .next t ∧ t.mem = s.mem ∧
        (f.level < 7 → ((t.core f.dst).ridgeAt f.level).coll = true) ∧ ∀ g ∈ t.fab.flits, g ≠ f)) ∧
    (f.at_ ≤ s.cycle → (∃ g ∈ s.fab.flits, g ≠ f ∧ g.dst = f.dst ∧ g.at_ = f.at_) →
      ∃ t, exec (.exchangeFlitArrive f.id) s = .next t ∧ t.mem = s.mem ∧
        (f.level < 7 → ((t.core f.dst).ridgeAt f.level).coll = true) ∧
        ∀ g ∈ t.fab.flits, ¬(g.dst = f.dst ∧ g.at_ = f.at_))) ∧
  (∀ (s : State) (core : Fin 4096), ∃ t, exec (.exchangeWindowClose core) s = .next t ∧ t.mem = s.mem ∧
    ∀ (l : Fin 7) (w : Window), w ∈ ((t.core core).ridge[l]).windows ↔ w ∈ ((s.core core).ridge[l]).windows ∧
      ¬(w.stop ≤ s.cycle ∧ ∀ f ∈ s.fab.flits, f.dst = core.val → w.stop ≤ f.at_))

/-! ## Slice regions (R126 to R131, R389 to R393) -/

/-- Slice regions: `SLDECL` declares a region over bank memory and ends one, and traps with 0x93 on an invalid declaration and 0x94
on an overlap; `RADD`, `RADDV` and `AMRG` trap with 0x02 at an address of local space, of a scratchpad or of global space, `RADDV`
with 0x61 where its 64 bytes do not lie in one bank's window, and else send a contribution with their operands;
an arrival outside every region is a late fault 0x96, one at a deterministic region is buffered, and one at a region of 32-bit
integers in arrival order is added; `RFOLD` adds the accumulators into the region's memory and empties them, and traps with 0x68
at the element that it may not store, and is held while the thread has stores that have not landed or an acquire command that
has not completed (R296; that it waits for the thread's stores is the model's choice, assumption log 37). -/
def Obligations.SliceResults : Prop :=
  (∀ (s : State) (k : Ctx) (x : Pre) (b c : SReg) (q : Task) (base : Word) (l u : Nat), s.Issues k x → s.plain k b →
    s.plain k c → s.taskOf k.core = some q → s.bankAddr k.core (s.sreg k b) = some base → bankOf base = some (l, u) →
    let w := (s.sreg k c).toNat
    let size := w % 2 ^ 32
    let kind := w / 2 ^ 32 % 16
    let level := w / 2 ^ 37 % 8
    let off := match bankWindow base.toNat with | some (_, _, o) => o | none => 0
    (2 ^ 40 ≤ w → exec (.sldecl x b c) s = .next (s.traps k 0x93 0)) ∧
    (w < 2 ^ 40 → (s.sreg k c).getLsbD 36 = false →
      (sliceInvalid l level kind size base q.level = true → exec (.sldecl x b c) s = .next (s.traps k 0x93 0)) ∧
      (sliceInvalid l level kind size base q.level = false → off + size ≤ bankSize l →
        (∀ r ∈ s.fab.slices, r.task = q.id → r.base = base → 0 < r.size → exec (.sldecl x b c) s = .next (s.traps k 0x94 0)) ∧
        (s.fab.slices = [] → ∃ t r, exec (.sldecl x b c) s = .next t ∧ t.fab.slices = [r] ∧ r.task = q.id ∧ r.base = base ∧
          r.size = size ∧ r.kind = kind ∧ r.level = level ∧ r.declarer = s.relOf k.core ∧ r.acc = [] ∧ r.buffered = [] ∧
          (t.own k).s = (s.own k).s ∧ t.mem = s.mem))) ∧
    ((s.sreg k c) = 0x1000000000 →
      ((∀ r ∈ s.fab.slices, ¬(r.task = q.id ∧ r.base = base)) → exec (.sldecl x b c) s = .next (s.traps k 0x93 0)) ∧
      ((∃ r ∈ s.fab.slices, r.task = q.id ∧ r.base = base) → ∃ t, exec (.sldecl x b c) s = .next t ∧
        (∀ r, r ∈ t.fab.slices ↔ r ∈ s.fab.slices ∧ ¬(r.task = q.id ∧ r.base = base)) ∧ t.mem = s.mem))) ∧
  (∀ (s : State) (k : Ctx) (x : Pre) (a b c : SReg) (v : VReg) (d : Fin 16), s.Issues k x → s.plain k a → s.plain k b →
    s.plain k c → s.plain k (d.castLE (by decide)) → s.unbound k [v] [] →
    let ea := s.sreg k b
    let n := (s.sreg k (d.castLE (by decide))).toNat
    ((ea.toNat < 0x40000 ∨ ea.getLsbD 63 = true ∨ (0x200000000 ≤ ea.toNat ∧ ea.toNat < 0x240000000)) → exec (.radd x b c) s = .next (s.traps k 0x02 0) ∧
      exec (.raddv x b v) s = .next (s.traps k 0x02 0) ∧ (n < 16 → exec (.amrg x a b v d) s = .next (s.traps k 0x02 0))) ∧
    (16 ≤ n → exec (.amrg x a b v d) s = .next (s.traps k 0x02 0)) ∧
    (∀ l u off, s.place k.core ea false = .ok (.bank l u off) →
      let sends (i : Instr) (z : ContribData) : Prop := ∃ t f e, exec i s = .next t ∧ t.fab.fly = s.fab.fly ++ [f] ∧
        f.what = .contrib e ∧ f.core = k.core ∧ f.ts = k.ts ∧ e.addr = s.absAddr k.core (.bank l u off) ∧ e.data = z ∧
        e.src = s.relOf k.core ∧ (t.own k).s = (s.own k).s ∧ (t.own k).v = (s.own k).v ∧ t.mem = s.mem
      sends (.radd x b c) (.elem (s.sreg k c)) ∧
      (bankSize l < off + 64 → exec (.raddv x b v) s = .next (s.traps k 0x61 ea)) ∧
      (s.idleV k = true → s.vectorBusy k v.val = false →
        (off + 64 ≤ bankSize l → sends (.raddv x b v) (.vec (s.own k).v[v])) ∧
        (n < 16 → sends (.amrg x a b v d)
          (.merge n ((s.sreg k a).setWidth 32) ((s.sreg k a >>> 32).setWidth 32) (s.own k).v[v]))))) ∧
  (∀ (s : State) (f : Fly) (c : Contrib), s.fab.fly.find? (·.id == f.id) = some f → f.what = .contrib c →
    (s.fab.slices.find? (·.covers c.task c.addr) = none → (s.thread c.core c.ts).live = true →
      ∃ t, exec (.sliceContributionArrive f.id) s = .next t ∧ t.mem = s.mem ∧ t.fab.slices = s.fab.slices ∧
        (t.thread c.core c.ts).due.lates = (s.thread c.core c.ts).due.lates ++ [⟨0, 0x96, 0, false⟩] ∧ ∀ g ∈ t.fab.fly, g.id ≠ f.id) ∧
    (∀ r, s.fab.slices = [r] → r.covers c.task c.addr = true → r.admits c = true →
      (r.det = true → ∃ t, exec (.sliceContributionArrive f.id) s = .next t ∧
        t.fab.slices = [{ r with buffered := r.buffered ++ [c] }] ∧ t.mem = s.mem ∧ ∀ g ∈ t.fab.fly, g.id ≠ f.id) ∧
      (∀ v old : Word, r.det = false → r.kind = 0 → c.data = .elem v →
        (∀ q ∈ s.sched.tasks, q.record = false ∧ q.replay = false) →
        let i := (c.addr.toNat - r.base.toNat) / 4
        tblGet r.acc i [] = [old.toNat] → ∃ t z, exec (.sliceContributionArrive f.id) s = .next t ∧ t.fab.slices = [z] ∧
          tblGet z.acc i [] = [(old.toNat + v.toNat % 2 ^ 32) % 2 ^ 32] ∧
          (∀ j, j ≠ i → tblGet z.acc j [] = tblGet r.acc j []) ∧ t.mem = s.mem))) ∧
  (∀ (s : State) (k : Ctx) (x : Pre) (b : SReg) (q : Task) (base : Word), s.Issues k x → s.plain k b →
    s.taskOf k.core = some q → s.bankAddr k.core (s.sreg k b) = some base →
    ((∀ r ∈ s.fab.slices, ¬(r.task = q.id ∧ r.base = base)) → exec (.rfold x b) s = .next (s.traps k 0x93 0)) ∧
    (∀ r i v, s.fab.slices = [r] → r.task = q.id → r.base = base → r.kind = 0 → r.acc = [(i, [v])] → s.mem.sram.wf = true →
      let a := base + BitVec.ofNat 64 (i * 4)
      (s.mayStore q.id (s.relOf k.core) q.asid a 4 = false →
        exec (.rfold x b) s = .next (s.traps k 0x68 (s.sreg k b + BitVec.ofNat 64 (i * 4)))) ∧
      (s.mayStore q.id (s.relOf k.core) q.asid a 4 = true → (s.storesDone k = false ∨ s.acquiring k.core k.ts = true) →
        exec (.rfold x b) s = .next (s.held k)) ∧
      (s.mayStore q.id (s.relOf k.core) q.asid a 4 = true → s.storesDone k = true → s.acquiring k.core k.ts = false → ∃ t z, exec (.rfold x b) s = .next t ∧
        t.fab.slices = [z] ∧ z.acc = [] ∧ z.flags = 0 ∧
        readLE t.mem.sram (s.sliceKey r a) 4 = (readLE s.mem.sram (s.sliceKey r a) 4 + v) % 2 ^ 32 ∧
        (∀ g, g < s.sliceKey r a ∨ s.sliceKey r a + 4 ≤ g → readByte t.mem.sram g = readByte s.mem.sram g) ∧
        (t.own k).fpflags = (s.own k).fpflags ||| r.flags ∧ (t.own k).s = (s.own k).s)))

/-! ## Remote operations, counters and posted buffers (R93 to R99, R395 to R404) -/

/-- Issue: `RST`, `RFAA` and `RFENCE` trap with 0x02 on a bad descriptor or another kind and else send their operation; `TRIG` fires
with status 1 at its threshold, arms with 0, and gives 2 when no entry is free; `HCNT` and `HCNTS` add to and subtract from a
counter, `HWAIT` waits for it (R98, R399 to R401); `CPOST` takes the lowest free slot, or gives status 2, and `CREVOKE` frees a slot
by its handle, once what has passed its check there has landed (R93, R402, R403).
Operations at their peer and their ends (R94 to R97, R395 to R398, R404): an operation to another device waits behind the requests
that it comes after, is sent, or ends with status 9 where no port reaches it; one to this device is checked, or ends with the
status of the check that fails; `RFAA_PERFORM` adds to the posted word and keeps the old value, `RFENCE_FLAG_LAND` writes its
value after the earlier transfers; a stale handle gives status 7 and a fault status 4; a chunk is sent, kept, or lands and counts;
and the completion word fills the message register. The peer's message that a transfer has passed its checks is the model's
choice (assumption log 119), and so is status 7 for an `RFAA` and a flag at a stale handle (assumption log 65); while virtual
channel 1 is held, answers wait (R91). -/
def Obligations.RemoteResults : Prop :=
  (∀ (s : State) (k : Ctx) (x : Pre) (a b c : SReg) (h : HReg) (d : Fin 16) (q : Task), s.Issues k x → s.plain k a →
    s.plain k b → s.plain k c → s.plain k (d.castLE (by decide)) → s.taskOf k.core = some q → q.replay = false →
    q.record = false →
    let p := (s.sreg k b).toNat
    let ws := wordsOf64 4 (s.seenBytes k.core k.ts (.sram (padKey k.core + p)) 32)
    let v := (s.core k.core).h[h]
    let th := s.sreg k (d.castLE (by decide))
    let sends (t : State) : Prop := ∃ f r, t.fab.fly = s.fab.fly ++ [f] ∧ f.core = k.core ∧ f.ts = k.ts ∧
      f.what = .remote r ∧ r.words = ws ∧ r.task = q.id ∧ r.status = none
    (p < 0x3C000 → p % 32 = 0 → s.acquiring k.core k.ts = false →
      (∀ (i : Instr) (n : Nat), (i, n) ∈ [(Instr.rst x b, 0), (.rfence x b, 1), (.rfaa x b, 2)] →
        ((rdBad ws = true ∨ rdKind ws ≠ n) → exec i s = .next (s.traps k 0x02 0)) ∧
        (rdBad ws = false → rdKind ws = n → ∃ t, exec i s = .next t ∧ sends t ∧ (t.own k).s = (s.own k).s ∧ t.mem = s.mem)) ∧
      (rdBad ws = true → exec (.trig x a b h d) s = .next (s.traps k 0x02 0)) ∧
      (rdBad ws = false → th.toNat ≤ v.toNat → ∃ t, exec (.trig x a b h d) s = .next t ∧ sends t ∧
        (a ≠ 0 → (t.own k).s[a] = 1) ∧ t.mem = s.mem) ∧
      (rdBad ws = false → v.toNat < th.toNat →
        ((s.core k.core).armed = [] → ∃ t e, exec (.trig x a b h d) s = .next t ∧ (t.core k.core).armed = [e] ∧ e.words = ws ∧
          e.h = h ∧ e.threshold = th ∧ e.ts = k.ts ∧ e.slot = 0 ∧ (a ≠ 0 → (t.own k).s[a] = 0) ∧ t.fab.fly = s.fab.fly) ∧
        ((∀ n, n < 32 → ∃ e ∈ (s.core k.core).armed, e.slot = n) → ∃ t, exec (.trig x a b h d) s = .next t ∧
          (a ≠ 0 → (t.own k).s[a] = 2) ∧ (t.core k.core).armed = (s.core k.core).armed ∧ t.fab.fly = s.fab.fly))) ∧
    ((s.core k.core).armed = [] →
      (∃ t, exec (.hcnt x a b h) s = .next t ∧ (t.core k.core).h[h] = v + s.sreg k b ∧
        (a ≠ 0 → (t.own k).s[a] = v + s.sreg k b) ∧ t.fab.fly = s.fab.fly ∧ t.mem = s.mem) ∧
      (∃ t, exec (.hcnts x a b h) s = .next t ∧ (t.core k.core).h[h] = v - s.sreg k b ∧
        (a ≠ 0 → (t.own k).s[a] = v - s.sreg k b) ∧ t.fab.fly = s.fab.fly ∧ t.mem = s.mem)) ∧
    ((s.sreg k b).toNat ≤ v.toNat → exec (.hwait x a b h) s = .next (s.retires k .next (·.setS a v))) ∧
    (v.toNat < (s.sreg k b).toNat → exec (.hwait x a b h) s = .next (s.held k)) ∧
    (canonical (s.sreg k b) = true → p % 8 = 0 → (s.sreg k c).toNat < 2 ^ 38 → (s.sreg k c).toNat % 2 ^ 32 ≠ 0 →
      (∀ n, s.freePost = some n → ∃ t z, exec (.cpost x a b c) s = .next t ∧ tblGet t.fab.posts n {} = z ∧ z.live = true ∧
        z.task = q.id ∧ z.tenant = q.tenant ∧ z.addr = s.sreg k b ∧ z.len = (s.sreg k c).toNat % 2 ^ 32 ∧
        z.st = (s.sreg k c).getLsbD 36 ∧ z.faa = (s.sreg k c).getLsbD 37 ∧
        (a ≠ 0 → (t.own k).s[a] = BitVec.ofNat 64 (n * 256 + z.gen.toNat)) ∧ t.mem = s.mem) ∧
      (s.freePost = none → exec (.cpost x a b c) s = .next (s.retires k .next (·.setS a 0x0200000000000000)))) ∧
    (canonical (s.sreg k b) = false → exec (.cpost x a b c) s = .next (s.traps k 0x02 0)) ∧
    (canonical (s.sreg k b) = true → p % 8 ≠ 0 → exec (.cpost x a b c) s = .next (s.traps k 0x60 (s.sreg k b))) ∧
    (let g := (s.sreg k b).toNat
     let z := tblGet s.fab.posts (g / 256) {}
     (g < 2 ^ 20 → z.live = true → z.task = q.id → z.gen.toNat = g % 256 → s.revokeWaits (g / 256) = true →
        exec (.crevoke x b) s = .next (s.held k)) ∧
     (g < 2 ^ 20 → z.live = true → z.task = q.id → z.gen.toNat = g % 256 → s.revokeWaits (g / 256) = false →
        ∃ t, exec (.crevoke x b) s = .next t ∧
        tblGet t.fab.posts (g / 256) {} = { z with live := false, gen := z.gen + 1 } ∧ (t.own k).s = (s.own k).s) ∧
     (2 ^ 20 ≤ g → exec (.crevoke x b) s = .next (s.traps k 0x02 0)) ∧
     (g < 2 ^ 20 → (z.live = false ∨ z.task ≠ q.id ∨ z.gen.toNat ≠ g % 256) →
        exec (.crevoke x b) s = .next (s.traps k 0x02 0)))) ∧
  (∀ (s : State) (f : Fly) (r : RemoteOp), s.fab.fly.find? (·.id == f.id) = some f → f.what = .remote r → r.foreign = none →
    let n := f.id
    (r.checked = false → r.status = none →
      (r.sent = false → r.dev ≠ s.boot.devnum →
        (s.routeTo r.dev = none → exec (.remoteRequestArrive n none) s = .next (s.endRemote n r 9 0)) ∧
        (s.routeTo r.dev ≠ none → s.behindRequest f r = true → exec (.remoteRequestArrive n none) s = .next s) ∧
        (s.routeTo r.dev ≠ none → s.behindRequest f r = false → exec (.remoteRequestArrive n none) s =
          .next ((s.putRemote n { r with sent := true }).post r.dev (if r.kind = 0 ∨ r.kind = 1 then 1 else 0)
            (.remote r.dev.toNat n f.core r.tenant r.words)))) ∧
      (r.sent = true → r.kind = 0 → s.vcHeld 1 = false →
        exec (.remoteRequestArrive n none) s = .next (s.putRemote n { r with checked := true })) ∧
      (r.sent = true → (r.kind ≠ 0 ∨ s.vcHeld 1 = true) → exec (.remoteRequestArrive n none) s = .next s) ∧
      (r.sent = false → r.dev = s.boot.devnum →
        (∀ e, s.handleCheck (rdHandle r.words) r.tenant r.kind.val (rdOff r.words) r.span = some e →
          exec (.remoteRequestArrive n none) s = .next (s.endRemote n r e 0)) ∧
        (s.handleCheck (rdHandle r.words) r.tenant r.kind.val (rdOff r.words) r.span = none → r.kind ≠ 3 →
          exec (.remoteRequestArrive n none) s = .next (s.putRemote n { r with checked := true })))) ∧
    (r.checked = true → r.status = none →
      (r.kind = 1 → s.behindRst f r = true → exec (.rfenceFlagLand n) s = .next s) ∧
      (∀ i, (i = Instr.rfaaPerform n ∧ r.kind = 2) ∨ (i = Instr.rfenceFlagLand n ∧ r.kind = 1 ∧ s.behindRst f r = false) →
        (s.mustKeep n 0 r = true → exec i s = .next (s.keep n 0 r (leBytes 8 (r.words.getD 1 0).toNat))) ∧
        (s.mustKeep n 0 r = false → s.postedSlot r = none → exec i s = .next (s.endRemote n r 7 0)) ∧
        (∀ q z a, s.mustKeep n 0 r = false → s.postedWord r = some (q, z, a) →
          (∀ e s1, s.globalBytes q.asid a 8 = .error (e, s1) → exec i s = .next (s1.endRemote n r 4 0)) ∧
          (∀ bs s1, s.globalBytes q.asid a 8 = .ok (bs, s1) →
            let w := (r.words.getD 1 0).toNat
            let v := if r.kind = 2 then (leNat bs + w) % 2 ^ 64 else w
            (∀ e s2, s1.checkedWrite (some (z.id, q.core)) q.asid a (leBytes 8 v) = .error (e, s2) →
              exec i s = .next (s2.endRemote n r 4 0)) ∧
            (∀ s2, s1.checkedWrite (some (z.id, q.core)) q.asid a (leBytes 8 v) = .ok s2 →
              exec i s = .next ((s2.touchAt (homesOf a)).endRemote n r 0 (if r.kind = 2 then leNat bs else 8))))))) ∧
    (∀ j bs data s1, r.kind = 0 → r.checked = true → r.status = none → r.cut = false → r.landed.contains j = false → j < r.chunkCount →
      s.keptAt n j = none → s.readChunk f r j = .bytes s1 bs →
      (r.sent = true → exec (.rstChunkLand n j data) s =
        .next ((s1.putRemote n { r with landed := r.landed ++ [j], bytes := r.bytes + bs.length }).post r.dev 0
          (.remoteChunk r.dev.toNat n j bs))) ∧
      (r.sent = false → s1.mustKeep n j r = true → exec (.rstChunkLand n j data) s = .next (s1.keep n j r bs)) ∧
      (r.sent = false → s1.mustKeep n j r = false →
        exec (.rstChunkLand n j data) s = .next ((s1.dropKept n (· == j)).landChunk f r j bs))) ∧
    (∀ w : Word, r.status = none → r.sent = true →
      (s.vcHeld 1 = true → exec (.remoteCompletionArrive n w) s = .next s) ∧
      (s.vcHeld 1 = false → exec (.remoteCompletionArrive n w) s =
        .next ((s.putRemote n { r with status := some ((w >>> 56).setWidth 8), result := w &&& 0xFFFFFFFFFFFFFF }).deliverWord f
          { r with status := some ((w >>> 56).setWidth 8), result := w &&& 0xFFFFFFFFFFFFFF }))) ∧
    (∀ (e : BitVec 8) (z : Task) (w : Word), r.status = some e → s.sched.tasks.find? (·.id == r.task) = some z →
      z.ended = false → ((s.thread f.core f.ts).m[r.mreg]).full = false →
      (∀ o ∈ (s.core f.core).overflow, o.ts = f.ts → o.reg = r.mreg → o.src ≠ s.relOf f.core) →
      (∀ q, s.taskOf f.core = some q → q.record = false ∧ q.replay = false) →
      ∃ t, exec (.remoteCompletionArrive n w) s = .next t ∧
        (t.thread f.core f.ts).m[r.mreg] = ⟨BitVec.ofNat 64 (e.toNat * 2 ^ 56 + r.result.toNat % 2 ^ 56), true⟩ ∧
        t.fab.fly = s.fab.fly.filter (·.id != n) ∧ t.mem = s.mem)) ∧
  (∀ (s : State) (f : Fly) (r : RemoteOp) (k : Nat) (bs : List Byte) (q : PostSlot) (z : Task) (s1 : State),
    s.postedSlot r = some q → s.postedTask r = some z →
    s.checkedWrite (some (z.id, q.core)) q.asid (q.addr + BitVec.ofNat 64 (rdOff r.words + 4096 * k)) bs = .ok s1 →
    (s1.core (z.coreAt q.core)).armed = [] →
    ((s.landChunk f r k bs).core (z.coreAt q.core)).h[q.ctr] =
      (s1.core (z.coreAt q.core)).h[q.ctr] + BitVec.ofNat 64 bs.length ∧ (s.landChunk f r k bs).mem = s1.mem)

/-! ## Boot, measurement and power (R25 to R31) -/

/-- `POWERLIM` (R30): 2,400 W at reset; a write takes effect as it is from 1,200 to 2,400, and at the nearer end outside; nothing
else changes. -/
def Obligations.PowerLimit : Prop :=
  State.reset.boot.powerLim = 2400 ∧
  ∀ (s : State) (v : BitVec 16), ∃ w : BitVec 16,
    exec (.powerlimWrite v) s = .next { s with boot := { s.boot with powerLim := w } } ∧
    w.toNat = if v.toNat < 1200 then 1200 else if 2400 < v.toNat then 2400 else v.toNat

/-- Boot and measurement (R25, R26, R27, R31, R34): power-on reset clears the measurements, extends `MEAS0` and goes to the first
source; an attempt without an image leads to the next attempt or source; an image that passes every check starts stage 0, and
one that does not shows which check failed (that `MEAS3` is extended with the start of stage 0 is the model's reading, assumption
log 98); the memories and cores that a power-on leaves are those of the reset state, whose values where the spec gives none are the
model's choice (assumption logs 3 and 4); stage 0 extends `MEAS4` to `MEAS7`, raises the minimum version and never lowers it,
and releases the dies, the last of which ends maintenance; an attestation report carries the nonce and the measurements; the
device number is taken only while no port is enabled. -/
def Obligations.BootEvents : Prop :=
  ∀ (s : State),
    (s.boot.phase = .off → ∃ t, exec .powerOnReset s = .next t ∧ t.boot.phase = .fetching 0 0 ∧ t.boot.maintenance = true ∧
      t.boot.meas[0] = digestValue (sm3 (bytes256 0 ++ bytes256 Config.romDigest)) ∧
      (∀ i : Fin 8, i ≠ 0 → t.boot.meas[i] = 0) ∧ t.mem = s.mem ∧ t.cores = s.cores) ∧
    (s.boot.phase ≠ .off → ∃ t, exec .powerOnReset s = .next t ∧ t.boot.phase = .fetching 0 0 ∧ t.boot.maintenance = true ∧
      t.boot.minVersion = s.boot.minVersion ∧ t.mem = State.reset.mem ∧ t.cores = State.reset.cores ∧ t.ports = State.reset.ports) ∧
    (∀ i n : Nat, s.boot.phase = .fetching i n →
      let after : BootPhase := if n + 1 < 16 then .fetching i (n + 1)
        else if i + 1 < (bootSources Config.bootSource).length then .fetching (i + 1) 0 else .dead
      (s.boot.source = some false ∨ (s.boot.source = some true ∧ s.stagedImage = none) →
        exec .bootFetchRetry s = .next { s with boot := { s.boot with phase := after } }) ∧
      (∀ img, s.boot.source = some false →
        (imageCheck s.boot img = 0 → ∃ t, exec (.bootImageReceived img) s = .next t ∧ t.boot.phase = .stage0 ∧
          t.boot.hostSource = false ∧ t.boot.bootGo = s.boot.bootGo ∧
          t.boot.meas[1] = digestValue (sm3 (bytes256 s.boot.meas[1] ++ bytes256 (digestValue (sm3 (slice img 0 0x110))))) ∧
          t.boot.meas[3] = digestValue (sm3 (bytes256 s.boot.meas[3] ++ bytes256 Config.trainingDigest)) ∧
          t.mem = { s.mem with control := loadStages s.mem.control img }) ∧
        (imageCheck s.boot img ≠ 0 → ∃ t, exec (.bootImageReceived img) s = .next t ∧ t.boot.phase = after ∧
          t.boot.bootStat = imageCheck s.boot img ∧ t.boot.meas = s.boot.meas)) ∧
      (∀ img x, s.boot.source = some true → s.stagedImage = some img → ∃ t, exec (.bootImageReceived x) s = .next t ∧
        t.boot.bootGo = false)) ∧
    (∀ (m : Fin 8) (d : BitVec 256), s.boot.phase = .stage0 →
      (4 ≤ m.val → exec (.measurementExtend m d) s = .next { s with boot := { s.boot with
        meas := s.boot.meas.set m (digestValue (sm3 (bytes256 s.boot.meas[m] ++ bytes256 d))) } }) ∧
      (m.val < 4 → exec (.measurementExtend m d) s = .next s)) ∧
    (∀ v : BitVec 32, s.boot.phase = .stage0 →
      (s.boot.minVersion.toNat < v.toNat →
        exec (.securityVersionRaise v) s = .next { s with boot := { s.boot with minVersion := v } }) ∧
      (v.toNat ≤ s.boot.minVersion.toNat → exec (.securityVersionRaise v) s = .next s)) ∧
    (∀ die : Fin 4, s.boot.phase = .stage0 → ∃ t, exec (.dieRelease die) s = .next t ∧ t.boot.released[die] = true ∧
      (∀ d : Fin 4, d ≠ die → t.boot.released[d] = s.boot.released[d]) ∧ t.mem = s.mem ∧ t.cores = s.cores ∧
      (t.boot.maintenance = true ↔ s.boot.maintenance = true ∧ ∃ d : Fin 4, t.boot.released[d] = false)) ∧
    (∀ v : BitVec 32, exec (.bootgoWrite v) s = .next { s with boot := { s.boot with bootGo := v.getLsbD 0 } }) ∧
    (∀ nonce : BitVec 256, ∃ t r, exec (.attestationRequest nonce) s = .next t ∧ t.out = s.out ++ [.report r] ∧
      r.length = 0x1C0 ∧ slice r 0x20 32 = bytes256 nonce ∧ slice r 0x40 256 = (s.boot.meas.toList.map bytes256).flatten ∧
      t.boot = s.boot ∧ t.mem = s.mem) ∧
    (∀ v : BitVec 16,
      ((∀ p ∈ s.ports, p.2.ctl.getLsbD 0 = false) →
        exec (.devnumWrite v) s = .next { s with boot := { s.boot with devnum := v } }) ∧
      ((∃ p ∈ s.ports, p.2.ctl.getLsbD 0 = true) → exec (.devnumWrite v) s = .next s))

/-! ## Hjelril ports (R13 to R23) -/

/-- Training (R16 to R20): `HLPCTL` enables, disables and restarts a port; each step leads to the next, identification to Up with
the partner's number; a step that fails leads to the next attempt, or to Failed, with the code of its step (0x08 only while no report has come, a report that fails ends the attempt with 0x07; which
number of step 6 counts first is the model's reading, assumption log 24); a report is
checked, and a challenge answered over its nonce. Other ports do not change, but for the messages that they take over from a
Failed port, and a port that comes Up sends its unacknowledged flits again. Traffic and degradation (R13, R14, R22, R23): a good
flit in order is delivered once and acknowledged, one ahead of it or uncorrectable is reported, a duplicate dropped; one credit goes
back for each flit delivered, but for one kept while its channel is held (that it is one for each is the model's choice, assumption
log 103); a flit is sent with a
credit and room in the retry buffer; an acknowledgement releases the flits up to it (that it covers the earlier ones is the
model's reading, assumption log 97), a report sends those from it on again; credits add up; the loss of a lane, a rate
fallback, too many resends leave the port as R22 says and are logged, and a link that goes down trains again, logged when that
ends (assumption log 25); a report of resends that the device's own count does not bear out changes nothing (assumption log 117). -/
def Obligations.PortEvents : Prop :=
  (∀ (s : State) (p : Fin 128),
    let l := s.port p
    let ends (i : Instr) (f : LinkPort → Prop) : Prop := ∃ t, exec i s = .next t ∧ f (t.port p) ∧ t.mem = s.mem ∧
      ∀ q : Nat, q ≠ p.val → t.port q = s.port q
    (∀ v : BitVec 32,
      (l.ctl.getLsbD 0 = false → v.getLsbD 8 = false →
        ends (.portEnable p v) fun m => m.state = .detect ∧ m.attempt = 1 ∧
        m.failCode = l.failCode ∧ m.idHash = 0 ∧ m.ctl = (v ||| 1).setWidth 8) ∧
      ends (.portDisable p v) (fun m => m.state = .disabled ∧ m.ctl = (v &&& ~~~1).setWidth 8) ∧
      (v.getLsbD 0 = true → ends (.portRestart p v) fun m => m.state = .detect ∧ m.attempt = 1 ∧ m.failCode = 0)) ∧
    (∀ o : Partner,
      (l.state = .detect → (o.lane0 = true ∨ o.lane1 = true) → ends (.trainingStepComplete p o) fun m => m.state = .equalise) ∧
      (l.state = .equalise → ends (.trainingStepComplete p o) fun m => m.state = .pair) ∧
      (l.state = .pair → ((l.lane0 = true ∧ o.lane0 = true) ∨ (l.lane1 = true ∧ o.lane1 = true)) →
        ends (.trainingStepComplete p o) fun m => m.state = .deskew) ∧
      (l.state = .deskew → ((l.lane0 = true ∧ o.lane0 = true) ∨ (l.lane1 = true ∧ o.lane1 = true)) →
        ends (.trainingStepComplete p o) fun m => m.state = .agree) ∧
      (∀ n, l.state = .agree → l.agreeWith o false = some n → ends (.trainingStepComplete p o) fun m => m.state = .identify ∧
        m.rate512 = n.rate512 ∧ m.width2 = n.width2 ∧ m.fecDeep = n.fecDeep) ∧
      (l.state = .identify → l.ctl.getLsbD 3 = false → o.devnum ≠ 0xFFFF → s.boot.devnum ≠ 0xFFFF →
        o.devnum ≠ s.boot.devnum → ends (.trainingStepComplete p o) fun m => m.state = .up ∧ m.peer = o.devnum) ∧
      (l.state = .identify → l.ctl.getLsbD 3 = false → o.devnum ≠ 0xFFFF → s.boot.devnum ≠ 0xFFFF →
        o.devnum ≠ s.boot.devnum → l.granted = true → ∃ t, exec (.trainingStepComplete p o) s = .next t ∧
          t.out = s.out ++ l.retry.map (.flit p.val) ∧ (t.port p).retry = l.retry)) ∧
    (let fails (i : Instr) (code : BitVec 8) : Prop :=
        (l.attempt < l.attempts → ends i fun m => m.state = .detect ∧ m.attempt = l.attempt + 1 ∧ m.failCode = code) ∧
        (l.attempts ≤ l.attempt → ∃ t, exec i s = .next t ∧ (t.port p).state = .failed ∧ (t.port p).failCode = code ∧
          t.mem = s.mem ∧ (l.outq = [] → ∀ q : Nat, q ≠ p.val → t.port q = s.port q))
     (∀ code : BitVec 8,
        (∀ z ∈ [(PortState.detect, (0x01 : BitVec 8)), (.equalise, 0x02), (.pair, 0x03), (.deskew, 0x04), (.agree, 0x05)],
          l.state = z.1 → fails (.trainingStepTimeout p code) z.2) ∧
        (l.state = .identify → fails (.trainingStepTimeout p code)
          (if s.boot.devnum ≠ 0xFFFF ∧ l.ctl.getLsbD 3 = true ∧ l.identOk = false ∧ code ≠ 0x06 then 0x08 else 0x06))) ∧
     (∀ (dev : BitVec 16) (r : List Byte), l.state = .identify → l.ctl.getLsbD 3 = true →
        (s.badNumbers dev = true → fails (.identityReportReceive p dev r) 0x06) ∧
        (s.badNumbers dev = false →
          (∀ d, checkReport l dev r = some d → (l.idStep = 0 ∨ d = l.idStep) → ends (.identityReportReceive p dev r) fun m =>
            m.identOk = true ∧ m.idHash = d ∧ m.idDev = some dev ∧ m.state = .identify) ∧
          (∀ d, checkReport l dev r = some d → l.idStep ≠ 0 → d ≠ l.idStep → fails (.identityReportReceive p dev r) 0x07 ∧
            ∃ t, exec (.identityReportReceive p dev r) s = .next t ∧ (t.port p).idHash = d) ∧
          (checkReport l dev r = none → fails (.identityReportReceive p dev r) 0x07)))) ∧
    (∀ nonce : BitVec 256, ∃ t r, exec (.identityChallenge p nonce) s = .next t ∧ t.out = s.out ++ [.identity p.val r] ∧
      r.length = 0x1C0 ∧ slice r 0x20 32 = bytes256 nonce ∧ t.ports = s.ports ∧ t.mem = s.mem)) ∧
  (∀ (s : State) (p : Fin 128),
    let l := s.port p
    let ends (i : Instr) (f : State → LinkPort → Prop) : Prop := ∃ t, exec i s = .next t ∧ f t (t.port p) ∧ t.mem = s.mem ∧
      ∀ q : Nat, q ≠ p.val → t.port q = s.port q
    (∀ f : Flit, l.state = .up →
      (f.seq = l.recvSeq →
        (s.keepsCredit f.vc = false → ends (.flitReceive p f true) fun t m => m.delivered = l.delivered ++ [f] ∧
          m.recvSeq = l.recvSeq + 1 ∧ t.out = s.out ++ [.ack p.val f.seq, .credit p.val f.vc 1]) ∧
        (s.keepsCredit f.vc = true → ends (.flitReceive p f true) fun t m => m.delivered = l.delivered ++ [f] ∧
          m.recvSeq = l.recvSeq + 1 ∧ m.withheld[f.vc] = l.withheld[f.vc] + 1 ∧ t.out = s.out ++ [.ack p.val f.seq])) ∧
      (f.seq ≠ l.recvSeq → (f.seq - l.recvSeq).toNat < 2048 →
        ends (.flitReceive p f true) (fun t m => m = l ∧ t.out = s.out ++ [.nak p.val l.recvSeq])) ∧
      (2048 ≤ (f.seq - l.recvSeq).toNat → exec (.flitReceive p f true) s = .next s) ∧
      ends (.flitReceive p f false) (fun t m => m = l ∧ t.out = s.out ++ [.nak p.val l.recvSeq])) ∧
    (∀ (pre post : List Flit) (f : Flit), l.retry = pre ++ f :: post → (∀ g ∈ pre, g.seq ≠ f.seq) →
      ends (.flitAckReceive p f.seq) (fun t m => m.retry = post ∧ m.delivered = l.delivered ∧ t.out = s.out) ∧
      (l.state = .up → ends (.flitResend p f.seq) fun t m => m = { l with resentWin := l.resentWin + post.length + 1 } ∧
        t.out = s.out ++ (f :: post).map (.flit p.val))) ∧
    (∀ (vc : Fin 8) (data : VWord),
      (l.state = .up → 0 < l.credits[vc] → l.retry.length < 512 → ∃ f : Flit, f.seq = l.sendSeq ∧ f.vc = vc ∧ f.data = data ∧
        (s.transmit p vc data).out = s.out ++ [.flit p.val f] ∧ ((s.transmit p vc data).port p).retry = l.retry ++ [f] ∧
        ((s.transmit p vc data).port p).sendSeq = l.sendSeq + 1 ∧
        ((s.transmit p vc data).port p).credits = l.credits.set vc (l.credits[vc] - 1)) ∧
      ((l.state ≠ .up ∨ l.credits[vc] = 0 ∨ 512 ≤ l.retry.length) → s.transmit p vc data = s)) ∧
    (∀ (vc : Fin 8) (n : Nat), ends (.creditGrant p vc n) fun _ m => m.credits[vc] = l.credits[vc] + n ∧
      ∀ v : Fin 8, v ≠ vc → m.credits[v] = l.credits[v]) ∧
    (l.state = .up → l.width2 = true → ends (.laneLoss p) fun t m =>
      m = { l with width2 := false, resentWin := l.resentWin + l.retry.length } ∧
      t.boot.logCnt = s.boot.logCnt + 1 ∧ t.out = s.out ++ l.retry.map (.flit p.val)) ∧
    (l.state = .up → l.rate512 = true → ends (.rateFallback p) fun t m =>
      m = { l with state := .retrainEqualise, rate512 := false } ∧ t.boot.logCnt = s.boot.logCnt + 1) ∧
    ((l.state = .up → l.threshold = false → l.errLimit.toNat < l.resentWin → ends (.errorThreshold p l.resends) fun t m =>
        m = { l with threshold := true } ∧ t.boot.logCnt = s.boot.logCnt + 1) ∧
      (∀ n : BitVec 32, (l.state ≠ .up ∨ l.threshold = true ∨ l.resentWin ≤ l.errLimit.toNat ∨ n ≠ l.resends) →
        exec (.errorThreshold p n) s = .next s)) ∧
    (l.inService = true → ends (.linkDown p) fun t m => m.state = .detect ∧ m.attempt = 1 ∧ m.down = some l.peer ∧
      t.boot = s.boot))

/-! ## Registers, monitors, budgets and translation (R5, R28, R29, R31, R32, R55, R73, R76, R104 to R106) -/

/-- A register write at any offset completes, and beyond the last register it changes nothing (R5, R32). New readings are kept
(R28), a sensor at 115 °C or more stops the device, and a droop hold ends (R29); a budget boundary that is due puts the written
shares and pools into effect, each one that has passed, and none comes within a period (R70, R73); an expiry ends a record's deferral (R76); a request that
has waited 1,024 cycles is marked as the one that is served before later ones (R55). -/
def Obligations.DeviceRegisters : Prop :=
  ∀ (s : State),
    (∀ (off : Nat) (v : Word), (∃ t, exec (.registerWrite off v) s = .next t) ∧
      (0x70018 ≤ off → exec (.registerWrite off v) s = .next s)) ∧
    (∀ v : Word, exec (.registerWrite 0x200 v) s =
      .next { s with sched := { s.sched with hapBase := v &&& 0xFFFFFFF000000000 } }) ∧
    (∀ v : Word, exec (.registerWrite 0x400 v) s = exec (.devnumWrite (v.setWidth 16)) s ∧
      exec (.registerWrite 0x408 v) s = exec (.powerlimWrite (v.setWidth 16)) s) ∧
    (∀ r : Readings, ∃ t, exec (.monitorUpdate r) s = .next t ∧
      (∀ i, i < 256 → tblGet t.boot.temps i 0 = r.temps.getD i 0) ∧
      ((∃ i v, i < 256 ∧ r.temps[i]? = some v ∧ 1840 ≤ v.toInt) → t.boot.maintenance = true ∧ t.boot.phase = .thermal) ∧
      ((∀ i v, i < 256 → r.temps[i]? = some v → v.toInt < 1840) → t.cores = s.cores ∧ t.sched = s.sched ∧
        t.boot.maintenance = s.boot.maintenance)) ∧
    (∀ g : Fin 64, exec (.droopHoldEnd g) s =
      .next { s with boot := { s.boot with droopHeld := s.boot.droopHeld.filter (· != g.val) } }) ∧
    (∀ c e : List (BitVec 32),
      (s.bud.period < s.cycle / 1024 → ∃ t, exec (.budgetBoundary c e) s = .next t ∧ t.bud.tbudE = s.bud.tbud ∧
        t.bud.bpoolE = s.bud.bpool ∧ t.bud.period = s.cycle / 1024 ∧ t.bud.ctxUsed = s.bud.ctxUsed ∧ t.mem = s.mem ∧
        t.cores = s.cores ∧ t.sched = s.sched) ∧
      (s.cycle / 1024 ≤ s.bud.period → ∃ t, exec (.budgetBoundary c e) s = .next t ∧
        t.bud = { s.bud with coefNext := t.bud.coefNext, epoolNext := t.bud.epoolNext } ∧ t.mem = s.mem ∧ t.cores = s.cores ∧
        t.sched = s.sched)) ∧
    (∀ n : Nat, ∃ t, exec (.energyDeferExpiry n) s = .next t ∧ t.mem = s.mem ∧ t.cores = s.cores ∧
      ∀ r ∈ s.sched.recs, (r.id ≠ n → r ∈ t.sched.recs) ∧
        (∀ c, r.id = n → r.deferred = some c → c + 2 ^ 20 ≤ s.cycle → ∃ q ∈ t.sched.recs, q.id = n ∧ q.words = r.words ∧
          t.energyDeferred q = false)) ∧
    (∀ n : Nat, ∃ t, exec (.arbiterAgeLimit n) s = .next t ∧ t.mem = s.mem ∧ t.cores = s.cores ∧
      ∀ f ∈ s.fab.fly, ∃ g ∈ t.fab.fly, g.id = f.id ∧ g.what = f.what ∧
        (g.aged = true ↔ f.aged = true ∨ (f.id = n ∧ f.cyc + 1024 ≤ s.cycle)))

/-- Translation (R104 to R106): a walk that ends at a leaf puts its translation first in its station's cache, one that faults
changes nothing; an invalidation is taken while none is under way and dropped otherwise, with `what` 3 it has no effect, it
ends only when no store that a dropped translation has sent is under way, and at its end the translations that it names are
gone and, for all of them, the root written before is in effect. -/
def Obligations.TranslationEvents : Prop :=
  ∀ (s : State) (asid : BitVec 16) (va : Word),
    let v := va.toNat % 2 ^ 56
    ((∀ e ∈ tblGet s.xl.tlb (stationOf v) [], e.covers asid v = false) →
      (∀ l, walk s.mem.phys s.xl.rootE asid v = .ok l → ∃ t e, exec (.translationWalkComplete asid va) s = .next t ∧
        (tblGet t.xl.tlb (stationOf v) []).head? = some e ∧ e.asid = asid ∧ e.covers asid v = true ∧ e.pa = l.pa ∧ e.w = l.w ∧
        t.mem = s.mem) ∧
      (∀ c, walk s.mem.phys s.xl.rootE asid v = .error c → exec (.translationWalkComplete asid va) s = .next s)) ∧
    (s.xl.inval = none →
      exec .xlinvAll s = .next { s with xl := { s.xl with inval := some ⟨0, 0, 0, s.xl.rootW⟩ } } ∧
      exec (.xlinvAsid asid) s = .next { s with xl := { s.xl with inval := some ⟨1, 0, asid, s.xl.rootW⟩ } } ∧
      exec (.xlinvPage asid va) s = .next { s with xl := { s.xl with
        inval := some ⟨2, va.toNat / 2 ^ 16 % 2 ^ 40 * 2 ^ 16, asid, s.xl.rootW⟩ } } ∧
      exec .xlinvComplete s = .next s) ∧
    exec .xlinvNone s = .next s ∧
    (∀ i, s.xl.inval = some i →
      (∀ j ∈ [Instr.xlinvAll, .xlinvAsid asid, .xlinvPage asid va],
        exec j s = .next { s with xl := { s.xl with dropped := true } }) ∧
      (s.invalWaits i = true → exec .xlinvComplete s = .next s) ∧
      (s.invalWaits i = false → ∃ t, exec .xlinvComplete s = .next t ∧ t.xl.inval = none ∧
        t.xl.rootE = (if i.what = 0 then i.root else s.xl.rootE) ∧
        (∀ n e, e ∈ tblGet t.xl.tlb n [] ↔ e ∈ tblGet s.xl.tlb n [] ∧ i.names e = false) ∧ t.mem = s.mem)) ∧
    (∀ w : Word, exec (.xlstatClear w) s = .next { s with xl := { s.xl with dropped := s.xl.dropped && !w.getLsbD 1 } })

/-! ## Host interface and scheduler (R32 to R68) -/

/-- The aperture and the submission ports (R33 to R41): in maintenance BAR4 is the staging buffer, and beyond it, or without
`HAPBASE`, an access is aborted; a 64-byte write at offset 0 is a submission, and nothing is taken at offset 64 or above; the
oldest submission is decided in the order of codes of R39 (5 in maintenance, 4 on a disabled port, 2 for a malformed record, 3 for
one that the port or its submitter's tenant does not allow, 1 when no slot is free, else 0), and an accepted one becomes a record. -/
def Obligations.HostEvents : Prop :=
  ∀ (s : State),
    (∀ (w : Bool) (off : BitVec 36) (n : Nat) (data : List Byte),
      let len := if w then data.length else n
      (s.boot.maintenance = true → 0x4000000 < off.toNat + len →
        exec (.hostApertureAccess w off n data) s = .next { s with out := s.out ++ [.abort] }) ∧
      (s.boot.maintenance = false → s.sched.hapBase.getLsbD 63 = false →
        exec (.hostApertureAccess w off n data) s = .next { s with out := s.out ++ [.abort] }) ∧
      (s.boot.maintenance = true → off.toNat + len ≤ 0x4000000 → s.mem.stage.wf = true →
        ∃ t, exec (.hostApertureAccess w off n data) s = .next t ∧
          (w = true → t.out = s.out ++ [.completed] ∧
            (∀ j, j < data.length → readByte t.mem.stage (off.toNat + j) = data.getD j 0) ∧
            (∀ g, g < off.toNat ∨ off.toNat + data.length ≤ g → readByte t.mem.stage g = readByte s.mem.stage g) ∧
            t.mem.phys = s.mem.phys ∧ t.mem.sram = s.mem.sram) ∧
          (w = false → t.mem = s.mem ∧
            t.out = s.out ++ [.readData ((List.range n).map fun j => readByte s.mem.stage (off.toNat + j))]))) ∧
    (∀ (p : Fin 256) (off : BitVec 12) (data : List Byte) (d : Bool),
      (64 ≤ off.toNat → exec (.hostSubmit p off data d) s = .next s) ∧
      (off = 0 → data.length = 64 → (s.sub p).held = [] → ∃ t, exec (.hostSubmit p off data d) s = .next t ∧
        (t.sub p).held = [⟨.host d, s.cycle, true, data⟩] ∧ t.mem = s.mem ∧ t.sched.recs = s.sched.recs)) ∧
    (∀ (p : Fin 256) (u : Submission) (r : List Submission), (s.sub p).held = u :: r →
      let q := s.sub p
      let ws := wordsOf64 8 u.bytes
      let code := s.submissionCode q u
      (s.boot.maintenance = true → code = 5) ∧
      (s.boot.maintenance = false → q.ctl.getLsbD 0 = false → code = 4) ∧
      (s.boot.maintenance = false → q.ctl.getLsbD 0 = true → (u.whole = false ∨ lrMalformed ws = true) → code = 2) ∧
      (let f (hi lo : Nat) := fieldOf q.ctl.toNat hi lo
       let allowed : Prop := lrTenant ws = f 6 1 ∧ (lrAsid ws).toNat = f 63 48 ∧ (f 36 32).testBit (lrKind ws) = true ∧
         lrPriority ws ≤ f 24 18 ∧ lrCeiling ws ≤ f 24 18 ∧
         ((lrTrace ws = true ∨ lrRecord ws = true ∨ lrReplay ws = true) → q.ctl.getLsbD 17 = true) ∧
         ∀ core ts a z, u.who = .thread core ts a → s.taskOf core = some z → z.tenant = f 6 1
       s.boot.maintenance = false → q.ctl.getLsbD 0 = true → u.whole = true → lrMalformed ws = false →
         (¬allowed → code = 3) ∧ (allowed → 64 ≤ q.occupied → code = 1) ∧ (allowed → q.occupied < 64 → code = 0)) ∧
      (code = 0 → ∃ t z, exec (.submissionDecide p) s = .next t ∧ (t.sub p).held = r ∧
        (t.sub p).accepted = q.accepted + 1 ∧ (t.sub p).occupied = q.occupied + 1 ∧ t.sched.recs = s.sched.recs ++ [z] ∧
        z.words = ws ∧ z.port = p.val ∧ z.phase = .accepted ∧ z.stamp = s.cycle ∧ t.mem = s.mem) ∧
      (code ≠ 0 → ∃ t, exec (.submissionDecide p) s = .next t ∧ (t.sub p).held = r ∧ t.sched.recs = s.sched.recs ∧
        (t.sub p).refusals = q.refusals + 1 ∧ (t.sub p).code = BitVec.ofNat 8 code ∧ (t.sub p).accepted = q.accepted ∧
        t.mem = s.mem))

/-- The scheduler (R44, R46, R52, R58 to R61, R67): intake, starting in the order of R52 with the tokens taken, the system copy
engine, loading, placement at the lowest free block with every crew started (R51, R53), edges, `SCHEND` and `DBGGO`, which lets the
threads of a task that a debug stop has stopped go on (R245; only when all of them have stopped is the model's reading, assumption
log 72). -/
def Obligations.SchedulerEvents : Prop :=
  ∀ (s : State),
    (∀ r, (s.sched.recs.find? fun r => r.phase == .accepted) = some r →
      (s.badEdge r = none → ∃ t, exec .schedulerIntake s = .next t ∧ { r with phase := .waiting } ∈ t.sched.recs ∧ t.mem = s.mem) ∧
      (∀ e, s.badEdge r = some e → ∃ t, exec .schedulerIntake s = .next t ∧ ∀ q ∈ t.sched.recs, q.id ≠ r.id)) ∧
    (s.readyRecs = [] → exec .schedulerStart s = .next s) ∧
    (∀ r l, s.readyRecs = r :: l → r.needsCores = true → r.phase = .waiting → s.placeable s.heldBlocks r = true →
      ∃ t, exec .schedulerStart s = .next t ∧ t.mem = s.mem ∧ t.cores = s.cores ∧
        (∃ q ∈ t.sched.recs, q.id = r.id ∧ q.phase = .loading ∧ q.prio = r.effective s.cycle ∧ q.startedAt = s.cycle) ∧
        ∀ e, realEdges (lrIn r.words) = [e] → realEdges (lrOut r.words) = [] → (t.edge e).filled = (s.edge e).filled - 1) ∧
    (∀ c l r e u, s.sched.copies = c :: l → s.sched.recs.find? (·.id == c.id) = some r →
      ({ s with sched := { s.sched with copies := l } } : State).sysCopy (lrAsid r.words) c.words none = (e, u) →
      ∃ t, exec .systemCopyComplete s = .next t ∧ (∀ q ∈ t.sched.recs, q.id ≠ r.id) ∧
        t = u.complete r (copyResult c.words e)
          { errors := if e.status = 0 then 0 else 0x80, cause := if e.status = 1 then e.cause else 0 } true) ∧
    (∀ r, s.firstIn .loading = some r →
      (∀ e u, s.loadImage r = (.error e, u) → ∃ t, exec .imageLoadComplete s = .next t ∧ ∀ q ∈ t.sched.recs, q.id ≠ r.id) ∧
      (∀ img u, s.loadImage r = (.ok img, u) → ∃ t, exec .imageLoadComplete s = .next t ∧
        t.sched.images.find? (·.1 == r.id) = some (r.id, img) ∧ t.mem = u.mem ∧
        ∀ q ∈ t.sched.recs, q.id = r.id → q.phase = .loaded)) ∧
    (∀ r base img, s.boot.phase ≠ .thermal → s.firstIn .loaded = some r → firstFit s.heldBlocks r.domain = some base →
      s.sched.saved.find? (·.task.id == r.id) = none → s.sched.images.find? (·.1 == r.id) = some (r.id, img) →
      lrTrace r.words = false → lrGang r.words = 1 → ∃ t, exec .placement s = .next t ∧ t.mem.phys = s.mem.phys ∧
        (∃ q ∈ t.sched.tasks, q.id = r.id ∧ q.base = base ∧ q.crews = lrCrews r.words ∧ q.image = img) ∧
        ∀ rel, rel < lrCrews r.words →
          (t.core (base + rel)).crew = some { task := r.id, rel := rel } ∧ (base + rel, 0) ∈ t.runq ∧
          (let h := t.thread (base + rel) 0
           h.run = .running ∧ h.pc = img.entry ∧ h.s[1] = lrArgs r.words ∧ h.s[2] = BitVec.ofNat 64 rel ∧
           h.s[3] = BitVec.ofNat 64 (lrCrews r.words) ∧ h.s[30] = 0x3C000 ∧ h.s[31] = 0xFF0 ∧ h.gwidth = 1 ∧ h.estat = 0)) ∧
    (∀ (e : Fin 4096) (v : Word),
      let g := s.edge e
      let n := v.toNat % 128
      (g.enable = false → v.getLsbD 7 = true → 0 < n → n ≤ 64 → ∃ t, exec (.edgectlWrite e v) s = .next t ∧
        (t.edge e).enable = true ∧ (t.edge e).capacity = n ∧ (t.edge e).tenant = v.toNat / 2 ^ 8 % 64 ∧
        (t.edge e).filled = min (v.toNat / 2 ^ 32 % 128) n ∧ (t.edge e).held = g.held) ∧
      (g.enable = true → v.getLsbD 7 = true → ∃ t, exec (.edgectlWrite e v) s = .next t ∧ t.edge e = g) ∧
      (v.getLsbD 7 = false → ∃ t, exec (.edgectlWrite e v) s = .next t ∧ (t.edge e).enable = false)) ∧
    (∀ v : Word,
      (s.recsNamed v = [] → exec (.schendWrite v) s = .next s ∧ exec (.dbggoWrite v) s = .next s) ∧
      (∀ r, s.recsNamed v = [r] →
        (r.phase = .accepted ∨ r.phase = .waiting → ∃ t, exec (.schendWrite v) s = .next t ∧
          (∀ q, q ∈ t.sched.recs ↔ q ∈ s.sched.recs ∧ q.id ≠ r.id) ∧ t.cores = s.cores) ∧
        (∀ q, s.sched.tasks.find? (·.id == r.id) = some q → q.stoppedAt s = true → ∃ t, exec (.dbggoWrite v) s = .next t ∧
          t.mem = s.mem ∧ ∀ rel ts, rel < q.crews → (s.thread (q.coreAt rel) ts).run = .parked →
            (s.thread (q.coreAt rel) ts).cause = 0xA3 → (t.thread (q.coreAt rel) ts).run = .running ∧
            (t.thread (q.coreAt rel) ts).pc = (s.thread (q.coreAt rel) ts).epc)))

/-! ## The end of a task, switching and pre-emption (R56, R65, R66, R77 to R80, R232 to R237) -/

/-- The truss (R65, R66): a crew that has stopped reports, with bit 3 alone where system software ended it (R67), one that has not
does not; a leader combines the reports of its children, and the root's report ends the task with its record. -/
def Obligations.TrussEvents : Prop :=
  ∀ (s : State) (core : Fin 4096),
    (∀ w, (s.core core).crew = some w →
      (w.finished = true ∨ s.crewStopped core = false ∨ s.gangsStopped core = false → exec (.crewFinish core) s = .next s) ∧
      (w.finished = false → s.crewStopped core = true → s.gangsStopped core = true → ∃ t z,
        exec (.crewFinish core) s = .next t ∧ (t.core core).crew = some z ∧ z.finished = true ∧ z.clean = w.clean ∧
        (w.errors.getLsbD 3 = true → z.errors = w.errors) ∧
        (w.errors.getLsbD 3 = false → z.errors = w.errors ||| (s.core core).accOverflow) ∧ t.mem = s.mem ∧
        ∀ q ∈ t.sched.tasks, q.id = w.task → q.report 0 w.rel = some (crewReport z))) ∧
    (∀ q, s.taskOf core = some q → let rel := s.relOf core
      (q.dueLevel rel = none → exec (.trussReport core) s = .next s) ∧
      (∀ l kids, q.dueLevel rel = some l → allSome ((q.children l rel).map (q.report (l - 1))) = some kids →
        (¬(l = q.level ∧ rel = 0) → ∃ t, exec (.trussReport core) s = .next t ∧ t.mem = s.mem ∧ t.cores = s.cores ∧
          ∀ z ∈ t.sched.tasks, z.id = q.id → z.report l rel = some (combineReports kids)) ∧
        (l = q.level → rel = 0 → ∃ t, exec (.trussReport core) s = .next t ∧ (∀ z ∈ t.sched.tasks, z.id ≠ q.id) ∧
          (∀ z ∈ t.sched.recs, z.id ≠ q.id) ∧ ∀ z ∈ t.fab.slices, z.task ≠ q.id)))

/-- A switch-out (R56, R78, R236): asked for after 8,192 cycles of pressure; each pass counts what is under way once every core
has stopped; after two passes of zero the contexts are written, the task is kept as it was and its cores are free; a copy that
faults waits for the control cores, which have it made again or end the task.
Per-core pre-emption (R232): it waits while the task is being switched out; else the core's threads are asked to stop; once
they and its engines have, the core takes a context slot and saves its frames into it; its release frees the slot and the
threads go on at `EPC`, and it has no effect while no slot is taken or a copy has faulted (R236). What a drain pass counts, and that
the passes start when the cores are quiet, is the model's reading (assumption log 73), and a saved task is kept as plain data beside its
context area (assumption log 33). -/
def Obligations.SwitchOutEvents : Prop :=
  (∀ (s : State),
    (∀ i c r t off, s.sched.switch = none → s.sched.pressure = some (i, c) → s.victim = some r →
      (s.cycle < c + 8192 → exec .switchOutTrigger s = .next s) ∧
      (c + 8192 ≤ s.cycle → s.sched.tasks.find? (·.id == r.id) = some t →
        s.bud.context t.tenant (levelCores t.level) = some off → ∃ z, exec .switchOutTrigger s = .next z ∧
          z.sched.switch = some { task := t.id, ctxOff := off } ∧ z.mem = s.mem ∧
          ∀ rel ts, rel < t.crews → (s.thread (t.coreAt rel) ts).halted = false →
            (z.thread (t.coreAt rel) ts).due.switchOut = true ∧
            (z.thread (t.coreAt rel) ts).s = (s.thread (t.coreAt rel) ts).s ∧
            (z.thread (t.coreAt rel) ts).pc = (s.thread (t.coreAt rel) ts).pc)) ∧
    (∀ w t, s.switching = some (w, t) →
      (w.stopped = false → exec .switchOutDrainPass s = .next { s with sched := { s.sched with
        switch := some { w with stopped := ((List.range t.crews).map t.coreAt).all s.coreQuiet } } }) ∧
      (w.stopped = true → exec .switchOutDrainPass s = .next { s with sched := { s.sched with
        switch := some { w with passes := if s.underWay t = 0 then w.passes + 1 else 0 } } }) ∧
      ((w.passes < 2 ∨ w.faulted ≠ none) → exec .switchOutComplete s = .next s) ∧
      (2 ≤ w.passes → w.faulted = none →
        (∀ u c, s.saveContext w t = (u, some c) → ∃ z, exec .switchOutComplete s = .next z ∧
          z.sched.switch = some { w with faulted := some c } ∧ z.sched.tasks = u.sched.tasks ∧ z.cores = u.cores) ∧
        (∀ u, s.saveContext w t = (u, none) → t.ended = false → ∃ z v, exec .switchOutComplete s = .next z ∧
          z.sched.switch = none ∧ (∀ q ∈ z.sched.tasks, q.id ≠ t.id) ∧ z.sched.saved = u.sched.saved ++ [v] ∧ v.task = t ∧
          v.cores.length = t.crews ∧ ((∀ rel, rel < t.crews → (u.core (t.coreAt rel)).trStaged = []) → z.mem = u.mem) ∧
          ∀ rel, rel < t.crews → ∃ k ∈ v.cores, k.rel = rel ∧ k.core.mailbox = (u.core (t.coreAt rel)).mailbox ∧
            ∀ ts : Fin 4, (k.core.thr[ts]).s = (u.thread (t.coreAt rel) ts).s ∧
              (k.core.thr[ts]).v = (u.thread (t.coreAt rel) ts).v ∧ (k.core.thr[ts]).epc = (u.thread (t.coreAt rel) ts).epc)) ∧
      (∀ core : Fin 4096, w.faulted = some core.val →
        exec (.contextCopyFault core true) s = .next { s with sched := { s.sched with switch := some { w with faulted := none } } } ∧
        ∃ z, exec (.contextCopyFault core false) s = .next z ∧ z.sched.switch = none ∧
          ∀ rel c ts, rel < t.crews → (s.core (t.coreAt rel)).crew = some c → c.finished = false →
            (z.thread (t.coreAt rel) ts).live = false))) ∧
  (∀ (s : State) (core : Fin 4096) (w : Crew) (t : Task), (s.core core).crew = some w → s.taskOf core = some t →
    let c := s.core core
    (c.preempt = none → w.finished = false → s.inSwitch core = false → ∃ z, exec (.perCorePreemption core) s = .next z ∧
      (z.core core).preempt = some {} ∧ z.mem = s.mem ∧ ∀ ts : Fin 4, (s.thread core ts).halted = false →
        (z.thread core ts).due.preempt = true ∧ (z.thread core ts).s = (s.thread core ts).s ∧
        (z.thread core ts).pc = (s.thread core ts).pc) ∧
    (c.preempt = none → w.finished = true → exec (.perCorePreemption core) s = .next s) ∧
    (c.preempt = none → w.finished = false → s.inSwitch core = true →
      exec (.perCorePreemption core) s = .next (s.setCore core { c with preemptWaits := true })) ∧
    (∀ p, c.preempt = some p → p.slot = none → p.faulted = false →
      (s.coreStopped core = false → exec (.perCorePreemption core) s = .next s) ∧
      (∀ off u, s.coreStopped core = true → s.bud.context t.tenant 1 = some off →
        (s.leaveFrames core false).writeContext t.asid t.tenant off (s.preemptPieces core) = (u, true) →
        ∃ z, exec (.perCorePreemption core) s = .next z ∧
          (z.core core).preempt = some { p with slot := some off } ∧ z.bud.ctxUsed = u.bud.ctxUsed ++ [(t.tenant, off, 1)] ∧
          z.mem = u.mem) ∧
      (∀ off u, s.coreStopped core = true → s.bud.context t.tenant 1 = some off →
        (s.leaveFrames core false).writeContext t.asid t.tenant off (s.preemptPieces core) = (u, false) →
        ∃ z, exec (.perCorePreemption core) s = .next z ∧ (z.core core).preempt = some { p with faulted := true } ∧
          z.mem = u.mem)) ∧
    (∀ p, c.preempt = some p → (p.slot = none ∨ p.faulted = true) → exec (.preemptionRelease core) s = .next s) ∧
    (∀ p off, c.preempt = some p → p.slot = some off → p.faulted = false →
      ∃ z, exec (.preemptionRelease core) s = .next z ∧ (z.core core).preempt = none ∧ z.mem = s.mem ∧
      (t.tenant, off, 1) ∉ z.bud.ctxUsed ∧
      ∀ ts : Fin 4, (s.thread core ts).run = .parked → (s.thread core ts).cause = 0xA0 →
        (z.thread core ts).run = .running ∧ (z.thread core ts).pc = (s.thread core ts).epc))

/-! ## Communicators and collectives (R41, R81 to R92, R300) -/

/-- `ST64S` (R300, R41, R82): a block outside the scratchpad or not aligned traps, a port above 257 gives 4; on a launch port the
submission is held there and the thread waits until it is decided, and if a trap comes meanwhile the same decision stands at
its reissue; the addresses are checked before the port, and a trap taken meanwhile changes no decision (the model's reading,
assumption log 38), and the thread's earlier stores land first (assumption log 37); on a collective port the request enters its queue, or is refused, and the register reads the code. -/
def Obligations.SubmissionResults : Prop :=
  ∀ (s : State) (k : Ctx) (x : Pre) (a b c : SReg) (q : Task), s.Issues k x → s.plain k a → s.plain k b → s.plain k c →
    s.taskOf k.core = some q →
    let p := (s.sreg k b).toNat
    let ea := s.sreg k c
    let bs := s.seenBytes k.core k.ts (.sram (padKey k.core + ea.toNat)) 64
    (∀ w : Word, (s.own k).askedAt k.addr = some (some w) → exec (.st64s x a b c) s = .next (s.retires k .next (·.setS a w))) ∧
    ((s.own k).askedAt k.addr = some none → exec (.st64s x a b c) s = .next (s.held k)) ∧
    ((s.own k).askedAt k.addr = none →
      (0x40000 ≤ ea.toNat → exec (.st64s x a b c) s = .next (s.traps k 0x02 0)) ∧
      (ea.toNat < 0x40000 → ea.toNat % 64 ≠ 0 → exec (.st64s x a b c) s = .next (s.traps k 0x60 ea)) ∧
      (ea.toNat < 0x3C000 → ea.toNat % 64 = 0 → s.acquiring k.core k.ts = true → exec (.st64s x a b c) s = .next (s.held k)) ∧
      (ea.toNat < 0x3C000 → ea.toNat % 64 = 0 → s.acquiring k.core k.ts = false →
        (257 < p → exec (.st64s x a b c) s = .next (s.retires k .next (·.setS a 4))) ∧
        (p ≤ 257 → s.storesDone k = false → exec (.st64s x a b c) s = .next (s.held k)) ∧
        (p < 256 → s.storesDone k = true → (s.sub p).held = [] → ∃ t, exec (.st64s x a b c) s = .next t ∧
          (t.sub p).held = [⟨.thread k.core k.ts k.addr, s.cycle, true, bs⟩] ∧
          (t.own k).asked = (s.own k).asked ++ [(k.addr, none)] ∧
          (t.own k).pc = (s.own k).pc ∧ (t.own k).s = (s.own k).s ∧ t.mem = s.mem) ∧
        (256 ≤ p → p ≤ 257 → s.storesDone k = true → q.kind ≠ 1 →
          let code := s.collCode (p - 256) (wordsOf64 8 bs) q.tenant q.crews false
          (code ≠ 0 → exec (.st64s x a b c) s = .next (s.retires k .next (·.setS a (BitVec.ofNat 64 code)))) ∧
          (code = 0 → ∃ t z, exec (.st64s x a b c) s = .next t ∧ t.fab.colls = s.fab.colls ++ [z] ∧ z.words = wordsOf64 8 bs ∧
            z.engine.val = p - 256 ∧ z.asid = q.asid ∧ z.task = some q.id ∧ z.phase = .queued ∧ (a ≠ 0 → (t.own k).s[a] = 0) ∧
            (t.own k).pc = ((s.own k).loopNext k.next).pc ∧ t.mem = s.mem))))

/-- Communicators and collectives (R81, R85, R89 to R91): a communicator is enabled when its rank map can be read and names this
device at its rank, and disabling it ends its requests with status 6; an engine takes its next request when every device of
the plan is reached, else it ends with status 9; requests of all ranks that differ end with status 3 and otherwise match, once
the count tables of kind 6 have come; a chunk that comes early is kept, once, while there is room, and one of a matched request
takes it further; one that finds no room waits on its channel; a notice ends a request with status 4; and an ended request goes, with
its message to the core that it names. The model's choices: every rank waits until the others have said that they are done
(assumption log 92), the match waits for the count tables (assumption log 93), and when a chunk is kept and the store drained
(assumption log 118). -/
def Obligations.CollectiveEvents : Prop :=
  ∀ (s : State) (c : Fin 4096),
    let m := tblGet s.fab.comms c.val {}
    (∀ v : Word,
      let n : Comm := { m with ctl := v &&& 0x1FFF0FFFFFFF3F02 }
      (m.ctl.getLsbD 0 = true → exec (.commEnable c v) s = .next s) ∧
      (m.ctl.getLsbD 0 = false → (s.readMap n).1 = none → ∃ t, exec (.commEnable c v) s = .next t ∧
        tblGet t.fab.comms c.val {} = n ∧ t.mem = (s.readMap n).2.mem) ∧
      (∀ l u, m.ctl.getLsbD 0 = false → s.readMap n = (some l, u) → ∃ t z, exec (.commEnable c v) s = .next t ∧
        tblGet t.fab.comms c.val {} = z ∧ z.ctl = n.ctl ||| 1 ∧ z.ranks = l ∧ t.mem = u.mem)) ∧
    (∃ t, exec (.commDisable c) s = .next t ∧ (tblGet t.fab.comms c.val {}).ctl = m.ctl &&& ~~~1 ∧ t.mem = s.mem ∧
      ∀ q ∈ s.fab.colls, clComm q.words = c.val → q.ending = none →
        { q with ending := some (6, BitVec.ofNat 64 q.written) } ∈ t.fab.colls) ∧
    (∀ e : Fin 2, s.nextColl e = none → exec (.collectiveRequestTake e) s = .next s) ∧
    (∀ (e : Fin 2) (q : Coll), s.nextColl e = some q →
      let reached := ∀ dev ∈ s.collDevices q, portWhere s.ports (fun l => l.peer == dev && l.inService) ≠ none
      (reached → ∃ t, exec (.collectiveRequestTake e) s = .next t ∧ { q with phase := .taken } ∈ t.fab.colls ∧ t.mem = s.mem) ∧
      (¬reached → ∃ t, exec (.collectiveRequestTake e) s = .next t ∧ { q with ending := some (9, 0) } ∈ t.fab.colls)) ∧
    (∀ (seq : BitVec 32), s.coll c seq = none → exec (.collectiveComplete c seq) s = .next s) ∧
    (∀ (seq : BitVec 32) (q : Coll), s.coll c seq = some q →
      (∀ a : Word, s.vcHeld 1 = true → exec (.collectiveFaultNotice c seq a) s = .next s) ∧
      (∀ a : Word, q.ending = none → s.vcHeld 1 = false → ∃ t, exec (.collectiveFaultNotice c seq a) s = .next t ∧
        t.coll c seq = some { q with ending := some (4, a) } ∧ t.mem = s.mem) ∧
      (∀ (rank stage off : Nat) (data : List Byte), q.ending = none → q.phase ≠ .matched →
        let kept := ∃ d, (rank, stage, off, d) ∈ q.early
        (kept → ∃ t, exec (.collectiveChunkArrive c seq rank stage off data) s = .next t ∧ t.coll c seq = some q ∧
          t.mem = s.mem) ∧
        (¬kept → s.vcHeld (chunkChannel c.val stage) = true →
          exec (.collectiveChunkArrive c seq rank stage off data) s = .next s) ∧
        (¬kept → s.vcHeld (chunkChannel c.val stage) = false → s.earlyBytes + data.length ≤ 2 ^ 28 → ∃ t, exec (.collectiveChunkArrive c seq rank stage off data) s = .next t ∧
          t.coll c seq = some { q with early := q.early ++ [(rank, stage, off, data)] } ∧ t.mem = s.mem) ∧
        (¬kept → s.vcHeld (chunkChannel c.val stage) = false → 2 ^ 28 < s.earlyBytes + data.length →
          exec (.collectiveChunkArrive c seq rank stage off data) s =
            .next (s.stick (chunkChannel c.val stage) data.length))) ∧
      (∀ (rank stage off : Nat) (data : List Byte), q.ending = none → q.phase = .matched → s.collRuns q = true →
        (∀ d, (rank, stage, off, d) ∉ q.early) → s.vcHeld (chunkChannel c.val stage) = false → s.roomFor data.length = true →
          exec (.collectiveChunkArrive c seq rank stage off data) s =
          .next (s.collGo { q with early := q.early ++ [(rank, stage, off, data)] })) ∧
      (∀ (peers : List VWord) (tables : List (List Byte)),
        let rows := peers.map fun p => (List.range 8).map fun i => BitVec.ofNat 64 (laneOf p i 64)
        q.phase = .taken → q.ending = none → s.collRuns q = true → rows.length = m.size → rows[m.rank]? = some q.words →
        (∀ p ∈ s.fab.colls, clComm p.words = c.val → seq.toNat ≤ (clSeq p.words).toNat) →
        ((∃ r ∈ rows, sameRequest q.words r = false) → ∃ t, exec (.collectiveMatch c seq peers tables) s = .next t ∧
          t.coll c seq = some { q with ending := some (3, 0) }) ∧
        ((∀ r ∈ rows, sameRequest q.words r = true) → tablesHere m q.words tables = false →
          (collTable m (s, q)).2.2.ending = none → exec (.collectiveMatch c seq peers tables) s = .next s) ∧
        ((∀ r ∈ rows, sameRequest q.words r = true) → tablesHere m q.words tables = true →
          ∃ t z, exec (.collectiveMatch c seq peers tables) s = .next t ∧
          t.coll c seq = some z ∧ z.phase = .matched ∧ z.words = q.words)) ∧
      (∀ st w, s.collRuns q = true → s.collEnding q = some (st, w) → ∃ t, exec (.collectiveComplete c seq) s = .next t ∧
        (∀ z ∈ t.fab.colls, ¬(clComm z.words = c.val ∧ clSeq z.words = seq)) ∧
        (∀ i k, q.rcd = none → q.task = some i → s.sched.tasks.find? (·.id == i) = some k → clNotify q.words = true →
          ∃ f, t.fab.fly = s.fab.fly ++ [f] ∧ f.what = .deposit (k.coreAt (clCore q.words)) (collMessage q.words st) w true ∧
            t.mem = s.mem)))

/-! ## Reset and the invariant of memory -/

/-- The device right after reset (R25, R30, R31, R34, R106): no core runs and no port is up, every memory reads zero, and the
registers read the values of R31 through BAR0. That memory which nothing has written reads zero, and that the state which the spec
gives no value for is empty, is the model's choice (assumption logs 4 and 3). -/
def Obligations.ResetState : Prop :=
  let s := State.reset
  s.canonical ∧ s.boot.phase = .off ∧ s.boot.maintenance = true ∧ s.cycle = 0 ∧ s.sched.tasks = [] ∧ s.sched.recs = [] ∧
  (∀ c ts, (s.thread c ts).live = false ∧ (s.core c).crew = none) ∧ (∀ p, (s.port p).state = .disabled) ∧
  (∀ a, readByte s.mem.phys a = 0 ∧ readByte s.mem.sram a = 0 ∧ readByte s.mem.code a = 0 ∧ readByte s.mem.operand a = 0) ∧
  s.bar0 0x100 = 0 ∧ s.bar0 0x104 = 0 ∧ s.bar0 0x108 = 0 ∧ s.bar0 0x400 = 0xFFFF ∧ s.bar0 0x408 = 2400 ∧ s.bar0 0x500 = 0 ∧
  s.bar0 0x600 = 0 ∧ s.bar0 0x604 = 0 ∧ s.bar0 0x2000 = 0 ∧ s.bar0 0x2400 = 0 ∧ s.bar0 0x2404 = 0 ∧ s.bar0 0x2880 = 1600 ∧
  s.bar0 0x70000 = 0 ∧ s.bar0 0x70010 = 0

/-- Every memory keeps its canonical form, those of saved tasks too, in every step from every state. -/
def Obligations.StepKeepsCanonical : Prop := ∀ s t : State, s.canonical → step s = .next t → t.canonical
end

