-- ==== Sys2Proof/Laws/Memory.lean ====
section
/-!
SUPPORT. Laws of sparse tables and of memory: reading after writing, and the canonical form kept.
-/
namespace Sys2Proof.Laws
open Sys2Proof Sys2Proof.Machine

/-! ## Tables -/

@[simp] theorem tblGet_tblSet_same {α : Type} (t : Tbl α) (k : Nat) (v d : α) : tblGet (tblSet t k v) k d = v := by
  induction t with
  | nil => simp [tblSet, tblGet]
  | cons p r ih =>
    obtain ⟨j, w⟩ := p
    simp only [tblSet]
    split
    · simp [tblGet]
    · split
      · simp [tblGet]
      · simp_all [tblGet]

theorem tblGet_tblSet_other {α : Type} (t : Tbl α) {k j : Nat} (h : j ≠ k) (v d : α) :
    tblGet (tblSet t k v) j d = tblGet t j d := by
  induction t with
  | nil => simp [tblSet, tblGet, Ne.symm h]
  | cons p r ih =>
    obtain ⟨i, w⟩ := p
    simp only [tblSet]
    split
    · simp [tblGet, Ne.symm h]
    · split
      · rename_i hik; subst hik; simp [tblGet, Ne.symm h]
      · simp only [tblGet, ih]

/-! ## The canonical form as order and values -/

/-- The canonical form without its recursion: addresses rise strictly and no byte is 0. -/
theorem Memory.wf_iff (m : Memory) : Memory.wf m = true ↔ m.Pairwise (fun c d => c.1 < d.1) ∧ ∀ c ∈ m, c.2 ≠ emptyByte := by
  induction m with
  | nil => simp [Memory.wf]
  | cons c r ih =>
    cases r with
    | nil => simp [Memory.wf, emptyByte]
    | cons d r =>
      have step : Memory.wf (c :: d :: r) = true ↔ c.2 ≠ emptyByte ∧ c.1 < d.1 ∧ Memory.wf (d :: r) = true := by
        simp [Memory.wf, emptyByte, and_assoc]
      rw [step, ih]
      constructor
      · rintro ⟨hc, hlt, hp, hv⟩
        refine ⟨List.pairwise_cons.2 ⟨fun e he => ?_, hp⟩, ?_⟩
        · rcases List.mem_cons.1 he with rfl | he
          · exact hlt
          · exact lt_trans hlt ((List.pairwise_cons.1 hp).1 e he)
        · simpa [hc] using hv
      · rintro ⟨hp, hv⟩
        obtain ⟨h1, h2⟩ := List.pairwise_cons.1 hp
        exact ⟨hv c (by simp), h1 d (by simp), h2, fun e he => hv e (List.mem_cons_of_mem _ he)⟩

theorem mem_cellsAt {a : Nat} {bs : List Byte} {c : Host.Cell} (h : c ∈ cellsAt a bs) :
    a ≤ c.1 ∧ c.1 < a + bs.length ∧ c.2 ≠ emptyByte := by
  induction bs generalizing a with
  | nil => simp [cellsAt] at h
  | cons b bs ih =>
    simp only [cellsAt] at h
    split at h
    · obtain ⟨h1, h2, h3⟩ := ih h; simp only [List.length_cons]; exact ⟨by omega, by omega, h3⟩
    · rename_i hb
      rcases List.mem_cons.1 h with rfl | h
      · simp [hb]
      · obtain ⟨h1, h2, h3⟩ := ih h; simp only [List.length_cons]; exact ⟨by omega, by omega, h3⟩

theorem cellsAt_pairwise (a : Nat) (bs : List Byte) : (cellsAt a bs).Pairwise (fun c d => c.1 < d.1) := by
  induction bs generalizing a with
  | nil => simp [cellsAt]
  | cons b bs ih =>
    simp only [cellsAt]
    split
    · exact ih _
    · exact List.pairwise_cons.2 ⟨fun d hd => by have := mem_cellsAt hd; simp only; omega, ih _⟩

theorem mem_takeWhile_lt {m : Memory} {n : Nat} {c : Host.Cell}
    (h : c ∈ m.takeWhile (fun c => decide (c.1 < n))) : c.1 < n ∧ c ∈ m := by
  exact ⟨by simpa using List.mem_takeWhile_imp h, (List.takeWhile_sublist _).subset h⟩

theorem mem_dropWhile_le {m : Memory} (hm : m.Pairwise (fun c d => c.1 < d.1)) {n : Nat} {c : Host.Cell}
    (h : c ∈ m.dropWhile (fun c => decide (c.1 < n))) : n ≤ c.1 ∧ c ∈ m := by
  refine ⟨?_, (List.dropWhile_sublist _).subset h⟩
  induction m with
  | nil => simp at h
  | cons d r ih =>
    obtain ⟨h1, h2⟩ := List.pairwise_cons.1 hm
    by_cases hd : d.1 < n
    · rw [List.dropWhile_cons_of_pos (by simpa using hd)] at h
      exact ih h2 h
    · rw [List.dropWhile_cons_of_neg (by simpa using hd)] at h
      rcases List.mem_cons.1 h with rfl | h
      · omega
      · have := h1 c h; omega

/-! ## Every memory operation keeps the canonical form -/

/-- A canonical memory with the cells of a span replaced by canonical cells inside it is canonical. -/
theorem Memory.splice_wf {m : Memory} {a b : Nat} {mid : Memory} (h : Memory.wf m = true) (hab : a ≤ b)
    (hp : mid.Pairwise (fun c d => c.1 < d.1)) (hb : ∀ c ∈ mid, a ≤ c.1 ∧ c.1 < b ∧ c.2 ≠ emptyByte) :
    Memory.wf (m.takeWhile (fun c => decide (c.1 < a)) ++ mid ++ m.dropWhile (fun c => decide (c.1 < b))) = true := by
  rw [Memory.wf_iff] at h ⊢
  obtain ⟨hs, hv⟩ := h
  constructor
  · rw [List.pairwise_append, List.pairwise_append]
    refine ⟨⟨hs.sublist (List.takeWhile_sublist _), hp, fun c hc d hd => ?_⟩,
      hs.sublist (List.dropWhile_sublist _), fun c hc d hd => ?_⟩
    · have := (mem_takeWhile_lt hc).1; have := (hb d hd).1; omega
    · have hd' := (mem_dropWhile_le hs hd).1
      rcases List.mem_append.1 hc with hc | hc
      · have := (mem_takeWhile_lt hc).1; omega
      · have := (hb c hc).2.1; omega
  · intro c hc
    rcases List.mem_append.1 hc with hc | hc
    · rcases List.mem_append.1 hc with hc | hc
      · exact hv c (mem_takeWhile_lt hc).2
      · exact (hb c hc).2.2
    · exact hv c (mem_dropWhile_le hs hc).2

theorem writeSpan_wf {m : Memory} (h : Memory.wf m = true) (a : Nat) (bs : List Byte) :
    Memory.wf (writeSpan m a bs) = true :=
  Memory.splice_wf h (by omega) (cellsAt_pairwise a bs) fun _ hc => mem_cellsAt hc

theorem clearSpan_wf {m : Memory} (h : Memory.wf m = true) (a n : Nat) : Memory.wf (clearSpan m a n) = true := by
  have := Memory.splice_wf (mid := []) h (Nat.le_add_right a n) List.Pairwise.nil (by simp)
  simpa [clearSpan] using this

theorem writeLE_wf {m : Memory} (h : Memory.wf m = true) (a n v : Nat) : Memory.wf (writeLE m a n v) = true :=
  writeSpan_wf h a _

/-! ## Reading after writing -/

theorem mem_takeWhile_iff {m : Memory} (hm : m.Pairwise (fun c d => c.1 < d.1)) {n : Nat} {c : Host.Cell} :
    c ∈ m.takeWhile (fun c => decide (c.1 < n)) ↔ c ∈ m ∧ c.1 < n := by
  refine ⟨fun h => ⟨(mem_takeWhile_lt h).2, (mem_takeWhile_lt h).1⟩, ?_⟩
  rintro ⟨h, hc⟩
  induction m with
  | nil => simp at h
  | cons d r ih =>
    obtain ⟨h1, h2⟩ := List.pairwise_cons.1 hm
    rcases List.mem_cons.1 h with rfl | h
    · rw [List.takeWhile_cons_of_pos (by simpa using hc)]; simp
    · have hd := h1 c h
      rw [List.takeWhile_cons_of_pos (by simp; omega)]
      exact List.mem_cons_of_mem _ (ih h2 h)

theorem mem_dropWhile_iff {m : Memory} (hm : m.Pairwise (fun c d => c.1 < d.1)) {n : Nat} {c : Host.Cell} :
    c ∈ m.dropWhile (fun c => decide (c.1 < n)) ↔ c ∈ m ∧ n ≤ c.1 := by
  refine ⟨fun h => ⟨(mem_dropWhile_le hm h).2, (mem_dropWhile_le hm h).1⟩, ?_⟩
  rintro ⟨h, hc⟩
  rw [← List.takeWhile_append_dropWhile (p := fun c : Host.Cell => decide (c.1 < n)) (l := m)] at h
  rcases List.mem_append.1 h with h | h
  · have := (mem_takeWhile_lt h).1; omega
  · exact h

/-- The cells after a write: those outside the span and the new ones. -/
theorem mem_writeSpan {m : Memory} (h : Memory.wf m = true) {a : Nat} {bs : List Byte} {c : Host.Cell} :
    c ∈ writeSpan m a bs ↔ (c ∈ m ∧ (c.1 < a ∨ a + bs.length ≤ c.1)) ∨ c ∈ cellsAt a bs := by
  have hs := ((Memory.wf_iff m).1 h).1
  simp only [writeSpan, List.mem_append, mem_takeWhile_iff hs, mem_dropWhile_iff hs]
  tauto

/-- What a byte reads as, by the cells of a canonical memory. -/
theorem readByte_iff {m : Memory} (h : Memory.wf m = true) {a : Nat} {b : Byte} :
    readByte m a = b ↔ (a, b) ∈ m ∨ (b = emptyByte ∧ ∀ c ∈ m, c.1 ≠ a) := by
  rw [Memory.wf_iff] at h
  obtain ⟨hs, hv⟩ := h
  induction m with
  | nil => simp [readByte, eq_comm]
  | cons d r ih =>
    obtain ⟨h1, h2⟩ := List.pairwise_cons.1 hs
    obtain ⟨x, y⟩ := d
    simp only [readByte]
    by_cases hx : x = a
    · subst hx
      have hn : (x, b) ∉ r := fun hb => absurd (h1 _ hb) (lt_irrefl _)
      simp [hn, eq_comm]
    · rw [if_neg hx, ih h2 fun c hc => hv c (List.mem_cons_of_mem _ hc)]
      have : (a, b) ≠ (x, y) := fun he => hx (congrArg Prod.fst he).symm
      simp [this, hx]

/-- Memories with the same cells at an address read the same there. -/
theorem readByte_congr {m n : Memory} (hm : Memory.wf m = true) (hn : Memory.wf n = true) {a : Nat}
    (h : ∀ c : Host.Cell, c.1 = a → (c ∈ m ↔ c ∈ n)) : readByte m a = readByte n a := by
  rw [readByte_iff hm]
  rcases (readByte_iff hn).1 (rfl : readByte n a = readByte n a) with hc | ⟨h0, hc⟩
  · exact .inl ((h _ rfl).2 hc)
  · exact .inr ⟨h0, fun c hm ha => hc c ((h c ha).1 hm) ha⟩

/-- A write leaves every byte outside its span alone. -/
theorem readByte_writeSpan_other {m : Memory} (h : Memory.wf m = true) {a b : Nat} {bs : List Byte}
    (hb : b < a ∨ a + bs.length ≤ b) : readByte (writeSpan m a bs) b = readByte m b := by
  refine readByte_congr (writeSpan_wf h a bs) h fun c hc => ?_
  rw [mem_writeSpan h]
  constructor
  · rintro (⟨hm, -⟩ | hm)
    · exact hm
    · have := mem_cellsAt hm; omega
  · exact fun hm => .inl ⟨hm, by omega⟩

theorem mem_cellsAt_iff {a : Nat} {bs : List Byte} {i : Nat} (hi : i < bs.length) {b : Byte} :
    (a + i, b) ∈ cellsAt a bs ↔ b = bs[i] ∧ b ≠ emptyByte := by
  induction bs generalizing a i with
  | nil => simp at hi
  | cons d r ih =>
    have step : (a + i, b) ∈ cellsAt a (d :: r) ↔
        (a + i = a ∧ b = d ∧ d ≠ emptyByte) ∨ (a + i, b) ∈ cellsAt (a + 1) r := by
      by_cases hd : d = emptyByte <;> simp [cellsAt, hd]
    rw [step]
    cases i with
    | zero =>
      have hn : (a, b) ∉ cellsAt (a + 1) r := fun hc => by have := mem_cellsAt hc; omega
      simp only [Nat.add_zero, hn, or_false, true_and, List.getElem_cons_zero]
      constructor
      · rintro ⟨rfl, h⟩; exact ⟨rfl, h⟩
      · rintro ⟨rfl, h⟩; exact ⟨rfl, h⟩
    | succ i =>
      have : a + (i + 1) = a + 1 + i := by omega
      rw [this, ih (by simpa using hi)]
      simp; omega

/-- A write is read back. -/
theorem readByte_writeSpan_same {m : Memory} (h : Memory.wf m = true) {a i : Nat} {bs : List Byte}
    (hi : i < bs.length) : readByte (writeSpan m a bs) (a + i) = bs[i] := by
  rw [readByte_iff (writeSpan_wf h a bs), mem_writeSpan h, mem_cellsAt_iff hi]
  by_cases hb : bs[i] = emptyByte
  · refine .inr ⟨hb, fun c hc ha => ?_⟩
    rcases (mem_writeSpan h).1 hc with ⟨-, h⟩ | h
    · omega
    · obtain ⟨x, y⟩ := c
      subst ha
      exact ((mem_cellsAt_iff hi).1 h).2 (((mem_cellsAt_iff hi).1 h).1.trans hb)
  · exact .inl (.inr ⟨rfl, hb⟩)

/-- Clearing a span leaves every byte outside it alone. -/
theorem readByte_clearSpan_other {m : Memory} (h : Memory.wf m = true) {a n b : Nat} (hb : b < a ∨ a + n ≤ b) :
    readByte (clearSpan m a n) b = readByte m b := by
  have hs := ((Memory.wf_iff m).1 h).1
  refine readByte_congr (clearSpan_wf h a n) h fun c hc => ?_
  simp only [clearSpan, List.mem_append, mem_takeWhile_iff hs, mem_dropWhile_iff hs]
  constructor
  · rintro (h | h) <;> exact h.1
  · exact fun hm => by rcases hb with hb | hb <;> [left; right] <;> exact ⟨hm, by omega⟩

/-- Reading a span is reading its bytes. -/
theorem readSpan_eq {m : Memory} (h : Memory.wf m = true) (n a : Nat) :
    readSpan n a m = (List.range n).map fun i => readByte m (a + i) := by
  suffices hs : ∀ (m' : Memory), m'.Pairwise (fun c d => c.1 < d.1) → readSpan n a m' =
      (List.range n).map fun i => readByte m' (a + i) from hs m ((Memory.wf_iff m).1 h).1
  induction n generalizing a with
  | zero => simp [readSpan]
  | succ n ih =>
    intro m' hm
    have hd := hm.sublist (List.dropWhile_sublist (p := fun c : Host.Cell => decide (c.1 < a)) (l := m'))
    have drop : ∀ (l : Memory) (b : Nat), a ≤ b →
        readByte (l.dropWhile fun c => decide (c.1 < a)) b = readByte l b := by
      intro l b hb
      induction l with
      | nil => rfl
      | cons d r ihr =>
        by_cases hda : d.1 < a
        · have : d.1 ≠ b := by omega
          rw [List.dropWhile_cons_of_pos (by simpa using hda), ihr]
          simp [readByte, this]
        · rw [List.dropWhile_cons_of_neg (by simpa using hda)]
    have head : (match m'.dropWhile (fun c => decide (c.1 < a)) with
        | c :: _ => if c.1 = a then c.2 else emptyByte
        | [] => emptyByte) = readByte m' a := by
      rw [← drop m' a (le_refl a)]
      cases hw : m'.dropWhile fun c => decide (c.1 < a) with
      | nil => rfl
      | cons c r =>
        by_cases hc : c.1 = a
        · simp [readByte, hc]
        · have hle := (mem_dropWhile_le hm (c := c) (n := a) (by rw [hw]; simp)).1
          rw [hw] at hd
          obtain ⟨h1, -⟩ := List.pairwise_cons.1 hd
          have : ∀ d ∈ r, d.1 ≠ a := fun d hdr => by have := h1 d hdr; omega
          have hr : readByte r a = emptyByte := by
            clear hw hd h1
            induction r with
            | nil => rfl
            | cons d r ihr => simp [readByte, this d (by simp), ihr fun e he => this e (List.mem_cons_of_mem _ he)]
          simp [readByte, hc, hr]
    rw [List.range_succ_eq_map]
    simp only [readSpan, List.map_cons, List.map_map, Nat.add_zero]
    congr 1
    rw [ih (a + 1) _ hd]
    refine List.map_congr_left fun i _ => ?_
    simp only [Function.comp]
    rw [drop _ _ (by omega)]
    congr 1
    omega

end Sys2Proof.Laws
end

