-- ==== Sys2Proof/Laws/State.lean ====
section
/-!
SUPPORT. Laws of the state's updates: which fields an update of a core or thread set leaves alone, and what the core and
thread accessors read after it.
-/
namespace Sys2Proof.Laws
open Sys2Proof Sys2Proof.Machine

variable (s : State) (c d : Nat) (ts us : Fin 4) (v : Core) (t : Thread) (f : Thread → Thread)

/-! ## The fields beside the cores -/

@[simp] theorem State.setCore_agenda : (s.setCore c v).agenda = s.agenda := rfl
@[simp] theorem State.setCore_runq : (s.setCore c v).runq = s.runq := rfl
@[simp] theorem State.setCore_fetch : (s.setCore c v).fetch = s.fetch := rfl
@[simp] theorem State.setCore_pops : (s.setCore c v).pops = s.pops := rfl
@[simp] theorem State.setCore_touched : (s.setCore c v).touched = s.touched := rfl
@[simp] theorem State.setCore_pace : (s.setCore c v).pace = s.pace := rfl
@[simp] theorem State.setCore_turn : (s.setCore c v).turn = s.turn := rfl
@[simp] theorem State.setCore_fresh : (s.setCore c v).fresh = s.fresh := rfl
@[simp] theorem State.setCore_out : (s.setCore c v).out = s.out := rfl
@[simp] theorem State.setCore_cycle : (s.setCore c v).cycle = s.cycle := rfl
@[simp] theorem State.setCore_boot : (s.setCore c v).boot = s.boot := rfl
@[simp] theorem State.setCore_ports : (s.setCore c v).ports = s.ports := rfl
@[simp] theorem State.setCore_mem : (s.setCore c v).mem = s.mem := rfl
@[simp] theorem State.setCore_xl : (s.setCore c v).xl = s.xl := rfl
@[simp] theorem State.setCore_fab : (s.setCore c v).fab = s.fab := rfl
@[simp] theorem State.setCore_sched : (s.setCore c v).sched = s.sched := rfl
@[simp] theorem State.setCore_bud : (s.setCore c v).bud = s.bud := rfl

@[simp] theorem State.setThread_agenda : (s.setThread c ts t).agenda = s.agenda := rfl
@[simp] theorem State.setThread_runq : (s.setThread c ts t).runq = s.runq := rfl
@[simp] theorem State.setThread_fetch : (s.setThread c ts t).fetch = s.fetch := rfl
@[simp] theorem State.setThread_pops : (s.setThread c ts t).pops = s.pops := rfl
@[simp] theorem State.setThread_touched : (s.setThread c ts t).touched = s.touched := rfl
@[simp] theorem State.setThread_pace : (s.setThread c ts t).pace = s.pace := rfl
@[simp] theorem State.setThread_turn : (s.setThread c ts t).turn = s.turn := rfl
@[simp] theorem State.setThread_fresh : (s.setThread c ts t).fresh = s.fresh := rfl
@[simp] theorem State.setThread_out : (s.setThread c ts t).out = s.out := rfl
@[simp] theorem State.setThread_cycle : (s.setThread c ts t).cycle = s.cycle := rfl
@[simp] theorem State.setThread_boot : (s.setThread c ts t).boot = s.boot := rfl
@[simp] theorem State.setThread_ports : (s.setThread c ts t).ports = s.ports := rfl
@[simp] theorem State.setThread_mem : (s.setThread c ts t).mem = s.mem := rfl
@[simp] theorem State.setThread_xl : (s.setThread c ts t).xl = s.xl := rfl
@[simp] theorem State.setThread_fab : (s.setThread c ts t).fab = s.fab := rfl
@[simp] theorem State.setThread_sched : (s.setThread c ts t).sched = s.sched := rfl
@[simp] theorem State.setThread_bud : (s.setThread c ts t).bud = s.bud := rfl

@[simp] theorem State.modThread_agenda : (s.modThread c ts f).agenda = s.agenda := rfl
@[simp] theorem State.modThread_runq : (s.modThread c ts f).runq = s.runq := rfl
@[simp] theorem State.modThread_fetch : (s.modThread c ts f).fetch = s.fetch := rfl
@[simp] theorem State.modThread_pops : (s.modThread c ts f).pops = s.pops := rfl
@[simp] theorem State.modThread_touched : (s.modThread c ts f).touched = s.touched := rfl
@[simp] theorem State.modThread_pace : (s.modThread c ts f).pace = s.pace := rfl
@[simp] theorem State.modThread_turn : (s.modThread c ts f).turn = s.turn := rfl
@[simp] theorem State.modThread_fresh : (s.modThread c ts f).fresh = s.fresh := rfl
@[simp] theorem State.modThread_out : (s.modThread c ts f).out = s.out := rfl
@[simp] theorem State.modThread_cycle : (s.modThread c ts f).cycle = s.cycle := rfl
@[simp] theorem State.modThread_boot : (s.modThread c ts f).boot = s.boot := rfl
@[simp] theorem State.modThread_ports : (s.modThread c ts f).ports = s.ports := rfl
@[simp] theorem State.modThread_mem : (s.modThread c ts f).mem = s.mem := rfl
@[simp] theorem State.modThread_xl : (s.modThread c ts f).xl = s.xl := rfl
@[simp] theorem State.modThread_fab : (s.modThread c ts f).fab = s.fab := rfl
@[simp] theorem State.modThread_sched : (s.modThread c ts f).sched = s.sched := rfl
@[simp] theorem State.modThread_bud : (s.modThread c ts f).bud = s.bud := rfl

@[simp] theorem State.waits_agenda (k : Ctx) : (s.waits k).agenda = s.agenda := rfl
@[simp] theorem State.waits_runq (k : Ctx) : (s.waits k).runq = s.runq := rfl
@[simp] theorem State.waits_fetch (k : Ctx) : (s.waits k).fetch = s.fetch := rfl
@[simp] theorem State.waits_pops (k : Ctx) : (s.waits k).pops = s.pops := rfl
@[simp] theorem State.waits_touched (k : Ctx) : (s.waits k).touched = s.touched := rfl
@[simp] theorem State.waits_pace (k : Ctx) : (s.waits k).pace = s.pace := rfl
@[simp] theorem State.waits_turn (k : Ctx) : (s.waits k).turn = s.turn := rfl
@[simp] theorem State.waits_fresh (k : Ctx) : (s.waits k).fresh = s.fresh := rfl
@[simp] theorem State.waits_out (k : Ctx) : (s.waits k).out = s.out := rfl
@[simp] theorem State.waits_cycle (k : Ctx) : (s.waits k).cycle = s.cycle := rfl
@[simp] theorem State.waits_boot (k : Ctx) : (s.waits k).boot = s.boot := rfl
@[simp] theorem State.waits_ports (k : Ctx) : (s.waits k).ports = s.ports := rfl
@[simp] theorem State.waits_mem (k : Ctx) : (s.waits k).mem = s.mem := rfl
@[simp] theorem State.waits_xl (k : Ctx) : (s.waits k).xl = s.xl := rfl
@[simp] theorem State.waits_fab (k : Ctx) : (s.waits k).fab = s.fab := rfl
@[simp] theorem State.waits_sched (k : Ctx) : (s.waits k).sched = s.sched := rfl
@[simp] theorem State.waits_bud (k : Ctx) : (s.waits k).bud = s.bud := rfl

@[simp] theorem State.enter_agenda (cause : BitVec 8) (info : Word) (epc : BitVec 16) (late : Bool) (seq : BitVec 16) : (s.enter c ts cause info epc late seq).agenda = s.agenda := rfl
@[simp] theorem State.enter_runq (cause : BitVec 8) (info : Word) (epc : BitVec 16) (late : Bool) (seq : BitVec 16) : (s.enter c ts cause info epc late seq).runq = s.runq := rfl
@[simp] theorem State.enter_fetch (cause : BitVec 8) (info : Word) (epc : BitVec 16) (late : Bool) (seq : BitVec 16) : (s.enter c ts cause info epc late seq).fetch = s.fetch := rfl
@[simp] theorem State.enter_pops (cause : BitVec 8) (info : Word) (epc : BitVec 16) (late : Bool) (seq : BitVec 16) : (s.enter c ts cause info epc late seq).pops = s.pops := rfl
@[simp] theorem State.enter_touched (cause : BitVec 8) (info : Word) (epc : BitVec 16) (late : Bool) (seq : BitVec 16) : (s.enter c ts cause info epc late seq).touched = s.touched := rfl
@[simp] theorem State.enter_pace (cause : BitVec 8) (info : Word) (epc : BitVec 16) (late : Bool) (seq : BitVec 16) : (s.enter c ts cause info epc late seq).pace = s.pace := rfl
@[simp] theorem State.enter_turn (cause : BitVec 8) (info : Word) (epc : BitVec 16) (late : Bool) (seq : BitVec 16) : (s.enter c ts cause info epc late seq).turn = s.turn := rfl
@[simp] theorem State.enter_fresh (cause : BitVec 8) (info : Word) (epc : BitVec 16) (late : Bool) (seq : BitVec 16) : (s.enter c ts cause info epc late seq).fresh = s.fresh := rfl
@[simp] theorem State.enter_out (cause : BitVec 8) (info : Word) (epc : BitVec 16) (late : Bool) (seq : BitVec 16) : (s.enter c ts cause info epc late seq).out = s.out := rfl
@[simp] theorem State.enter_cycle (cause : BitVec 8) (info : Word) (epc : BitVec 16) (late : Bool) (seq : BitVec 16) : (s.enter c ts cause info epc late seq).cycle = s.cycle := rfl
@[simp] theorem State.enter_boot (cause : BitVec 8) (info : Word) (epc : BitVec 16) (late : Bool) (seq : BitVec 16) : (s.enter c ts cause info epc late seq).boot = s.boot := rfl
@[simp] theorem State.enter_ports (cause : BitVec 8) (info : Word) (epc : BitVec 16) (late : Bool) (seq : BitVec 16) : (s.enter c ts cause info epc late seq).ports = s.ports := rfl
@[simp] theorem State.enter_mem (cause : BitVec 8) (info : Word) (epc : BitVec 16) (late : Bool) (seq : BitVec 16) : (s.enter c ts cause info epc late seq).mem = s.mem := rfl
@[simp] theorem State.enter_xl (cause : BitVec 8) (info : Word) (epc : BitVec 16) (late : Bool) (seq : BitVec 16) : (s.enter c ts cause info epc late seq).xl = s.xl := rfl
@[simp] theorem State.enter_fab (cause : BitVec 8) (info : Word) (epc : BitVec 16) (late : Bool) (seq : BitVec 16) : (s.enter c ts cause info epc late seq).fab = s.fab := rfl
@[simp] theorem State.enter_sched (cause : BitVec 8) (info : Word) (epc : BitVec 16) (late : Bool) (seq : BitVec 16) : (s.enter c ts cause info epc late seq).sched = s.sched := rfl
@[simp] theorem State.enter_bud (cause : BitVec 8) (info : Word) (epc : BitVec 16) (late : Bool) (seq : BitVec 16) : (s.enter c ts cause info epc late seq).bud = s.bud := rfl

@[simp] theorem State.raise_agenda (bits : BitVec 16) (cause : BitVec 8) : (s.raise c bits cause).agenda = s.agenda := rfl
@[simp] theorem State.raise_runq (bits : BitVec 16) (cause : BitVec 8) : (s.raise c bits cause).runq = s.runq := rfl
@[simp] theorem State.raise_fetch (bits : BitVec 16) (cause : BitVec 8) : (s.raise c bits cause).fetch = s.fetch := rfl
@[simp] theorem State.raise_pops (bits : BitVec 16) (cause : BitVec 8) : (s.raise c bits cause).pops = s.pops := rfl
@[simp] theorem State.raise_touched (bits : BitVec 16) (cause : BitVec 8) : (s.raise c bits cause).touched = s.touched := rfl
@[simp] theorem State.raise_pace (bits : BitVec 16) (cause : BitVec 8) : (s.raise c bits cause).pace = s.pace := rfl
@[simp] theorem State.raise_turn (bits : BitVec 16) (cause : BitVec 8) : (s.raise c bits cause).turn = s.turn := rfl
@[simp] theorem State.raise_fresh (bits : BitVec 16) (cause : BitVec 8) : (s.raise c bits cause).fresh = s.fresh := rfl
@[simp] theorem State.raise_out (bits : BitVec 16) (cause : BitVec 8) : (s.raise c bits cause).out = s.out := rfl
@[simp] theorem State.raise_cycle (bits : BitVec 16) (cause : BitVec 8) : (s.raise c bits cause).cycle = s.cycle := rfl
@[simp] theorem State.raise_boot (bits : BitVec 16) (cause : BitVec 8) : (s.raise c bits cause).boot = s.boot := rfl
@[simp] theorem State.raise_ports (bits : BitVec 16) (cause : BitVec 8) : (s.raise c bits cause).ports = s.ports := rfl
@[simp] theorem State.raise_mem (bits : BitVec 16) (cause : BitVec 8) : (s.raise c bits cause).mem = s.mem := rfl
@[simp] theorem State.raise_xl (bits : BitVec 16) (cause : BitVec 8) : (s.raise c bits cause).xl = s.xl := rfl
@[simp] theorem State.raise_fab (bits : BitVec 16) (cause : BitVec 8) : (s.raise c bits cause).fab = s.fab := rfl
@[simp] theorem State.raise_sched (bits : BitVec 16) (cause : BitVec 8) : (s.raise c bits cause).sched = s.sched := rfl
@[simp] theorem State.raise_bud (bits : BitVec 16) (cause : BitVec 8) : (s.raise c bits cause).bud = s.bud := rfl

@[simp] theorem State.withdraw_agenda : (s.withdraw c ts).agenda = s.agenda := by
  simp only [Machine.State.withdraw]; split <;> rfl
@[simp] theorem State.withdraw_runq : (s.withdraw c ts).runq = s.runq := by
  simp only [Machine.State.withdraw]; split <;> rfl
@[simp] theorem State.withdraw_fetch : (s.withdraw c ts).fetch = s.fetch := by
  simp only [Machine.State.withdraw]; split <;> rfl
@[simp] theorem State.withdraw_pops : (s.withdraw c ts).pops = s.pops := by
  simp only [Machine.State.withdraw]; split <;> rfl
@[simp] theorem State.withdraw_touched : (s.withdraw c ts).touched = s.touched := by
  simp only [Machine.State.withdraw]; split <;> rfl
@[simp] theorem State.withdraw_pace : (s.withdraw c ts).pace = s.pace := by
  simp only [Machine.State.withdraw]; split <;> rfl
@[simp] theorem State.withdraw_turn : (s.withdraw c ts).turn = s.turn := by
  simp only [Machine.State.withdraw]; split <;> rfl
@[simp] theorem State.withdraw_fresh : (s.withdraw c ts).fresh = s.fresh := by
  simp only [Machine.State.withdraw]; split <;> rfl
@[simp] theorem State.withdraw_out : (s.withdraw c ts).out = s.out := by
  simp only [Machine.State.withdraw]; split <;> rfl
@[simp] theorem State.withdraw_cycle : (s.withdraw c ts).cycle = s.cycle := by
  simp only [Machine.State.withdraw]; split <;> rfl
@[simp] theorem State.withdraw_boot : (s.withdraw c ts).boot = s.boot := by
  simp only [Machine.State.withdraw]; split <;> rfl
@[simp] theorem State.withdraw_ports : (s.withdraw c ts).ports = s.ports := by
  simp only [Machine.State.withdraw]; split <;> rfl
@[simp] theorem State.withdraw_mem : (s.withdraw c ts).mem = s.mem := by
  simp only [Machine.State.withdraw]; split <;> rfl
@[simp] theorem State.withdraw_xl : (s.withdraw c ts).xl = s.xl := by
  simp only [Machine.State.withdraw]; split <;> rfl
@[simp] theorem State.withdraw_fab : (s.withdraw c ts).fab = s.fab := by
  simp only [Machine.State.withdraw]; split <;> rfl
@[simp] theorem State.withdraw_bud : (s.withdraw c ts).bud = s.bud := by
  simp only [Machine.State.withdraw]; split <;> rfl
@[simp] theorem State.withdraw_cores : (s.withdraw c ts).cores = s.cores := by
  simp only [Machine.State.withdraw]; split <;> rfl

@[simp] theorem State.withdrawAll_agenda : (s.withdrawAll c).agenda = s.agenda := by
  simp [Machine.State.withdrawAll, List.finRange_succ]
@[simp] theorem State.withdrawAll_runq : (s.withdrawAll c).runq = s.runq := by
  simp [Machine.State.withdrawAll, List.finRange_succ]
@[simp] theorem State.withdrawAll_fetch : (s.withdrawAll c).fetch = s.fetch := by
  simp [Machine.State.withdrawAll, List.finRange_succ]
@[simp] theorem State.withdrawAll_pops : (s.withdrawAll c).pops = s.pops := by
  simp [Machine.State.withdrawAll, List.finRange_succ]
@[simp] theorem State.withdrawAll_touched : (s.withdrawAll c).touched = s.touched := by
  simp [Machine.State.withdrawAll, List.finRange_succ]
@[simp] theorem State.withdrawAll_pace : (s.withdrawAll c).pace = s.pace := by
  simp [Machine.State.withdrawAll, List.finRange_succ]
@[simp] theorem State.withdrawAll_turn : (s.withdrawAll c).turn = s.turn := by
  simp [Machine.State.withdrawAll, List.finRange_succ]
@[simp] theorem State.withdrawAll_fresh : (s.withdrawAll c).fresh = s.fresh := by
  simp [Machine.State.withdrawAll, List.finRange_succ]
@[simp] theorem State.withdrawAll_out : (s.withdrawAll c).out = s.out := by
  simp [Machine.State.withdrawAll, List.finRange_succ]
@[simp] theorem State.withdrawAll_cycle : (s.withdrawAll c).cycle = s.cycle := by
  simp [Machine.State.withdrawAll, List.finRange_succ]
@[simp] theorem State.withdrawAll_boot : (s.withdrawAll c).boot = s.boot := by
  simp [Machine.State.withdrawAll, List.finRange_succ]
@[simp] theorem State.withdrawAll_ports : (s.withdrawAll c).ports = s.ports := by
  simp [Machine.State.withdrawAll, List.finRange_succ]
@[simp] theorem State.withdrawAll_mem : (s.withdrawAll c).mem = s.mem := by
  simp [Machine.State.withdrawAll, List.finRange_succ]
@[simp] theorem State.withdrawAll_xl : (s.withdrawAll c).xl = s.xl := by
  simp [Machine.State.withdrawAll, List.finRange_succ]
@[simp] theorem State.withdrawAll_fab : (s.withdrawAll c).fab = s.fab := by
  simp [Machine.State.withdrawAll, List.finRange_succ]
@[simp] theorem State.withdrawAll_bud : (s.withdrawAll c).bud = s.bud := by
  simp [Machine.State.withdrawAll, List.finRange_succ]
@[simp] theorem State.withdrawAll_cores : (s.withdrawAll c).cores = s.cores := by
  simp [Machine.State.withdrawAll, List.finRange_succ]

@[simp] theorem State.endCrew_agenda (bits : BitVec 16) (cause : BitVec 8) : (s.endCrew c bits cause).agenda = s.agenda := by
  simp [Machine.State.endCrew]
@[simp] theorem State.endCrew_runq (bits : BitVec 16) (cause : BitVec 8) : (s.endCrew c bits cause).runq = s.runq := by
  simp [Machine.State.endCrew]
@[simp] theorem State.endCrew_fetch (bits : BitVec 16) (cause : BitVec 8) : (s.endCrew c bits cause).fetch = s.fetch := by
  simp [Machine.State.endCrew]
@[simp] theorem State.endCrew_pops (bits : BitVec 16) (cause : BitVec 8) : (s.endCrew c bits cause).pops = s.pops := by
  simp [Machine.State.endCrew]
@[simp] theorem State.endCrew_touched (bits : BitVec 16) (cause : BitVec 8) : (s.endCrew c bits cause).touched = s.touched := by
  simp [Machine.State.endCrew]
@[simp] theorem State.endCrew_pace (bits : BitVec 16) (cause : BitVec 8) : (s.endCrew c bits cause).pace = s.pace := by
  simp [Machine.State.endCrew]
@[simp] theorem State.endCrew_turn (bits : BitVec 16) (cause : BitVec 8) : (s.endCrew c bits cause).turn = s.turn := by
  simp [Machine.State.endCrew]
@[simp] theorem State.endCrew_fresh (bits : BitVec 16) (cause : BitVec 8) : (s.endCrew c bits cause).fresh = s.fresh := by
  simp [Machine.State.endCrew]
@[simp] theorem State.endCrew_out (bits : BitVec 16) (cause : BitVec 8) : (s.endCrew c bits cause).out = s.out := by
  simp [Machine.State.endCrew]
@[simp] theorem State.endCrew_cycle (bits : BitVec 16) (cause : BitVec 8) : (s.endCrew c bits cause).cycle = s.cycle := by
  simp [Machine.State.endCrew]
@[simp] theorem State.endCrew_boot (bits : BitVec 16) (cause : BitVec 8) : (s.endCrew c bits cause).boot = s.boot := by
  simp [Machine.State.endCrew]
@[simp] theorem State.endCrew_ports (bits : BitVec 16) (cause : BitVec 8) : (s.endCrew c bits cause).ports = s.ports := by
  simp [Machine.State.endCrew]
@[simp] theorem State.endCrew_mem (bits : BitVec 16) (cause : BitVec 8) : (s.endCrew c bits cause).mem = s.mem := by
  simp [Machine.State.endCrew]
@[simp] theorem State.endCrew_xl (bits : BitVec 16) (cause : BitVec 8) : (s.endCrew c bits cause).xl = s.xl := by
  simp [Machine.State.endCrew]
@[simp] theorem State.endCrew_fab (bits : BitVec 16) (cause : BitVec 8) : (s.endCrew c bits cause).fab = s.fab := by
  simp [Machine.State.endCrew]
@[simp] theorem State.endCrew_bud (bits : BitVec 16) (cause : BitVec 8) : (s.endCrew c bits cause).bud = s.bud := by
  simp [Machine.State.endCrew]

@[simp] theorem State.retire_agenda (k : Ctx) (g : Flow) : (s.retire k g).agenda = s.agenda := rfl
@[simp] theorem State.retire_runq (k : Ctx) (g : Flow) : (s.retire k g).runq = s.runq := rfl
@[simp] theorem State.retire_fetch (k : Ctx) (g : Flow) : (s.retire k g).fetch = s.fetch := rfl
@[simp] theorem State.retire_pops (k : Ctx) (g : Flow) : (s.retire k g).pops = s.pops := rfl
@[simp] theorem State.retire_touched (k : Ctx) (g : Flow) : (s.retire k g).touched = s.touched := rfl
@[simp] theorem State.retire_pace (k : Ctx) (g : Flow) : (s.retire k g).pace = s.pace := rfl
@[simp] theorem State.retire_turn (k : Ctx) (g : Flow) : (s.retire k g).turn = s.turn := rfl
@[simp] theorem State.retire_fresh (k : Ctx) (g : Flow) : (s.retire k g).fresh = s.fresh := rfl
@[simp] theorem State.retire_out (k : Ctx) (g : Flow) : (s.retire k g).out = s.out := rfl
@[simp] theorem State.retire_cycle (k : Ctx) (g : Flow) : (s.retire k g).cycle = s.cycle := rfl
@[simp] theorem State.retire_boot (k : Ctx) (g : Flow) : (s.retire k g).boot = s.boot := rfl
@[simp] theorem State.retire_ports (k : Ctx) (g : Flow) : (s.retire k g).ports = s.ports := rfl
@[simp] theorem State.retire_mem (k : Ctx) (g : Flow) : (s.retire k g).mem = s.mem := rfl
@[simp] theorem State.retire_xl (k : Ctx) (g : Flow) : (s.retire k g).xl = s.xl := rfl
@[simp] theorem State.retire_fab (k : Ctx) (g : Flow) : (s.retire k g).fab = s.fab := rfl
@[simp] theorem State.retire_sched (k : Ctx) (g : Flow) : (s.retire k g).sched = s.sched := rfl
@[simp] theorem State.retire_bud (k : Ctx) (g : Flow) : (s.retire k g).bud = s.bud := rfl

@[simp] theorem State.exactTrap_agenda (cause : BitVec 8) (info : Word) (epc : BitVec 16) :
    (s.exactTrap c ts cause info epc).agenda = s.agenda := by
  simp only [Machine.State.exactTrap]; split <;> simp
@[simp] theorem State.exactTrap_runq (cause : BitVec 8) (info : Word) (epc : BitVec 16) :
    (s.exactTrap c ts cause info epc).runq = s.runq := by
  simp only [Machine.State.exactTrap]; split <;> simp
@[simp] theorem State.exactTrap_fetch (cause : BitVec 8) (info : Word) (epc : BitVec 16) :
    (s.exactTrap c ts cause info epc).fetch = s.fetch := by
  simp only [Machine.State.exactTrap]; split <;> simp
@[simp] theorem State.exactTrap_pops (cause : BitVec 8) (info : Word) (epc : BitVec 16) :
    (s.exactTrap c ts cause info epc).pops = s.pops := by
  simp only [Machine.State.exactTrap]; split <;> simp
@[simp] theorem State.exactTrap_touched (cause : BitVec 8) (info : Word) (epc : BitVec 16) :
    (s.exactTrap c ts cause info epc).touched = s.touched := by
  simp only [Machine.State.exactTrap]; split <;> simp
@[simp] theorem State.exactTrap_pace (cause : BitVec 8) (info : Word) (epc : BitVec 16) :
    (s.exactTrap c ts cause info epc).pace = s.pace := by
  simp only [Machine.State.exactTrap]; split <;> simp
@[simp] theorem State.exactTrap_turn (cause : BitVec 8) (info : Word) (epc : BitVec 16) :
    (s.exactTrap c ts cause info epc).turn = s.turn := by
  simp only [Machine.State.exactTrap]; split <;> simp
@[simp] theorem State.exactTrap_fresh (cause : BitVec 8) (info : Word) (epc : BitVec 16) :
    (s.exactTrap c ts cause info epc).fresh = s.fresh := by
  simp only [Machine.State.exactTrap]; split <;> simp
@[simp] theorem State.exactTrap_out (cause : BitVec 8) (info : Word) (epc : BitVec 16) :
    (s.exactTrap c ts cause info epc).out = s.out := by
  simp only [Machine.State.exactTrap]; split <;> simp
@[simp] theorem State.exactTrap_cycle (cause : BitVec 8) (info : Word) (epc : BitVec 16) :
    (s.exactTrap c ts cause info epc).cycle = s.cycle := by
  simp only [Machine.State.exactTrap]; split <;> simp
@[simp] theorem State.exactTrap_boot (cause : BitVec 8) (info : Word) (epc : BitVec 16) :
    (s.exactTrap c ts cause info epc).boot = s.boot := by
  simp only [Machine.State.exactTrap]; split <;> simp
@[simp] theorem State.exactTrap_ports (cause : BitVec 8) (info : Word) (epc : BitVec 16) :
    (s.exactTrap c ts cause info epc).ports = s.ports := by
  simp only [Machine.State.exactTrap]; split <;> simp
@[simp] theorem State.exactTrap_mem (cause : BitVec 8) (info : Word) (epc : BitVec 16) :
    (s.exactTrap c ts cause info epc).mem = s.mem := by
  simp only [Machine.State.exactTrap]; split <;> simp
@[simp] theorem State.exactTrap_xl (cause : BitVec 8) (info : Word) (epc : BitVec 16) :
    (s.exactTrap c ts cause info epc).xl = s.xl := by
  simp only [Machine.State.exactTrap]; split <;> simp
@[simp] theorem State.exactTrap_fab (cause : BitVec 8) (info : Word) (epc : BitVec 16) :
    (s.exactTrap c ts cause info epc).fab = s.fab := by
  simp only [Machine.State.exactTrap]; split <;> simp
@[simp] theorem State.exactTrap_bud (cause : BitVec 8) (info : Word) (epc : BitVec 16) :
    (s.exactTrap c ts cause info epc).bud = s.bud := by
  simp only [Machine.State.exactTrap]; split <;> simp

@[simp] theorem State.unpopped_agenda : s.unpopped.agenda = s.agenda := rfl
@[simp] theorem State.unpopped_runq : s.unpopped.runq = s.runq := rfl
@[simp] theorem State.unpopped_fetch : s.unpopped.fetch = s.fetch := rfl
@[simp] theorem State.unpopped_pace : s.unpopped.pace = s.pace := rfl
@[simp] theorem State.unpopped_turn : s.unpopped.turn = s.turn := rfl
@[simp] theorem State.unpopped_fresh : s.unpopped.fresh = s.fresh := rfl
@[simp] theorem State.unpopped_out : s.unpopped.out = s.out := rfl
@[simp] theorem State.unpopped_cycle : s.unpopped.cycle = s.cycle := rfl
@[simp] theorem State.unpopped_boot : s.unpopped.boot = s.boot := rfl
@[simp] theorem State.unpopped_ports : s.unpopped.ports = s.ports := rfl
@[simp] theorem State.unpopped_mem : s.unpopped.mem = s.mem := rfl
@[simp] theorem State.unpopped_xl : s.unpopped.xl = s.xl := rfl
@[simp] theorem State.unpopped_fab : s.unpopped.fab = s.fab := rfl
@[simp] theorem State.unpopped_sched : s.unpopped.sched = s.sched := rfl
@[simp] theorem State.unpopped_bud : s.unpopped.bud = s.bud := rfl
@[simp] theorem State.unpopped_pops : s.unpopped.pops = [] := rfl
@[simp] theorem State.unpopped_touched : s.unpopped.touched = s.touched := rfl
@[simp] theorem State.unpopped_cores : s.unpopped.cores = s.cores := rfl
@[simp] theorem State.unpopped_core : s.unpopped.core c = s.core c := rfl
@[simp] theorem State.unpopped_thread : s.unpopped.thread c ts = s.thread c ts := rfl

/-! ## The accessors -/

@[simp] theorem State.core_setCore : (s.setCore c v).core c = v := tblGet_tblSet_same _ _ _ _

theorem State.core_setCore_other (h : d ≠ c) : (s.setCore c v).core d = s.core d := tblGet_tblSet_other _ h _ _

@[simp] theorem State.thread_setCore : (s.setCore c v).thread c ts = v.thr[ts] := by
  simp [Machine.State.thread]

theorem State.thread_setCore_other (h : d ≠ c) : (s.setCore c v).thread d ts = s.thread d ts := by
  simp [Machine.State.thread, State.core_setCore_other s c d v h]

@[simp] theorem State.thread_setThread : (s.setThread c ts t).thread c ts = t := by
  simp [Machine.State.setThread]

theorem State.thread_setThread_other (h : d ≠ c ∨ us ≠ ts) : (s.setThread c ts t).thread d us = s.thread d us := by
  by_cases hd : d = c
  · subst hd
    have hu : us ≠ ts := by simpa using h
    have : ts.val ≠ us.val := fun e => hu (Fin.ext e.symm)
    simp only [Machine.State.setThread, State.thread_setCore, Fin.getElem_fin, Vector.getElem_set, this, if_false]
    rfl
  · rw [Machine.State.setThread, State.thread_setCore_other s c d us _ hd]

@[simp] theorem State.thread_modThread : (s.modThread c ts f).thread c ts = f (s.thread c ts) := by
  simp [State.modThread]

theorem State.thread_modThread_other (h : d ≠ c ∨ us ≠ ts) : (s.modThread c ts f).thread d us = s.thread d us := by
  simp only [State.modThread, State.thread_setThread_other s c d ts us _ h]

theorem State.core_setThread : (s.setThread c ts t).core c = { s.core c with thr := (s.core c).thr.set ts t } := by
  simp [Machine.State.setThread]

theorem State.core_setThread_other (h : d ≠ c) : (s.setThread c ts t).core d = s.core d :=
  State.core_setCore_other s c d _ h

theorem State.core_modThread_other (h : d ≠ c) : (s.modThread c ts f).core d = s.core d :=
  State.core_setCore_other s c d _ h

end Sys2Proof.Laws
end

