-- ==== Sys2Proof/Laws/Issue.lean ====
section
/-!
SUPPORT. What issuing an instruction comes to, from what its body comes to; plain registers; the shapes of scalar
instructions.
-/
namespace Sys2Proof.Laws
open Sys2Proof Sys2Proof.Machine

/-! ## Tables and threads updated twice -/

@[simp] theorem tblSet_tblSet {α : Type} (t : Tbl α) (k : Nat) (v w : α) : tblSet (tblSet t k v) k w = tblSet t k w := by
  induction t with
  | nil => simp [tblSet]
  | cons p r ih =>
    obtain ⟨j, u⟩ := p
    by_cases h1 : k < j
    · simp [tblSet, h1]
    · by_cases h2 : j = k
      · simp [tblSet, h2]
      · simp [tblSet, h1, h2, ih]

@[simp] theorem State.setCore_setCore (s : State) (c : Nat) (v w : Core) : (s.setCore c v).setCore c w = s.setCore c w := by
  simp [Machine.State.setCore]

@[simp] theorem State.setThread_setThread (s : State) (c : Nat) (ts : Fin 4) (t u : Thread) :
    (s.setThread c ts t).setThread c ts u = s.setThread c ts u := by
  simp [Machine.State.setThread]

/-- Two changes of a thread set are one. -/
@[simp] theorem State.modThread_modThread (s : State) (c : Nat) (ts : Fin 4) (f g : Thread → Thread) :
    (s.modThread c ts f).modThread c ts g = s.modThread c ts (fun t => g (f t)) := by
  simp [Machine.State.modThread]

/-! ## Plain registers -/

variable {s : State} {k : Ctx} {x : Pre} {n a b c : SReg}

theorem readS_plain (h : s.plain k n) : readS k n s = .ok (s.sreg k n, s) := by
  by_cases hn : n = 0
  · simp [readS, Machine.State.sreg, hn]
  · obtain ⟨h1, h2⟩ := h.resolve_left hn
    have h2' : (s.thread k.core k.ts).stream false n = none := h2
    simp [readS, Machine.State.sreg, hn, h1, h2', Machine.State.own]

theorem writeS_plain (h : s.plain k n) (v : Word) :
    writeS k n v s = .ok ((), if n = 0 then s else s.modThread k.core k.ts (·.setS n v)) := by
  by_cases hn : n = 0
  · simp [writeS, hn]
  · obtain ⟨h1, h2⟩ := h.resolve_left hn
    have h2' : (s.thread k.core k.ts).stream false n = none := h2
    simp [writeS, hn, h1, h2']

theorem setS_zero (t : Thread) (v : Word) : t.setS 0 v = t := by simp [Thread.setS]

@[simp] theorem State.plain_unpopped : s.unpopped.plain k n ↔ s.plain k n := Iff.rfl
@[simp] theorem State.sreg_unpopped : s.unpopped.sreg k n = s.sreg k n := rfl
@[simp] theorem State.own_unpopped : s.unpopped.own k = s.own k := rfl

/-! ## Bodies -/

theorem M.bind_ok {α β : Type} {m : M α} {g : α → M β} {v : α} {t : State} (h : m s = .ok (v, t)) :
    (m >>= g) s = g v t := by simp [Bind.bind, StateT.bind, Except.bind, h]

theorem M.bind_error {α β : Type} {m : M α} {g : α → M β} {e : Stop} (h : m s = .error e) :
    (m >>= g) s = .error e := by simp [Bind.bind, StateT.bind, Except.bind, h]

theorem readS_bind {α : Type} {g : Word → M α} (h : s.plain k n) : (readS k n >>= g) s = g (s.sreg k n) s :=
  M.bind_ok (readS_plain h)

theorem writeS_bind {α : Type} {g : Unit → M α} (h : s.plain k n) (v : Word) :
    (writeS k n v >>= g) s = g () (if n = 0 then s else s.modThread k.core k.ts (·.setS n v)) :=
  M.bind_ok (writeS_plain h v)

theorem trapIf_bind {α : Type} {g : Unit → M α} {p : Bool} {cause : BitVec 8} {info : Word} :
    (trapIf p cause info >>= g) s = if p then .error (.trap cause info) else g () s := by
  cases p <;> simp [trapIf, Bind.bind, StateT.bind, Except.bind]

theorem holdUnless_bind {α : Type} {g : Unit → M α} {p : Bool} :
    (holdUnless p >>= g) s = if p then g () s else .error .hold := by
  cases p <;> simp [holdUnless, Bind.bind, StateT.bind, Except.bind]

theorem getState_bind {α : Type} {g : State → M α} : (getState >>= g) s = g s s := rfl
theorem getThr_bind {α : Type} {g : Thread → M α} : (getThr k >>= g) s = g (s.own k) s := rfl
theorem getCore_bind {α : Type} {g : Core → M α} : (getCore k >>= g) s = g (s.core k.core) s := rfl
theorem modState_bind {α : Type} {g : Unit → M α} {u : State → State} : (modState u >>= g) s = g () (u s) := rfl
theorem modThr_bind {α : Type} {g : Unit → M α} {u : Thread → Thread} :
    (modThr k u >>= g) s = g () (s.modThread k.core k.ts u) := rfl
theorem modCore_bind {α : Type} {g : Unit → M α} {u : Core → Core} :
    (modCore k u >>= g) s = g () (s.setCore k.core (u (s.core k.core))) := rfl

/-! ## Issue -/

theorem waitXw_over (h : s.waitOver k x = true) : waitXw k x s = .ok ((), s) := by
  unfold Machine.State.waitOver at h
  unfold waitXw
  cases hx : x.wait with
  | none => simp
  | some w =>
    simp only [hx] at h ⊢
    cases hq : s.queue k w.queue with
    | none => simp [hq] at h
    | some q =>
      simp only [hq, decide_eq_true_eq] at h ⊢
      simp [h]

/-- An instruction that issues comes to what its body comes to. -/
theorem issue_issues (h : s.Issues k x) (body : Ctx → M Flow) :
    issue x body s = .next (s.unpopped.settle k (body k s.unpopped)) := by
  have hw : waitXw k x s.unpopped = .ok ((), s.unpopped) := waitXw_over h.waited
  unfold issue
  simp only [h.latch, h.alone, if_true, Machine.State.issueOne]
  rw [M.bind_ok hw]

/-- A body that changes only the thread retires. -/
theorem issue_retires (h : s.Issues k x) {body : Ctx → M Machine.Flow} {f : Machine.Flow} {u : Thread → Thread}
    (hb : body k s.unpopped = .ok (f, s.unpopped.modThread k.core k.ts u)) :
    issue x body s = .next (s.retires k f u) := by
  rw [issue_issues h, hb]; rfl

/-- A body that changes nothing retires. -/
theorem issue_retires_same (h : s.Issues k x) {body : Ctx → M Machine.Flow} {f : Machine.Flow}
    (hb : body k s.unpopped = .ok (f, s.unpopped)) : issue x body s = .next (s.retires k f id) := by
  rw [issue_issues h, hb]
  simp [Machine.State.settle, Machine.State.retires, Machine.State.retire]

theorem issue_traps (h : s.Issues k x) {body : Ctx → M Machine.Flow} {cause : BitVec 8} {info : Word}
    (hb : body k s.unpopped = .error (.trap cause info)) : issue x body s = .next (s.traps k cause info) := by
  rw [issue_issues h, hb]; rfl

theorem issue_held (h : s.Issues k x) {body : Ctx → M Machine.Flow}
    (hb : body k s.unpopped = .error .hold) : issue x body s = .next (s.held k) := by
  rw [issue_issues h, hb]; rfl

/-- A register written and the next instruction: the end of most bodies. -/
theorem issue_writes (h : s.Issues k x) {body : Ctx → M Machine.Flow} {v : Word} (ha : s.plain k a)
    (hb : body k s.unpopped = (do writeS k a v; goOn : M Machine.Flow) s.unpopped) :
    issue x body s = .next (s.retires k .next (·.setS a v)) := by
  rw [writeS_bind (s := s.unpopped) ha] at hb
  by_cases h0 : a = 0
  · subst h0
    rw [issue_retires_same h (f := .next) hb]
    simp [Machine.State.retires, setS_zero]; rfl
  · refine issue_retires h ?_
    rw [hb, if_neg h0]; rfl

/-! ## Shapes of scalar instructions -/

theorem alu_retires (f : Word → Word → Word) (h : s.Issues k x) (ha : s.plain k a) (hb : s.plain k b) (hc : s.plain k c) :
    alu x a b c f s = .next (s.retires k .next (·.setS a (f (s.sreg k b) (s.sreg k c)))) := by
  refine issue_writes h ha ?_
  rw [readS_bind (s := s.unpopped) hb, readS_bind (s := s.unpopped) hc]; rfl

theorem aluImm_retires (f : Word → Word) (h : s.Issues k x) (ha : s.plain k a) (hb : s.plain k b) :
    aluImm x a b f s = .next (s.retires k .next (·.setS a (f (s.sreg k b)))) := by
  refine issue_writes h ha ?_
  rw [readS_bind (s := s.unpopped) hb]; rfl

theorem aluTrap_retires {big : Word → Word → Bool} (f : Word → Word → Word) (h : s.Issues k x) (ha : s.plain k a)
    (hb : s.plain k b) (hc : s.plain k c) :
    aluTrap x a b c big f s = .next (if big (s.sreg k b) (s.sreg k c) then s.traps k 0x06 0
      else s.retires k .next (·.setS a (f (s.sreg k b) (s.sreg k c)))) := by
  by_cases ho : big (s.sreg k b) (s.sreg k c) = true
  · rw [if_pos ho]
    refine issue_traps h ?_
    rw [readS_bind (s := s.unpopped) hb, readS_bind (s := s.unpopped) hc, trapIf_bind]; simp [ho]
  · rw [if_neg ho]
    refine issue_writes h ha ?_
    rw [readS_bind (s := s.unpopped) hb, readS_bind (s := s.unpopped) hc, trapIf_bind]; simp [ho]

end Sys2Proof.Laws
end

