-- ==== Sys2Proof/Laws/Matrix.lean ====
section
/-!
SUPPORT. Laws of the order in which the pieces of a matrix access are taken (R354).
-/
namespace Sys2Proof.Laws
open Sys2Proof Sys2Proof.Machine

theorem insertKey_perm {α : Type} (key : α → Nat) (a : α) (l : List α) : (insertKey key a l).Perm (a :: l) := by
  induction l with
  | nil => exact .refl _
  | cons b l ih =>
    simp only [insertKey]
    split
    · exact .refl _
    · exact (ih.cons b).trans (.swap a b l)

/-- Sorting loses no element and adds none. -/
theorem sortKey_perm {α : Type} (key : α → Nat) (l : List α) : (sortKey key l).Perm l := by
  induction l with
  | nil => exact .refl _
  | cons a l ih => exact (insertKey_perm key a _).trans (ih.cons a)

@[simp] theorem mem_sortKey {α : Type} (key : α → Nat) (l : List α) (a : α) : a ∈ sortKey key l ↔ a ∈ l :=
  (sortKey_perm key l).mem_iff

@[simp] theorem length_sortKey {α : Type} (key : α → Nat) (l : List α) : (sortKey key l).length = l.length :=
  (sortKey_perm key l).length_eq

theorem insertKey_sorted {α : Type} (key : α → Nat) (a : α) (l : List α) (h : l.Pairwise fun a b => key a ≤ key b) :
    (insertKey key a l).Pairwise fun a b => key a ≤ key b := by
  induction l with
  | nil => exact List.pairwise_singleton _ _
  | cons b l ih =>
    obtain ⟨hb, hl⟩ := List.pairwise_cons.1 h
    simp only [insertKey]
    split
    case isTrue hab =>
      exact List.pairwise_cons.2 ⟨fun c hc => by
        rcases List.mem_cons.1 hc with rfl | hc
        · exact hab
        · exact hab.trans (hb c hc), h⟩
    case isFalse hab =>
      refine List.pairwise_cons.2 ⟨fun c hc => ?_, ih hl⟩
      rcases List.mem_cons.1 ((insertKey_perm key a l).mem_iff.1 hc) with rfl | hc
      · omega
      · exact hb c hc

/-- The keys of a sorted list rise. -/
theorem sortKey_sorted {α : Type} (key : α → Nat) (l : List α) : (sortKey key l).Pairwise fun a b => key a ≤ key b := by
  induction l with
  | nil => exact .nil
  | cons a l ih => exact insertKey_sorted key a _ ih

/-- A list whose keys rise is left as it is. -/
theorem sortKey_of_sorted {α : Type} (key : α → Nat) (l : List α) (h : l.Pairwise fun a b => key a ≤ key b) : sortKey key l = l := by
  induction l with
  | nil => rfl
  | cons a l ih =>
    obtain ⟨ha, hl⟩ := List.pairwise_cons.1 h
    rw [sortKey, ih hl]
    cases l with
    | nil => rfl
    | cons b l => rw [insertKey, if_pos (ha b (List.mem_cons_self ..))]

end Sys2Proof.Laws
end

