-- ==== Sys2Proof/Laws/PerInstr.lean ====
section
/-!
SUPPORT. The raw fields of an instruction give it back: one lemma for each constructor.
-/
namespace Sys2Proof.Laws

/-- The fields that an instruction is written with determine it; a step of the device has none. -/
def Coding.Statement (i : Instr) : Prop := ∀ r, toRaw i = some r → ofRaw r = some i

/-- A number taken back into its class. -/
theorem ofNat_val (n : Nat) [NeZero n] (a : Fin n) : Fin.ofNat n a.val = a := by
  ext; simp [Fin.ofNat, Nat.mod_eq_of_lt a.isLt]

theorem Coding.powerOnReset : Coding.Statement (.powerOnReset) := by intro r h; cases h
theorem Coding.bootFetchRetry : Coding.Statement (.bootFetchRetry) := by intro r h; cases h
theorem Coding.bootImageReceived (image : List Byte) : Coding.Statement (.bootImageReceived image) := by intro r h; cases h
theorem Coding.dieRelease (die : Fin 4) : Coding.Statement (.dieRelease die) := by intro r h; cases h
theorem Coding.bootgoWrite (v : BitVec 32) : Coding.Statement (.bootgoWrite v) := by intro r h; cases h
theorem Coding.attestationRequest (nonce : BitVec 256) : Coding.Statement (.attestationRequest nonce) := by intro r h; cases h
theorem Coding.measurementExtend (m : Fin 8) (digest : BitVec 256) : Coding.Statement (.measurementExtend m digest) := by intro r h; cases h
theorem Coding.securityVersionRaise (v : BitVec 32) : Coding.Statement (.securityVersionRaise v) := by intro r h; cases h
theorem Coding.devnumWrite (v : BitVec 16) : Coding.Statement (.devnumWrite v) := by intro r h; cases h
theorem Coding.powerlimWrite (v : BitVec 16) : Coding.Statement (.powerlimWrite v) := by intro r h; cases h
theorem Coding.portEnable (p : Fin 128) (v : BitVec 32) : Coding.Statement (.portEnable p v) := by intro r h; cases h
theorem Coding.portDisable (p : Fin 128) (v : BitVec 32) : Coding.Statement (.portDisable p v) := by intro r h; cases h
theorem Coding.portRestart (p : Fin 128) (v : BitVec 32) : Coding.Statement (.portRestart p v) := by intro r h; cases h
theorem Coding.trainingStepComplete (p : Fin 128) (o : Partner) : Coding.Statement (.trainingStepComplete p o) := by intro r h; cases h
theorem Coding.trainingStepTimeout (p : Fin 128) (code : BitVec 8) : Coding.Statement (.trainingStepTimeout p code) := by intro r h; cases h
theorem Coding.identityReportReceive (p : Fin 128) (devnum : BitVec 16) (report : List Byte) : Coding.Statement (.identityReportReceive p devnum report) := by intro r h; cases h
theorem Coding.identityChallenge (p : Fin 128) (nonce : BitVec 256) : Coding.Statement (.identityChallenge p nonce) := by intro r h; cases h
theorem Coding.flitReceive (p : Fin 128) (flit : Flit) (good : Bool) : Coding.Statement (.flitReceive p flit good) := by intro r h; cases h
theorem Coding.flitAckReceive (p : Fin 128) (seq : BitVec 12) : Coding.Statement (.flitAckReceive p seq) := by intro r h; cases h
theorem Coding.flitResend (p : Fin 128) (seq : BitVec 12) : Coding.Statement (.flitResend p seq) := by intro r h; cases h
theorem Coding.creditGrant (p : Fin 128) (vc : Fin 8) (n : Nat) : Coding.Statement (.creditGrant p vc n) := by intro r h; cases h
theorem Coding.laneLoss (p : Fin 128) : Coding.Statement (.laneLoss p) := by intro r h; cases h
theorem Coding.rateFallback (p : Fin 128) : Coding.Statement (.rateFallback p) := by intro r h; cases h
theorem Coding.errorThreshold (p : Fin 128) (resends : BitVec 32) : Coding.Statement (.errorThreshold p resends) := by intro r h; cases h
theorem Coding.linkDown (p : Fin 128) : Coding.Statement (.linkDown p) := by intro r h; cases h
theorem Coding.monitorUpdate (r : Readings) : Coding.Statement (.monitorUpdate r) := by intro r h; cases h
theorem Coding.droopHoldEnd (sg : Fin 64) : Coding.Statement (.droopHoldEnd sg) := by intro r h; cases h
theorem Coding.hostApertureAccess (write : Bool) (off : BitVec 36) (n : Nat) (data : List Byte) : Coding.Statement (.hostApertureAccess write off n data) := by intro r h; cases h
theorem Coding.hostSubmit (p : Fin 256) (off : BitVec 12) (data : List Byte) (deferrable : Bool) : Coding.Statement (.hostSubmit p off data deferrable) := by intro r h; cases h
theorem Coding.submissionDecide (p : Fin 256) : Coding.Statement (.submissionDecide p) := by intro r h; cases h
theorem Coding.schedulerIntake : Coding.Statement (.schedulerIntake) := by intro r h; cases h
theorem Coding.schedulerStart : Coding.Statement (.schedulerStart) := by intro r h; cases h
theorem Coding.systemCopyComplete : Coding.Statement (.systemCopyComplete) := by intro r h; cases h
theorem Coding.imageLoadComplete : Coding.Statement (.imageLoadComplete) := by intro r h; cases h
theorem Coding.placement : Coding.Statement (.placement) := by intro r h; cases h
theorem Coding.crewFinish (core : Fin 4096) : Coding.Statement (.crewFinish core) := by intro r h; cases h
theorem Coding.trussReport (core : Fin 4096) : Coding.Statement (.trussReport core) := by intro r h; cases h
theorem Coding.energyDeferExpiry (n : Nat) : Coding.Statement (.energyDeferExpiry n) := by intro r h; cases h
theorem Coding.switchOutTrigger : Coding.Statement (.switchOutTrigger) := by intro r h; cases h
theorem Coding.switchOutDrainPass : Coding.Statement (.switchOutDrainPass) := by intro r h; cases h
theorem Coding.switchOutComplete : Coding.Statement (.switchOutComplete) := by intro r h; cases h
theorem Coding.schendWrite (v : Word) : Coding.Statement (.schendWrite v) := by intro r h; cases h
theorem Coding.dbggoWrite (v : Word) : Coding.Statement (.dbggoWrite v) := by intro r h; cases h
theorem Coding.edgectlWrite (e : Fin 4096) (v : Word) : Coding.Statement (.edgectlWrite e v) := by intro r h; cases h
theorem Coding.budgetBoundary (coefs : List (BitVec 32)) (epools : List (BitVec 32)) : Coding.Statement (.budgetBoundary coefs epools) := by intro r h; cases h
theorem Coding.arbiterAgeLimit (n : Nat) : Coding.Statement (.arbiterAgeLimit n) := by intro r h; cases h
theorem Coding.accessAtHome (n : Nat) : Coding.Statement (.accessAtHome n) := by intro r h; cases h
theorem Coding.translationWalkComplete (asid : BitVec 16) (va : Word) : Coding.Statement (.translationWalkComplete asid va) := by intro r h; cases h
theorem Coding.xlinvAll : Coding.Statement (.xlinvAll) := by intro r h; cases h
theorem Coding.xlinvAsid (asid : BitVec 16) : Coding.Statement (.xlinvAsid asid) := by intro r h; cases h
theorem Coding.xlinvPage (asid : BitVec 16) (va : Word) : Coding.Statement (.xlinvPage asid va) := by intro r h; cases h
theorem Coding.xlinvNone : Coding.Statement (.xlinvNone) := by intro r h; cases h
theorem Coding.xlinvComplete : Coding.Statement (.xlinvComplete) := by intro r h; cases h
theorem Coding.xlstatClear (v : Word) : Coding.Statement (.xlstatClear v) := by intro r h; cases h
theorem Coding.commEnable (c : Fin 4096) (v : Word) : Coding.Statement (.commEnable c v) := by intro r h; cases h
theorem Coding.commDisable (c : Fin 4096) : Coding.Statement (.commDisable c) := by intro r h; cases h
theorem Coding.collectiveRequestTake (e : Fin 2) : Coding.Statement (.collectiveRequestTake e) := by intro r h; cases h
theorem Coding.collectiveMatch (c : Fin 4096) (seq : BitVec 32) (peers : List VWord) (tables : List (List Byte)) : Coding.Statement (.collectiveMatch c seq peers tables) := by intro r h; cases h
theorem Coding.collectiveChunkArrive (c : Fin 4096) (seq : BitVec 32) (rank : Nat) (stage : Nat) (off : Nat) (data : List Byte) : Coding.Statement (.collectiveChunkArrive c seq rank stage off data) := by intro r h; cases h
theorem Coding.collectiveFaultNotice (c : Fin 4096) (seq : BitVec 32) (addr : Word) : Coding.Statement (.collectiveFaultNotice c seq addr) := by intro r h; cases h
theorem Coding.collectiveComplete (c : Fin 4096) (seq : BitVec 32) : Coding.Statement (.collectiveComplete c seq) := by intro r h; cases h
theorem Coding.remoteRequestArrive (n : Nat) (foreign : Option RemoteReq) : Coding.Statement (.remoteRequestArrive n foreign) := by intro r h; cases h
theorem Coding.rstChunkLand (n : Nat) (k : Nat) (data : List Byte) : Coding.Statement (.rstChunkLand n k data) := by intro r h; cases h
theorem Coding.rfaaPerform (n : Nat) : Coding.Statement (.rfaaPerform n) := by intro r h; cases h
theorem Coding.rfenceFlagLand (n : Nat) : Coding.Statement (.rfenceFlagLand n) := by intro r h; cases h
theorem Coding.remoteCompletionArrive (n : Nat) (word : Word) : Coding.Statement (.remoteCompletionArrive n word) := by intro r h; cases h
theorem Coding.ridgeRelease (level : Fin 8) (core : Fin 4096) : Coding.Statement (.ridgeRelease level core) := by intro r h; cases h
theorem Coding.exchangeFlitArrive (n : Nat) : Coding.Statement (.exchangeFlitArrive n) := by intro r h; cases h
theorem Coding.exchangeWindowClose (core : Fin 4096) : Coding.Statement (.exchangeWindowClose core) := by intro r h; cases h
theorem Coding.slabLand (core : Fin 4096) (p : Fin 8) (slab : Fin 26) : Coding.Statement (.slabLand core p slab) := by intro r h; cases h
theorem Coding.sliceContributionArrive (n : Nat) : Coding.Statement (.sliceContributionArrive n) := by intro r h; cases h
theorem Coding.messageArrive (n : Nat) : Coding.Statement (.messageArrive n) := by intro r h; cases h
theorem Coding.mailboxDeposit (n : Deposit) : Coding.Statement (.mailboxDeposit n) := by intro r h; cases h
theorem Coding.queueUpdateArrive (n : Nat) : Coding.Statement (.queueUpdateArrive n) := by intro r h; cases h
theorem Coding.copyRequestComplete (core : Fin 4096) : Coding.Statement (.copyRequestComplete core) := by intro r h; cases h
theorem Coding.cfetLand (core : Fin 4096) : Coding.Statement (.cfetLand core) := by intro r h; cases h
theorem Coding.lateFault (core : Fin 4096) (ts : Fin 4) : Coding.Statement (.lateFault core ts) := by intro r h; cases h
theorem Coding.scopeMiss (core : Fin 4096) (ts : Fin 4) : Coding.Statement (.scopeMiss core ts) := by intro r h; cases h
theorem Coding.perCorePreemption (core : Fin 4096) : Coding.Statement (.perCorePreemption core) := by intro r h; cases h
theorem Coding.preemptionRelease (core : Fin 4096) : Coding.Statement (.preemptionRelease core) := by intro r h; cases h
theorem Coding.machineCheck (core : Fin 4096) (code : BitVec 8) : Coding.Statement (.machineCheck core code) := by intro r h; cases h
theorem Coding.gangMemberLost (core : Fin 4096) : Coding.Statement (.gangMemberLost core) := by intro r h; cases h
theorem Coding.contextCopyFault (core : Fin 4096) (mapped : Bool) : Coding.Statement (.contextCopyFault core mapped) := by intro r h; cases h
theorem Coding.registerWrite (off : Nat) (v : Word) : Coding.Statement (.registerWrite off v) := by intro r h; cases h
theorem Coding.vectorCommandComplete (core : Fin 4096) : Coding.Statement (.vectorCommandComplete core) := by intro r h; cases h
theorem Coding.matrixCommandComplete (core : Fin 4096) : Coding.Statement (.matrixCommandComplete core) := by intro r h; cases h
theorem Coding.ridgeTokenArrive (c : Fin 4096) (rank : Nat) (errors : RidgeToken) : Coding.Statement (.ridgeTokenArrive c rank errors) := by intro r h; cases h
theorem Coding.ill (x : Pre) (imm : Word) : Coding.Statement (.ill x imm) := by rintro r ⟨⟩; rfl
theorem Coding.nop (x : Pre) : Coding.Statement (.nop x) := by rintro r ⟨⟩; rfl
theorem Coding.add (x : Pre) (a : SReg) (b : SReg) (c : SReg) : Coding.Statement (.add x a b c) := by
  rintro r ⟨⟩; change some (Instr.add x (Fin.ofNat 32 a.val) (Fin.ofNat 32 b.val) (Fin.ofNat 32 c.val)) = _; simp only [ofNat_val]
theorem Coding.addv (x : Pre) (a : SReg) (b : SReg) (c : SReg) : Coding.Statement (.addv x a b c) := by
  rintro r ⟨⟩; change some (Instr.addv x (Fin.ofNat 32 a.val) (Fin.ofNat 32 b.val) (Fin.ofNat 32 c.val)) = _; simp only [ofNat_val]
theorem Coding.sub (x : Pre) (a : SReg) (b : SReg) (c : SReg) : Coding.Statement (.sub x a b c) := by
  rintro r ⟨⟩; change some (Instr.sub x (Fin.ofNat 32 a.val) (Fin.ofNat 32 b.val) (Fin.ofNat 32 c.val)) = _; simp only [ofNat_val]
theorem Coding.subv (x : Pre) (a : SReg) (b : SReg) (c : SReg) : Coding.Statement (.subv x a b c) := by
  rintro r ⟨⟩; change some (Instr.subv x (Fin.ofNat 32 a.val) (Fin.ofNat 32 b.val) (Fin.ofNat 32 c.val)) = _; simp only [ofNat_val]
theorem Coding.and (x : Pre) (a : SReg) (b : SReg) (c : SReg) : Coding.Statement (.and x a b c) := by
  rintro r ⟨⟩; change some (Instr.and x (Fin.ofNat 32 a.val) (Fin.ofNat 32 b.val) (Fin.ofNat 32 c.val)) = _; simp only [ofNat_val]
theorem Coding.or (x : Pre) (a : SReg) (b : SReg) (c : SReg) : Coding.Statement (.or x a b c) := by
  rintro r ⟨⟩; change some (Instr.or x (Fin.ofNat 32 a.val) (Fin.ofNat 32 b.val) (Fin.ofNat 32 c.val)) = _; simp only [ofNat_val]
theorem Coding.xor (x : Pre) (a : SReg) (b : SReg) (c : SReg) : Coding.Statement (.xor x a b c) := by
  rintro r ⟨⟩; change some (Instr.xor x (Fin.ofNat 32 a.val) (Fin.ofNat 32 b.val) (Fin.ofNat 32 c.val)) = _; simp only [ofNat_val]
theorem Coding.shl (x : Pre) (a : SReg) (b : SReg) (c : SReg) : Coding.Statement (.shl x a b c) := by
  rintro r ⟨⟩; change some (Instr.shl x (Fin.ofNat 32 a.val) (Fin.ofNat 32 b.val) (Fin.ofNat 32 c.val)) = _; simp only [ofNat_val]
theorem Coding.shr (x : Pre) (a : SReg) (b : SReg) (c : SReg) : Coding.Statement (.shr x a b c) := by
  rintro r ⟨⟩; change some (Instr.shr x (Fin.ofNat 32 a.val) (Fin.ofNat 32 b.val) (Fin.ofNat 32 c.val)) = _; simp only [ofNat_val]
theorem Coding.sar (x : Pre) (a : SReg) (b : SReg) (c : SReg) : Coding.Statement (.sar x a b c) := by
  rintro r ⟨⟩; change some (Instr.sar x (Fin.ofNat 32 a.val) (Fin.ofNat 32 b.val) (Fin.ofNat 32 c.val)) = _; simp only [ofNat_val]
theorem Coding.mul (x : Pre) (a : SReg) (b : SReg) (c : SReg) : Coding.Statement (.mul x a b c) := by
  rintro r ⟨⟩; change some (Instr.mul x (Fin.ofNat 32 a.val) (Fin.ofNat 32 b.val) (Fin.ofNat 32 c.val)) = _; simp only [ofNat_val]
theorem Coding.mulh (x : Pre) (a : SReg) (b : SReg) (c : SReg) : Coding.Statement (.mulh x a b c) := by
  rintro r ⟨⟩; change some (Instr.mulh x (Fin.ofNat 32 a.val) (Fin.ofNat 32 b.val) (Fin.ofNat 32 c.val)) = _; simp only [ofNat_val]
theorem Coding.mulhn (x : Pre) (a : SReg) (b : SReg) (c : SReg) : Coding.Statement (.mulhn x a b c) := by
  rintro r ⟨⟩; change some (Instr.mulhn x (Fin.ofNat 32 a.val) (Fin.ofNat 32 b.val) (Fin.ofNat 32 c.val)) = _; simp only [ofNat_val]
theorem Coding.div (x : Pre) (a : SReg) (b : SReg) (c : SReg) : Coding.Statement (.div x a b c) := by
  rintro r ⟨⟩; change some (Instr.div x (Fin.ofNat 32 a.val) (Fin.ofNat 32 b.val) (Fin.ofNat 32 c.val)) = _; simp only [ofNat_val]
theorem Coding.divn (x : Pre) (a : SReg) (b : SReg) (c : SReg) : Coding.Statement (.divn x a b c) := by
  rintro r ⟨⟩; change some (Instr.divn x (Fin.ofNat 32 a.val) (Fin.ofNat 32 b.val) (Fin.ofNat 32 c.val)) = _; simp only [ofNat_val]
theorem Coding.rem (x : Pre) (a : SReg) (b : SReg) (c : SReg) : Coding.Statement (.rem x a b c) := by
  rintro r ⟨⟩; change some (Instr.rem x (Fin.ofNat 32 a.val) (Fin.ofNat 32 b.val) (Fin.ofNat 32 c.val)) = _; simp only [ofNat_val]
theorem Coding.remn (x : Pre) (a : SReg) (b : SReg) (c : SReg) : Coding.Statement (.remn x a b c) := by
  rintro r ⟨⟩; change some (Instr.remn x (Fin.ofNat 32 a.val) (Fin.ofNat 32 b.val) (Fin.ofNat 32 c.val)) = _; simp only [ofNat_val]
theorem Coding.addi (x : Pre) (a : SReg) (b : SReg) (imm : Word) : Coding.Statement (.addi x a b imm) := by
  rintro r ⟨⟩; change some (Instr.addi x (Fin.ofNat 32 a.val) (Fin.ofNat 32 b.val) imm) = _; simp only [ofNat_val]
theorem Coding.andi (x : Pre) (a : SReg) (b : SReg) (imm : Word) : Coding.Statement (.andi x a b imm) := by
  rintro r ⟨⟩; change some (Instr.andi x (Fin.ofNat 32 a.val) (Fin.ofNat 32 b.val) imm) = _; simp only [ofNat_val]
theorem Coding.ori (x : Pre) (a : SReg) (b : SReg) (imm : Word) : Coding.Statement (.ori x a b imm) := by
  rintro r ⟨⟩; change some (Instr.ori x (Fin.ofNat 32 a.val) (Fin.ofNat 32 b.val) imm) = _; simp only [ofNat_val]
theorem Coding.xori (x : Pre) (a : SReg) (b : SReg) (imm : Word) : Coding.Statement (.xori x a b imm) := by
  rintro r ⟨⟩; change some (Instr.xori x (Fin.ofNat 32 a.val) (Fin.ofNat 32 b.val) imm) = _; simp only [ofNat_val]
theorem Coding.shli (x : Pre) (a : SReg) (b : SReg) (imm : Word) : Coding.Statement (.shli x a b imm) := by
  rintro r ⟨⟩; change some (Instr.shli x (Fin.ofNat 32 a.val) (Fin.ofNat 32 b.val) imm) = _; simp only [ofNat_val]
theorem Coding.shri (x : Pre) (a : SReg) (b : SReg) (imm : Word) : Coding.Statement (.shri x a b imm) := by
  rintro r ⟨⟩; change some (Instr.shri x (Fin.ofNat 32 a.val) (Fin.ofNat 32 b.val) imm) = _; simp only [ofNat_val]
theorem Coding.sari (x : Pre) (a : SReg) (b : SReg) (imm : Word) : Coding.Statement (.sari x a b imm) := by
  rintro r ⟨⟩; change some (Instr.sari x (Fin.ofNat 32 a.val) (Fin.ofNat 32 b.val) imm) = _; simp only [ofNat_val]
theorem Coding.li (x : Pre) (a : SReg) (imm : Word) : Coding.Statement (.li x a imm) := by
  rintro r ⟨⟩; change some (Instr.li x (Fin.ofNat 32 a.val) imm) = _; simp only [ofNat_val]
theorem Coding.cmpeq (x : Pre) (a : SReg) (b : SReg) (c : SReg) : Coding.Statement (.cmpeq x a b c) := by
  rintro r ⟨⟩; change some (Instr.cmpeq x (Fin.ofNat 32 a.val) (Fin.ofNat 32 b.val) (Fin.ofNat 32 c.val)) = _; simp only [ofNat_val]
theorem Coding.cmpne (x : Pre) (a : SReg) (b : SReg) (c : SReg) : Coding.Statement (.cmpne x a b c) := by
  rintro r ⟨⟩; change some (Instr.cmpne x (Fin.ofNat 32 a.val) (Fin.ofNat 32 b.val) (Fin.ofNat 32 c.val)) = _; simp only [ofNat_val]
theorem Coding.cmplt (x : Pre) (a : SReg) (b : SReg) (c : SReg) : Coding.Statement (.cmplt x a b c) := by
  rintro r ⟨⟩; change some (Instr.cmplt x (Fin.ofNat 32 a.val) (Fin.ofNat 32 b.val) (Fin.ofNat 32 c.val)) = _; simp only [ofNat_val]
theorem Coding.cmpltn (x : Pre) (a : SReg) (b : SReg) (c : SReg) : Coding.Statement (.cmpltn x a b c) := by
  rintro r ⟨⟩; change some (Instr.cmpltn x (Fin.ofNat 32 a.val) (Fin.ofNat 32 b.val) (Fin.ofNat 32 c.val)) = _; simp only [ofNat_val]
theorem Coding.cmple (x : Pre) (a : SReg) (b : SReg) (c : SReg) : Coding.Statement (.cmple x a b c) := by
  rintro r ⟨⟩; change some (Instr.cmple x (Fin.ofNat 32 a.val) (Fin.ofNat 32 b.val) (Fin.ofNat 32 c.val)) = _; simp only [ofNat_val]
theorem Coding.cmplen (x : Pre) (a : SReg) (b : SReg) (c : SReg) : Coding.Statement (.cmplen x a b c) := by
  rintro r ⟨⟩; change some (Instr.cmplen x (Fin.ofNat 32 a.val) (Fin.ofNat 32 b.val) (Fin.ofNat 32 c.val)) = _; simp only [ofNat_val]
theorem Coding.sel (x : Pre) (a : SReg) (b : SReg) (c : SReg) (d : Fin 16) : Coding.Statement (.sel x a b c d) := by
  rintro r ⟨⟩; change some (Instr.sel x (Fin.ofNat 32 a.val) (Fin.ofNat 32 b.val) (Fin.ofNat 32 c.val) (Fin.ofNat 16 d.val)) = _; simp only [ofNat_val]
theorem Coding.ldb (x : Pre) (a : SReg) (b : SReg) (imm : Word) : Coding.Statement (.ldb x a b imm) := by
  rintro r ⟨⟩; change some (Instr.ldb x (Fin.ofNat 32 a.val) (Fin.ofNat 32 b.val) imm) = _; simp only [ofNat_val]
theorem Coding.ldbn (x : Pre) (a : SReg) (b : SReg) (imm : Word) : Coding.Statement (.ldbn x a b imm) := by
  rintro r ⟨⟩; change some (Instr.ldbn x (Fin.ofNat 32 a.val) (Fin.ofNat 32 b.val) imm) = _; simp only [ofNat_val]
theorem Coding.ldh (x : Pre) (a : SReg) (b : SReg) (imm : Word) : Coding.Statement (.ldh x a b imm) := by
  rintro r ⟨⟩; change some (Instr.ldh x (Fin.ofNat 32 a.val) (Fin.ofNat 32 b.val) imm) = _; simp only [ofNat_val]
theorem Coding.ldhn (x : Pre) (a : SReg) (b : SReg) (imm : Word) : Coding.Statement (.ldhn x a b imm) := by
  rintro r ⟨⟩; change some (Instr.ldhn x (Fin.ofNat 32 a.val) (Fin.ofNat 32 b.val) imm) = _; simp only [ofNat_val]
theorem Coding.ldw (x : Pre) (a : SReg) (b : SReg) (imm : Word) : Coding.Statement (.ldw x a b imm) := by
  rintro r ⟨⟩; change some (Instr.ldw x (Fin.ofNat 32 a.val) (Fin.ofNat 32 b.val) imm) = _; simp only [ofNat_val]
theorem Coding.ldwn (x : Pre) (a : SReg) (b : SReg) (imm : Word) : Coding.Statement (.ldwn x a b imm) := by
  rintro r ⟨⟩; change some (Instr.ldwn x (Fin.ofNat 32 a.val) (Fin.ofNat 32 b.val) imm) = _; simp only [ofNat_val]
theorem Coding.ldd (x : Pre) (a : SReg) (b : SReg) (imm : Word) : Coding.Statement (.ldd x a b imm) := by
  rintro r ⟨⟩; change some (Instr.ldd x (Fin.ofNat 32 a.val) (Fin.ofNat 32 b.val) imm) = _; simp only [ofNat_val]
theorem Coding.stb (x : Pre) (a : SReg) (b : SReg) (imm : Word) : Coding.Statement (.stb x a b imm) := by
  rintro r ⟨⟩; change some (Instr.stb x (Fin.ofNat 32 a.val) (Fin.ofNat 32 b.val) imm) = _; simp only [ofNat_val]
theorem Coding.sth (x : Pre) (a : SReg) (b : SReg) (imm : Word) : Coding.Statement (.sth x a b imm) := by
  rintro r ⟨⟩; change some (Instr.sth x (Fin.ofNat 32 a.val) (Fin.ofNat 32 b.val) imm) = _; simp only [ofNat_val]
theorem Coding.stw (x : Pre) (a : SReg) (b : SReg) (imm : Word) : Coding.Statement (.stw x a b imm) := by
  rintro r ⟨⟩; change some (Instr.stw x (Fin.ofNat 32 a.val) (Fin.ofNat 32 b.val) imm) = _; simp only [ofNat_val]
theorem Coding.std (x : Pre) (a : SReg) (b : SReg) (imm : Word) : Coding.Statement (.std x a b imm) := by
  rintro r ⟨⟩; change some (Instr.std x (Fin.ofNat 32 a.val) (Fin.ofNat 32 b.val) imm) = _; simp only [ofNat_val]
theorem Coding.beq (x : Pre) (a : SReg) (b : SReg) (imm : Word) : Coding.Statement (.beq x a b imm) := by
  rintro r ⟨⟩; change some (Instr.beq x (Fin.ofNat 32 a.val) (Fin.ofNat 32 b.val) imm) = _; simp only [ofNat_val]
theorem Coding.bne (x : Pre) (a : SReg) (b : SReg) (imm : Word) : Coding.Statement (.bne x a b imm) := by
  rintro r ⟨⟩; change some (Instr.bne x (Fin.ofNat 32 a.val) (Fin.ofNat 32 b.val) imm) = _; simp only [ofNat_val]
theorem Coding.blt (x : Pre) (a : SReg) (b : SReg) (imm : Word) : Coding.Statement (.blt x a b imm) := by
  rintro r ⟨⟩; change some (Instr.blt x (Fin.ofNat 32 a.val) (Fin.ofNat 32 b.val) imm) = _; simp only [ofNat_val]
theorem Coding.bge (x : Pre) (a : SReg) (b : SReg) (imm : Word) : Coding.Statement (.bge x a b imm) := by
  rintro r ⟨⟩; change some (Instr.bge x (Fin.ofNat 32 a.val) (Fin.ofNat 32 b.val) imm) = _; simp only [ofNat_val]
theorem Coding.bltn (x : Pre) (a : SReg) (b : SReg) (imm : Word) : Coding.Statement (.bltn x a b imm) := by
  rintro r ⟨⟩; change some (Instr.bltn x (Fin.ofNat 32 a.val) (Fin.ofNat 32 b.val) imm) = _; simp only [ofNat_val]
theorem Coding.bgen (x : Pre) (a : SReg) (b : SReg) (imm : Word) : Coding.Statement (.bgen x a b imm) := by
  rintro r ⟨⟩; change some (Instr.bgen x (Fin.ofNat 32 a.val) (Fin.ofNat 32 b.val) imm) = _; simp only [ofNat_val]
theorem Coding.beqz (x : Pre) (a : SReg) (imm : Word) : Coding.Statement (.beqz x a imm) := by
  rintro r ⟨⟩; change some (Instr.beqz x (Fin.ofNat 32 a.val) imm) = _; simp only [ofNat_val]
theorem Coding.bnez (x : Pre) (a : SReg) (imm : Word) : Coding.Statement (.bnez x a imm) := by
  rintro r ⟨⟩; change some (Instr.bnez x (Fin.ofNat 32 a.val) imm) = _; simp only [ofNat_val]
theorem Coding.b (x : Pre) (imm : Word) : Coding.Statement (.b x imm) := by rintro r ⟨⟩; rfl
theorem Coding.jmp (x : Pre) (imm : Word) : Coding.Statement (.jmp x imm) := by rintro r ⟨⟩; rfl
theorem Coding.call (x : Pre) (imm : Word) : Coding.Statement (.call x imm) := by rintro r ⟨⟩; rfl
theorem Coding.jr (x : Pre) (a : SReg) (imm : Word) : Coding.Statement (.jr x a imm) := by
  rintro r ⟨⟩; change some (Instr.jr x (Fin.ofNat 32 a.val) imm) = _; simp only [ofNat_val]
theorem Coding.callr (x : Pre) (a : SReg) (imm : Word) : Coding.Statement (.callr x a imm) := by
  rintro r ⟨⟩; change some (Instr.callr x (Fin.ofNat 32 a.val) imm) = _; simp only [ofNat_val]
theorem Coding.jmpf (x : Pre) (a : SReg) (imm : Word) : Coding.Statement (.jmpf x a imm) := by
  rintro r ⟨⟩; change some (Instr.jmpf x (Fin.ofNat 32 a.val) imm) = _; simp only [ofNat_val]
theorem Coding.callf (x : Pre) (a : SReg) (imm : Word) : Coding.Statement (.callf x a imm) := by
  rintro r ⟨⟩; change some (Instr.callf x (Fin.ofNat 32 a.val) imm) = _; simp only [ofNat_val]
theorem Coding.loop (x : Pre) (a : SReg) (imm : Word) : Coding.Statement (.loop x a imm) := by
  rintro r ⟨⟩; change some (Instr.loop x (Fin.ofNat 32 a.val) imm) = _; simp only [ofNat_val]
theorem Coding.csrd (x : Pre) (a : SReg) (imm : Word) : Coding.Statement (.csrd x a imm) := by
  rintro r ⟨⟩; change some (Instr.csrd x (Fin.ofNat 32 a.val) imm) = _; simp only [ofNat_val]
theorem Coding.cswr (x : Pre) (a : SReg) (imm : Word) : Coding.Statement (.cswr x a imm) := by
  rintro r ⟨⟩; change some (Instr.cswr x (Fin.ofNat 32 a.val) imm) = _; simp only [ofNat_val]
theorem Coding.trap (x : Pre) (imm : Word) : Coding.Statement (.trap x imm) := by rintro r ⟨⟩; rfl
theorem Coding.eret (x : Pre) : Coding.Statement (.eret x) := by rintro r ⟨⟩; rfl
theorem Coding.clz (x : Pre) (a : SReg) (b : SReg) : Coding.Statement (.clz x a b) := by
  rintro r ⟨⟩; change some (Instr.clz x (Fin.ofNat 32 a.val) (Fin.ofNat 32 b.val)) = _; simp only [ofNat_val]
theorem Coding.ctz (x : Pre) (a : SReg) (b : SReg) : Coding.Statement (.ctz x a b) := by
  rintro r ⟨⟩; change some (Instr.ctz x (Fin.ofNat 32 a.val) (Fin.ofNat 32 b.val)) = _; simp only [ofNat_val]
theorem Coding.popc (x : Pre) (a : SReg) (b : SReg) : Coding.Statement (.popc x a b) := by
  rintro r ⟨⟩; change some (Instr.popc x (Fin.ofNat 32 a.val) (Fin.ofNat 32 b.val)) = _; simp only [ofNat_val]
theorem Coding.min (x : Pre) (a : SReg) (b : SReg) (c : SReg) : Coding.Statement (.min x a b c) := by
  rintro r ⟨⟩; change some (Instr.min x (Fin.ofNat 32 a.val) (Fin.ofNat 32 b.val) (Fin.ofNat 32 c.val)) = _; simp only [ofNat_val]
theorem Coding.minn (x : Pre) (a : SReg) (b : SReg) (c : SReg) : Coding.Statement (.minn x a b c) := by
  rintro r ⟨⟩; change some (Instr.minn x (Fin.ofNat 32 a.val) (Fin.ofNat 32 b.val) (Fin.ofNat 32 c.val)) = _; simp only [ofNat_val]
theorem Coding.max (x : Pre) (a : SReg) (b : SReg) (c : SReg) : Coding.Statement (.max x a b c) := by
  rintro r ⟨⟩; change some (Instr.max x (Fin.ofNat 32 a.val) (Fin.ofNat 32 b.val) (Fin.ofNat 32 c.val)) = _; simp only [ofNat_val]
theorem Coding.maxn (x : Pre) (a : SReg) (b : SReg) (c : SReg) : Coding.Statement (.maxn x a b c) := by
  rintro r ⟨⟩; change some (Instr.maxn x (Fin.ofNat 32 a.val) (Fin.ofNat 32 b.val) (Fin.ofNat 32 c.val)) = _; simp only [ofNat_val]
theorem Coding.sext (x : Pre) (a : SReg) (b : SReg) (imm : Word) : Coding.Statement (.sext x a b imm) := by
  rintro r ⟨⟩; change some (Instr.sext x (Fin.ofNat 32 a.val) (Fin.ofNat 32 b.val) imm) = _; simp only [ofNat_val]
theorem Coding.zext (x : Pre) (a : SReg) (b : SReg) (imm : Word) : Coding.Statement (.zext x a b imm) := by
  rintro r ⟨⟩; change some (Instr.zext x (Fin.ofNat 32 a.val) (Fin.ofNat 32 b.val) imm) = _; simp only [ofNat_val]
theorem Coding.pcaddr (x : Pre) (a : SReg) (imm : Word) : Coding.Statement (.pcaddr x a imm) := by
  rintro r ⟨⟩; change some (Instr.pcaddr x (Fin.ofNat 32 a.val) imm) = _; simp only [ofNat_val]
theorem Coding.fadd (x : Pre) (a : SReg) (b : SReg) (c : SReg) : Coding.Statement (.fadd x a b c) := by
  rintro r ⟨⟩; change some (Instr.fadd x (Fin.ofNat 32 a.val) (Fin.ofNat 32 b.val) (Fin.ofNat 32 c.val)) = _; simp only [ofNat_val]
theorem Coding.fsub (x : Pre) (a : SReg) (b : SReg) (c : SReg) : Coding.Statement (.fsub x a b c) := by
  rintro r ⟨⟩; change some (Instr.fsub x (Fin.ofNat 32 a.val) (Fin.ofNat 32 b.val) (Fin.ofNat 32 c.val)) = _; simp only [ofNat_val]
theorem Coding.fmul (x : Pre) (a : SReg) (b : SReg) (c : SReg) : Coding.Statement (.fmul x a b c) := by
  rintro r ⟨⟩; change some (Instr.fmul x (Fin.ofNat 32 a.val) (Fin.ofNat 32 b.val) (Fin.ofNat 32 c.val)) = _; simp only [ofNat_val]
theorem Coding.fma (x : Pre) (a : SReg) (b : SReg) (c : SReg) : Coding.Statement (.fma x a b c) := by
  rintro r ⟨⟩; change some (Instr.fma x (Fin.ofNat 32 a.val) (Fin.ofNat 32 b.val) (Fin.ofNat 32 c.val)) = _; simp only [ofNat_val]
theorem Coding.fdiv (x : Pre) (a : SReg) (b : SReg) (c : SReg) : Coding.Statement (.fdiv x a b c) := by
  rintro r ⟨⟩; change some (Instr.fdiv x (Fin.ofNat 32 a.val) (Fin.ofNat 32 b.val) (Fin.ofNat 32 c.val)) = _; simp only [ofNat_val]
theorem Coding.fsqrt (x : Pre) (a : SReg) (b : SReg) : Coding.Statement (.fsqrt x a b) := by
  rintro r ⟨⟩; change some (Instr.fsqrt x (Fin.ofNat 32 a.val) (Fin.ofNat 32 b.val)) = _; simp only [ofNat_val]
theorem Coding.fmin (x : Pre) (a : SReg) (b : SReg) (c : SReg) : Coding.Statement (.fmin x a b c) := by
  rintro r ⟨⟩; change some (Instr.fmin x (Fin.ofNat 32 a.val) (Fin.ofNat 32 b.val) (Fin.ofNat 32 c.val)) = _; simp only [ofNat_val]
theorem Coding.fmax (x : Pre) (a : SReg) (b : SReg) (c : SReg) : Coding.Statement (.fmax x a b c) := by
  rintro r ⟨⟩; change some (Instr.fmax x (Fin.ofNat 32 a.val) (Fin.ofNat 32 b.val) (Fin.ofNat 32 c.val)) = _; simp only [ofNat_val]
theorem Coding.fcmpeq (x : Pre) (a : SReg) (b : SReg) (c : SReg) : Coding.Statement (.fcmpeq x a b c) := by
  rintro r ⟨⟩; change some (Instr.fcmpeq x (Fin.ofNat 32 a.val) (Fin.ofNat 32 b.val) (Fin.ofNat 32 c.val)) = _; simp only [ofNat_val]
theorem Coding.fcmplt (x : Pre) (a : SReg) (b : SReg) (c : SReg) : Coding.Statement (.fcmplt x a b c) := by
  rintro r ⟨⟩; change some (Instr.fcmplt x (Fin.ofNat 32 a.val) (Fin.ofNat 32 b.val) (Fin.ofNat 32 c.val)) = _; simp only [ofNat_val]
theorem Coding.fcmple (x : Pre) (a : SReg) (b : SReg) (c : SReg) : Coding.Statement (.fcmple x a b c) := by
  rintro r ⟨⟩; change some (Instr.fcmple x (Fin.ofNat 32 a.val) (Fin.ofNat 32 b.val) (Fin.ofNat 32 c.val)) = _; simp only [ofNat_val]
theorem Coding.fcvti (x : Pre) (a : SReg) (b : SReg) : Coding.Statement (.fcvti x a b) := by
  rintro r ⟨⟩; change some (Instr.fcvti x (Fin.ofNat 32 a.val) (Fin.ofNat 32 b.val)) = _; simp only [ofNat_val]
theorem Coding.fcvtin (x : Pre) (a : SReg) (b : SReg) : Coding.Statement (.fcvtin x a b) := by
  rintro r ⟨⟩; change some (Instr.fcvtin x (Fin.ofNat 32 a.val) (Fin.ofNat 32 b.val)) = _; simp only [ofNat_val]
theorem Coding.fcvtf (x : Pre) (a : SReg) (b : SReg) : Coding.Statement (.fcvtf x a b) := by
  rintro r ⟨⟩; change some (Instr.fcvtf x (Fin.ofNat 32 a.val) (Fin.ofNat 32 b.val)) = _; simp only [ofNat_val]
theorem Coding.fcvtfn (x : Pre) (a : SReg) (b : SReg) : Coding.Statement (.fcvtfn x a b) := by
  rintro r ⟨⟩; change some (Instr.fcvtfn x (Fin.ofNat 32 a.val) (Fin.ofNat 32 b.val)) = _; simp only [ofNat_val]
theorem Coding.fcvt (x : Pre) (a : SReg) (b : SReg) : Coding.Statement (.fcvt x a b) := by
  rintro r ⟨⟩; change some (Instr.fcvt x (Fin.ofNat 32 a.val) (Fin.ofNat 32 b.val)) = _; simp only [ofNat_val]
theorem Coding.bsadd (x : Pre) (a : SReg) (b : SReg) (c : SReg) : Coding.Statement (.bsadd x a b c) := by
  rintro r ⟨⟩; change some (Instr.bsadd x (Fin.ofNat 32 a.val) (Fin.ofNat 32 b.val) (Fin.ofNat 32 c.val)) = _; simp only [ofNat_val]
theorem Coding.bscvt (x : Pre) (a : SReg) (b : SReg) : Coding.Statement (.bscvt x a b) := by
  rintro r ⟨⟩; change some (Instr.bscvt x (Fin.ofNat 32 a.val) (Fin.ofNat 32 b.val)) = _; simp only [ofNat_val]
theorem Coding.vld (x : Pre) (a : VReg) (b : SReg) (imm : Word) : Coding.Statement (.vld x a b imm) := by
  rintro r ⟨⟩; change some (Instr.vld x (Fin.ofNat 32 a.val) (Fin.ofNat 32 b.val) imm) = _; simp only [ofNat_val]
theorem Coding.vst (x : Pre) (a : VReg) (b : SReg) (imm : Word) : Coding.Statement (.vst x a b imm) := by
  rintro r ⟨⟩; change some (Instr.vst x (Fin.ofNat 32 a.val) (Fin.ofNat 32 b.val) imm) = _; simp only [ofNat_val]
theorem Coding.vlds (x : Pre) (a : VReg) (b : SReg) (c : SReg) : Coding.Statement (.vlds x a b c) := by
  rintro r ⟨⟩; change some (Instr.vlds x (Fin.ofNat 32 a.val) (Fin.ofNat 32 b.val) (Fin.ofNat 32 c.val)) = _; simp only [ofNat_val]
theorem Coding.vsts (x : Pre) (a : VReg) (b : SReg) (c : SReg) : Coding.Statement (.vsts x a b c) := by
  rintro r ⟨⟩; change some (Instr.vsts x (Fin.ofNat 32 a.val) (Fin.ofNat 32 b.val) (Fin.ofNat 32 c.val)) = _; simp only [ofNat_val]
theorem Coding.vldg (x : Pre) (a : VReg) (b : SReg) (c : VReg) : Coding.Statement (.vldg x a b c) := by
  rintro r ⟨⟩; change some (Instr.vldg x (Fin.ofNat 32 a.val) (Fin.ofNat 32 b.val) (Fin.ofNat 32 c.val)) = _; simp only [ofNat_val]
theorem Coding.vstg (x : Pre) (a : VReg) (b : SReg) (c : VReg) : Coding.Statement (.vstg x a b c) := by
  rintro r ⟨⟩; change some (Instr.vstg x (Fin.ofNat 32 a.val) (Fin.ofNat 32 b.val) (Fin.ofNat 32 c.val)) = _; simp only [ofNat_val]
theorem Coding.vldt (x : Pre) (a : VReg) (b : SReg) (c : SReg) : Coding.Statement (.vldt x a b c) := by
  rintro r ⟨⟩; change some (Instr.vldt x (Fin.ofNat 32 a.val) (Fin.ofNat 32 b.val) (Fin.ofNat 32 c.val)) = _; simp only [ofNat_val]
theorem Coding.st64s (x : Pre) (a : SReg) (b : SReg) (c : SReg) : Coding.Statement (.st64s x a b c) := by
  rintro r ⟨⟩; change some (Instr.st64s x (Fin.ofNat 32 a.val) (Fin.ofNat 32 b.val) (Fin.ofNat 32 c.val)) = _; simp only [ofNat_val]
theorem Coding.amoadd (x : Pre) (a : SReg) (b : SReg) (c : SReg) : Coding.Statement (.amoadd x a b c) := by
  rintro r ⟨⟩; change some (Instr.amoadd x (Fin.ofNat 32 a.val) (Fin.ofNat 32 b.val) (Fin.ofNat 32 c.val)) = _; simp only [ofNat_val]
theorem Coding.amoswp (x : Pre) (a : SReg) (b : SReg) (c : SReg) : Coding.Statement (.amoswp x a b c) := by
  rintro r ⟨⟩; change some (Instr.amoswp x (Fin.ofNat 32 a.val) (Fin.ofNat 32 b.val) (Fin.ofNat 32 c.val)) = _; simp only [ofNat_val]
theorem Coding.amocas (x : Pre) (a : SReg) (b : SReg) (c : SReg) (d : Fin 16) : Coding.Statement (.amocas x a b c d) := by
  rintro r ⟨⟩; change some (Instr.amocas x (Fin.ofNat 32 a.val) (Fin.ofNat 32 b.val) (Fin.ofNat 32 c.val) (Fin.ofNat 16 d.val)) = _; simp only [ofNat_val]
theorem Coding.amomin (x : Pre) (a : SReg) (b : SReg) (c : SReg) : Coding.Statement (.amomin x a b c) := by
  rintro r ⟨⟩; change some (Instr.amomin x (Fin.ofNat 32 a.val) (Fin.ofNat 32 b.val) (Fin.ofNat 32 c.val)) = _; simp only [ofNat_val]
theorem Coding.amominn (x : Pre) (a : SReg) (b : SReg) (c : SReg) : Coding.Statement (.amominn x a b c) := by
  rintro r ⟨⟩; change some (Instr.amominn x (Fin.ofNat 32 a.val) (Fin.ofNat 32 b.val) (Fin.ofNat 32 c.val)) = _; simp only [ofNat_val]
theorem Coding.amomax (x : Pre) (a : SReg) (b : SReg) (c : SReg) : Coding.Statement (.amomax x a b c) := by
  rintro r ⟨⟩; change some (Instr.amomax x (Fin.ofNat 32 a.val) (Fin.ofNat 32 b.val) (Fin.ofNat 32 c.val)) = _; simp only [ofNat_val]
theorem Coding.amomaxn (x : Pre) (a : SReg) (b : SReg) (c : SReg) : Coding.Statement (.amomaxn x a b c) := by
  rintro r ⟨⟩; change some (Instr.amomaxn x (Fin.ofNat 32 a.val) (Fin.ofNat 32 b.val) (Fin.ofNat 32 c.val)) = _; simp only [ofNat_val]
theorem Coding.amoand (x : Pre) (a : SReg) (b : SReg) (c : SReg) : Coding.Statement (.amoand x a b c) := by
  rintro r ⟨⟩; change some (Instr.amoand x (Fin.ofNat 32 a.val) (Fin.ofNat 32 b.val) (Fin.ofNat 32 c.val)) = _; simp only [ofNat_val]
theorem Coding.amoor (x : Pre) (a : SReg) (b : SReg) (c : SReg) : Coding.Statement (.amoor x a b c) := by
  rintro r ⟨⟩; change some (Instr.amoor x (Fin.ofNat 32 a.val) (Fin.ofNat 32 b.val) (Fin.ofNat 32 c.val)) = _; simp only [ofNat_val]
theorem Coding.fence (x : Pre) : Coding.Statement (.fence x) := by rintro r ⟨⟩; rfl
theorem Coding.qbind (x : Pre) (a : QReg) (b : SReg) : Coding.Statement (.qbind x a b) := by
  rintro r ⟨⟩; change some (Instr.qbind x (Fin.ofNat 16 a.val) (Fin.ofNat 32 b.val)) = _; simp only [ofNat_val]
theorem Coding.qadvh (x : Pre) (a : QReg) (b : SReg) (imm : Word) : Coding.Statement (.qadvh x a b imm) := by
  rintro r ⟨⟩; change some (Instr.qadvh x (Fin.ofNat 16 a.val) (Fin.ofNat 32 b.val) imm) = _; simp only [ofNat_val]
theorem Coding.qadvt (x : Pre) (a : QReg) (b : SReg) (imm : Word) : Coding.Statement (.qadvt x a b imm) := by
  rintro r ⟨⟩; change some (Instr.qadvt x (Fin.ofNat 16 a.val) (Fin.ofNat 32 b.val) imm) = _; simp only [ofNat_val]
theorem Coding.qcnt (x : Pre) (a : SReg) (b : QReg) : Coding.Statement (.qcnt x a b) := by
  rintro r ⟨⟩; change some (Instr.qcnt x (Fin.ofNat 32 a.val) (Fin.ofNat 16 b.val)) = _; simp only [ofNat_val]
theorem Coding.qfree (x : Pre) (a : SReg) (b : QReg) : Coding.Statement (.qfree x a b) := by
  rintro r ⟨⟩; change some (Instr.qfree x (Fin.ofNat 32 a.val) (Fin.ofNat 16 b.val)) = _; simp only [ofNat_val]
theorem Coding.qwaitf (x : Pre) (a : QReg) (b : SReg) (imm : Word) : Coding.Statement (.qwaitf x a b imm) := by
  rintro r ⟨⟩; change some (Instr.qwaitf x (Fin.ofNat 16 a.val) (Fin.ofNat 32 b.val) imm) = _; simp only [ofNat_val]
theorem Coding.qwaite (x : Pre) (a : QReg) (b : SReg) (imm : Word) : Coding.Statement (.qwaite x a b imm) := by
  rintro r ⟨⟩; change some (Instr.qwaite x (Fin.ofNat 16 a.val) (Fin.ofNat 32 b.val) imm) = _; simp only [ofNat_val]
theorem Coding.sbind (x : Pre) (a : VReg) (b : SReg) : Coding.Statement (.sbind x a b) := by
  rintro r ⟨⟩; change some (Instr.sbind x (Fin.ofNat 32 a.val) (Fin.ofNat 32 b.val)) = _; simp only [ofNat_val]
theorem Coding.sbinds (x : Pre) (a : SReg) (b : SReg) : Coding.Statement (.sbinds x a b) := by
  rintro r ⟨⟩; change some (Instr.sbinds x (Fin.ofNat 32 a.val) (Fin.ofNat 32 b.val)) = _; simp only [ofNat_val]
theorem Coding.sunbind (x : Pre) (a : SReg) (imm : Word) : Coding.Statement (.sunbind x a imm) := by
  rintro r ⟨⟩; change some (Instr.sunbind x (Fin.ofNat 32 a.val) imm) = _; simp only [ofNat_val]
theorem Coding.spos (x : Pre) (a : SReg) (b : SReg) (c : Fin 8) : Coding.Statement (.spos x a b c) := by
  rintro r ⟨⟩; change some (Instr.spos x (Fin.ofNat 32 a.val) (Fin.ofNat 32 b.val) (Fin.ofNat 8 c.val)) = _; simp only [ofNat_val]
theorem Coding.vrowld (x : Pre) (a : VReg) (b : SReg) (c : Fin 8) : Coding.Statement (.vrowld x a b c) := by
  rintro r ⟨⟩; change some (Instr.vrowld x (Fin.ofNat 32 a.val) (Fin.ofNat 32 b.val) (Fin.ofNat 8 c.val)) = _; simp only [ofNat_val]
theorem Coding.vrowst (x : Pre) (a : VReg) (b : SReg) (c : Fin 8) : Coding.Statement (.vrowst x a b c) := by
  rintro r ⟨⟩; change some (Instr.vrowst x (Fin.ofNat 32 a.val) (Fin.ofNat 32 b.val) (Fin.ofNat 8 c.val)) = _; simp only [ofNat_val]
theorem Coding.vrowadd (x : Pre) (a : VReg) (b : SReg) (c : Fin 8) : Coding.Statement (.vrowadd x a b c) := by
  rintro r ⟨⟩; change some (Instr.vrowadd x (Fin.ofNat 32 a.val) (Fin.ofNat 32 b.val) (Fin.ofNat 8 c.val)) = _; simp only [ofNat_val]
theorem Coding.vrowcas (x : Pre) (a : VReg) (b : SReg) (c : Fin 8) : Coding.Statement (.vrowcas x a b c) := by
  rintro r ⟨⟩; change some (Instr.vrowcas x (Fin.ofNat 32 a.val) (Fin.ofNat 32 b.val) (Fin.ofNat 8 c.val)) = _; simp only [ofNat_val]
theorem Coding.capdef (x : Pre) (b : SReg) (c : SReg) : Coding.Statement (.capdef x b c) := by
  rintro r ⟨⟩; change some (Instr.capdef x (Fin.ofNat 32 b.val) (Fin.ofNat 32 c.val)) = _; simp only [ofNat_val]
theorem Coding.capx (x : Pre) (b : SReg) (c : SReg) : Coding.Statement (.capx x b c) := by
  rintro r ⟨⟩; change some (Instr.capx x (Fin.ofNat 32 b.val) (Fin.ofNat 32 c.val)) = _; simp only [ofNat_val]
theorem Coding.capq (x : Pre) (a : SReg) (b : SReg) : Coding.Statement (.capq x a b) := by
  rintro r ⟨⟩; change some (Instr.capq x (Fin.ofNat 32 a.val) (Fin.ofNat 32 b.val)) = _; simp only [ofNat_val]
theorem Coding.msend (x : Pre) (a : SReg) (b : SReg) (imm : Word) : Coding.Statement (.msend x a b imm) := by
  rintro r ⟨⟩; change some (Instr.msend x (Fin.ofNat 32 a.val) (Fin.ofNat 32 b.val) imm) = _; simp only [ofNat_val]
theorem Coding.mrecv (x : Pre) (a : SReg) (imm : Word) : Coding.Statement (.mrecv x a imm) := by
  rintro r ⟨⟩; change some (Instr.mrecv x (Fin.ofNat 32 a.val) imm) = _; simp only [ofNat_val]
theorem Coding.mpoll (x : Pre) (a : SReg) : Coding.Statement (.mpoll x a) := by
  rintro r ⟨⟩; change some (Instr.mpoll x (Fin.ofNat 32 a.val)) = _; simp only [ofNat_val]
theorem Coding.mbwait (x : Pre) (a : SReg) (imm : Word) : Coding.Statement (.mbwait x a imm) := by
  rintro r ⟨⟩; change some (Instr.mbwait x (Fin.ofNat 32 a.val) imm) = _; simp only [ofNat_val]
theorem Coding.mbpop (x : Pre) (a : SReg) : Coding.Statement (.mbpop x a) := by
  rintro r ⟨⟩; change some (Instr.mbpop x (Fin.ofNat 32 a.val)) = _; simp only [ofNat_val]
theorem Coding.copy (x : Pre) (a : SReg) (b : SReg) : Coding.Statement (.copy x a b) := by
  rintro r ⟨⟩; change some (Instr.copy x (Fin.ofNat 32 a.val) (Fin.ofNat 32 b.val)) = _; simp only [ofNat_val]
theorem Coding.copyb (x : Pre) (a : SReg) (b : SReg) : Coding.Statement (.copyb x a b) := by
  rintro r ⟨⟩; change some (Instr.copyb x (Fin.ofNat 32 a.val) (Fin.ofNat 32 b.val)) = _; simp only [ofNat_val]
theorem Coding.cfet (x : Pre) (a : SReg) (b : SReg) (c : SReg) : Coding.Statement (.cfet x a b c) := by
  rintro r ⟨⟩; change some (Instr.cfet x (Fin.ofNat 32 a.val) (Fin.ofNat 32 b.val) (Fin.ofNat 32 c.val)) = _; simp only [ofNat_val]
theorem Coding.cfetb (x : Pre) (a : SReg) (b : SReg) (c : SReg) : Coding.Statement (.cfetb x a b c) := by
  rintro r ⟨⟩; change some (Instr.cfetb x (Fin.ofNat 32 a.val) (Fin.ofNat 32 b.val) (Fin.ofNat 32 c.val)) = _; simp only [ofNat_val]
theorem Coding.gang (x : Pre) (imm : Word) : Coding.Statement (.gang x imm) := by rintro r ⟨⟩; rfl
theorem Coding.split (x : Pre) : Coding.Statement (.split x) := by rintro r ⟨⟩; rfl
theorem Coding.thstart (x : Pre) (a : SReg) (b : SReg) (c : SReg) : Coding.Statement (.thstart x a b c) := by
  rintro r ⟨⟩; change some (Instr.thstart x (Fin.ofNat 32 a.val) (Fin.ofNat 32 b.val) (Fin.ofNat 32 c.val)) = _; simp only [ofNat_val]
theorem Coding.thstop (x : Pre) (a : SReg) : Coding.Statement (.thstop x a) := by
  rintro r ⟨⟩; change some (Instr.thstop x (Fin.ofNat 32 a.val)) = _; simp only [ofNat_val]
theorem Coding.yield (x : Pre) : Coding.Statement (.yield x) := by rintro r ⟨⟩; rfl
theorem Coding.halt (x : Pre) : Coding.Statement (.halt x) := by rintro r ⟨⟩; rfl
theorem Coding.brk (x : Pre) (imm : Word) : Coding.Statement (.brk x imm) := by rintro r ⟨⟩; rfl
theorem Coding.trace (x : Pre) (a : SReg) : Coding.Statement (.trace x a) := by
  rintro r ⟨⟩; change some (Instr.trace x (Fin.ofNat 32 a.val)) = _; simp only [ofNat_val]
theorem Coding.bgtrd (x : Pre) (a : SReg) (imm : Word) : Coding.Statement (.bgtrd x a imm) := by
  rintro r ⟨⟩; change some (Instr.bgtrd x (Fin.ofNat 32 a.val) imm) = _; simp only [ofNat_val]
theorem Coding.vadd (x : Pre) (a : VReg) (b : VReg) (c : VReg) : Coding.Statement (.vadd x a b c) := by
  rintro r ⟨⟩; change some (Instr.vadd x (Fin.ofNat 32 a.val) (Fin.ofNat 32 b.val) (Fin.ofNat 32 c.val)) = _; simp only [ofNat_val]
theorem Coding.vaddSat (x : Pre) (a : VReg) (b : VReg) (c : VReg) : Coding.Statement (.vaddSat x a b c) := by
  rintro r ⟨⟩; change some (Instr.vaddSat x (Fin.ofNat 32 a.val) (Fin.ofNat 32 b.val) (Fin.ofNat 32 c.val)) = _; simp only [ofNat_val]
theorem Coding.vsub (x : Pre) (a : VReg) (b : VReg) (c : VReg) : Coding.Statement (.vsub x a b c) := by
  rintro r ⟨⟩; change some (Instr.vsub x (Fin.ofNat 32 a.val) (Fin.ofNat 32 b.val) (Fin.ofNat 32 c.val)) = _; simp only [ofNat_val]
theorem Coding.vsubSat (x : Pre) (a : VReg) (b : VReg) (c : VReg) : Coding.Statement (.vsubSat x a b c) := by
  rintro r ⟨⟩; change some (Instr.vsubSat x (Fin.ofNat 32 a.val) (Fin.ofNat 32 b.val) (Fin.ofNat 32 c.val)) = _; simp only [ofNat_val]
theorem Coding.vmul (x : Pre) (a : VReg) (b : VReg) (c : VReg) : Coding.Statement (.vmul x a b c) := by
  rintro r ⟨⟩; change some (Instr.vmul x (Fin.ofNat 32 a.val) (Fin.ofNat 32 b.val) (Fin.ofNat 32 c.val)) = _; simp only [ofNat_val]
theorem Coding.vmulh (x : Pre) (a : VReg) (b : VReg) (c : VReg) : Coding.Statement (.vmulh x a b c) := by
  rintro r ⟨⟩; change some (Instr.vmulh x (Fin.ofNat 32 a.val) (Fin.ofNat 32 b.val) (Fin.ofNat 32 c.val)) = _; simp only [ofNat_val]
theorem Coding.vmulhn (x : Pre) (a : VReg) (b : VReg) (c : VReg) : Coding.Statement (.vmulhn x a b c) := by
  rintro r ⟨⟩; change some (Instr.vmulhn x (Fin.ofNat 32 a.val) (Fin.ofNat 32 b.val) (Fin.ofNat 32 c.val)) = _; simp only [ofNat_val]
theorem Coding.vmad (x : Pre) (a : VReg) (b : VReg) (c : VReg) : Coding.Statement (.vmad x a b c) := by
  rintro r ⟨⟩; change some (Instr.vmad x (Fin.ofNat 32 a.val) (Fin.ofNat 32 b.val) (Fin.ofNat 32 c.val)) = _; simp only [ofNat_val]
theorem Coding.vaddw (x : Pre) (a : VReg) (b : VReg) (c : VReg) : Coding.Statement (.vaddw x a b c) := by
  rintro r ⟨⟩; change some (Instr.vaddw x (Fin.ofNat 32 a.val) (Fin.ofNat 32 b.val) (Fin.ofNat 32 c.val)) = _; simp only [ofNat_val]
theorem Coding.vaddwh (x : Pre) (a : VReg) (b : VReg) (c : VReg) : Coding.Statement (.vaddwh x a b c) := by
  rintro r ⟨⟩; change some (Instr.vaddwh x (Fin.ofNat 32 a.val) (Fin.ofNat 32 b.val) (Fin.ofNat 32 c.val)) = _; simp only [ofNat_val]
theorem Coding.vdot (x : Pre) (a : VReg) (b : VReg) (c : VReg) : Coding.Statement (.vdot x a b c) := by
  rintro r ⟨⟩; change some (Instr.vdot x (Fin.ofNat 32 a.val) (Fin.ofNat 32 b.val) (Fin.ofNat 32 c.val)) = _; simp only [ofNat_val]
theorem Coding.vand (x : Pre) (a : VReg) (b : VReg) (c : VReg) : Coding.Statement (.vand x a b c) := by
  rintro r ⟨⟩; change some (Instr.vand x (Fin.ofNat 32 a.val) (Fin.ofNat 32 b.val) (Fin.ofNat 32 c.val)) = _; simp only [ofNat_val]
theorem Coding.vor (x : Pre) (a : VReg) (b : VReg) (c : VReg) : Coding.Statement (.vor x a b c) := by
  rintro r ⟨⟩; change some (Instr.vor x (Fin.ofNat 32 a.val) (Fin.ofNat 32 b.val) (Fin.ofNat 32 c.val)) = _; simp only [ofNat_val]
theorem Coding.vxor (x : Pre) (a : VReg) (b : VReg) (c : VReg) : Coding.Statement (.vxor x a b c) := by
  rintro r ⟨⟩; change some (Instr.vxor x (Fin.ofNat 32 a.val) (Fin.ofNat 32 b.val) (Fin.ofNat 32 c.val)) = _; simp only [ofNat_val]
theorem Coding.vshl (x : Pre) (a : VReg) (b : VReg) (c : VReg) : Coding.Statement (.vshl x a b c) := by
  rintro r ⟨⟩; change some (Instr.vshl x (Fin.ofNat 32 a.val) (Fin.ofNat 32 b.val) (Fin.ofNat 32 c.val)) = _; simp only [ofNat_val]
theorem Coding.vshr (x : Pre) (a : VReg) (b : VReg) (c : VReg) : Coding.Statement (.vshr x a b c) := by
  rintro r ⟨⟩; change some (Instr.vshr x (Fin.ofNat 32 a.val) (Fin.ofNat 32 b.val) (Fin.ofNat 32 c.val)) = _; simp only [ofNat_val]
theorem Coding.vsar (x : Pre) (a : VReg) (b : VReg) (c : VReg) : Coding.Statement (.vsar x a b c) := by
  rintro r ⟨⟩; change some (Instr.vsar x (Fin.ofNat 32 a.val) (Fin.ofNat 32 b.val) (Fin.ofNat 32 c.val)) = _; simp only [ofNat_val]
theorem Coding.vshli (x : Pre) (a : VReg) (b : VReg) (imm : Word) : Coding.Statement (.vshli x a b imm) := by
  rintro r ⟨⟩; change some (Instr.vshli x (Fin.ofNat 32 a.val) (Fin.ofNat 32 b.val) imm) = _; simp only [ofNat_val]
theorem Coding.vshri (x : Pre) (a : VReg) (b : VReg) (imm : Word) : Coding.Statement (.vshri x a b imm) := by
  rintro r ⟨⟩; change some (Instr.vshri x (Fin.ofNat 32 a.val) (Fin.ofNat 32 b.val) imm) = _; simp only [ofNat_val]
theorem Coding.vsari (x : Pre) (a : VReg) (b : VReg) (imm : Word) : Coding.Statement (.vsari x a b imm) := by
  rintro r ⟨⟩; change some (Instr.vsari x (Fin.ofNat 32 a.val) (Fin.ofNat 32 b.val) imm) = _; simp only [ofNat_val]
theorem Coding.vmin (x : Pre) (a : VReg) (b : VReg) (c : VReg) : Coding.Statement (.vmin x a b c) := by
  rintro r ⟨⟩; change some (Instr.vmin x (Fin.ofNat 32 a.val) (Fin.ofNat 32 b.val) (Fin.ofNat 32 c.val)) = _; simp only [ofNat_val]
theorem Coding.vminn (x : Pre) (a : VReg) (b : VReg) (c : VReg) : Coding.Statement (.vminn x a b c) := by
  rintro r ⟨⟩; change some (Instr.vminn x (Fin.ofNat 32 a.val) (Fin.ofNat 32 b.val) (Fin.ofNat 32 c.val)) = _; simp only [ofNat_val]
theorem Coding.vmax (x : Pre) (a : VReg) (b : VReg) (c : VReg) : Coding.Statement (.vmax x a b c) := by
  rintro r ⟨⟩; change some (Instr.vmax x (Fin.ofNat 32 a.val) (Fin.ofNat 32 b.val) (Fin.ofNat 32 c.val)) = _; simp only [ofNat_val]
theorem Coding.vmaxn (x : Pre) (a : VReg) (b : VReg) (c : VReg) : Coding.Statement (.vmaxn x a b c) := by
  rintro r ⟨⟩; change some (Instr.vmaxn x (Fin.ofNat 32 a.val) (Fin.ofNat 32 b.val) (Fin.ofNat 32 c.val)) = _; simp only [ofNat_val]
theorem Coding.vabs (x : Pre) (a : VReg) (b : VReg) : Coding.Statement (.vabs x a b) := by
  rintro r ⟨⟩; change some (Instr.vabs x (Fin.ofNat 32 a.val) (Fin.ofNat 32 b.val)) = _; simp only [ofNat_val]
theorem Coding.vcmpeq (x : Pre) (a : KReg) (b : VReg) (c : VReg) : Coding.Statement (.vcmpeq x a b c) := by
  rintro r ⟨⟩; change some (Instr.vcmpeq x (Fin.ofNat 8 a.val) (Fin.ofNat 32 b.val) (Fin.ofNat 32 c.val)) = _; simp only [ofNat_val]
theorem Coding.vcmpne (x : Pre) (a : KReg) (b : VReg) (c : VReg) : Coding.Statement (.vcmpne x a b c) := by
  rintro r ⟨⟩; change some (Instr.vcmpne x (Fin.ofNat 8 a.val) (Fin.ofNat 32 b.val) (Fin.ofNat 32 c.val)) = _; simp only [ofNat_val]
theorem Coding.vcmplt (x : Pre) (a : KReg) (b : VReg) (c : VReg) : Coding.Statement (.vcmplt x a b c) := by
  rintro r ⟨⟩; change some (Instr.vcmplt x (Fin.ofNat 8 a.val) (Fin.ofNat 32 b.val) (Fin.ofNat 32 c.val)) = _; simp only [ofNat_val]
theorem Coding.vcmpltn (x : Pre) (a : KReg) (b : VReg) (c : VReg) : Coding.Statement (.vcmpltn x a b c) := by
  rintro r ⟨⟩; change some (Instr.vcmpltn x (Fin.ofNat 8 a.val) (Fin.ofNat 32 b.val) (Fin.ofNat 32 c.val)) = _; simp only [ofNat_val]
theorem Coding.vcmple (x : Pre) (a : KReg) (b : VReg) (c : VReg) : Coding.Statement (.vcmple x a b c) := by
  rintro r ⟨⟩; change some (Instr.vcmple x (Fin.ofNat 8 a.val) (Fin.ofNat 32 b.val) (Fin.ofNat 32 c.val)) = _; simp only [ofNat_val]
theorem Coding.vcmplen (x : Pre) (a : KReg) (b : VReg) (c : VReg) : Coding.Statement (.vcmplen x a b c) := by
  rintro r ⟨⟩; change some (Instr.vcmplen x (Fin.ofNat 8 a.val) (Fin.ofNat 32 b.val) (Fin.ofNat 32 c.val)) = _; simp only [ofNat_val]
theorem Coding.vsel (x : Pre) (a : VReg) (b : VReg) (c : VReg) : Coding.Statement (.vsel x a b c) := by
  rintro r ⟨⟩; change some (Instr.vsel x (Fin.ofNat 32 a.val) (Fin.ofNat 32 b.val) (Fin.ofNat 32 c.val)) = _; simp only [ofNat_val]
theorem Coding.vbcast (x : Pre) (a : VReg) (b : SReg) : Coding.Statement (.vbcast x a b) := by
  rintro r ⟨⟩; change some (Instr.vbcast x (Fin.ofNat 32 a.val) (Fin.ofNat 32 b.val)) = _; simp only [ofNat_val]
theorem Coding.vextr (x : Pre) (a : SReg) (b : VReg) (imm : Word) : Coding.Statement (.vextr x a b imm) := by
  rintro r ⟨⟩; change some (Instr.vextr x (Fin.ofNat 32 a.val) (Fin.ofNat 32 b.val) imm) = _; simp only [ofNat_val]
theorem Coding.vins (x : Pre) (a : VReg) (b : SReg) (imm : Word) : Coding.Statement (.vins x a b imm) := by
  rintro r ⟨⟩; change some (Instr.vins x (Fin.ofNat 32 a.val) (Fin.ofNat 32 b.val) imm) = _; simp only [ofNat_val]
theorem Coding.vlane (x : Pre) (a : VReg) (imm : Word) : Coding.Statement (.vlane x a imm) := by
  rintro r ⟨⟩; change some (Instr.vlane x (Fin.ofNat 32 a.val) imm) = _; simp only [ofNat_val]
theorem Coding.vfadd (x : Pre) (a : VReg) (b : VReg) (c : VReg) : Coding.Statement (.vfadd x a b c) := by
  rintro r ⟨⟩; change some (Instr.vfadd x (Fin.ofNat 32 a.val) (Fin.ofNat 32 b.val) (Fin.ofNat 32 c.val)) = _; simp only [ofNat_val]
theorem Coding.vfsub (x : Pre) (a : VReg) (b : VReg) (c : VReg) : Coding.Statement (.vfsub x a b c) := by
  rintro r ⟨⟩; change some (Instr.vfsub x (Fin.ofNat 32 a.val) (Fin.ofNat 32 b.val) (Fin.ofNat 32 c.val)) = _; simp only [ofNat_val]
theorem Coding.vfmul (x : Pre) (a : VReg) (b : VReg) (c : VReg) : Coding.Statement (.vfmul x a b c) := by
  rintro r ⟨⟩; change some (Instr.vfmul x (Fin.ofNat 32 a.val) (Fin.ofNat 32 b.val) (Fin.ofNat 32 c.val)) = _; simp only [ofNat_val]
theorem Coding.vfma (x : Pre) (a : VReg) (b : VReg) (c : VReg) : Coding.Statement (.vfma x a b c) := by
  rintro r ⟨⟩; change some (Instr.vfma x (Fin.ofNat 32 a.val) (Fin.ofNat 32 b.val) (Fin.ofNat 32 c.val)) = _; simp only [ofNat_val]
theorem Coding.vfnma (x : Pre) (a : VReg) (b : VReg) (c : VReg) : Coding.Statement (.vfnma x a b c) := by
  rintro r ⟨⟩; change some (Instr.vfnma x (Fin.ofNat 32 a.val) (Fin.ofNat 32 b.val) (Fin.ofNat 32 c.val)) = _; simp only [ofNat_val]
theorem Coding.vfmin (x : Pre) (a : VReg) (b : VReg) (c : VReg) : Coding.Statement (.vfmin x a b c) := by
  rintro r ⟨⟩; change some (Instr.vfmin x (Fin.ofNat 32 a.val) (Fin.ofNat 32 b.val) (Fin.ofNat 32 c.val)) = _; simp only [ofNat_val]
theorem Coding.vfmax (x : Pre) (a : VReg) (b : VReg) (c : VReg) : Coding.Statement (.vfmax x a b c) := by
  rintro r ⟨⟩; change some (Instr.vfmax x (Fin.ofNat 32 a.val) (Fin.ofNat 32 b.val) (Fin.ofNat 32 c.val)) = _; simp only [ofNat_val]
theorem Coding.vfabs (x : Pre) (a : VReg) (b : VReg) : Coding.Statement (.vfabs x a b) := by
  rintro r ⟨⟩; change some (Instr.vfabs x (Fin.ofNat 32 a.val) (Fin.ofNat 32 b.val)) = _; simp only [ofNat_val]
theorem Coding.vfneg (x : Pre) (a : VReg) (b : VReg) : Coding.Statement (.vfneg x a b) := by
  rintro r ⟨⟩; change some (Instr.vfneg x (Fin.ofNat 32 a.val) (Fin.ofNat 32 b.val)) = _; simp only [ofNat_val]
theorem Coding.vfcmpeq (x : Pre) (a : KReg) (b : VReg) (c : VReg) : Coding.Statement (.vfcmpeq x a b c) := by
  rintro r ⟨⟩; change some (Instr.vfcmpeq x (Fin.ofNat 8 a.val) (Fin.ofNat 32 b.val) (Fin.ofNat 32 c.val)) = _; simp only [ofNat_val]
theorem Coding.vfcmplt (x : Pre) (a : KReg) (b : VReg) (c : VReg) : Coding.Statement (.vfcmplt x a b c) := by
  rintro r ⟨⟩; change some (Instr.vfcmplt x (Fin.ofNat 8 a.val) (Fin.ofNat 32 b.val) (Fin.ofNat 32 c.val)) = _; simp only [ofNat_val]
theorem Coding.vfcmple (x : Pre) (a : KReg) (b : VReg) (c : VReg) : Coding.Statement (.vfcmple x a b c) := by
  rintro r ⟨⟩; change some (Instr.vfcmple x (Fin.ofNat 8 a.val) (Fin.ofNat 32 b.val) (Fin.ofNat 32 c.val)) = _; simp only [ofNat_val]
theorem Coding.vfdiv (x : Pre) (a : VReg) (b : VReg) (c : VReg) : Coding.Statement (.vfdiv x a b c) := by
  rintro r ⟨⟩; change some (Instr.vfdiv x (Fin.ofNat 32 a.val) (Fin.ofNat 32 b.val) (Fin.ofNat 32 c.val)) = _; simp only [ofNat_val]
theorem Coding.vfsqrt (x : Pre) (a : VReg) (b : VReg) : Coding.Statement (.vfsqrt x a b) := by
  rintro r ⟨⟩; change some (Instr.vfsqrt x (Fin.ofNat 32 a.val) (Fin.ofNat 32 b.val)) = _; simp only [ofNat_val]
theorem Coding.vfrcp (x : Pre) (a : VReg) (b : VReg) : Coding.Statement (.vfrcp x a b) := by
  rintro r ⟨⟩; change some (Instr.vfrcp x (Fin.ofNat 32 a.val) (Fin.ofNat 32 b.val)) = _; simp only [ofNat_val]
theorem Coding.vfrsq (x : Pre) (a : VReg) (b : VReg) : Coding.Statement (.vfrsq x a b) := by
  rintro r ⟨⟩; change some (Instr.vfrsq x (Fin.ofNat 32 a.val) (Fin.ofNat 32 b.val)) = _; simp only [ofNat_val]
theorem Coding.vcvt (x : Pre) (a : VReg) (b : VReg) (c : Fin 8) : Coding.Statement (.vcvt x a b c) := by
  rintro r ⟨⟩; change some (Instr.vcvt x (Fin.ofNat 32 a.val) (Fin.ofNat 32 b.val) (Fin.ofNat 8 c.val)) = _; simp only [ofNat_val]
theorem Coding.vpack (x : Pre) (a : VReg) (b : VReg) (c : VReg) : Coding.Statement (.vpack x a b c) := by
  rintro r ⟨⟩; change some (Instr.vpack x (Fin.ofNat 32 a.val) (Fin.ofNat 32 b.val) (Fin.ofNat 32 c.val)) = _; simp only [ofNat_val]
theorem Coding.vunpk (x : Pre) (a : VReg) (b : VReg) : Coding.Statement (.vunpk x a b) := by
  rintro r ⟨⟩; change some (Instr.vunpk x (Fin.ofNat 32 a.val) (Fin.ofNat 32 b.val)) = _; simp only [ofNat_val]
theorem Coding.vunpkh (x : Pre) (a : VReg) (b : VReg) : Coding.Statement (.vunpkh x a b) := by
  rintro r ⟨⟩; change some (Instr.vunpkh x (Fin.ofNat 32 a.val) (Fin.ofNat 32 b.val)) = _; simp only [ofNat_val]
theorem Coding.vperm (x : Pre) (a : VReg) (b : VReg) (c : VReg) : Coding.Statement (.vperm x a b c) := by
  rintro r ⟨⟩; change some (Instr.vperm x (Fin.ofNat 32 a.val) (Fin.ofNat 32 b.val) (Fin.ofNat 32 c.val)) = _; simp only [ofNat_val]
theorem Coding.vslideup (x : Pre) (a : VReg) (b : VReg) (imm : Word) : Coding.Statement (.vslideup x a b imm) := by
  rintro r ⟨⟩; change some (Instr.vslideup x (Fin.ofNat 32 a.val) (Fin.ofNat 32 b.val) imm) = _; simp only [ofNat_val]
theorem Coding.vslidedn (x : Pre) (a : VReg) (b : VReg) (imm : Word) : Coding.Statement (.vslidedn x a b imm) := by
  rintro r ⟨⟩; change some (Instr.vslidedn x (Fin.ofNat 32 a.val) (Fin.ofNat 32 b.val) imm) = _; simp only [ofNat_val]
theorem Coding.vzip (x : Pre) (a : VReg) (b : VReg) (c : VReg) : Coding.Statement (.vzip x a b c) := by
  rintro r ⟨⟩; change some (Instr.vzip x (Fin.ofNat 32 a.val) (Fin.ofNat 32 b.val) (Fin.ofNat 32 c.val)) = _; simp only [ofNat_val]
theorem Coding.vziph (x : Pre) (a : VReg) (b : VReg) (c : VReg) : Coding.Statement (.vziph x a b c) := by
  rintro r ⟨⟩; change some (Instr.vziph x (Fin.ofNat 32 a.val) (Fin.ofNat 32 b.val) (Fin.ofNat 32 c.val)) = _; simp only [ofNat_val]
theorem Coding.vunzip (x : Pre) (a : VReg) (b : VReg) (c : VReg) : Coding.Statement (.vunzip x a b c) := by
  rintro r ⟨⟩; change some (Instr.vunzip x (Fin.ofNat 32 a.val) (Fin.ofNat 32 b.val) (Fin.ofNat 32 c.val)) = _; simp only [ofNat_val]
theorem Coding.vunzipo (x : Pre) (a : VReg) (b : VReg) (c : VReg) : Coding.Statement (.vunzipo x a b c) := by
  rintro r ⟨⟩; change some (Instr.vunzipo x (Fin.ofNat 32 a.val) (Fin.ofNat 32 b.val) (Fin.ofNat 32 c.val)) = _; simp only [ofNat_val]
theorem Coding.vtrn (x : Pre) (a : VReg) (b : VReg) (c : VReg) : Coding.Statement (.vtrn x a b c) := by
  rintro r ⟨⟩; change some (Instr.vtrn x (Fin.ofNat 32 a.val) (Fin.ofNat 32 b.val) (Fin.ofNat 32 c.val)) = _; simp only [ofNat_val]
theorem Coding.vtrn2 (x : Pre) (a : VReg) (b : VReg) (c : VReg) : Coding.Statement (.vtrn2 x a b c) := by
  rintro r ⟨⟩; change some (Instr.vtrn2 x (Fin.ofNat 32 a.val) (Fin.ofNat 32 b.val) (Fin.ofNat 32 c.val)) = _; simp only [ofNat_val]
theorem Coding.vscan (x : Pre) (a : VReg) (b : VReg) : Coding.Statement (.vscan x a b) := by
  rintro r ⟨⟩; change some (Instr.vscan x (Fin.ofNat 32 a.val) (Fin.ofNat 32 b.val)) = _; simp only [ofNat_val]
theorem Coding.vscanx (x : Pre) (a : VReg) (b : VReg) : Coding.Statement (.vscanx x a b) := by
  rintro r ⟨⟩; change some (Instr.vscanx x (Fin.ofNat 32 a.val) (Fin.ofNat 32 b.val)) = _; simp only [ofNat_val]
theorem Coding.vred (x : Pre) (a : VReg) (b : VReg) : Coding.Statement (.vred x a b) := by
  rintro r ⟨⟩; change some (Instr.vred x (Fin.ofNat 32 a.val) (Fin.ofNat 32 b.val)) = _; simp only [ofNat_val]
theorem Coding.vredw (x : Pre) (a : VReg) (b : VReg) : Coding.Statement (.vredw x a b) := by
  rintro r ⟨⟩; change some (Instr.vredw x (Fin.ofNat 32 a.val) (Fin.ofNat 32 b.val)) = _; simp only [ofNat_val]
theorem Coding.vredmax (x : Pre) (a : VReg) (b : VReg) : Coding.Statement (.vredmax x a b) := by
  rintro r ⟨⟩; change some (Instr.vredmax x (Fin.ofNat 32 a.val) (Fin.ofNat 32 b.val)) = _; simp only [ofNat_val]
theorem Coding.vredmaxn (x : Pre) (a : VReg) (b : VReg) : Coding.Statement (.vredmaxn x a b) := by
  rintro r ⟨⟩; change some (Instr.vredmaxn x (Fin.ofNat 32 a.val) (Fin.ofNat 32 b.val)) = _; simp only [ofNat_val]
theorem Coding.vfred (x : Pre) (a : VReg) (b : VReg) : Coding.Statement (.vfred x a b) := by
  rintro r ⟨⟩; change some (Instr.vfred x (Fin.ofNat 32 a.val) (Fin.ofNat 32 b.val)) = _; simp only [ofNat_val]
theorem Coding.vfredmax (x : Pre) (a : VReg) (b : VReg) : Coding.Statement (.vfredmax x a b) := by
  rintro r ⟨⟩; change some (Instr.vfredmax x (Fin.ofNat 32 a.val) (Fin.ofNat 32 b.val)) = _; simp only [ofNat_val]
theorem Coding.kand (x : Pre) (a : KReg) (b : KReg) (c : KReg) : Coding.Statement (.kand x a b c) := by
  rintro r ⟨⟩; change some (Instr.kand x (Fin.ofNat 8 a.val) (Fin.ofNat 8 b.val) (Fin.ofNat 8 c.val)) = _; simp only [ofNat_val]
theorem Coding.kor (x : Pre) (a : KReg) (b : KReg) (c : KReg) : Coding.Statement (.kor x a b c) := by
  rintro r ⟨⟩; change some (Instr.kor x (Fin.ofNat 8 a.val) (Fin.ofNat 8 b.val) (Fin.ofNat 8 c.val)) = _; simp only [ofNat_val]
theorem Coding.knot (x : Pre) (a : KReg) (b : KReg) : Coding.Statement (.knot x a b) := by
  rintro r ⟨⟩; change some (Instr.knot x (Fin.ofNat 8 a.val) (Fin.ofNat 8 b.val)) = _; simp only [ofNat_val]
theorem Coding.kpopc (x : Pre) (a : SReg) (b : KReg) : Coding.Statement (.kpopc x a b) := by
  rintro r ⟨⟩; change some (Instr.kpopc x (Fin.ofNat 32 a.val) (Fin.ofNat 8 b.val)) = _; simp only [ofNat_val]
theorem Coding.kfirst (x : Pre) (a : SReg) (b : KReg) : Coding.Statement (.kfirst x a b) := by
  rintro r ⟨⟩; change some (Instr.kfirst x (Fin.ofNat 32 a.val) (Fin.ofNat 8 b.val)) = _; simp only [ofNat_val]
theorem Coding.kmov (x : Pre) (a : KReg) (b : SReg) : Coding.Statement (.kmov x a b) := by
  rintro r ⟨⟩; change some (Instr.kmov x (Fin.ofNat 8 a.val) (Fin.ofNat 32 b.val)) = _; simp only [ofNat_val]
theorem Coding.kmovs (x : Pre) (a : SReg) (b : KReg) : Coding.Statement (.kmovs x a b) := by
  rintro r ⟨⟩; change some (Instr.kmovs x (Fin.ofNat 32 a.val) (Fin.ofNat 8 b.val)) = _; simp only [ofNat_val]
theorem Coding.yseed (x : Pre) (a : Fin 8) (b : SReg) : Coding.Statement (.yseed x a b) := by
  rintro r ⟨⟩; change some (Instr.yseed x (Fin.ofNat 8 a.val) (Fin.ofNat 32 b.val)) = _; simp only [ofNat_val]
theorem Coding.ydraw (x : Pre) (a : YReg) (b : Fin 8) : Coding.Statement (.ydraw x a b) := by
  rintro r ⟨⟩; change some (Instr.ydraw x (Fin.ofNat 8 a.val) (Fin.ofNat 8 b.val)) = _; simp only [ofNat_val]
theorem Coding.ycmp (x : Pre) (a : KReg) (b : YReg) (c : VReg) : Coding.Statement (.ycmp x a b c) := by
  rintro r ⟨⟩; change some (Instr.ycmp x (Fin.ofNat 8 a.val) (Fin.ofNat 8 b.val) (Fin.ofNat 32 c.val)) = _; simp only [ofNat_val]
theorem Coding.ycmpy (x : Pre) (a : KReg) (b : YReg) (c : YReg) : Coding.Statement (.ycmpy x a b c) := by
  rintro r ⟨⟩; change some (Instr.ycmpy x (Fin.ofNat 8 a.val) (Fin.ofNat 8 b.val) (Fin.ofNat 8 c.val)) = _; simp only [ofNat_val]
theorem Coding.yrnd (x : Pre) (a : VReg) (b : VReg) (c : YReg) : Coding.Statement (.yrnd x a b c) := by
  rintro r ⟨⟩; change some (Instr.yrnd x (Fin.ofNat 32 a.val) (Fin.ofNat 32 b.val) (Fin.ofNat 8 c.val)) = _; simp only [ofNat_val]
theorem Coding.ycvt (x : Pre) (a : VReg) (b : YReg) : Coding.Statement (.ycvt x a b) := by
  rintro r ⟨⟩; change some (Instr.ycvt x (Fin.ofNat 32 a.val) (Fin.ofNat 8 b.val)) = _; simp only [ofNat_val]
theorem Coding.ymov (x : Pre) (a : YReg) (b : YReg) : Coding.Statement (.ymov x a b) := by
  rintro r ⟨⟩; change some (Instr.ymov x (Fin.ofNat 8 a.val) (Fin.ofNat 8 b.val)) = _; simp only [ofNat_val]
theorem Coding.ystat (x : Pre) (a : VReg) (b : YReg) (c : Fin 8) : Coding.Statement (.ystat x a b c) := by
  rintro r ⟨⟩; change some (Instr.ystat x (Fin.ofNat 32 a.val) (Fin.ofNat 8 b.val) (Fin.ofNat 8 c.val)) = _; simp only [ofNat_val]
theorem Coding.yst (x : Pre) (a : YReg) (b : SReg) (imm : Word) : Coding.Statement (.yst x a b imm) := by
  rintro r ⟨⟩; change some (Instr.yst x (Fin.ofNat 8 a.val) (Fin.ofNat 32 b.val) imm) = _; simp only [ofNat_val]
theorem Coding.yld (x : Pre) (a : YReg) (b : SReg) (imm : Word) : Coding.Statement (.yld x a b imm) := by
  rintro r ⟨⟩; change some (Instr.yld x (Fin.ofNat 8 a.val) (Fin.ofNat 32 b.val) imm) = _; simp only [ofNat_val]
theorem Coding.vexp2 (x : Pre) (a : VReg) (b : VReg) : Coding.Statement (.vexp2 x a b) := by
  rintro r ⟨⟩; change some (Instr.vexp2 x (Fin.ofNat 32 a.val) (Fin.ofNat 32 b.val)) = _; simp only [ofNat_val]
theorem Coding.vlog2 (x : Pre) (a : VReg) (b : VReg) : Coding.Statement (.vlog2 x a b) := by
  rintro r ⟨⟩; change some (Instr.vlog2 x (Fin.ofNat 32 a.val) (Fin.ofNat 32 b.val)) = _; simp only [ofNat_val]
theorem Coding.vtanh (x : Pre) (a : VReg) (b : VReg) : Coding.Statement (.vtanh x a b) := by
  rintro r ⟨⟩; change some (Instr.vtanh x (Fin.ofNat 32 a.val) (Fin.ofNat 32 b.val)) = _; simp only [ofNat_val]
theorem Coding.vsinpi (x : Pre) (a : VReg) (b : VReg) : Coding.Statement (.vsinpi x a b) := by
  rintro r ⟨⟩; change some (Instr.vsinpi x (Fin.ofNat 32 a.val) (Fin.ofNat 32 b.val)) = _; simp only [ofNat_val]
theorem Coding.vcospi (x : Pre) (a : VReg) (b : VReg) : Coding.Statement (.vcospi x a b) := by
  rintro r ⟨⟩; change some (Instr.vcospi x (Fin.ofNat 32 a.val) (Fin.ofNat 32 b.val)) = _; simp only [ofNat_val]
theorem Coding.oclm (x : Pre) (a : SReg) (b : OReg) (imm : Word) : Coding.Statement (.oclm x a b imm) := by
  rintro r ⟨⟩; change some (Instr.oclm x (Fin.ofNat 32 a.val) (Fin.ofNat 32 b.val) imm) = _; simp only [ofNat_val]
theorem Coding.orel (x : Pre) (b : OReg) (imm : Word) : Coding.Statement (.orel x b imm) := by
  rintro r ⟨⟩; change some (Instr.orel x (Fin.ofNat 32 b.val) imm) = _; simp only [ofNat_val]
theorem Coding.old (x : Pre) (a : OReg) (b : SReg) (c : SReg) : Coding.Statement (.old x a b c) := by
  rintro r ⟨⟩; change some (Instr.old x (Fin.ofNat 32 a.val) (Fin.ofNat 32 b.val) (Fin.ofNat 32 c.val)) = _; simp only [ofNat_val]
theorem Coding.oldb (x : Pre) (a : OReg) (b : SReg) (c : SReg) : Coding.Statement (.oldb x a b c) := by
  rintro r ⟨⟩; change some (Instr.oldb x (Fin.ofNat 32 a.val) (Fin.ofNat 32 b.val) (Fin.ofNat 32 c.val)) = _; simp only [ofNat_val]
theorem Coding.oldt (x : Pre) (a : OReg) (b : SReg) (c : SReg) : Coding.Statement (.oldt x a b c) := by
  rintro r ⟨⟩; change some (Instr.oldt x (Fin.ofNat 32 a.val) (Fin.ofNat 32 b.val) (Fin.ofNat 32 c.val)) = _; simp only [ofNat_val]
theorem Coding.oldtb (x : Pre) (a : OReg) (b : SReg) (c : SReg) : Coding.Statement (.oldtb x a b c) := by
  rintro r ⟨⟩; change some (Instr.oldtb x (Fin.ofNat 32 a.val) (Fin.ofNat 32 b.val) (Fin.ofNat 32 c.val)) = _; simp only [ofNat_val]
theorem Coding.oswap (x : Pre) (a : OReg) (b : SReg) : Coding.Statement (.oswap x a b) := by
  rintro r ⟨⟩; change some (Instr.oswap x (Fin.ofNat 32 a.val) (Fin.ofNat 32 b.val)) = _; simp only [ofNat_val]
theorem Coding.ost (x : Pre) (a : OReg) (b : SReg) (c : SReg) : Coding.Statement (.ost x a b c) := by
  rintro r ⟨⟩; change some (Instr.ost x (Fin.ofNat 32 a.val) (Fin.ofNat 32 b.val) (Fin.ofNat 32 c.val)) = _; simp only [ofNat_val]
theorem Coding.zclr (x : Pre) (a : ZReg) : Coding.Statement (.zclr x a) := by
  rintro r ⟨⟩; change some (Instr.zclr x (Fin.ofNat 4 a.val)) = _; simp only [ofNat_val]
theorem Coding.zst (x : Pre) (a : ZReg) (b : SReg) (c : SReg) : Coding.Statement (.zst x a b c) := by
  rintro r ⟨⟩; change some (Instr.zst x (Fin.ofNat 4 a.val) (Fin.ofNat 32 b.val) (Fin.ofNat 32 c.val)) = _; simp only [ofNat_val]
theorem Coding.zld (x : Pre) (a : ZReg) (b : SReg) (c : SReg) : Coding.Statement (.zld x a b c) := by
  rintro r ⟨⟩; change some (Instr.zld x (Fin.ofNat 4 a.val) (Fin.ofNat 32 b.val) (Fin.ofNat 32 c.val)) = _; simp only [ofNat_val]
theorem Coding.zmovv (x : Pre) (a : VReg) (b : ZReg) (c : SReg) : Coding.Statement (.zmovv x a b c) := by
  rintro r ⟨⟩; change some (Instr.zmovv x (Fin.ofNat 32 a.val) (Fin.ofNat 4 b.val) (Fin.ofNat 32 c.val)) = _; simp only [ofNat_val]
theorem Coding.mwait (x : Pre) : Coding.Statement (.mwait x) := by rintro r ⟨⟩; rfl
theorem Coding.mstat (x : Pre) (a : SReg) (imm : Word) : Coding.Statement (.mstat x a imm) := by
  rintro r ⟨⟩; change some (Instr.mstat x (Fin.ofNat 32 a.val) imm) = _; simp only [ofNat_val]
theorem Coding.mmaBf (x : Pre) (a : ZReg) (b : OReg) (c : OReg) : Coding.Statement (.mmaBf x a b c) := by
  rintro r ⟨⟩; change some (Instr.mmaBf x (Fin.ofNat 4 a.val) (Fin.ofNat 32 b.val) (Fin.ofNat 32 c.val)) = _; simp only [ofNat_val]
theorem Coding.mmaBfOw (x : Pre) (a : ZReg) (b : OReg) (c : OReg) : Coding.Statement (.mmaBfOw x a b c) := by
  rintro r ⟨⟩; change some (Instr.mmaBfOw x (Fin.ofNat 4 a.val) (Fin.ofNat 32 b.val) (Fin.ofNat 32 c.val)) = _; simp only [ofNat_val]
theorem Coding.mmaHf (x : Pre) (a : ZReg) (b : OReg) (c : OReg) : Coding.Statement (.mmaHf x a b c) := by
  rintro r ⟨⟩; change some (Instr.mmaHf x (Fin.ofNat 4 a.val) (Fin.ofNat 32 b.val) (Fin.ofNat 32 c.val)) = _; simp only [ofNat_val]
theorem Coding.mmaHfOw (x : Pre) (a : ZReg) (b : OReg) (c : OReg) : Coding.Statement (.mmaHfOw x a b c) := by
  rintro r ⟨⟩; change some (Instr.mmaHfOw x (Fin.ofNat 4 a.val) (Fin.ofNat 32 b.val) (Fin.ofNat 32 c.val)) = _; simp only [ofNat_val]
theorem Coding.mmaF32 (x : Pre) (a : ZReg) (b : OReg) (c : OReg) : Coding.Statement (.mmaF32 x a b c) := by
  rintro r ⟨⟩; change some (Instr.mmaF32 x (Fin.ofNat 4 a.val) (Fin.ofNat 32 b.val) (Fin.ofNat 32 c.val)) = _; simp only [ofNat_val]
theorem Coding.mmaF32Ow (x : Pre) (a : ZReg) (b : OReg) (c : OReg) : Coding.Statement (.mmaF32Ow x a b c) := by
  rintro r ⟨⟩; change some (Instr.mmaF32Ow x (Fin.ofNat 4 a.val) (Fin.ofNat 32 b.val) (Fin.ofNat 32 c.val)) = _; simp only [ofNat_val]
theorem Coding.mmaE4 (x : Pre) (a : ZReg) (b : OReg) (c : OReg) : Coding.Statement (.mmaE4 x a b c) := by
  rintro r ⟨⟩; change some (Instr.mmaE4 x (Fin.ofNat 4 a.val) (Fin.ofNat 32 b.val) (Fin.ofNat 32 c.val)) = _; simp only [ofNat_val]
theorem Coding.mmaE4Ow (x : Pre) (a : ZReg) (b : OReg) (c : OReg) : Coding.Statement (.mmaE4Ow x a b c) := by
  rintro r ⟨⟩; change some (Instr.mmaE4Ow x (Fin.ofNat 4 a.val) (Fin.ofNat 32 b.val) (Fin.ofNat 32 c.val)) = _; simp only [ofNat_val]
theorem Coding.mmaE5 (x : Pre) (a : ZReg) (b : OReg) (c : OReg) : Coding.Statement (.mmaE5 x a b c) := by
  rintro r ⟨⟩; change some (Instr.mmaE5 x (Fin.ofNat 4 a.val) (Fin.ofNat 32 b.val) (Fin.ofNat 32 c.val)) = _; simp only [ofNat_val]
theorem Coding.mmaE5Ow (x : Pre) (a : ZReg) (b : OReg) (c : OReg) : Coding.Statement (.mmaE5Ow x a b c) := by
  rintro r ⟨⟩; change some (Instr.mmaE5Ow x (Fin.ofNat 4 a.val) (Fin.ofNat 32 b.val) (Fin.ofNat 32 c.val)) = _; simp only [ofNat_val]
theorem Coding.mmaE45 (x : Pre) (a : ZReg) (b : OReg) (c : OReg) : Coding.Statement (.mmaE45 x a b c) := by
  rintro r ⟨⟩; change some (Instr.mmaE45 x (Fin.ofNat 4 a.val) (Fin.ofNat 32 b.val) (Fin.ofNat 32 c.val)) = _; simp only [ofNat_val]
theorem Coding.mmaE45Ow (x : Pre) (a : ZReg) (b : OReg) (c : OReg) : Coding.Statement (.mmaE45Ow x a b c) := by
  rintro r ⟨⟩; change some (Instr.mmaE45Ow x (Fin.ofNat 4 a.val) (Fin.ofNat 32 b.val) (Fin.ofNat 32 c.val)) = _; simp only [ofNat_val]
theorem Coding.mmaI8 (x : Pre) (a : ZReg) (b : OReg) (c : OReg) (d : Fin 16) : Coding.Statement (.mmaI8 x a b c d) := by
  rintro r ⟨⟩; change some (Instr.mmaI8 x (Fin.ofNat 4 a.val) (Fin.ofNat 32 b.val) (Fin.ofNat 32 c.val) (Fin.ofNat 16 d.val)) = _; simp only [ofNat_val]
theorem Coding.mmaI8Ow (x : Pre) (a : ZReg) (b : OReg) (c : OReg) (d : Fin 16) : Coding.Statement (.mmaI8Ow x a b c d) := by
  rintro r ⟨⟩; change some (Instr.mmaI8Ow x (Fin.ofNat 4 a.val) (Fin.ofNat 32 b.val) (Fin.ofNat 32 c.val) (Fin.ofNat 16 d.val)) = _; simp only [ofNat_val]
theorem Coding.mmaI4 (x : Pre) (a : ZReg) (b : OReg) (c : OReg) (d : Fin 16) : Coding.Statement (.mmaI4 x a b c d) := by
  rintro r ⟨⟩; change some (Instr.mmaI4 x (Fin.ofNat 4 a.val) (Fin.ofNat 32 b.val) (Fin.ofNat 32 c.val) (Fin.ofNat 16 d.val)) = _; simp only [ofNat_val]
theorem Coding.mmaI4Ow (x : Pre) (a : ZReg) (b : OReg) (c : OReg) (d : Fin 16) : Coding.Statement (.mmaI4Ow x a b c d) := by
  rintro r ⟨⟩; change some (Instr.mmaI4Ow x (Fin.ofNat 4 a.val) (Fin.ofNat 32 b.val) (Fin.ofNat 32 c.val) (Fin.ofNat 16 d.val)) = _; simp only [ofNat_val]
theorem Coding.mmaQ8 (x : Pre) (a : ZReg) (b : OReg) (c : OReg) (d : Fin 16) : Coding.Statement (.mmaQ8 x a b c d) := by
  rintro r ⟨⟩; change some (Instr.mmaQ8 x (Fin.ofNat 4 a.val) (Fin.ofNat 32 b.val) (Fin.ofNat 32 c.val) (Fin.ofNat 16 d.val)) = _; simp only [ofNat_val]
theorem Coding.mmaQ8Ow (x : Pre) (a : ZReg) (b : OReg) (c : OReg) (d : Fin 16) : Coding.Statement (.mmaQ8Ow x a b c d) := by
  rintro r ⟨⟩; change some (Instr.mmaQ8Ow x (Fin.ofNat 4 a.val) (Fin.ofNat 32 b.val) (Fin.ofNat 32 c.val) (Fin.ofNat 16 d.val)) = _; simp only [ofNat_val]
theorem Coding.mmaQ4q8 (x : Pre) (a : ZReg) (b : OReg) (c : OReg) (d : Fin 16) : Coding.Statement (.mmaQ4q8 x a b c d) := by
  rintro r ⟨⟩; change some (Instr.mmaQ4q8 x (Fin.ofNat 4 a.val) (Fin.ofNat 32 b.val) (Fin.ofNat 32 c.val) (Fin.ofNat 16 d.val)) = _; simp only [ofNat_val]
theorem Coding.mmaQ4q8Ow (x : Pre) (a : ZReg) (b : OReg) (c : OReg) (d : Fin 16) : Coding.Statement (.mmaQ4q8Ow x a b c d) := by
  rintro r ⟨⟩; change some (Instr.mmaQ4q8Ow x (Fin.ofNat 4 a.val) (Fin.ofNat 32 b.val) (Fin.ofNat 32 c.val) (Fin.ofNat 16 d.val)) = _; simp only [ofNat_val]
theorem Coding.mmaQ4 (x : Pre) (a : ZReg) (b : OReg) (c : OReg) (d : Fin 16) : Coding.Statement (.mmaQ4 x a b c d) := by
  rintro r ⟨⟩; change some (Instr.mmaQ4 x (Fin.ofNat 4 a.val) (Fin.ofNat 32 b.val) (Fin.ofNat 32 c.val) (Fin.ofNat 16 d.val)) = _; simp only [ofNat_val]
theorem Coding.mmaQ4Ow (x : Pre) (a : ZReg) (b : OReg) (c : OReg) (d : Fin 16) : Coding.Statement (.mmaQ4Ow x a b c d) := by
  rintro r ⟨⟩; change some (Instr.mmaQ4Ow x (Fin.ofNat 4 a.val) (Fin.ofNat 32 b.val) (Fin.ofNat 32 c.val) (Fin.ofNat 16 d.val)) = _; simp only [ofNat_val]
theorem Coding.pdecl (x : Pre) (a : Fin 8) (b : SReg) (c : Fin 8) : Coding.Statement (.pdecl x a b c) := by
  rintro r ⟨⟩; change some (Instr.pdecl x (Fin.ofNat 8 a.val) (Fin.ofNat 32 b.val) (Fin.ofNat 8 c.val)) = _; simp only [ofNat_val]
theorem Coding.pfree (x : Pre) (a : Fin 8) : Coding.Statement (.pfree x a) := by
  rintro r ⟨⟩; change some (Instr.pfree x (Fin.ofNat 8 a.val)) = _; simp only [ofNat_val]
theorem Coding.pinfo (x : Pre) (a : SReg) (b : Fin 8) (c : SReg) : Coding.Statement (.pinfo x a b c) := by
  rintro r ⟨⟩; change some (Instr.pinfo x (Fin.ofNat 32 a.val) (Fin.ofNat 8 b.val) (Fin.ofNat 32 c.val)) = _; simp only [ofNat_val]
theorem Coding.lapx (x : Pre) (a : Fin 8) : Coding.Statement (.lapx x a) := by
  rintro r ⟨⟩; change some (Instr.lapx x (Fin.ofNat 8 a.val)) = _; simp only [ofNat_val]
theorem Coding.lapw (x : Pre) (a : Fin 8) (b : SReg) : Coding.Statement (.lapw x a b) := by
  rintro r ⟨⟩; change some (Instr.lapw x (Fin.ofNat 8 a.val) (Fin.ofNat 32 b.val)) = _; simp only [ofNat_val]
theorem Coding.ridge (x : Pre) (a : SReg) (imm : Word) (d : Fin 16) : Coding.Statement (.ridge x a imm d) := by
  rintro r ⟨⟩; change some (Instr.ridge x (Fin.ofNat 32 a.val) imm (Fin.ofNat 16 d.val)) = _; simp only [ofNat_val]
theorem Coding.ridgea (x : Pre) (imm : Word) (d : Fin 16) : Coding.Statement (.ridgea x imm d) := by
  rintro r ⟨⟩; change some (Instr.ridgea x imm (Fin.ofNat 16 d.val)) = _; simp only [ofNat_val]
theorem Coding.ridgew (x : Pre) (a : SReg) (imm : Word) : Coding.Statement (.ridgew x a imm) := by
  rintro r ⟨⟩; change some (Instr.ridgew x (Fin.ofNat 32 a.val) imm) = _; simp only [ofNat_val]
theorem Coding.xtt (x : Pre) (b : SReg) : Coding.Statement (.xtt x b) := by
  rintro r ⟨⟩; change some (Instr.xtt x (Fin.ofNat 32 b.val)) = _; simp only [ofNat_val]
theorem Coding.sldecl (x : Pre) (b : SReg) (c : SReg) : Coding.Statement (.sldecl x b c) := by
  rintro r ⟨⟩; change some (Instr.sldecl x (Fin.ofNat 32 b.val) (Fin.ofNat 32 c.val)) = _; simp only [ofNat_val]
theorem Coding.radd (x : Pre) (b : SReg) (c : SReg) : Coding.Statement (.radd x b c) := by
  rintro r ⟨⟩; change some (Instr.radd x (Fin.ofNat 32 b.val) (Fin.ofNat 32 c.val)) = _; simp only [ofNat_val]
theorem Coding.raddv (x : Pre) (b : SReg) (c : VReg) : Coding.Statement (.raddv x b c) := by
  rintro r ⟨⟩; change some (Instr.raddv x (Fin.ofNat 32 b.val) (Fin.ofNat 32 c.val)) = _; simp only [ofNat_val]
theorem Coding.amrg (x : Pre) (a : SReg) (b : SReg) (c : VReg) (d : Fin 16) : Coding.Statement (.amrg x a b c d) := by
  rintro r ⟨⟩; change some (Instr.amrg x (Fin.ofNat 32 a.val) (Fin.ofNat 32 b.val) (Fin.ofNat 32 c.val) (Fin.ofNat 16 d.val)) = _; simp only [ofNat_val]
theorem Coding.rfold (x : Pre) (b : SReg) : Coding.Statement (.rfold x b) := by
  rintro r ⟨⟩; change some (Instr.rfold x (Fin.ofNat 32 b.val)) = _; simp only [ofNat_val]
theorem Coding.rst (x : Pre) (b : SReg) : Coding.Statement (.rst x b) := by
  rintro r ⟨⟩; change some (Instr.rst x (Fin.ofNat 32 b.val)) = _; simp only [ofNat_val]
theorem Coding.rfaa (x : Pre) (b : SReg) : Coding.Statement (.rfaa x b) := by
  rintro r ⟨⟩; change some (Instr.rfaa x (Fin.ofNat 32 b.val)) = _; simp only [ofNat_val]
theorem Coding.rfence (x : Pre) (b : SReg) : Coding.Statement (.rfence x b) := by
  rintro r ⟨⟩; change some (Instr.rfence x (Fin.ofNat 32 b.val)) = _; simp only [ofNat_val]
theorem Coding.trig (x : Pre) (a : SReg) (b : SReg) (c : HReg) (d : Fin 16) : Coding.Statement (.trig x a b c d) := by
  rintro r ⟨⟩; change some (Instr.trig x (Fin.ofNat 32 a.val) (Fin.ofNat 32 b.val) (Fin.ofNat 16 c.val) (Fin.ofNat 16 d.val)) = _; simp only [ofNat_val]
theorem Coding.hcnt (x : Pre) (a : SReg) (b : SReg) (c : HReg) : Coding.Statement (.hcnt x a b c) := by
  rintro r ⟨⟩; change some (Instr.hcnt x (Fin.ofNat 32 a.val) (Fin.ofNat 32 b.val) (Fin.ofNat 16 c.val)) = _; simp only [ofNat_val]
theorem Coding.hcnts (x : Pre) (a : SReg) (b : SReg) (c : HReg) : Coding.Statement (.hcnts x a b c) := by
  rintro r ⟨⟩; change some (Instr.hcnts x (Fin.ofNat 32 a.val) (Fin.ofNat 32 b.val) (Fin.ofNat 16 c.val)) = _; simp only [ofNat_val]
theorem Coding.hwait (x : Pre) (a : SReg) (b : SReg) (c : HReg) : Coding.Statement (.hwait x a b c) := by
  rintro r ⟨⟩; change some (Instr.hwait x (Fin.ofNat 32 a.val) (Fin.ofNat 32 b.val) (Fin.ofNat 16 c.val)) = _; simp only [ofNat_val]
theorem Coding.cpost (x : Pre) (a : SReg) (b : SReg) (c : SReg) : Coding.Statement (.cpost x a b c) := by
  rintro r ⟨⟩; change some (Instr.cpost x (Fin.ofNat 32 a.val) (Fin.ofNat 32 b.val) (Fin.ofNat 32 c.val)) = _; simp only [ofNat_val]
theorem Coding.crevoke (x : Pre) (a : SReg) : Coding.Statement (.crevoke x a) := by
  rintro r ⟨⟩; change some (Instr.crevoke x (Fin.ofNat 32 a.val)) = _; simp only [ofNat_val]

end Sys2Proof.Laws
end

