-- ==== Sys2Proof/Tests/Slice0.lean ====
section
/-!
SUPPORT. Tests: words written out from the encoding rules, terms that the checks refuse, instructions on small states, and
for every claim with hypotheses a case that meets them.
-/
namespace Sys2Proof.Tests
open Sys2Proof Sys2Proof.Machine
set_option Elab.async false

/-! ## Words (R249 to R268)

Every word below is put together by hand from R253, R258, R263, R268 and the field tables of the chapters: page prefix
0xE800 + page × 64, XR 0xE000, XT 0xF400 + stype × 64 + dtype × 4, XS 0xF800 + scope × 128, base op × 0x400 + fields. -/

/-- Words decode to an instruction with none left, and the instruction encodes to them. -/
noncomputable def readsAs (l : List (List Half × Instr)) : Bool :=
  l.all fun p => decide ((decode p.1).toOption = some (p.2, [])) && encode p.2 == p.1

theorem test_decode_page0a : (readsAs
   [([0x0004], .ill {} 4),
    ([0x0400], .nop {}),
    ([0x08A6], .add {} 1 2 3),
    ([0x08A7], .addv {} 1 2 3),
    ([0x0CA6], .sub {} 1 2 3),
    ([0x0CA7], .subv {} 1 2 3),
    ([0x10A6], .and {} 1 2 3),
    ([0x14A6], .or {} 1 2 3),
    ([0x18A6], .xor {} 1 2 3),
    ([0x1CA6], .shl {} 1 2 3)] && readsAs
   [([0x20A6], .shr {} 1 2 3),
    ([0x20A7], .sar {} 1 2 3),
    ([0x24A6], .mul {} 1 2 3),
    ([0x28A6], .mulh {} 1 2 3),
    ([0x28A7], .mulhn {} 1 2 3),
    ([0x2CA6], .div {} 1 2 3),
    ([0x2CA7], .divn {} 1 2 3),
    ([0x30A6], .rem {} 1 2 3),
    ([0x30A7], .remn {} 1 2 3),
    ([0x34A4], .addi {} 1 2 4)] && readsAs
   [([0x38A4], .andi {} 1 2 4),
    ([0x3CA4], .ori {} 1 2 4),
    ([0x40A4], .xori {} 1 2 4),
    ([0x44A4], .shli {} 1 2 4),
    ([0x48A4], .shri {} 1 2 4),
    ([0x4CA4], .sari {} 1 2 4),
    ([0x5084], .li {} 1 4),
    ([0x54A6], .cmpeq {} 1 2 3),
    ([0x54A7], .cmpne {} 1 2 3),
    ([0x58A6], .cmplt {} 1 2 3)]) = true := by decide +kernel

theorem test_decode_page0b : (readsAs
   [([0x58A7], .cmpltn {} 1 2 3),
    ([0x5CA6], .cmple {} 1 2 3),
    ([0x5CA7], .cmplen {} 1 2 3),
    ([0xE005, 0x60A6], .sel {} 1 2 3 5),
    ([0x64A4], .ldb {} 1 2 4),
    ([0x68A4], .ldbn {} 1 2 4),
    ([0x6CA4], .ldh {} 1 2 4),
    ([0x70A4], .ldhn {} 1 2 4),
    ([0x74A4], .ldw {} 1 2 4),
    ([0x78A4], .ldwn {} 1 2 4)] && readsAs
   [([0x7CA4], .ldd {} 1 2 4),
    ([0x80A4], .stb {} 1 2 4),
    ([0x84A4], .sth {} 1 2 4),
    ([0x88A4], .stw {} 1 2 4),
    ([0x8CA4], .std {} 1 2 4),
    ([0x90A4], .beq {} 1 2 4),
    ([0x94A4], .bne {} 1 2 4),
    ([0x98A4], .blt {} 1 2 4),
    ([0x9CA4], .bge {} 1 2 4),
    ([0xA0A4], .bltn {} 1 2 4)] && readsAs
   [([0xA4A4], .bgen {} 1 2 4),
    ([0xA884], .beqz {} 1 4),
    ([0xAC84], .bnez {} 1 4),
    ([0xB004], .b {} 4),
    ([0xB406], .jmp {} 6),
    ([0xB804], .call {} 4),
    ([0xBC84], .jr {} 1 4),
    ([0xC084], .callr {} 1 4),
    ([0xC484], .jmpf {} 1 4),
    ([0xC884], .callf {} 1 4)]) = true := by decide +kernel

theorem test_decode_page0c : (readsAs
   [([0xCC84], .loop {} 1 4),
    ([0xD084], .csrd {} 1 4),
    ([0xD484], .cswr {} 1 4),
    ([0xD804], .trap {} 4),
    ([0xDC00], .eret {})]) = true := by decide +kernel

theorem test_decode_page1 : (readsAs
   [([0xE840, 0x00A0], .clz {} 1 2),
    ([0xE840, 0x04A0], .ctz {} 1 2),
    ([0xE840, 0x08A0], .popc {} 1 2),
    ([0xE840, 0x0CA6], .min {} 1 2 3),
    ([0xE840, 0x0CA7], .minn {} 1 2 3),
    ([0xE840, 0x10A6], .max {} 1 2 3),
    ([0xE840, 0x10A7], .maxn {} 1 2 3),
    ([0xE840, 0x14A4], .sext {} 1 2 4),
    ([0xE840, 0x18A4], .zext {} 1 2 4),
    ([0xE840, 0x1C84], .pcaddr {} 1 4)] && readsAs
   [([0xE840, 0x20A6], .fadd {} 1 2 3),
    ([0xE840, 0x24A6], .fsub {} 1 2 3),
    ([0xE840, 0x28A6], .fmul {} 1 2 3),
    ([0xE840, 0x2CA6], .fma {} 1 2 3),
    ([0xE840, 0x30A6], .fdiv {} 1 2 3),
    ([0xE840, 0x34A0], .fsqrt {} 1 2),
    ([0xE840, 0x38A6], .fmin {} 1 2 3),
    ([0xE840, 0x3CA6], .fmax {} 1 2 3),
    ([0xE840, 0x40A6], .fcmpeq {} 1 2 3),
    ([0xE840, 0x44A6], .fcmplt {} 1 2 3)] && readsAs
   [([0xE840, 0x48A6], .fcmple {} 1 2 3),
    ([0xE840, 0x4CA0], .fcvti {} 1 2),
    ([0xE840, 0x4CA1], .fcvtin {} 1 2),
    ([0xE840, 0x50A0], .fcvtf {} 1 2),
    ([0xE840, 0x50A1], .fcvtfn {} 1 2),
    ([0xE840, 0xF6E4, 0x54A0], .fcvt { stype := .f32, dtype := .bf16 } 1 2),
    ([0xE840, 0x594C], .bsadd {} 2 4 6),
    ([0xE840, 0x5D40], .bscvt {} 2 4)]) = true := by decide +kernel

theorem test_decode_page2a : (readsAs
   [([0xE880, 0x00A4], .vld {} 1 2 4),
    ([0xE880, 0x04A4], .vst {} 1 2 4),
    ([0xE880, 0x08A6], .vlds {} 1 2 3),
    ([0xE880, 0x0CA6], .vsts {} 1 2 3),
    ([0xE880, 0x10A6], .vldg {} 1 2 3),
    ([0xE880, 0x14A6], .vstg {} 1 2 3),
    ([0xE880, 0x1826], .vldt {} 0 2 3),
    ([0xE880, 0x1CA6], .st64s {} 1 2 3),
    ([0xE880, 0x20A6], .amoadd {} 1 2 3),
    ([0xE880, 0x24A6], .amoswp {} 1 2 3)] && readsAs
   [([0xE880, 0xE005, 0x28A6], .amocas {} 1 2 3 5),
    ([0xE880, 0x2CA6], .amomin {} 1 2 3),
    ([0xE880, 0x2CA7], .amominn {} 1 2 3),
    ([0xE880, 0x30A6], .amomax {} 1 2 3),
    ([0xE880, 0x30A7], .amomaxn {} 1 2 3),
    ([0xE880, 0x34A6], .amoand {} 1 2 3),
    ([0xE880, 0x38A6], .amoor {} 1 2 3),
    ([0xE880, 0x3C00], .fence {}),
    ([0xE880, 0x40A0], .qbind {} 1 2),
    ([0xE880, 0x44A4], .qadvh {} 1 2 4)] && readsAs
   [([0xE880, 0x48A4], .qadvt {} 1 2 4),
    ([0xE880, 0x4CA0], .qcnt {} 1 2),
    ([0xE880, 0x4CA1], .qfree {} 1 2),
    ([0xE880, 0x50A4], .qwaitf {} 1 2 4),
    ([0xE880, 0x54A4], .qwaite {} 1 2 4),
    ([0xE880, 0x58A0], .sbind {} 1 2),
    ([0xE880, 0x58A1], .sbinds {} 1 2),
    ([0xE880, 0x5C81], .sunbind {} 1 1),
    ([0xE880, 0x60A2], .spos {} 1 2 1),
    ([0xE880, 0xFB80, 0x6622], .vrowld { scope := .row } 4 2 1)]) = true := by decide +kernel

theorem test_decode_page2b : (readsAs
   [([0xE880, 0xFB80, 0x6A22], .vrowst { scope := .row } 4 2 1),
    ([0xE880, 0xFB80, 0x6E22], .vrowadd { scope := .row } 4 2 1),
    ([0xE880, 0xFB80, 0x7222], .vrowcas { scope := .row } 4 2 1),
    ([0xE880, 0x7426], .capdef {} 2 3),
    ([0xE880, 0x7826], .capx {} 2 3),
    ([0xE880, 0x7CA0], .capq {} 1 2)]) = true := by decide +kernel

theorem test_decode_page3 : (readsAs
   [([0xE8C0, 0x00A4], .msend {} 1 2 4),
    ([0xE8C0, 0x0484], .mrecv {} 1 4),
    ([0xE8C0, 0x0880], .mpoll {} 1),
    ([0xE8C0, 0x0C84], .mbwait {} 1 4),
    ([0xE8C0, 0x1100], .mbpop {} 2),
    ([0xE8C0, 0x14A0], .copy {} 1 2),
    ([0xE8C0, 0x14A1], .copyb {} 1 2),
    ([0xE8C0, 0x18A6], .cfet {} 1 2 3),
    ([0xE8C0, 0x18A7], .cfetb {} 1 2 3),
    ([0xE8C0, 0x1C04], .gang {} 4)] && readsAs
   [([0xE8C0, 0x2000], .split {}),
    ([0xE8C0, 0x24A6], .thstart {} 1 2 3),
    ([0xE8C0, 0x2880], .thstop {} 1),
    ([0xE8C0, 0x2C00], .yield {}),
    ([0xE8C0, 0x3000], .halt {}),
    ([0xE8C0, 0x3404], .brk {} 4),
    ([0xE8C0, 0x3880], .trace {} 1),
    ([0xE8C0, 0x3C81], .bgtrd {} 1 1)]) = true := by decide +kernel

theorem test_decode_page4a : (readsAs
   [([0xE900, 0x00A6], .vadd {} 1 2 3),
    ([0xE900, 0x00A7], .vaddSat {} 1 2 3),
    ([0xE900, 0x04A6], .vsub {} 1 2 3),
    ([0xE900, 0x04A7], .vsubSat {} 1 2 3),
    ([0xE900, 0x08A6], .vmul {} 1 2 3),
    ([0xE900, 0x0CA6], .vmulh {} 1 2 3),
    ([0xE900, 0x0CA7], .vmulhn {} 1 2 3),
    ([0xE900, 0x10A6], .vmad {} 1 2 3),
    ([0xE900, 0xF4D4, 0x14A6], .vaddw { stype := .i16, dtype := .i32 } 1 2 3),
    ([0xE900, 0xF4D4, 0x14A7], .vaddwh { stype := .i16, dtype := .i32 } 1 2 3)] && readsAs
   [([0xE900, 0xF440, 0x18A6], .vdot { stype := .i8, dtype := .dflt } 1 2 3),
    ([0xE900, 0x1CA6], .vand {} 1 2 3),
    ([0xE900, 0x20A6], .vor {} 1 2 3),
    ([0xE900, 0x24A6], .vxor {} 1 2 3),
    ([0xE900, 0x28A6], .vshl {} 1 2 3),
    ([0xE900, 0x2CA6], .vshr {} 1 2 3),
    ([0xE900, 0x2CA7], .vsar {} 1 2 3),
    ([0xE900, 0x30A4], .vshli {} 1 2 4),
    ([0xE900, 0x34A4], .vshri {} 1 2 4),
    ([0xE900, 0x38A4], .vsari {} 1 2 4)] && readsAs
   [([0xE900, 0x3CA6], .vmin {} 1 2 3),
    ([0xE900, 0x3CA7], .vminn {} 1 2 3),
    ([0xE900, 0x40A6], .vmax {} 1 2 3),
    ([0xE900, 0x40A7], .vmaxn {} 1 2 3),
    ([0xE900, 0x44A0], .vabs {} 1 2),
    ([0xE900, 0x48A6], .vcmpeq {} 1 2 3),
    ([0xE900, 0x48A7], .vcmpne {} 1 2 3),
    ([0xE900, 0x4CA6], .vcmplt {} 1 2 3),
    ([0xE900, 0x4CA7], .vcmpltn {} 1 2 3),
    ([0xE900, 0x50A6], .vcmple {} 1 2 3)]) = true := by decide +kernel

theorem test_decode_page4b : (readsAs
   [([0xE900, 0x50A7], .vcmplen {} 1 2 3),
    ([0xE900, 0x54A6], .vsel {} 1 2 3),
    ([0xE900, 0x58A0], .vbcast {} 1 2),
    ([0xE900, 0x5CA4], .vextr {} 1 2 4),
    ([0xE900, 0x60A4], .vins {} 1 2 4),
    ([0xE900, 0x6484], .vlane {} 1 4)]) = true := by decide +kernel

theorem test_decode_page5 : (readsAs
   [([0xE940, 0x00A6], .vfadd {} 1 2 3),
    ([0xE940, 0x04A6], .vfsub {} 1 2 3),
    ([0xE940, 0x08A6], .vfmul {} 1 2 3),
    ([0xE940, 0x0CA6], .vfma {} 1 2 3),
    ([0xE940, 0x10A6], .vfnma {} 1 2 3),
    ([0xE940, 0x14A6], .vfmin {} 1 2 3),
    ([0xE940, 0x18A6], .vfmax {} 1 2 3),
    ([0xE940, 0x1CA0], .vfabs {} 1 2),
    ([0xE940, 0x20A0], .vfneg {} 1 2),
    ([0xE940, 0x24A6], .vfcmpeq {} 1 2 3)] && readsAs
   [([0xE940, 0x28A6], .vfcmplt {} 1 2 3),
    ([0xE940, 0x2CA6], .vfcmple {} 1 2 3),
    ([0xE940, 0x30A6], .vfdiv {} 1 2 3),
    ([0xE940, 0x34A0], .vfsqrt {} 1 2),
    ([0xE940, 0x38A0], .vfrcp {} 1 2),
    ([0xE940, 0x3CA0], .vfrsq {} 1 2)]) = true := by decide +kernel

theorem test_decode_page6 : (readsAs
   [([0xE980, 0xF6E4, 0x00A2], .vcvt { stype := .f32, dtype := .bf16 } 1 2 1),
    ([0xE980, 0xF54C, 0x04A6], .vpack { stype := .i32, dtype := .i16 } 1 2 3),
    ([0xE980, 0xF4D4, 0x08A0], .vunpk { stype := .i16, dtype := .i32 } 1 2),
    ([0xE980, 0xF4D4, 0x08A1], .vunpkh { stype := .i16, dtype := .i32 } 1 2),
    ([0xE980, 0x0CA6], .vperm {} 1 2 3),
    ([0xE980, 0x10A4], .vslideup {} 1 2 4),
    ([0xE980, 0x14A4], .vslidedn {} 1 2 4),
    ([0xE980, 0x18A6], .vzip {} 1 2 3),
    ([0xE980, 0x18A7], .vziph {} 1 2 3),
    ([0xE980, 0x1CA6], .vunzip {} 1 2 3)] && readsAs
   [([0xE980, 0x1CA7], .vunzipo {} 1 2 3),
    ([0xE980, 0x20A6], .vtrn {} 1 2 3),
    ([0xE980, 0x20A7], .vtrn2 {} 1 2 3),
    ([0xE980, 0x24A0], .vscan {} 1 2),
    ([0xE980, 0x24A1], .vscanx {} 1 2),
    ([0xE980, 0x28A0], .vred {} 1 2),
    ([0xE980, 0xF4D4, 0x28A1], .vredw { stype := .i16, dtype := .i32 } 1 2),
    ([0xE980, 0x2CA0], .vredmax {} 1 2),
    ([0xE980, 0x2CA1], .vredmaxn {} 1 2),
    ([0xE980, 0x30A0], .vfred {} 1 2)] && readsAs
   [([0xE980, 0x34A0], .vfredmax {} 1 2),
    ([0xE980, 0x38A6], .kand {} 1 2 3),
    ([0xE980, 0x3CA6], .kor {} 1 2 3),
    ([0xE980, 0x40A0], .knot {} 1 2),
    ([0xE980, 0x44A0], .kpopc {} 1 2),
    ([0xE980, 0x48A0], .kfirst {} 1 2),
    ([0xE980, 0x4CA0], .kmov {} 1 2),
    ([0xE980, 0x4CA1], .kmovs {} 1 2)]) = true := by decide +kernel

theorem test_decode_page7 : (readsAs
   [([0xE9C0, 0x00A0], .yseed {} 1 2),
    ([0xE9C0, 0x04A0], .ydraw {} 1 2),
    ([0xE9C0, 0x08A6], .ycmp {} 1 2 3),
    ([0xE9C0, 0x0CA6], .ycmpy {} 1 2 3),
    ([0xE9C0, 0x10A6], .yrnd {} 1 2 3),
    ([0xE9C0, 0x14A0], .ycvt {} 1 2),
    ([0xE9C0, 0x18A0], .ymov {} 1 2),
    ([0xE9C0, 0x1CA4], .ystat {} 1 2 2),
    ([0xE9C0, 0x20A4], .yst {} 1 2 4),
    ([0xE9C0, 0x24A4], .yld {} 1 2 4)] && readsAs
   [([0xE9C0, 0x28A0], .vexp2 {} 1 2),
    ([0xE9C0, 0x2CA0], .vlog2 {} 1 2),
    ([0xE9C0, 0x30A0], .vtanh {} 1 2),
    ([0xE9C0, 0x34A0], .vsinpi {} 1 2),
    ([0xE9C0, 0x38A0], .vcospi {} 1 2)]) = true := by decide +kernel

theorem test_decode_page8 : (readsAs
   [([0xEA00, 0x00A4], .oclm {} 1 2 4),
    ([0xEA00, 0x0424], .orel {} 2 4),
    ([0xEA00, 0x08A6], .old {} 1 2 3),
    ([0xEA00, 0x08A7], .oldb {} 1 2 3),
    ([0xEA00, 0x0CA6], .oldt {} 1 2 3),
    ([0xEA00, 0x0CA7], .oldtb {} 1 2 3),
    ([0xEA00, 0x10A0], .oswap {} 1 2),
    ([0xEA00, 0x14A6], .ost {} 1 2 3),
    ([0xEA00, 0x1880], .zclr {} 1),
    ([0xEA00, 0x1CA6], .zst {} 1 2 3)] && readsAs
   [([0xEA00, 0x20A6], .zld {} 1 2 3),
    ([0xEA00, 0x24A6], .zmovv {} 1 2 3),
    ([0xEA00, 0x2800], .mwait {}),
    ([0xEA00, 0x2C83], .mstat {} 1 3)]) = true := by decide +kernel

theorem test_decode_page9 : (readsAs
   [([0xEA40, 0x00A8], .mmaBf {} 1 2 4),
    ([0xEA40, 0x00A9], .mmaBfOw {} 1 2 4),
    ([0xEA40, 0x04A8], .mmaHf {} 1 2 4),
    ([0xEA40, 0x04A9], .mmaHfOw {} 1 2 4),
    ([0xEA40, 0x08A8], .mmaF32 {} 1 2 4),
    ([0xEA40, 0x08A9], .mmaF32Ow {} 1 2 4),
    ([0xEA40, 0x0CA8], .mmaE4 {} 1 2 4),
    ([0xEA40, 0x0CA9], .mmaE4Ow {} 1 2 4),
    ([0xEA40, 0x10A8], .mmaE5 {} 1 2 4),
    ([0xEA40, 0x10A9], .mmaE5Ow {} 1 2 4)] && readsAs
   [([0xEA40, 0x14A8], .mmaE45 {} 1 2 4),
    ([0xEA40, 0x14A9], .mmaE45Ow {} 1 2 4),
    ([0xEA40, 0xE005, 0x18A8], .mmaI8 {} 1 2 4 5),
    ([0xEA40, 0xE005, 0x18A9], .mmaI8Ow {} 1 2 4 5),
    ([0xEA40, 0xE005, 0x1CA8], .mmaI4 {} 1 2 4 5),
    ([0xEA40, 0xE005, 0x1CA9], .mmaI4Ow {} 1 2 4 5),
    ([0xEA40, 0xE005, 0x20A8], .mmaQ8 {} 1 2 4 5),
    ([0xEA40, 0xE005, 0x20A9], .mmaQ8Ow {} 1 2 4 5),
    ([0xEA40, 0xE005, 0x24A8], .mmaQ4q8 {} 1 2 4 5),
    ([0xEA40, 0xE005, 0x24A9], .mmaQ4q8Ow {} 1 2 4 5)] && readsAs
   [([0xEA40, 0xE005, 0x28A8], .mmaQ4 {} 1 2 4 5),
    ([0xEA40, 0xE005, 0x28A9], .mmaQ4Ow {} 1 2 4 5)]) = true := by decide +kernel

theorem test_decode_page10 : (readsAs
   [([0xEA80, 0x00A6], .pdecl {} 1 2 3),
    ([0xEA80, 0x0480], .pfree {} 1),
    ([0xEA80, 0x08A6], .pinfo {} 1 2 3),
    ([0xEA80, 0x0C80], .lapx {} 1),
    ([0xEA80, 0x10A0], .lapw {} 1 2),
    ([0xEA80, 0x1484], .ridge {} 1 4 0),
    ([0xEA80, 0x1804], .ridgea {} 4 0),
    ([0xEA80, 0x1C84], .ridgew {} 1 4),
    ([0xEA80, 0x2020], .xtt {} 2),
    ([0xEA80, 0x2426], .sldecl {} 2 3)] && readsAs
   [([0xEA80, 0x2826], .radd {} 2 3),
    ([0xEA80, 0x2827], .raddv {} 2 3),
    ([0xEA80, 0xE005, 0x2CA6], .amrg {} 1 2 3 5),
    ([0xEA80, 0x3020], .rfold {} 2)]) = true := by decide +kernel

theorem test_decode_page11 : (readsAs
   [([0xEAC0, 0x0020], .rst {} 2),
    ([0xEAC0, 0x0420], .rfaa {} 2),
    ([0xEAC0, 0x0820], .rfence {} 2),
    ([0xEAC0, 0xE005, 0x0CA6], .trig {} 1 2 3 5),
    ([0xEAC0, 0x10A6], .hcnt {} 1 2 3),
    ([0xEAC0, 0x10A7], .hcnts {} 1 2 3),
    ([0xEAC0, 0x14A6], .hwait {} 1 2 3),
    ([0xEAC0, 0x18A6], .cpost {} 1 2 3),
    ([0xEAC0, 0x1C80], .crevoke {} 1)]) = true := by decide +kernel

/-- The examples of R265. -/
theorem test_decode_examples : readsAs
    [([0xE120, 0x08B8], .add {} 9 3 20),
     ([0xE948, 0xF664, 0x015C], .vfadd { rnd := .rtz, stype := .bf16, dtype := .bf16 } 2 5 6),
     ([0xE407, 0x5268], .li {} 4 1000),
     ([0x94AA], .bne {} 1 2 (-6)),
     ([0xF920, 0xECC1, 0x7550], .ldw { scope := .group, order := .acq, wait := some ⟨3, false, 2⟩ } 2 5 0)] = true := by
  decide +kernel

/-- The examples of R268, and `MOV`, which is `ADDI` (R263). -/
theorem test_decode_aliases : readsAs
    [([0x2DCA], .div {} 3 4 5), ([0x2DCB], .divn {} 3 4 5), ([0x0400], .nop {}), ([0xE300, 0xBF80], .jr {} 31 0),
     ([0x34A0], .addi {} 1 2 0)] = true := by decide +kernel

/-- Prefixes in any order are the same instruction (R254). -/
theorem test_decode_any_order :
    (decode [0xF664, 0xE948, 0x015C]).toOption = (decode [0xE948, 0xF664, 0x015C]).toOption := by decide +kernel

/-- What follows an instruction is left (R249). -/
theorem test_decode_rest : (decode [0x0400, 0x1234]).toOption = some (.nop {}, [0x1234]) := by decide +kernel

/-- What R261 refuses, by name. -/
theorem test_decode_refused :
    [([0xFC00] : List Half), [0xE948, 0xE948, 0x015C], [0xE400, 0xE400, 0xE400, 0xE400, 0x5080],
     [0xE800, 0xE000, 0xF000, 0xF400, 0xF800, 0x0400], [0xE831, 0x0000], [0xEB00, 0x0400], [0xE838, 0x2000], [0xF001, 0x0890],
     [0xF401, 0x0890], [0xF801, 0x6490], [0xE840, 0x6000], [0x6090], [0xE300, 0x0400], [0x0891], [0x0401], [0xE400]].map
      (fun ws => match decode ws with | .error e => some e | .ok _ => none) =
    [some .reservedPrefix, some .repeatedPrefix, some .tooManyPrefixes, some .tooManyPrefixes, some .prefixNotAccepted,
     some .badPage, some .badPage, some .reservedField, some .reservedField, some .reservedField, some .unassigned,
     some .prefixNotAccepted, some .prefixNotAccepted, none, some .immediateOutside, some .cutShort] := by decide +kernel

/-! ## Ill-formed terms, one for each check -/

theorem test_check_register : (Instr.mmaBf {} 1 2 3).check = some .registerOutside := by decide +kernel
theorem test_check_slot_range : (Instr.oclm {} 1 30 2).check = some .registerOutside := by decide +kernel
theorem test_check_row_range : (Instr.vrowld { scope := .row } 31 2 1).check = some .registerOutside := by decide +kernel
theorem test_check_fourth : (Instr.mmaQ8 {} 1 2 4 0).check = some .prefixNotAccepted := by decide +kernel
theorem test_check_immediate : (Instr.trap {} 32).check = some .immediateOutside := by decide +kernel
theorem test_check_rounding : (Instr.vfmin { rnd := .rtz } 1 2 3).check = some .prefixNotAccepted := by decide +kernel
theorem test_check_saturation : (Instr.add { sat := true } 1 2 3).check = some .prefixNotAccepted := by decide +kernel
theorem test_check_mask : (Instr.vsel { zero := true } 1 2 3).check = some .prefixNotAccepted := by decide +kernel
theorem test_check_sr : (Instr.vfadd { yreg := 1 } 1 2 3).check = some .prefixNotAccepted := by decide +kernel
theorem test_check_type : (Instr.vaddw {} 1 2 3).check = some .typeNotAccepted := by decide +kernel
theorem test_check_order : (Instr.ldw { order := .rel } 1 2 0).check = some .orderingForbidden := by decide +kernel
theorem test_check_row_scope : (Instr.ldw { scope := .row } 1 2 0).check = some .orderingForbidden := by decide +kernel
theorem test_check_wait : (Instr.eret { wait := some ⟨3, false, 2⟩ }).check = some .prefixNotAccepted := by decide +kernel
theorem test_check_fit :
    (Instr.pcaddr { wait := some ⟨3, false, 2⟩ } 1 0x8000000).check = some .doesNotFit := by decide +kernel
theorem test_check_event : Instr.placement.check = some .unassigned := by decide +kernel

/-! ## Small states -/

/-- What a next state holds. -/
def after {α : Type} (r : Res) (f : State → α) : Option α := match r with | .next t => some (f t) | _ => none

/-- What the state after two instructions or events holds. -/
def andThen {α : Type} (r : Res) (i : Instr) (f : State → α) : Option α :=
  match r with
  | .next t => after (exec i t) f
  | _ => none

/-- What an accepted access or another result satisfies. -/
def holds {ε α : Type} (r : Except ε α) (p : α → Bool) : Bool := match r with | .ok a => p a | .error _ => false

/-- A task of two cores at the foot of the package, in address space 1. -/
def task0 : Task :=
  { id := 7, tenant := 0, asid := 1, base := 0, level := 1, crews := 2, threads := 4, gang := 1, stream := 0, kind := 0,
    det := false, trace := false, record := false, replay := false, image := probeImage, placedAt := 0 }

/-- Thread set 0 of core 0 at 0x1000, with a word of 16 bits. -/
def at0 : Ctx := ⟨0, 0, 0x1000, 0x1002, [0x0400], none⟩

/-- A running thread with these scalar registers. -/
def thread0 (l : List (SReg × Word)) : Thread :=
  { Thread.reset with
    s := l.foldl (fun v (n, w) => v.set n w) Thread.reset.s
    pc := 0x1000
    run := .running }

/-- A core of the task whose other thread sets are stopped. -/
def core0 (l : List (SReg × Word)) : Core :=
  { Core.reset with
    thr := (Vector.replicate 4 { Thread.reset with run := .stopped }).set 0 (thread0 l)
    crew := some { task := 7, rel := 0 }
    segValid := 3 }

/-- The state in which thread set 0 of core 0 has an instruction at issue, with these scalar registers. -/
def state0 (l : List (SReg × Word)) : State :=
  { State.reset with
    cores := [(0, core0 l), (1, { core0 [] with crew := some { task := 7, rel := 1 } })]
    fetch := some at0
    runq := [(0, 0)]
    sched := { State.reset.sched with tasks := [task0] } }

/-- The state with core 0 changed. -/
def coreIs (s : State) (f : Core → Core) : State := s.setCore 0 (f (s.core 0))

/-- The state with the issuing thread changed. -/
def threadIs (s : State) (f : Thread → Thread) : State := s.modThread 0 0 f

/-- The state with bytes in SRAM. -/
def bytesAre (s : State) (a : Nat) (bs : List Byte) : State :=
  { s with mem := { s.mem with sram := writeSpan s.mem.sram a bs } }

/-- The state with words of 64 bits in SRAM. -/
def wordsAre (s : State) (a : Nat) (ws : List Nat) : State := bytesAre s a (ws.flatMap fun w => leBytes 8 w)

/-- A scalar register of the issuing thread. -/
def reg (n : SReg) (t : State) : Word := (t.thread 0 0).s[n]

/-- The instruction at issue finds no wait, no bound stream and no command in its way: what the claims assume of the thread. -/
def Ready (s : State) (x : Pre) : Prop :=
  s.Issues at0 x ∧ (∀ n, s.plain at0 n) ∧ ∀ r w, s.unbound at0 r w

theorem ready (s : State) (x : Pre) (h : s.fetch = some at0 ∧ (s.thread 0 0).alone = true ∧ s.waitOver at0 x = true ∧
    (∀ n : Fin 32, n = 0 ∨ s.scalarBusy at0 n.val = false ∧ (s.own at0).stream false n = none) ∧
    (∀ n : Fin 32, (s.own at0).stream true n = none) ∧ ∀ n : Fin 32, (s.own at0).stream false n = none) : Ready s x :=
  ⟨⟨h.1, h.2.1, rfl, h.2.2.1⟩, h.2.2.2.1, fun _ _ => ⟨fun n _ => h.2.2.2.2.1 n, fun r _ => by
    cases hr : r.1
    · exact h.2.2.2.2.2 r.2
    · exact h.2.2.2.2.1 r.2⟩⟩

theorem ready0 (l : List (SReg × Word)) (h : (state0 l).waitOver at0 {} = true ∧ ((state0 l).thread 0 0).alone = true ∧
    (∀ n : Fin 32, n = 0 ∨ (state0 l).scalarBusy at0 n.val = false ∧ ((state0 l).own at0).stream false n = none) ∧
    (∀ n : Fin 32, ((state0 l).own at0).stream true n = none) ∧ ∀ n : Fin 32, ((state0 l).own at0).stream false n = none) :
    Ready (state0 l) {} := ready _ _ ⟨rfl, h.2.1, h.1, h.2.2⟩

/-! ## Encodings and steps: cases that meet the hypotheses -/

theorem witness_DecodeEncode : (Instr.vfadd { rnd := .sr, yreg := 7, mask := 7, zero := true } 31 31 31).wf = true := by
  decide +kernel

theorem witness_BadChainsRefused :
    (0xFC00 : Half).toNat / 1024 = 63 ∧
    (({ n := 4, k := 3, xi := 0 } : Chain).n = 4 ∧ 56 ≤ (0xE000 : Half).toNat / 1024 ∧ (0xFBFF : Half).toNat / 1024 ≠ 63) ∧
    (({ n := 3, k := 3, xi := 0 } : Chain).n < 4 ∧ (0xE400 : Half).toNat / 1024 = 57) ∧
    (({ n := 3, xr := some default } : Chain).xr.isSome = true ∧ (0xE3FF : Half).toNat / 1024 = 56) ∧
    (({ n := 3, xp := some (0, .sr, false, false, false) } : Chain).xp.isSome = true ∧ (0xE800 : Half).toNat / 1024 = 58) := by decide +kernel

/-- The state that a loaded program starts from, with `NOP` at its entry: everything that the claim about a step assumes. -/
theorem witness_StepRunsDecoded :
    let s := State.reset.withFetchWord 16 0x0400
    let t0 := s.thread 0 0
    let s0 := { s with fetch := none, runq := [(0, 0)] }
    let s1 := { s0.clearHeld 0 with fetch := some ⟨0, 0, t0.pc, 0x1002, [0x0400], none⟩ }
    s.agenda = [] ∧ s.turn % 2 = 0 ∧ s.runq = [(0, 0)] ∧ t0.live = true ∧ t0.alone = true ∧ t0.inh = false ∧
    t0.pc ≠ exitAddress ∧ (t0.stopReq && !t0.phand) = false ∧ (s0.dueTrap 0 0).isNone = true ∧ s0.dueHolds 0 0 = false ∧
    s0.droopHolds 0 = false ∧ s0.energyHeld 0 = false ∧
    (match s0.fetchAt 0 false t0.pc with
      | .instr i next ws => decide (i = .nop {} ∧ next = 0x1002 ∧ ws = [0x0400])
      | _ => false) = true ∧
    after (exec (.nop {}) s1) (fun t => (t.thread 0 0).pc) = some 0x1002 := by decide +kernel

theorem witness_StepAnswersNext : isEvent (.nop {}) = false ∧ isEvent .placement = true ∧ State.reset.fetch = none ∧
    (state0 []).fetch ≠ none := by decide +kernel

/-- R379: `PDECL` with level 0, 6 or 7 is an illegal instruction, and levels 1 and 5 are not. -/
theorem test_levels :
    [(0x00A0 : Half), 0x00AC, 0x00AE, 0x00A2, 0x00AA].map (fun w => (decode [0xEA80, w]).toOption.map (·.1)) =
      [none, none, none, some (.pdecl {} 1 2 1), some (.pdecl {} 1 2 5)] := by decide +kernel

/-- A program runs from reset once it is loaded: the step runs its first instruction. -/
theorem test_first_step : after (step (State.reset.withFetchWord 32 0xE7E850FF)) (fun t => (t.thread 0 0).pc) = some 0x1004 := by
  decide +kernel

/-! ## Scalar instructions -/

theorem witness_IntegerResults : Ready (state0 [(4, 7), (5, -9)]) {} ∧
    (∃ f, Claims.alu (.add {} 3 4 5) = some ({}, 3, 4, 5, f)) ∧ (∃ f, Claims.alu (.cmplen {} 0 31 31) = some ({}, 0, 31, 31, f)) ∧
    (∃ f, Claims.aluImm (.addi {} 3 4 5) = some ({}, 3, 4, f)) ∧ (Instr.shli {} 3 4 63).wf = true ∧
    (Instr.zext {} 0 31 63).wf = true :=
  ⟨ready0 _ (by decide +kernel), ⟨_, rfl⟩, ⟨_, rfl⟩, ⟨_, rfl⟩, by decide +kernel, by decide +kernel⟩

/-- Results of R269 and R273, by hand: s4 is -8, s5 is 3. -/
theorem test_alu :
    ([.add {} 3 4 5, .sub {} 3 4 5, .and {} 3 4 5, .or {} 3 4 5, .xor {} 3 4 5, .shl {} 3 4 5, .shr {} 3 4 5, .sar {} 3 4 5,
      .mul {} 3 4 5, .mulh {} 3 4 5, .mulhn {} 3 4 5, .min {} 3 4 5, .minn {} 3 4 5, .max {} 3 4 5, .maxn {} 3 4 5,
      .div {} 3 4 5, .divn {} 3 4 5, .rem {} 3 4 5, .remn {} 3 4 5].map fun i => after (exec i (state0 [(4, -8), (5, 3)])) (reg 3)) =
    [some (-5), some (-11), some 0, some (-5), some (-5), some (-64), some 0x1FFFFFFFFFFFFFFF, some (-1), some (-24), some (-1),
      some 2, some (-8), some 3, some 3, some (-8), some (-2), some 0x5555555555555552, some (-2), some 2] := by decide +kernel

theorem test_compares :
    ([.cmpeq {} 3 4 5, .cmpne {} 3 4 5, .cmplt {} 3 4 5, .cmpltn {} 3 4 5, .cmple {} 3 4 5, .cmplen {} 3 4 5,
      .cmple {} 3 4 4, .cmplen {} 3 4 4].map fun i => after (exec i (state0 [(4, -8), (5, 3)])) (reg 3)) =
    [some 0, some 1, some 1, some 0, some 1, some 0, some 1, some 1] := by decide +kernel

theorem test_bit_counts :
    ([.clz {} 3 4, .ctz {} 3 4, .popc {} 3 4, .clz {} 3 0, .ctz {} 3 0, .popc {} 3 0].map fun i =>
      after (exec i (state0 [(4, 0x0000700000000010)])) (reg 3)) =
    [some 17, some 4, some 4, some 64, some 64, some 0] := by decide +kernel

theorem test_immediates :
    ([.addi {} 3 4 (-1), .andi {} 3 4 0xF0, .ori {} 3 4 0xF, .xori {} 3 4 (-1), .shli {} 3 4 8, .shri {} 3 4 60, .sari {} 3 4 60,
      .sext {} 3 4 7, .zext {} 3 4 7, .li {} 3 (-7), .sel {} 3 4 0 5, .sel {} 3 4 0 0].map fun i =>
      after (exec i (state0 [(4, 0xF000000000000080), (5, 1)])) (reg 3)) =
    [some 0xF00000000000007F, some 0x80, some 0xF00000000000008F, some 0x0FFFFFFFFFFFFF7F, some 0x8000, some 15, some (-1),
      some (-128), some 0x80, some (-7), some 0xF000000000000080, some 0] := by decide +kernel

theorem test_s0_stays_zero : after (exec (.addi {} 0 4 1) (state0 [(4, 7)])) (fun t => (reg 0 t, (t.thread 0 0).pc)) =
    some (0, 0x1002) := by decide +kernel

theorem witness_PcaddrResult : Ready (state0 []) {} ∧
    after (exec (.pcaddr {} 3 (-0x801)) (state0 [])) (reg 3) = some 0xFFFE := ⟨ready0 _ (by decide +kernel), by decide +kernel⟩

theorem witness_OtherIntegerResults :
    (let s := state0 [(4, 0x7FFFFFFFFFFFFFFF), (5, 0)]
     Ready s {} ∧ (s.sreg at0 4).toInt + (s.sreg at0 5).toInt < 2 ^ 63 ∧ after (exec (.addv {} 3 4 5) s) (reg 3) =
      some 0x7FFFFFFFFFFFFFFF) ∧
    (let s := state0 [(4, 0x7FFFFFFFFFFFFFFF), (5, 1)]
     Ready s {} ∧ ¬((s.sreg at0 4).toInt + (s.sreg at0 5).toInt < 2 ^ 63) ∧
      after (exec (.addv {} 3 4 5) s) (fun t => (t.thread 0 0).cause) = some 0x06) ∧
    (let s := state0 [(4, -1), (5, 0x7FFFFFFFFFFFFFFF)]
     Ready s {} ∧ -(2 ^ 63) ≤ (s.sreg at0 4).toInt - (s.sreg at0 5).toInt ∧
      after (exec (.subv {} 3 4 5) s) (reg 3) = some 0x8000000000000000) ∧
    (let s := state0 [(4, -2), (5, 0x7FFFFFFFFFFFFFFF)]
     Ready s {} ∧ ¬(-(2 ^ 63) ≤ (s.sreg at0 4).toInt - (s.sreg at0 5).toInt) ∧
      after (exec (.subv {} 3 4 5) s) (fun t => (reg 3 t, (t.thread 0 0).cause)) = some (0, 0x06)) :=
  ⟨⟨ready0 _ (by decide +kernel), by decide +kernel, by decide +kernel⟩,
   ⟨ready0 _ (by decide +kernel), by decide +kernel, by decide +kernel⟩,
   ⟨ready0 _ (by decide +kernel), by decide +kernel, by decide +kernel⟩,
   ⟨ready0 _ (by decide +kernel), by decide +kernel, by decide +kernel⟩⟩

theorem witness_DivisionResults : Ready (state0 [(4, -8), (5, 0)]) {} ∧
    (∃ f, Claims.division (.rem {} 3 4 5) = some ({}, 3, 4, 5, f)) ∧
    after (exec (.rem {} 3 4 5) (state0 [(4, -8), (5, 0)])) (fun t => (reg 3 t, (t.thread 0 0).fpflags)) = some (-8, flagDZ) ∧
    after (exec (.div {} 3 4 5) (state0 [(4, 0x8000000000000000), (5, -1)])) (fun t => (reg 3 t, (t.thread 0 0).fpflags)) =
      some (0x8000000000000000, 0) :=
  ⟨ready0 _ (by decide +kernel), ⟨_, rfl⟩, by decide +kernel, by decide +kernel⟩

theorem witness_FloatResults : Ready (state0 [(4, 0x3F800000), (5, 0x40000000)]) {} ∧
    (∃ f, Claims.float (.fadd {} 3 4 5) = some ({}, 3, 4, 5, f)) ∧ ({} : Pre).rnd ≠ .sr ∧
    (∃ a b, Claims.conversion (.fcvti {} 3 4) = some ({}, 3, 4, a, b)) :=
  ⟨ready0 _ (by decide +kernel), ⟨_, rfl⟩, by decide, ⟨_, _, rfl⟩⟩

/-- 1.0 and 2.0 in f32; s6 is 3.5; FMA adds to the old destination, 1.0 (R290 to R292). -/
theorem test_float :
    ([.fadd {} 3 4 5, .fsub {} 3 4 5, .fmul {} 3 5 5, .fdiv {} 3 4 5, .fma {} 3 5 5, .fsqrt {} 3 7, .fmin {} 3 4 5, .fmax {} 3 4 5,
      .fcmpeq {} 3 4 5, .fcmplt {} 3 4 5, .fcmple {} 3 4 4, .fcvti {} 3 6, .fcvtin {} 3 6, .fcvtf {} 3 8, .fcvtfn {} 3 8,
      .fcvt { stype := .f32, dtype := .bf16 } 3 6].map fun i =>
      after (exec i (state0 [(3, 0x3F800000), (4, 0x3F800000), (5, 0x40000000), (6, 0x40600000), (7, 0x40800000), (8, 3)])) (reg 3)) =
    [some 0x40400000, some 0xBF800000, some 0x40800000, some 0x3F000000, some 0x40A00000, some 0x40000000, some 0x3F800000,
      some 0x40000000, some 0, some 1, some 1, some 4, some 4, some 0x40400000, some 0x40400000, some 0x4060] := by decide +kernel

/-- 1.0 divided by 0 is an infinity and sets DZ; 1.0 / 3.0 sets NX (R188). -/
theorem test_float_flags :
    ([(0x00000000 : Word), 0x40400000].map fun v => after (exec (.fdiv {} 3 4 5) (state0 [(4, 0x3F800000), (5, v)]))
      (fun t => (reg 3 t, (t.thread 0 0).fpflags))) = [some (0x7F800000, flagDZ), some (0x3EAAAAAB, flagNX)] := by decide +kernel

theorem witness_BlockSums : Ready (state0 [(4, 1), (5, 0), (6, 2), (7, 0)]) {} := ready0 _ (by decide +kernel)

/-! ## Transfers, traps and their end -/

theorem witness_TransferResults :
    (let s := state0 [(4, 0x2000), (5, -1)]
     Ready s {} ∧ at0.addr.getLsbD 0 = false ∧ (∃ p, Claims.branch (.blt {} 5 4 3) = some ({}, 5, 4, 3, p)) ∧
      (Claims.based (s.sreg at0 4) 0xE000).getLsbD 0 = false ∧ (Claims.based (s.sreg at0 4) 1).getLsbD 0 = true) :=
  ⟨ready0 _ (by decide +kernel), by decide, ⟨_, rfl⟩, by decide +kernel, by decide +kernel⟩

theorem test_branches :
    ([.beq {} 5 4 3, .bne {} 5 4 3, .blt {} 5 4 3, .bge {} 5 4 3, .bltn {} 5 4 3, .bgen {} 5 4 3, .beqz {} 0 3, .bnez {} 0 3,
      .b {} (-1), .jmp {} 0x2468, .jmp {} 0x2469, .jr {} 4 2, .jr {} 4 1].map fun i =>
      after (exec i (state0 [(4, 0x2000), (5, -1)])) (fun t => (t.thread 0 0).pc)) =
    [some 0x1002, some 0x1006, some 0x1006, some 0x1002, some 0x1002, some 0x1006, some 0x1006, some 0x1002, some 0x0FFE,
      some 0x2468, some 0x0020, some 0x2002, some 0x0020] := by decide +kernel

theorem test_calls :
    ([.call {} 8, .callr {} 4 0xFFFE, .callr {} 4 1].map fun i =>
      after (exec i (state0 [(4, 0x2000)])) (fun t => ((t.thread 0 0).pc, reg 31 t))) =
    [some (0x1010, 0x1002), some (0x1FFE, 0x1002), some (0x0020, 0)] := by decide +kernel

/-- The segment of the target: fetched, invalid, valid. -/
theorem witness_CheckedTransfers :
    let s := state0 [(4, 0x2000), (5, 0x1FFE)]
    let f := coreIs s fun c => { c with segFetch := c.segFetch.set 2 1 }
    let e := coreIs s fun c => { c with segFail := c.segFail.set 2 (some (0x42, 0)) }
    Ready f {} ∧ (f.core 0).segFetch[2] ≠ 0 ∧ Ready e {} ∧ (e.core 0).segFetch[2] = 0 ∧
    (e.core 0).segValid.getLsbD 2 = false ∧ Ready s {} ∧ (s.core 0).segValid.getLsbD 1 = true ∧
    after (exec (.jmpf {} 4 0) s) (fun t => (t.thread 0 0).cause) = some 0x05 ∧
    after (exec (.jmpf {} 4 0) e) (fun t => (t.thread 0 0).cause) = some 0x42 ∧
    after (exec (.callf {} 5 0) s) (fun t => ((t.thread 0 0).pc, reg 31 t)) = some (0x1FFE, 0x1002) :=
  ⟨ready _ _ (by decide +kernel), by decide +kernel, ready _ _ (by decide +kernel), by decide +kernel, by decide +kernel,
   ready0 _ (by decide +kernel), by decide +kernel, by decide +kernel, by decide +kernel, by decide +kernel⟩

/-- The last address that is too near, the first that is not, and counts of 0 and 1; the loop rule at its last two
iterations. -/
theorem witness_LoopResults :
    let l : LoopState := ⟨0x1000, 0x1002, 1⟩
    let t : Thread := { thread0 [] with loop := some l }
    Ready (state0 [(4, 1)]) {} ∧ (Claims.relative at0 1).toNat ≤ at0.next.toNat ∧
    at0.next.toNat < (Claims.relative at0 2).toNat ∧ t.loop = some l ∧ l.stop = 0x1002 ∧ l.remaining.toNat ≤ 1 ∧
    l.start.toNat ≤ (0x1000 : BitVec 16).toNat ∧ (0x1000 : BitVec 16).toNat < l.stop.toNat ∧
    ¬(l.start.toNat ≤ (0x1002 : BitVec 16).toNat ∧ (0x1002 : BitVec 16).toNat < l.stop.toNat) ∧
    after (exec (.loop {} 4 1) (state0 [(4, 1)])) (fun t => (t.thread 0 0).cause) = some 0x01 ∧
    after (exec (.loop {} 4 2) (state0 [(4, 1)])) (fun t => (t.thread 0 0).loop) = some (some ⟨0x1002, 0x1004, 1⟩) ∧
    after (exec (.loop {} 4 2) (state0 [])) (fun t => ((t.thread 0 0).pc, (t.thread 0 0).loop)) = some (0x1004, none) ∧
    after (exec (.nop {}) (threadIs (state0 []) fun t => { t with loop := some { l with remaining := 2 } }))
      (fun t => ((t.thread 0 0).pc, (t.thread 0 0).loop)) = some (0x1000, some l) ∧
    after (exec (.nop {}) (threadIs (state0 []) fun t => { t with loop := some l }))
      (fun t => ((t.thread 0 0).pc, (t.thread 0 0).loop)) = some (0x1002, none) :=
  ⟨ready0 _ (by decide +kernel), by decide +kernel⟩

theorem witness_TrapTaken :
    let s := threadIs (state0 []) fun t => { t with estat := 0x100 }
    ((state0 []).thread 0 0).inh = false ∧ (s.thread 0 0).inh = true ∧ (s.core 0).crew = some { task := 7, rel := 0 } := by
  decide +kernel

theorem witness_NopAndIll :
    let q : QCopy := ⟨0, 0, 4, 1, false, 0, 0, 0, 3, 3, 1, 0, 0, []⟩
    let s := threadIs (state0 []) fun t => { t with q := t.q.set 3 (some q) }
    Ready (state0 []) {} ∧ Ready s { wait := some ⟨3, false, 3⟩ } ∧ s.fetch = some at0 ∧ (s.thread 0 0).alone = true ∧
    s.queue at0 3 = some q ∧ s.waitOver at0 { wait := some ⟨3, false, 4⟩ } = false :=
  ⟨ready0 _ (by decide +kernel), ready _ _ (by decide +kernel), by decide +kernel⟩

/-- In the resident handler with and without a system action around it, in the program handler, outside both. -/
theorem witness_TrapAndReturn :
    let h := threadIs (state0 []) fun t => { t with estat := 0x100, epc := 0x1234 }
    let a := threadIs (state0 []) fun t => { t with estat := 0x300, epc := 0x1234, saved := some (0x1500, 0xE1, 5, 0x200) }
    let p := threadIs (state0 []) fun t => { t with estat := 0x200, epc := 0x1234 }
    Ready (state0 []) {} ∧ (31 : Word).toNat < 32 ∧ ((state0 []).own at0).inh = false ∧ ((state0 []).own at0).phand = false ∧
    Ready h {} ∧ (h.own at0).inh = true ∧ (h.own at0).saved = none ∧ Ready p {} ∧ (p.own at0).phand = true ∧
    Ready a {} ∧ (a.own at0).saved = some (0x1500, 0xE1, 5, 0x200) ∧
    after (exec (.trap {} 31) (state0 [])) (fun t => ((t.thread 0 0).cause, (t.thread 0 0).epc)) = some (0xFF, 0x1002) ∧
    after (exec (.brk {} 3) (state0 [])) (fun t => ((t.thread 0 0).cause, (t.thread 0 0).epc)) = some (0x07, 0x1002) ∧
    after (exec (.ill {} 3) (state0 [])) (fun t => ((t.thread 0 0).cause, (t.thread 0 0).epc)) = some (0x01, 0x1000) ∧
    after (exec (.eret {}) (state0 [])) (fun t => ((t.thread 0 0).cause, (t.thread 0 0).epc)) = some (0x02, 0x1000) ∧
    after (exec (.eret {}) a) (fun t => ((t.thread 0 0).pc, (t.thread 0 0).epc, (t.thread 0 0).phand)) =
      some (0x1234, 0x1500, true) :=
  ⟨ready0 _ (by decide +kernel), by decide, by decide +kernel, by decide +kernel, ready _ _ (by decide +kernel),
   by decide +kernel, by decide +kernel, ready _ _ (by decide +kernel), by decide +kernel, ready _ _ (by decide +kernel),
   by decide +kernel, by decide +kernel, by decide +kernel, by decide +kernel, by decide +kernel, by decide +kernel⟩

theorem witness_ResidentHandler :
    let s := threadIs (state0 []) fun t => { t with cause := 0xE0 }
    let m := threadIs (state0 []) fun t => { t with cause := 0xC0 }
    let p := threadIs (state0 []) fun t => { t with cause := 0xE0, estat := 0x200 }
    let k := { s with sched := { s.sched with tasks := [{ task0 with image := { probeImage with ktrap := some 0x1080 } }] } }
    dispOf (m.thread 0 0).cause = .ends ∧ dispOf (p.thread 0 0).cause = .program ∧ (p.thread 0 0).phand = true ∧
    dispOf (k.thread 0 0).cause = .program ∧ (k.thread 0 0).phand = false ∧
    (k.taskOf 0).map (·.image.ktrap) = some (some 0x1080) ∧ (s.taskOf 0).map (·.image.ktrap) = some none ∧
    ((k.handler 0 0).thread 0 0).pc = 0x1080 := by decide +kernel

/-- One event of each kind due, and nothing before it. -/
theorem witness_BoundaryEvents :
    let due (d : Due) := threadIs (state0 []) fun t => { t with due := d }
    let f : LateFault := ⟨5, 0x41, 9, true⟩
    let m : Miss := ⟨0, 0x100000000, [], .group, .acq, false, 0⟩
    let w : Crew := { task := 7, rel := 0 }
    (∀ s ∈ [due { lates := [f] }, due { stales := [f] }, due { misses := [m] }, due { lost := some 1 }, due { switchOut := true },
        due { preempt := true }, due { peerStopped := true }, due { debug := true }, due { replay := true }],
      (s.thread 0 0).live = true ∧ (s.thread 0 0).inh = false ∧ (s.dueTrap 0 0).isSome = true) ∧
    (due { lates := [f] }).engaged 0 0 = false ∧ (due { lates := [f] }).dueNow 0 0 0x41 = true ∧
    (due { stales := [f] }).dueNow 0 0 0x41 = true ∧ (due { debug := true }).ridgeOver 0 = true ∧
    (due { replay := true }).ridgeOver 0 = true ∧ (due { lost := some 1 }).dueNow 0 0 0xC6 = true ∧
    ((state0 []).core 0).crew = some w ∧ (state0 []).taskOf 0 = some task0 ∧ w.finished = false ∧
    (state0 []).inSwitch 0 = false := by decide +kernel

/-! ## Memory -/

theorem witness_LoadResults :
    (let s := state0 [(4, 0x3BFF8)]
     Ready s {} ∧ Claims.load (.ldd {} 3 4 0) = some ({}, 3, 4, 0, 8, false) ∧ s.mem.sram.wf = true ∧
      (s.sreg at0 4 + 0).toNat < 0x3C000 ∧ (s.sreg at0 4 + 0).toNat % 8 = 0 ∧ s.acquiring 0 0 = false ∧
      s.lapCheck 0 0x3BFF8 8 = .plain ∧ s.storesOf 0 0 = []) ∧
    (let s := state0 [(4, 0x300000008)]
     Ready s {} ∧ holds (s.unpopped.access 0 (s.sreg at0 4 + 4) 4 4 false (sysAccess at0 (s.own at0))) fun (acc, s1) =>
      s.acquiring 0 0 == false && s.portHeld at0 acc.place == false && decide (s1.lapCheckAt 0 acc.place 4 = .plain)) :=
  ⟨⟨ready0 _ (by decide +kernel), rfl, by decide +kernel⟩, ⟨ready0 _ (by decide +kernel), by decide +kernel⟩⟩

/-- Bytes 0x80 to 0x87 at 0x100 (R275). -/
theorem test_loads :
    ([.ldb {} 3 4 0, .ldbn {} 3 4 0, .ldh {} 3 4 0, .ldhn {} 3 4 0, .ldw {} 3 4 4, .ldwn {} 3 4 4, .ldd {} 3 4 0].map fun i =>
      after (exec i (wordsAre (state0 [(4, 0x100)]) 0x100 [0x8786858483828180])) (reg 3)) =
    [some (-0x80), some 0x80, some (-0x7E80), some 0x8180, some (-0x78797A7C), some 0x87868584, some 0x8786858483828180] := by
  decide +kernel

/-- One refused access for each check, at the last or first address of its range. -/
theorem witness_AccessFaults :
    (let s := state0 [(4, 0x3C000)]
     Ready s {} ∧ Claims.store (.stw {} 3 4 0) = some ({}, 3, 4, 0, 4) ∧
      (match s.unpopped.access 0 (s.sreg at0 4) 4 4 true (sysAccess at0 (s.own at0)) with | .error e => e | .ok _ => 0) = 0x62 ∧
      s.taskOf 0 = some task0 ∧ task0.level < 3) ∧
    ([(0x3C001 : Word), 0x3FFFC, 0x3C000, 0x8100000000000000, 0x40000, 0xFFFFFFFC, 0x100400000, 0x100BFFFFC].map fun a =>
      after (exec (.ldw {} 3 4 0) (state0 [(4, a)])) fun t => ((t.thread 0 0).cause, (t.thread 0 0).einfo)) =
    [some (0x60, 0x3C001), some (0x62, 0x3FFFC), some (0x62, 0x3C000), some (0x64, 0x8100000000000000), some (0x61, 0x40000),
      some (0x61, 0xFFFFFFFC), some (0x63, 0x100400000), some (0x63, 0x100BFFFFC)] :=
  ⟨⟨ready0 _ (by decide +kernel), rfl, by decide +kernel⟩, by decide +kernel⟩

theorem witness_ScratchpadStore :
    let s := state0 [(3, 0x1122334455667788), (4, 0x3BFFC)]
    Ready s {} ∧ Claims.store (.stw {} 3 4 0) = some ({}, 3, 4, 0, 4) ∧ s.mem.sram.wf = true ∧
    (s.sreg at0 4 + 0).toNat < 0x3C000 ∧ (s.sreg at0 4 + 0).toNat % 4 = 0 ∧ s.acquiring 0 0 = false ∧
    s.lapProtected 0 0x3BFFC 4 = false ∧ s.storesOf 0 0 = [] ∧
    s.mayStore (s.taskNo 0) (s.relOf 0) (s.asidOf 0) (s.absAddr 0 (.pad 0 0x3BFFC)) 4 = true :=
  ⟨ready0 _ (by decide +kernel), rfl, by decide +kernel⟩

theorem test_stores :
    ([.stb {} 3 4 0, .sth {} 3 4 0, .stw {} 3 4 0, .std {} 3 4 0].map fun i =>
      after (exec i (wordsAre (state0 [(3, 0x1122334455667788), (4, 0x100)]) 0x100 [0xFFFFFFFFFFFFFFFF]))
        fun t => readLE t.mem.sram 0x100 8) =
    [some 0xFFFFFFFFFFFFFF88, some 0xFFFFFFFFFFFF7788, some 0xFFFFFFFF55667788, some 0x1122334455667788] := by decide +kernel

/-- A store to the tile's bank: not there before it lands, there after. -/
theorem witness_StoreElsewhere :
    let s := state0 [(3, 5), (4, 0x300000000)]
    Ready s {} ∧ (holds (s.unpopped.access 0 (s.sreg at0 4 + 0) 8 8 true (sysAccess at0 (s.own at0))) fun (acc, _) =>
      acc.place.isOwn 0 == false && s.acquiring 0 0 == false && s.portHeld at0 acc.place == false) = true ∧
    after (exec (.std {} 3 4 0) s) (fun t => (t.fab.fly.map (·.id), t.fab.fly.all t.mayLand, t.mem.sram)) = some ([0], true, []) ∧
    andThen (exec (.std {} 3 4 0) s) (.accessAtHome 0) (fun t => (t.fab.fly, t.mem.sram.length)) = some ([], 1) :=
  ⟨ready0 _ (by decide +kernel), by decide +kernel⟩

theorem witness_AtomicResults :
    (let s := state0 [(4, 0x100), (5, 3)]
     let v := state0 [(4, 0x300000000), (5, 3)]
     let w := coreIs s fun c => { c with vq := [{ id := 0, ts := 0, seq := 0, x := {}, kind := .vld }] }
     Ready s {} ∧ (∃ f, Claims.atomic (.amocas {} 3 4 5 15) = some ({}, 3, 4, 5, 15, f)) ∧
      (∀ z ∈ [s, v], holds (z.unpopped.access 0 (z.sreg at0 4) 8 8 true (sysAccess at0 (z.own at0))) (fun (acc, s1) =>
        z.portHeld at0 acc.place == false && z.storesDone at0 && z.acquiring 0 0 == false &&
        decide (s1.taskOf 0 = some task0)) = true) ∧
      s.idleV at0 = true ∧ s.storesDone at0 = true ∧ w.idleV at0 = false ∧ Ready w {}) :=
  ⟨ready0 _ (by decide +kernel), ⟨_, rfl⟩, by decide +kernel, by decide +kernel, by decide +kernel, by decide +kernel,
   ready _ _ (by decide +kernel)⟩

/-- Old value -8 in 32 bits, operand 3 (R301): what the register and the place hold. -/
theorem test_atomics :
    ([.amoadd { dtype := .i32 } 3 4 5, .amoswp { dtype := .i32 } 3 4 5, .amocas { dtype := .i32 } 3 4 5 6,
      .amocas { dtype := .i32 } 3 4 5 7, .amomin { dtype := .i32 } 3 4 5, .amominn { dtype := .i32 } 3 4 5,
      .amomax { dtype := .i32 } 3 4 5, .amomaxn { dtype := .i32 } 3 4 5, .amoand { dtype := .i32 } 3 4 5,
      .amoor { dtype := .n32 } 3 4 5].map fun i =>
      after (exec i (bytesAre (state0 [(4, 0x100), (5, 3), (6, -8), (7, 8)]) 0x100 [0xF8, 0xFF, 0xFF, 0xFF]))
        fun t => (reg 3 t, readLE t.mem.sram 0x100 4)) =
    [some (-8, 0xFFFFFFFB), some (-8, 3), some (-8, 3), some (-8, 0xFFFFFFF8), some (-8, 0xFFFFFFF8), some (-8, 3), some (-8, 3),
      some (-8, 0xFFFFFFF8), some (-8, 0), some (0xFFFFFFF8, 0xFFFFFFFB)] := by decide +kernel

/-! ## Capabilities, queues, streams -/

/-- A region at the foot of the tile's bank, held by core `n` of the task. -/
def capState (n : Nat) : State :=
  { state0 [(4, 0x300000000), (5, 0x0007000000000001), (6, 0x0007000100000001)] with
    fab := { State.reset.fab with caps := [⟨7, 1, 0x300000000, 16, n⟩] } }

theorem capState_ready : Ready (capState 0) {} ∧ Ready (capState 1) {} :=
  ⟨ready _ _ (by decide +kernel), ready _ _ (by decide +kernel)⟩

/-- A region held by this core and one held by the other: both are met by `capState_ready` and these. -/
theorem witness_CapabilityResults :
    (∀ n ∈ [0, 1], (capState n).taskOf 0 = some task0 ∧
      holds ((capState n).place 0 ((capState n).sreg at0 4) false) (· == .bank 1 0 0) = true ∧
      (capState n).absAddr 0 (.bank 1 0 0) = 0x300000000) ∧
    ([(0x0007000000000001 : Word), 0x0007000100000001].all fun w => w.toNat / 2 ^ 33 % 2 ^ 15 == 0 &&
      w.toNat / 2 ^ 12 % 2 ^ 20 == 0 && task0.carries (w.toNat % 4096)) = true ∧
    after (exec (.capq {} 3 4) (capState 1)) (reg 3) = some 0x100000000001 ∧
    after (exec (.capx {} 4 5) (capState 1)) (fun t => (t.thread 0 0).cause) = some 0x6D ∧
    after (exec (.capx {} 4 5) (capState 0)) (fun t => (t.fab.caps, t.fab.fly.map (·.what))) =
      some ([⟨7, 1, 0x300000000, 16, 1⟩], [.deposit 1 0x0007100000000000 0x300000000 false]) ∧
    after (exec (.capx {} 4 6) (capState 0)) (fun t => (t.fab.caps, t.fab.fly)) = some ([], []) := by decide +kernel

/-- An address space whose pages from 0 on are cached, for the ranges of `CAPDEF`. -/
def capRanges : State :=
  { state0 [(4, 0x3FFFF), (5, 0x8000000000000000), (6, 8), (7, 7), (8, 37), (9, 0x8000000000000100)] with
    xl := { State.reset.xl with tlb := [(0, [⟨1, 0, 16, 0, true, false⟩])] } }

theorem witness_CapabilityRanges : Ready capRanges {} ∧ capRanges.taskOf 0 = some task0 ∧
    (capRanges.sreg at0 4).toNat < 0x40000 ∧ capRanges.fab.caps = [] ∧
    (holds (capRanges.unpopped.access 0 (capRanges.sreg at0 5) 1 1 false false) fun (acc, _) => acc.place.isGlobal) = true ∧
    ([.capdef {} 4 6, .capdef {} 5 7, .capdef {} 5 8].map fun i => after (exec i capRanges) fun t => (t.thread 0 0).cause) =
      [some 0x69, some 0x69, some 0x69] ∧
    after (exec (.capdef {} 5 6) capRanges) (fun t => t.fab.caps) = some [⟨7, 1, 0x8000000000000000, 8, 0⟩] :=
  ⟨ready _ _ (by decide +kernel), by decide +kernel⟩

/-- A queue of four slots of 64 bytes: two filled, two free. -/
def queue0 : QCopy := ⟨0, 0x1000, 4, 64, false, 0, 0, 0, 2, 2, 2, 0, 0, []⟩

/-- It is bound to handle 3. -/
def queueState (q : QCopy) : State := threadIs (state0 [(4, 2)]) fun t => { t with q := t.q.set 3 (some q) }

theorem queueState_ready : Ready (state0 []) {} ∧ Ready (queueState queue0) {} ∧ Ready (queueState { queue0 with role := 1 }) {} ∧
    Ready (queueState { queue0 with role := 2 }) {} :=
  ⟨ready0 _ (by decide +kernel), ready _ _ (by decide +kernel), ready _ _ (by decide +kernel), ready _ _ (by decide +kernel)⟩

theorem witness_QueueResults :
    (state0 []).queue at0 3 = none ∧ (queueState queue0).queue at0 3 = some queue0 ∧
    ((queueState queue0).sreg at0 4 + 0).toNat = 2 ∧ 2 ≤ queue0.filled.toNat ∧ queue0.filled.toNat < 3 ∧ 3 ≤ queue0.nslot ∧
    2 ≤ queue0.free.toNat ∧ queue0.free.toNat < 3 := by decide +kernel

theorem test_queue_reads :
    ([.qcnt {} 5 3, .qfree {} 5 3].map fun i => after (exec i (queueState queue0)) (reg 5)) = [some 2, some 2] ∧
    ([.qwaitf {} 3 0 2, .qwaitf {} 3 0 3, .qwaite {} 3 0 2, .qwaite {} 3 0 3].map fun i =>
      after (exec i (queueState queue0)) fun t => (t.thread 0 0).run) = [some .running, some .waiting, some .running, some .waiting] ∧
    ([.qcnt {} 5 3, .qfree {} 5 3, .qadvt {} 3 0 1, .qadvh {} 3 0 1].map fun i =>
      after (exec i (state0 [])) fun t => (t.thread 0 0).cause) = [some 0x03, some 0x03, some 0x03, some 0x03] := by decide +kernel

theorem test_queue_advances :
    after (exec (.qadvt {} 3 4 0) (queueState { queue0 with role := 1 })) (fun t =>
      ((t.queue at0 3).map fun q => (q.tail, q.free, q.filled), t.fab.fly.map (·.what))) =
      some (some (4, 0, 2), [.qupd 0 0 true 2 2]) ∧
    after (exec (.qadvh {} 3 4 0) (queueState { queue0 with role := 2 })) (fun t =>
      ((t.queue at0 3).map fun q => (q.head, q.free, q.filled), t.fab.fly.map (·.what))) =
      some (some (2, 2, 0), [.qupd 0 0 false 2 0]) := by decide +kernel

/-- A queue descriptor at 0x140 (four slots of 64 bytes, two filled), a stream descriptor at 0x180 (doubles from 0x200 on,
read), and two doubles. -/
def boundData : State :=
  wordsAre (wordsAre (wordsAre (state0 [(4, 0x140), (5, 0x180), (6, 0x3BFE0)]) 0x140 [0x1000, 0x0000000400400000, 2, 0x200000002, 0, 0, 0, 0])
    0x180 [0x200, 0x0000000200000008, 0x0000000100000000, 0]) 0x200 [5, 6]

/-- With a read stream of those doubles bound to `s24`, and to `v25`. -/
def boundState : State :=
  threadIs boundData fun t => { t with
    ss := t.ss.set 0 (some ⟨0x200, 2, 8, 1, 0, 0, 0, 0, 0⟩)
    sv := t.sv.set 1 (some ⟨0x200, 2, 8, 1, 0, 0, 0, 0, 0⟩) }

theorem witness_StreamResults :
    Ready boundData {} ∧ boundData.queue at0 3 = none ∧ (boundData.sreg at0 4).toNat = 0x140 ∧
    badQueue (boundData.seenBytes 0 0 (.sram 0x140) 64) = false ∧
    (readQueue 0x140 (boundData.seenBytes 0 0 (.sram 0x140) 64)).role = 0 ∧
    (boundData.core 0).bindsElsewhere 0x140 0 3 = false ∧ bindable 31 = some 7 ∧
    recField (wordsOf64 4 (boundData.seenBytes 0 0 (.sram 0x180) 32)) 3 57 0 = 0 ∧
    (readStream (boundData.seenBytes 0 0 (.sram 0x180) 32)).dir.val < 2 ∧
    after (exec (.qbind {} 3 4) boundData) (fun t => (t.queue at0 3).map fun q => (q.nslot, q.filled, q.free)) = some (some (4, 2, 2)) ∧
    after (exec (.qbind {} 3 0) boundData) (fun t => t.queue at0 3) = some none ∧
    after (exec (.sbinds {} 24 5) boundData) (fun t => ((t.own at0).stream false 24).map (·.2.total)) = some (some 2) ∧
    after (exec (.sbind {} 23 5) boundData) (fun t => (t.thread 0 0).cause) = some 0x02 :=
  ⟨ready _ _ (by decide +kernel), by decide +kernel⟩

/-- The operand of `ADDI` comes from the stream; `SPOS` and `SUNBIND` see it. -/
theorem witness_StreamOperands :
    boundState.fetch = some at0 ∧ boundState.mem.sram.wf = true ∧ boundState.scalarBusy at0 24 = false ∧
    ((boundState.own at0).stream false 24).map (fun p => (p.1, p.2.dir, decide (p.2.pos < p.2.total))) = some (0, 0, true) ∧
    boundState.acquiring 0 0 = false ∧ boundState.lapCheck 0 0x200 8 = .plain ∧ boundState.storesOf 0 0 = [] ∧
    after (exec (.addi {} 3 24 1) boundState) (reg 3) = some 6 ∧
    andThen (exec (.addi {} 3 24 1) boundState) (.addi {} 3 24 1) (reg 3) = some 7 ∧
    andThen (exec (.addi {} 3 24 1) boundState) (.spos {} 3 24 1) (reg 3) = some 1 ∧
    after (exec (.sunbind {} 25 0) boundState) (fun t => (t.own at0).stream true 25) = some none := by decide +kernel

/-- The queue of handle 3 comes from a descriptor at 0x1C0, with an update that waits for its turn; a stream descriptor at
0x1A0 reads from that queue, and `s24` is bound to a stream that is written. -/
def leavingState : State :=
  threadIs (wordsAre (threadIs boundData fun t => t.setS 7 0x1A0) 0x1A0 [0x200, 0x0000000200000008, 0x0000000100000000, 0x8C00000000000000]) fun t =>
    { t with
      q := t.q.set 3 (some { queue0 with addr := 0x1C0, head := 1, seqord := true, seq := 6, held := [(8, 1)] })
      ss := t.ss.set 0 (some ⟨0x200, 2, 8, 1, 0, 1, 0, 0, 0⟩) }

theorem witness_Bindings :
    (leavingState.queue at0 3).isSome = true ∧ leavingState.acquiring 0 0 = false ∧
    holds (leavingState.unpopped.access 0 (BitVec.ofNat 64 (0x1C0 + 16)) 24 8 true (sysAccess at0 (leavingState.own at0)))
      (fun _ => true) = true ∧
    ([.qbind {} 3 0, .qbind {} 3 4].map fun i => after (exec i leavingState) fun t =>
      ((t.queue at0 3).map (·.addr), readLE t.mem.sram 0x1D0 24, t.fab.fly.map (·.what))) =
      [some (none, 2 ^ 32 + 2 + 2 ^ 64 * (2 ^ 33 + 2) + 2 ^ 128 * (6 * 2 ^ 32), [.qupd 0 0x1C0 true 1 8]),
       some (some 0x140, 2 ^ 32 + 2 + 2 ^ 64 * (2 ^ 33 + 2) + 2 ^ 128 * (6 * 2 ^ 32), [.qupd 0 0x1C0 true 1 8])] ∧
    ([.qbind {} 3 5, .sbinds {} 25 4, .sbind {} 25 6].map fun i => after (exec i boundData) fun t => (t.thread 0 0).cause) =
      [some 0x03, some 0x04, some 0] ∧
    after (exec (.sbinds {} 25 7) (wordsAre (threadIs boundData fun t => t.setS 7 0x1A0) 0x1A0 [0x200, 0, 0, 0x8C00000000000000])) (fun t =>
      (t.thread 0 0).cause) = some 0x03 ∧
    after (exec (.sbinds {} 25 7) leavingState) (fun t => ((t.own at0).stream false 25).map (·.2.start)) = some (some 1) ∧
    after (exec (.sunbind {} 24 1) leavingState) (fun t => (t.own at0).stream false 24) = some none ∧
    after (exec (.sunbind {} 24 1) (coreIs leavingState fun c =>
      { c with mq := [{ id := 0, ts := 0, seq := 0, x := {}, kind := .zclr, a := 3 }] })) (fun t => (t.thread 0 0).run) =
      some .waiting := by decide +kernel

/-! ## Engines -/

/-- An engine with two commands, and a thread whose command will write `s3`. -/
def busyState : State :=
  coreIs (state0 []) fun c => { c with vq := [{ id := 0, ts := 0, seq := 0, x := {}, kind := .kmovs, a := 3 },
    { id := 1, ts := 1, seq := 1, x := {}, kind := .kmovs, a := 3 }] }

theorem witness_EngineAccepts :
    Ready (state0 [(4, 4)]) {} ∧ (state0 [(4, 4)]).room at0 false [2, 3] [(true, 1)] = true ∧
    busyState.room at0 false [2, 3] [(true, 1)] = false ∧
    (∃ h, Claims.engine (.mmaI8 {} 1 2 3 4) = some h ∧ ¬h.ok ((state0 [(4, 4)]).sreg at0 4) 0) ∧
    (∃ h, Claims.engine (.vadd {} 1 2 3) = some h ∧ h.ok 0 0) :=
  ⟨ready0 _ (by decide +kernel), by decide +kernel, by decide +kernel,
   ⟨_, rfl, by show ¬((_ : Word).toNat < 4); decide +kernel⟩, ⟨_, rfl, trivial⟩⟩

/-- The state with vector registers: `v2` holds 0x80000001 in every lane of 32 bits, `v3` lane `i` the number `i`. -/
def vectors (l : List (SReg × Word)) : State :=
  threadIs (state0 l) fun t => { t with
    v := (t.v.set 2 (BitVec.ofNat 512 (leNat ((List.replicate 16 [(1 : Byte), 0, 0, 0x80]).flatten)))).set 3
      (BitVec.ofNat 512 (leNat ((List.range 16).flatMap fun i => leBytes 4 i)))
    k := (t.k.set 1 0x00FF).set 2 0xF00000000000000F }

/-- Lane `i` of 32 bits of `v1` after an instruction and its command. -/
def lane1 (i : Instr) (n : Nat) : Option Nat :=
  andThen (exec i (vectors [(4, 9)])) (.vectorCommandComplete 0) fun t => laneOf (t.thread 0 0).v[1] n 32

theorem witness_VectorResults : Ready (vectors [(4, 9)]) {} ∧ (vectors [(4, 9)]).room at0 false [2, 3] [(true, 1)] = true ∧
    (∃ r, Claims.vector (.vadd {} 1 2 3) = some r ∧ r.x.order = .relaxed) ∧
    after (exec (.vadd {} 1 2 3) (vectors [(4, 9)])) (fun t => (t.core 0).vq.length) = some 1 :=
  ⟨ready _ _ (by decide +kernel), by decide +kernel, ⟨_, rfl, rfl⟩, by decide +kernel⟩

/-- Lane 15, by hand from 0x80000001 and 15 (R333 to R335). -/
theorem test_vector_arithmetic :
    ([.vadd {} 1 2 3, .vaddSat {} 1 2 2, .vsub {} 1 2 3, .vsubSat {} 1 3 2, .vmul {} 1 2 3, .vmulh {} 1 2 3, .vmulhn {} 1 2 3,
      .vmad {} 1 2 3, .vand {} 1 2 3, .vor {} 1 2 3, .vxor {} 1 2 3, .vmin {} 1 2 3, .vminn {} 1 2 3, .vmax {} 1 2 3, .vmaxn {} 1 2 3,
      .vshl {} 1 3 2, .vshr {} 1 3 2, .vsar {} 1 2 3, .vshli {} 1 3 4, .vshri {} 1 2 31, .vsari {} 1 2 31, .vabs {} 1 2].map
      fun i => lane1 i 15) =
    [some 0x80000010, some 0x80000000, some 0x7FFFFFF2, some 0x7FFFFFFF, some 0x8000000F, some 0xFFFFFFF8, some 7,
      some 0x8000000F, some 1, some 0x8000000F, some 0x8000000E, some 0x80000001, some 15, some 15, some 0x80000001,
      some 30, some 7, some 0xFFFF0000, some 240, some 1, some 0xFFFFFFFF, some 0x7FFFFFFF] := by decide +kernel

/-- Lane 14 of moves (R337, R341 to R345). -/
theorem test_vector_moves :
    ([.vsel { mask := 1 } 1 2 3, .vbcast {} 1 4, .vins {} 1 4 14, .vlane {} 1 4, .vperm {} 1 3 3, .vslideup {} 1 3 2, .vslidedn {} 1 3 2,
      .vzip {} 1 2 3, .vziph {} 1 2 3, .vunzip {} 1 2 3, .vunzipo {} 1 2 3, .vtrn {} 1 2 3, .vtrn2 {} 1 2 3, .vscan {} 1 3,
      .vscanx {} 1 3].map fun i => lane1 i 14) =
    [some 14, some 9, some 9, some 18, some 14, some 12, some 0, some 0x80000001, some 0x80000001, some 12, some 13,
      some 0x80000001, some 0x80000001, some 105, some 91] := by decide +kernel

/-- Lane 0 of reductions and of wide and packed results. -/
theorem test_vector_reductions :
    ([.vred {} 1 3, .vredw { stype := .i16, dtype := .i32 } 1 3, .vredmax {} 1 2, .vredmaxn {} 1 2,
      .vaddw { stype := .i16, dtype := .i32 } 1 3 2, .vaddwh { stype := .i16, dtype := .i32 } 1 3 2,
      .vdot { stype := .i8, dtype := .i32 } 1 2 2, .vpack { stype := .i32, dtype := .i16, sat := true } 1 2 3,
      .vunpk { stype := .i16, dtype := .i32 } 1 2, .vunpkh { stype := .i16, dtype := .i32 } 1 2].map fun i => lane1 i 0) =
    [some 120, some 120, some 0x80000001, some 0x80000001, some 1, some 1, some 16385, some 0x80008000, some 1, some 1] := by
  decide +kernel

/-- A masked command: inactive lanes keep or clear (R257). -/
theorem test_vector_mask :
    (lane1 (.vadd { mask := 1 } 1 3 3) 7, lane1 (.vadd { mask := 1 } 1 3 3) 8, lane1 (.vadd { mask := 1, zero := true } 3 3 3) 8) =
    (some 14, some 0, some 0) := by decide +kernel

theorem witness_MaskResults : Ready (vectors [(4, 9)]) {} ∧ (vectors [(4, 9)]).room at0 false [2, 3] [(false, 5)] = true ∧
    (∃ f, Claims.mask (.vcmpltn {} 1 3 2) = some ({}, [3, 2], 0, 1, f)) ∧
    (∃ f, Claims.toScalar (.kfirst {} 5 2) = some ({}, [], 5, f)) ∧ (({ vectors [] with fetch := some at0 } : State).thread 0 0).alone = true ∧
    Ready busyState {} = False ∧ after (exec (.addi {} 6 3 0) busyState) (fun t => (t.thread 0 0).run) = some .waiting := by
  refine ⟨ready _ _ (by decide +kernel), by decide +kernel, ⟨_, rfl⟩, ⟨_, rfl⟩, by decide +kernel, ?_, by decide +kernel⟩
  refine eq_false fun h => ?_
  rcases h.2.1 3 with h | h
  · exact absurd h (by decide)
  · exact absurd h.1 (by decide +kernel)

theorem test_masks :
    ([.vcmpeq {} 3 2 2, .vcmpne {} 3 2 2, .vcmplt {} 3 2 3, .vcmpltn {} 3 2 3, .vcmple {} 3 3 3, .vcmplen {} 3 2 3, .kand {} 3 1 2, .kor {} 3 1 2,
      .knot {} 3 1, .kmov {} 3 4].map fun i =>
      andThen (exec i (vectors [(4, 9)])) (.vectorCommandComplete 0) fun t => (t.thread 0 0).k[3]) =
    [some 0xFFFF, some 0, some 0xFFFF, some 0, some 0xFFFF, some 0, some 0xF, some 0xF0000000000000FF,
      some 0xFFFFFFFFFFFFFF00, some 9] := by decide +kernel

theorem test_to_scalar :
    ([.vextr {} 5 2 3, .kpopc {} 5 2, .kfirst {} 5 2, .kmovs {} 5 1, .kfirst {} 5 3].map fun i =>
      andThen (exec i (vectors [])) (.vectorCommandComplete 0) (reg 5)) =
    [some 0xFFFFFFFF80000001, some 8, some 0, some 0xFF, some 64] := by decide +kernel

/-- `v2` holds 4.0 and `v3` 1.5 in every lane of f32, `v1` 1.0. -/
def floats : State :=
  threadIs (state0 []) fun t => { t with
    v := ((t.v.set 2 (BitVec.ofNat 512 (leNat ((List.replicate 16 (leBytes 4 0x40800000)).flatten)))).set 3
      (BitVec.ofNat 512 (leNat ((List.replicate 16 (leBytes 4 0x3FC00000)).flatten)))).set 1
      (BitVec.ofNat 512 (leNat ((List.replicate 16 (leBytes 4 0x3F800000)).flatten)))
    k := t.k.set 1 1 }

theorem witness_FloatVectorResults : Ready floats {} ∧ floats.room at0 false [2, 3] [(true, 1)] = true ∧
    (∃ f, Claims.floatVector (.vfadd {} 1 2 3) = some ({}, [2, 3], 1, 2, 3, f)) ∧ (Claims.fty {}).isFloat = true ∧
    floats.room at0 false [2, 3] [] = true :=
  ⟨ready _ _ (by decide +kernel), by decide +kernel, ⟨_, rfl⟩, by decide, by decide +kernel⟩

theorem test_float_vectors :
    ([.vfadd {} 1 2 3, .vfsub {} 1 2 3, .vfmul {} 1 2 3, .vfma {} 1 2 3, .vfnma {} 1 2 3, .vfmin {} 1 3 3, .vfmax {} 1 3 3, .vfmin {} 1 2 3, .vfmax {} 1 2 3, .vfabs {} 1 2, .vfneg {} 1 2].map fun i =>
      andThen (exec i floats) (.vectorCommandComplete 0) fun t => laneOf (t.thread 0 0).v[1] 15 32) =
    [some 0x40B00000, some 0x40200000, some 0x40C00000, some 0x40E00000, some 0xC0A00000, some 0x3FC00000, some 0x3FC00000,
      some 0x3FC00000, some 0x40800000, some 0x40800000, some 0xC0800000] := by decide +kernel

/-- 1.5 / 4, the root and the reciprocals of 4, 2^4, log2 4, sin and cos at exact points, one lane active (R202, R376). -/
theorem test_transcendentals :
    ([.vfdiv { mask := 1 } 1 3 2, .vfsqrt { mask := 1 } 1 2, .vfrcp { mask := 1 } 1 2, .vfrsq { mask := 1 } 1 2,
      .vexp2 { mask := 1 } 1 2, .vlog2 { mask := 1 } 1 2, .vsinpi { mask := 1 } 1 3, .vcospi { mask := 1 } 1 2].map fun i =>
      andThen (exec i floats) (.vectorCommandComplete 0) fun t => (laneOf (t.thread 0 0).v[1] 0 32, laneOf (t.thread 0 0).v[1] 1 32)) =
    [some (0x3EC00000, 0x3F800000), some (0x40000000, 0x3F800000), some (0x3E800000, 0x3F800000), some (0x3F000000, 0x3F800000),
      some (0x41800000, 0x3F800000), some (0x40000000, 0x3F800000), some (0xBF800000, 0x3F800000),
      some (0x3F800000, 0x3F800000)] := by decide +kernel

theorem test_float_vector_compares :
    ([.vfcmpeq {} 3 2 3, .vfcmplt {} 3 3 2, .vfcmple {} 3 2 2].map fun i =>
      andThen (exec i floats) (.vectorCommandComplete 0) fun t => (t.thread 0 0).k[3]) = [some 0, some 0xFFFF, some 0xFFFF] ∧
    ([.vcvt { stype := .f32, dtype := .i32 } 1 3 0, .vfred {} 1 2].map fun i =>
      andThen (exec i floats) (.vectorCommandComplete 0) fun t => laneOf (t.thread 0 0).v[1] 0 32) = [some 2, some 0x42800000] := by
  decide +kernel

/-- Accesses at the last vector of the scratchpad below the system block. -/
theorem witness_VectorMemory :
    let s := wordsAre (vectors [(4, 0x3BFC0), (5, 4)]) 0x3BFC0 [0x1122334455667788]
    Ready s {} ∧ (∃ r, Claims.vectorLoad (.vlds {} 1 4 5) = some r) ∧ (∃ r, Claims.vectorStore (.vsts {} 2 4 5) = some r) ∧
    s.room at0 false [] [(true, 1)] = true ∧ s.room at0 false [2] [] = true ∧ s.mem.sram.wf = true ∧ s.fab.fly = [] ∧
    (∀ p : Fin 8, (s.core 0).parts[p] = none) ∧
    ((List.range 16).all fun j => let a := (s.sreg at0 4 + BitVec.ofNat 64 j * s.sreg at0 5).toNat
      a < 0x3C000 && a % 4 == 0 && s.mayStore (s.taskNo 0) (s.relOf 0) (s.asidOf 0) (s.absAddr 0 (.pad 0 a)) 4) = true ∧
    ([.vld {} 1 4 0, .vlds {} 1 4 5, .vldg {} 1 4 7].map fun i =>
      andThen (exec i s) (.vectorCommandComplete 0) fun t => laneOf (t.thread 0 0).v[1] 1 32) =
      [some 0x11223344, some 0x11223344, some 0x55667788] ∧
    ([.vst {} 3 4 0, .vsts {} 3 4 5, .vstg {} 3 4 7].map fun i =>
      andThen (exec i s) (.vectorCommandComplete 0) fun t => readLE t.mem.sram 0x3BFC0 8) =
      [some 0x100000000, some 0x100000000, some 0x112233440000000F] :=
  ⟨ready _ _ (by decide +kernel), ⟨_, rfl⟩, ⟨_, rfl⟩, by decide +kernel⟩

/-- A key descriptor at 0x100, one with a reserved kind at 0x140; the counter at its end. -/
def drawState (n : BitVec 48) : State :=
  threadIs (wordsAre (state0 [(4, 0x100), (5, 0x140)]) 0x100 [0, 0, 0, 0, 1, 2, 3, 4, 2]) fun t => { t with drawctr := n }

theorem witness_LazyUniforms :
    Ready (drawState (2 ^ 34 - 16)) {} ∧ Ready (drawState (2 ^ 34 - 15)) {} ∧
    ((drawState (2 ^ 34 - 16)).own at0).drawctr.toNat % 2 ^ 34 ≤ 2 ^ 34 - 16 ∧
    2 ^ 34 - 16 < ((drawState (2 ^ 34 - 15)).own at0).drawctr.toNat % 2 ^ 34 ∧
    badKey ((drawState 0).seenBytes 0 0 (.sram 0x100) 64) = false ∧ badKey ((drawState 0).seenBytes 0 0 (.sram 0x140) 64) = true ∧
    (drawState 0).room at0 false [] [] = true ∧ (drawState 0).room at0 false [] [(true, 1)] = true ∧
    after (exec (.ydraw {} 1 2) (drawState (2 ^ 34 - 15))) (fun t => (t.thread 0 0).cause) = some 0x0C ∧
    andThen (exec (.ydraw {} 1 2) (drawState 32)) (.vectorCommandComplete 0) (fun t =>
      ((t.thread 0 0).y[1][15].index, (t.thread 0 0).drawctr)) = some (47, 48) ∧
    after (exec (.yseed {} 1 5) (drawState 0)) (fun t => (t.thread 0 0).cause) = some 0x02 ∧
    andThen (exec (.yseed {} 1 4) (drawState 0)) (.vectorCommandComplete 0) (fun t => ((t.core 0).keys[1]).key.toNat % 2 ^ 64) =
      some 1 :=
  ⟨ready _ _ (by decide +kernel), ready _ _ (by decide +kernel), by decide +kernel⟩

/-- Slots 2 to 4 are the thread's, 3 and 4 of role B; slot 5 is another's. Slot 2 holds 3 and slot 3 holds 5 in every element
of lines 0. -/
def slotState : State :=
  let s := coreIs (state0 [(4, 0), (5, 4), (6, 0xFFF), (7, 0x1000)]) fun c => { c with
    slots := (((c.slots.set 2 ⟨some 0, false⟩).set 3 ⟨some 0, true⟩).set 4 ⟨some 0, true⟩).set 5 ⟨some 1, false⟩ }
  let m := writeSpan (writeSpan [] (slotKey 0 2) (List.replicate 128 3)) (slotKey 0 3) (List.replicate 128 0xFB)
  { s with mem := { s.mem with operand := m } }

theorem witness_MatrixIssue :
    Ready slotState {} ∧ slotState.idleM at0 = true ∧ (slotState.own at0).unfolded = [] ∧
    (∀ j : Fin 32, 1 ≤ j.val ∧ j.val ≤ 1 + 3 →
      (slotState.core 0).slots[j].owner = none ∨ (slotState.core 0).slots[j].owner = some 0) ∧
    ((slotState.core 0).slots[5]).owner = some 1 ∧ slotState.sreg at0 4 = 0 ∧ (slotState.sreg at0 6).toNat ≤ 0xFFF ∧
    0xFFF < (slotState.sreg at0 7).toNat ∧ slotState.room at0 true [] [] = true ∧
    ([.oclm {} 3 1 3, .oclm {} 3 2 3].map fun i => after (exec i slotState) (reg 3)) = [some 0, some 1] ∧
    ([.oswap {} 1 4, .oswap {} 1 7].map fun i => after (exec i slotState) fun t => (t.thread 0 0).cause) =
      [some 0x02, some 0x02] ∧
    after (exec (.oswap {} 1 6) slotState) (fun t => (t.core 0).mq.length) = some 1 ∧
    andThen (exec (.zclr {} 1) slotState) (.mwait {}) (fun t => (t.thread 0 0).run) = some .waiting :=
  ⟨ready _ _ (by decide +kernel), by decide +kernel⟩

/-- The first lane: 128 products of 3 and -5; 64 products of 1.0 and 2.0 in bf16 (R359, R360). -/
theorem test_matrix_lane :
    let d : Cmd := { id := 0, ts := 0, seq := 0, x := {}, kind := .mma .i8 false, a := 1, b := 2, c := 3 }
    let m := writeSpan (writeSpan slotState.mem.operand (slotKey 0 8) ((List.replicate 64 (leBytes 2 0x3F80)).flatten))
      (slotKey 0 10) ((List.replicate 64 (leBytes 2 0x4000)).flatten)
    let s := { slotState with mem := { slotState.mem with operand := m } }
    ((s.mmaLanes 0 d .i8 false)[0]?).map (fun p => sextInt p.1 48) = some (-1920) ∧
    ((s.mmaLanes 0 { d with b := 8, c := 10 } .bf false)[0]?).map (·.1) = some 0x43000000 := by decide +kernel

/-- Slots of the right roles; the first value of the signedness register that is out of range. -/
theorem witness_MatrixResults :
    Claims.mmaInteger (.mmaI8 {} 1 2 3 4) = some ({}, 1, 2, 3, 4, 8, false) ∧ (slotState.sreg at0 4).toNat < 4 ∧ slotState.room at0 true [] [] = true ∧ (3 : OReg).val < 31 ∧
    slotState.mem.operand.wf = true ∧
    ((slotState.core 0).slots[2]).roleB = false ∧ ((slotState.core 0).slots[3]).roleB = true ∧
    ((slotState.core 0).slots[4]).roleB = true ∧
    after (exec (.mmaI8 {} 1 2 3 5) slotState) (fun t => (t.thread 0 0).cause) = some 0x02 ∧
    after (exec (.mmaI8 {} 1 2 3 4) slotState) (fun t => (t.core 0).mq.length) = some 1 :=
  ⟨rfl, by decide +kernel⟩

/-! ## Registers, messages, copies -/

theorem witness_RegisterFrame : Ready (state0 [(4, 7), (5, 9)]) {} ∧ (∃ f, Claims.alu (.add {} 3 4 5) = some ({}, 3, 4, 5, f)) ∧
    (∃ t, exec (.add {} 3 4 5) (state0 [(4, 7), (5, 9)]) = .next t ∧
      (t.own at0).retired ≠ ((state0 [(4, 7), (5, 9)]).own at0).retired) :=
  ⟨ready0 _ (by decide +kernel), ⟨_, rfl⟩, ⟨_, rfl, by decide +kernel⟩⟩

/-- Values at the ends of the writable ranges; an engine at work; code of segment 0. -/
theorem witness_ControlRegisters :
    Ready (state0 [(4, 0xFFFFFFFFFFFF), (5, 63), (6, 64), (7, 0x1000000000000)]) {} ∧
    ((state0 []).idleV at0 && (state0 []).idleM at0) = true ∧ (busyState.idleV at0 && busyState.idleM at0) = false ∧
    (0x1000 : Nat) ≤ at0.addr.toNat ∧
    ([.csrd {} 6 0x40, .csrd {} 6 0x41].map fun i => after (exec i busyState) fun t => (t.thread 0 0).run) =
      [some .waiting, some .running] ∧
    ([.cswr {} 4 0x20, .cswr {} 7 0x20, .cswr {} 5 0x40, .cswr {} 6 0x40, .cswr {} 5 0x30, .csrd {} 3 0x7FF, .cswr {} 5 0x004].map
      fun i => after (exec i (state0 [(4, 0xFFFFFFFFFFFF), (5, 63), (6, 64), (7, 0x1000000000000)])) fun t =>
        ((t.thread 0 0).cause, (t.thread 0 0).drawctr, (t.thread 0 0).fpflags)) =
      [some (0, 0xFFFFFFFFFFFF, 0), some (2, 0, 0), some (0, 0, 63), some (2, 0, 0), some (2, 0, 0), some (2, 0, 0), some (2, 0, 0)] ∧
    ([.csrd {} 3 0, .csrd {} 3 1, .csrd {} 3 2].map fun i => after (exec i (state0 [])) (reg 3)) = [some 0, some 0, some 0x1000000] :=
  ⟨ready0 _ (by decide +kernel), by decide +kernel⟩

/-- The state with something under way from this thread. -/
def flying (s : State) (w : FlyKind) : State := { s with fab := { s.fab with fly := [⟨0, 0, 0, 0, w, false⟩], nextId := 1 } }

/-- A message for register 2 of thread set 1 of core 1, when that is empty, when it is full, and with the buffer full. -/
def messageState (full : Bool) (n : Nat) : State :=
  let s := flying (state0 [(4, 7), (5, 8), (6, 5)]) (.msg 1 ⟨1, 2, 9, 0⟩)
  s.setCore 1 { s.core 1 with
    thr := (s.core 1).thr.set 1 { Thread.reset with run := .stopped, m := Thread.reset.m.set 2 ⟨5, full⟩ }
    overflow := List.replicate n ⟨1, 2, 6, 1⟩ }

theorem witness_MessageResults :
    Ready (messageState false 0) {} ∧ (messageState false 0).taskOf 0 = some task0 ∧ (7 : Nat) / 4 < task0.crews ∧
    task0.crews ≤ 8 / 4 ∧
    ([messageState false 0, messageState true 15, messageState true 16].all fun s =>
      s.fab.fly.all fun f => s.behindStores f == false && s.behindMessage f 1 ⟨1, 2, 9, 0⟩ == false) = true ∧
    after (exec (.msend {} 4 4 3) (state0 [(4, 7)])) (fun t => t.fab.fly.map (·.what)) = some [.msg 1 ⟨3, 3, 7, 0⟩] ∧
    after (exec (.msend {} 4 5 3) (state0 [(4, 7), (5, 8)])) (fun t => (t.thread 0 0).cause) = some 0x02 ∧
    ([(messageState true 14, 2), (messageState true 15, 2), (messageState false 16, 2), (messageState false 16, 3)].map fun (s, r) =>
      s.messageRoom 1 1 r) = [true, false, false, true] ∧
    ([messageState true 14, messageState true 15].map fun s => after (exec (.msend {} 4 6 2) s) fun t =>
      ((t.thread 0 0).run, t.fab.fly.length)) = [some (.running, 2), some (.waiting, 1)] ∧
    ([messageState false 0, messageState true 15, messageState true 16].map fun s =>
      after (exec (.messageArrive 0) s) fun t => (((t.thread 1 1).m[2]).val, (t.core 1).overflow.length, t.fab.fly.length)) =
      [some (9, 0, 0), some (5, 16, 0), some (5, 16, 1)] :=
  ⟨ready _ _ (by decide +kernel), by decide +kernel⟩

/-- An earlier message of the same source waits in the overflow buffer: the later one goes there although the register is
empty; and one that waits for room keeps its place in the order of issue. -/
theorem witness_MessageOrder :
    let s := messageState false 0
    let e := s.setCore 1 { s.core 1 with overflow := [⟨1, 2, 6, 0⟩] }
    after (exec (.messageArrive 0) e) (fun t => ((t.core 1).overflow.map (·.val), t.fab.fly.length)) = some ([6, 9], 0) ∧
    (messageState true 16).messageRoom 1 1 2 = false ∧ (5 : Word).toNat / 4 < task0.crews ∧ (5 : Word).toNat % 4 < task0.threads ∧
    after (exec (.msend {} 4 6 2) (messageState true 16)) (fun t => ((t.thread 0 0).run, (t.thread 0 0).sending)) =
      some (.waiting, some 1) := by decide +kernel

/-- Message register 2 holds 5 with 6 behind it, and the mailbox holds one entry. -/
def receiveState : State :=
  coreIs (threadIs (state0 []) fun t => { t with m := t.m.set 2 ⟨5, true⟩ }) fun c => { c with
    overflow := [⟨0, 2, 6, 0⟩]
    mailbox := [(11, 12)] }

theorem witness_MailboxResults :
    Ready receiveState {} ∧
    after (exec (.mrecv {} 3 2) receiveState) (fun t => (reg 3 t, ((t.thread 0 0).m[2]).val, (t.core 0).overflow)) = some (5, 6, []) ∧
    after (exec (.mrecv {} 3 1) receiveState) (fun t => (t.thread 0 0).run) = some .waiting ∧
    after (exec (.mpoll {} 3) receiveState) (reg 3) = some 4 ∧
    after (exec (.mbwait {} 3 1) receiveState) (reg 3) = some 1 ∧
    after (exec (.mbwait {} 3 2) receiveState) (fun t => (t.thread 0 0).run) = some .waiting ∧
    after (exec (.mbpop {} 3) receiveState) (fun t => (reg 3 t, reg 4 t, (t.core 0).mailbox)) = some (11, 12, []) ∧
    after (exec (.mbpop {} 3) (state0 [])) (fun t => (t.thread 0 0).run) = some .waiting :=
  ⟨ready _ _ (by decide +kernel), by decide +kernel⟩

/-- A deposit for core 1 with 63 and 64 entries there; a queue update for a bound and an unbound descriptor. -/
theorem witness_Deposits :
    let s (n : Nat) : State := let z := flying (state0 []) (.deposit 1 11 12 false)
      z.setCore 1 { z.core 1 with mailbox := List.replicate n (1, 2) }
    let u (p : Nat) : State := flying (threadIs (state0 []) fun t => { t with q := t.q.set 3 (some queue0) }) (.qupd 0 p true 1 2)
    ([s 63, s 64].map fun z => after (exec (.mailboxDeposit (.sent 0)) z) fun t =>
      ((t.core 1).mailbox.length, (t.core 1).mbHeld, t.fab.fly.length)) = [some (64, false, 0), some (64, true, 1)] ∧
    after (exec (.mailboxDeposit (.sent 0)) { s 63 with fab := { (s 63).fab with
      fly := (s 63).fab.fly ++ [⟨1, 0, 0, 0, .deposit 1 13 14 false, false⟩] } }) (fun t => (t.core 1).mbHeld) = some true ∧
    after (exec (.mailboxDeposit (.system 1 0x0007000000000005 9)) (state0 [])) (fun t => t.fab.fly.map (·.what)) =
      some [.deposit 1 0xFFFF000000000005 9 true] ∧
    ((u 0).core 0).binder 0 = some (0, 3, queue0) ∧ ((u 64).core 0).binder 64 = none ∧
    ([u 0, u 64].map fun z => after (exec (.queueUpdateArrive 0) z) fun t =>
      ((t.queue at0 3).map (·.filled), t.fab.fly.length)) = [some (some 3, 0), some (some 2, 1)] := by decide +kernel

/-- A copy descriptor at 0x100: 8 bytes from 0x200 to 0x300 with tag 5, and a malformed one at 0x120. -/
def copyState (n : Nat) : State :=
  coreIs (wordsAre (wordsAre (state0 [(4, 0x100), (5, 0x120), (6, 2), (7, 0x8000000000000000), (8, 16), (9, 0x8000000000000020)])
    0x100 [0, 0x200, 0x300, 0x0005000000000008, 5, 0x200, 0x300, 0x0006000000000008]) 0x200 [0x1122334455667788]) fun c => { c with
      copyq := List.replicate n { id := 0, ts := 0, sys := false, words := [0, 0x200, 0x300, 0x0005000000000008] } }

theorem witness_CopyResults :
    Ready (copyState 7) {} ∧ Ready (copyState 8) {} ∧ (copyState 7).copyLoad 0 < 8 ∧ 8 ≤ (copyState 8).copyLoad 0 ∧
    ((copyState 7).sreg at0 8).toNat = 16 ∧ ((copyState 7).sreg at0 9).toNat % 64 ≠ 0 ∧
    ([.copy {} 3 4, .copyb {} 3 4, .cfet {} 3 6 7, .cfetb {} 3 6 7].map fun i => after (exec i (copyState 7)) fun t =>
      ((t.core 0).copyq.length, (t.thread 0 0).run)) =
      [some (8, .running), some (8, .running), some (8, .running), some (8, .running)] ∧
    ([.copy {} 3 4, .copyb {} 3 4, .cfet {} 3 6 7, .cfetb {} 3 6 7].map fun i => after (exec i (copyState 8)) fun t =>
      ((t.thread 0 0).run, reg 3 t)) = [some (.waiting, 0), some (.running, 1), some (.waiting, 0), some (.running, 1)] ∧
    ([.cfet {} 3 8 7, .cfet {} 3 0 7, .cfet {} 3 6 4, .cfet {} 3 6 9].map fun i => after (exec i (copyState 7)) fun t =>
      (t.thread 0 0).cause) = [some 0x02, some 0x02, some 0x02, some 0x60] :=
  ⟨ready _ _ (by decide +kernel), ready _ _ (by decide +kernel), by decide +kernel⟩

theorem witness_CopyPerformed :
    (∀ p : Fin 8, ((copyState 1).core 0).parts[p] = none) ∧ (copyState 1).mem.sram.wf = true ∧ (copyState 1).fab.fly = [] ∧
    ((List.range 8).all fun j => (copyState 1).mayStore 7 0 1 ((copyState 1).absAddr 0 (.pad 0 (0x300 + j))) 1) = true ∧
    after (exec (.copyRequestComplete 0) (copyState 1)) (fun t => (readLE t.mem.sram 0x300 8, t.fab.fly.map (·.what), (t.core 0).copyq)) =
      some (0x1122334455667788, [.deposit 0 0x0005000000000000 8 true], []) ∧
    (copyState 0).copyMalformed 0 { id := 0, ts := 0, sys := false, words := [5, 0x200, 0x300, 8] } = true ∧
    (copyState 0).bandwidthHeld 0 = false := by decide +kernel

/-- A page of global memory that holds code: fetched for segment 2. -/
def fetchState : State :=
  let s := { state0 [] with
    mem := { State.reset.mem with phys := writeSpan [] 0 [0x00, 0x04, 0xFF, 0x50] }
    xl := { State.reset.xl with tlb := [(0, [⟨1, 0, 16, 0, true, true⟩])] } }
  coreIs s fun c => { c with
    copyq := [{ id := 0, ts := 0, sys := false, words := [], cfet := some (2, 0x8000000000000000) }]
    segFetch := c.segFetch.set 2 1 }

theorem witness_FetchLands :
    (match fetchState.fetchBytes 0 0x8000000000000000 with
      | (.ok bs, s1) => bs.length == 4096 && !(s1.core 0).brkmap.getLsbD 63 && s1.mem.code.wf
      | _ => false) = true ∧
    after (exec (.cfetLand 0) fetchState) (fun t => (readLE t.mem.code (codeKey 0 0x2000) 4, (t.core 0).segValid)) =
      some (0x50FF0400, 7) := by decide +kernel

/-! ## Threads and gangs -/

theorem witness_ThreadResults :
    let s := threadIs (state0 [(4, 4), (5, 1), (6, 0x1200), (7, 0x1201)]) id
    let o := s.modThread 0 1 fun t => { t with run := .off }
    let r := s.modThread 0 1 fun t => { t with run := .running }
    let g := s.modThread 0 1 fun t => { t with run := .running, gwidth := 2 }
    Ready s {} ∧ Ready o {} ∧ Ready r {} ∧ Ready g {} ∧ (s.own at0).run = .running ∧ (s.own at0).gwidth = 1 ∧
    ([.thstart {} 3 4 6, .thstart {} 3 5 7, .thstart {} 3 0 6, .thstart {} 3 5 6].map fun i => after (exec i s) (reg 3)) =
      [some 2, some 3, some 1, some 0] ∧
    (after (exec (.thstart {} 3 5 6) o) (reg 3), after (exec (.thstart {} 3 5 6) r) (reg 3)) = (some 2, some 1) ∧
    after (exec (.thstart {} 3 5 6) s) (fun t => ((t.thread 0 1).pc, (t.thread 0 1).run)) = some (0x1200, .running) ∧
    ([.thstop {} 4, .thstop {} 5].map fun i => after (exec i g) fun t => (t.thread 0 0).cause) = [some 0x02, some 0x02] ∧
    after (exec (.thstop {} 5) r) (fun t => (t.thread 0 1).stopReq) = some true ∧
    ([.thstop {} 0, .halt {}].map fun i => after (exec i s) fun t => (t.thread 0 0).run) = [some .stopped, some .stopped] :=
  ⟨ready _ _ (by decide +kernel), ready _ _ (by decide +kernel), ready _ _ (by decide +kernel), ready _ _ (by decide +kernel),
   by decide +kernel⟩

/-- The other core waits in `GANG`, with its width and the address after it; or is in a gang. -/
def blockState (j : Option (Nat × BitVec 16)) (w : Nat) : State :=
  (state0 []).modThread 1 0 fun t => { t with joining := j, gwidth := w, run := if j.isSome then .waiting else .running }

theorem witness_GangResults :
    Ready (blockState none 1) {} ∧ Ready (blockState (some (2, 0x1400)) 1) {} ∧ Ready (blockState none 2) {} ∧
    (blockState none 1).taskOf 0 = some task0 ∧ (blockState none 1).relOf 0 = 0 ∧ task0.crews < 0 - 0 % 4 + 4 ∧
    (∀ i : Fin 2, ((blockState (some (2, 0x1400)) 1).core i).crew = some { task := 7, rel := i.val }) ∧
    after (exec (.gang {} 2) (blockState none 1)) (fun t => (t.thread 0 0).cause) = some 0x02 ∧
    after (exec (.gang {} 1) (blockState none 2)) (fun t => (t.thread 0 0).cause) = some 0x02 ∧
    (let s := (blockState none 1).setCore 1 { (blockState none 1).core 1 with crew := some { task := 7, rel := 1, finished := true } }
     after (exec (.gang {} 1) s) (fun t => (t.thread 0 0).cause)) = some 0x02 ∧
    after (exec (.gang {} 1) (blockState none 1)) (fun t => ((t.thread 0 0).run, (t.thread 0 0).joining)) =
      some (.waiting, some (2, 0x1002)) ∧
    after (exec (.gang {} 1) (blockState (some (2, 0x1400)) 1)) (fun t =>
      [t.thread 0 0, t.thread 1 0].map fun h => (h.gwidth, h.gpos, h.pc)) = some [(2, 0, 0x1002), (2, 1, 0x1002)] :=
  ⟨ready _ _ (by decide +kernel), ready _ _ (by decide +kernel), ready _ _ (by decide +kernel), by decide +kernel⟩

/-- `SPLIT` of a gang of two, by the gang and by its second member in a handler; and `HALT` by that member. -/
theorem witness_GangEnds :
    let g : State := ((state0 []).modThread 0 0 fun t => { t with gwidth := 2 }).modThread 1 0 fun t => { t with
      gwidth := 2
      gpos := 1 }
    let k : Ctx := { at0 with core := 1 }
    let h : State := { g with fetch := some k }.modThread 1 0 fun t => { t with estat := 0x200 }
    (g.own at0).alone = false ∧ (g.own at0).gpos = 0 ∧ ((g.gangOf at0).all (g.waitOver · {})) = true ∧ h.Issues k {} ∧
    (h.own k).gpos < (h.own k).gwidth ∧ (h.own k).gpos ≤ k.core ∧
    ([g, h].map fun s => after (exec (.split {}) s) fun t => [t.thread 0 0, t.thread 1 0].map fun u => (u.gwidth, u.gpos)) =
      [some [(1, 0), (1, 0)], some [(1, 0), (1, 0)]] ∧
    after (exec (.halt {}) h) (fun t => [t.thread 0 0, t.thread 1 0].map (·.live)) = some [false, false] := by
  refine ⟨by decide +kernel, by decide +kernel, by decide +kernel, ⟨rfl, ?_, rfl, ?_⟩, by decide +kernel⟩ <;> decide +kernel

/-- A gang of two whose members hold different values. -/
def gangState : State :=
  ((state0 [(4, 7), (5, 1)]).modThread 0 0 fun t => { t with gwidth := 2 }).modThread 1 0 fun t => { t with
    gwidth := 2
    gpos := 1
    s := t.s.set 4 9 }

theorem witness_GangExecutes :
    gangState.fetch = some at0 ∧ (gangState.own at0).alone = false ∧ (gangState.own at0).gpos = 0 ∧
    gangState.gangOf at0 = [at0, { at0 with core := 1 }] ∧
    ((gangState.gangOf at0).all fun m => gangState.waitOver m {} && decide (∀ n : Fin 32, n = 0 ∨
      gangState.scalarBusy m n.val = false ∧ (gangState.own m).stream false n = none)) = true ∧
    after (exec (.add {} 3 4 5) gangState) (fun t => [t.thread 0 0, t.thread 1 0].map fun h => (h.s[3], h.pc)) =
      some [(8, 0x1002), (9, 0x1002)] := by decide +kernel


/-- Another store of the thread is under way: a store to the own scratchpad goes behind it, and `CAPX` and `THSTART` wait. -/
theorem witness_StoresAhead :
    let w : FlyKind := .store (.sram 0x40100) [1] ⟨0, false, false, 0⟩
    let s := flying (state0 [(3, 5), (4, 0x100), (5, 1), (6, 0x1200)]) w
    let c := flying (capState 0) (.store (.sram 0x40100) [1] ⟨0, false, false, 0x300000010⟩)
    Ready s {} ∧ (holds (s.unpopped.access 0 (s.sreg at0 4 + 0) 8 8 true (sysAccess at0 (s.own at0))) fun (acc, s1) =>
      s1.storeAhead 0 0 acc.loc 8 ⟨acc.home, orderedStore { order := .rel } acc.scope, false, s1.absAddr 0 acc.place⟩) = true ∧
    after (exec (.std { order := .rel } 3 4 0) s) (fun t => (t.fab.fly.length, t.mem.sram)) = some (2, []) ∧
    c.writesDone 0 task0 ⟨7, 1, 0x300000000, 16, 0⟩ = false ∧ after (exec (.capx {} 4 5) c) (fun t => (t.thread 0 0).run) = some .waiting ∧
    s.storesDone at0 = false ∧ after (exec (.thstart {} 3 5 6) s) (fun t => (t.thread 0 0).run) = some .waiting :=
  ⟨ready _ _ (by decide +kernel), by decide +kernel⟩
/-! ## Partitions, courses, slices, remote operations -/

/-- A partition descriptor at 0x200: one dimension of 16 elements of 4 bytes, one block at core 0; a malformed one at 0x280.
Level 1 is in effect. -/
def partState (p : Option Part) : State :=
  coreIs (wordsAre (state0 [(4, 0x200), (5, 0x280), (6, 4), (7, 8), (8, 9), (9, 1)])
    0x200 [9, 0x1000000000, 0, 0, 0x1000, 0x2000, 0x3000, 0, 0, 0, 0, 0, 0, 0, 0, 0, 8]) fun c => { c with
      domEff := 2
      parts := c.parts.set 3 p }

/-- That partition, declared and confirmed, with slab 0 in flight. -/
def part0 : Part :=
  { level := 1, desc := [9, 0x1000000000, 0, 0, 0x1000, 0x2000, 0x3000, 0, 0, 0, 0, 0, 0, 0, 0, 0], splits := [], hash := 0,
    confirmed := true, flight := 1 }

theorem witness_PartitionResults :
    Ready (partState none) {} ∧ Ready (partState (some part0)) {} ∧ (partState none).taskOf 0 = some task0 ∧
    ((partState none).core 0).domEff.getLsbD 1 = true ∧ ((partState none).core 0).parts[3] = none ∧
    (let ws := wordsOf64 16 ((partState none).seenBytes 0 0 (.sram 0x200) 128)
     pdBadFields ws = false ∧ pdPoints ws = 0 ∧ (pdDims ws []).all Dim.rising = true ∧
       (partState none).ownersCrewed 0 1 ws (pdDims ws []) = true ∧ pdTooMany ws (pdDims ws []) = false ∧
       (match ownDims ws (pdDims ws []) 0 with
        | some own => badDepth own == none && (partState none).badPlacement 0 ⟨ws, own⟩ == false
        | none => false) = true) ∧
    ([.pdecl {} 3 4 2, .pdecl {} 3 5 1, .pfree {} 3, .lapx {} 3, .lapw {} 3 9, .pinfo {} 10 3 6, .pinfo {} 10 3 8].map fun i =>
      after (exec i (partState none)) fun t => (t.thread 0 0).cause) =
      [some 0x02, some 0x80, some 0x82, some 0x82, some 0x82, some 0x82, some 0x02] ∧
    after (exec (.pdecl {} 3 4 1) (partState none)) (fun t => ((t.core 0).parts[3]).map fun p => (p.level, p.confirmed)) =
      some (some (1, false)) ∧
    after (exec (.pdecl {} 3 4 1) (partState (some part0))) (fun t => (t.thread 0 0).cause) = some 0x82 ∧
    ([(0x208, 0x1000000001), (0x208, 0x1000000010), (0x230, 0x2030), (0x228, 0x2001)].map fun (a, w) =>
      after (exec (.pdecl {} 3 4 1) (wordsAre (partState none) a [w])) fun t => ((t.thread 0 0).cause, (t.thread 0 0).einfo)) =
      [some (0x81, 0), some (0x81, 4), some (0x87, 0), some (0x80, 0)] ∧
    after (exec (.pinfo {} 10 3 7) (partState none)) (reg 10) = some 0 :=
  ⟨ready _ _ (by decide +kernel), ready _ _ (by decide +kernel), by decide +kernel⟩

theorem witness_PartitionMarks :
    (partState (some part0)).idleV at0 = true ∧ part0.flight &&& ((1 : Word).setWidth 26) ≠ 0 ∧ part0.confirmed = true ∧
    after (exec (.pinfo {} 10 3 6) (partState (some part0))) (reg 10) = some 0x100000000 ∧
    after (exec (.pfree {} 3) (partState (some part0))) (fun t => ((t.core 0).parts[3]).map (·.freeMark)) = some (some true) ∧
    after (exec (.lapx {} 3) (partState (some part0))) (fun t => ((t.core 0).parts[3]).map (·.refreshMark)) = some (some true) ∧
    ([.lapw {} 3 9, .lapw {} 3 0].map fun i => after (exec i (partState (some part0))) fun t => (t.thread 0 0).run) =
      [some .waiting, some .running] ∧
    (part0.geom 0).isSome = true ∧ part0.landsAt 0 ≤ part0.clock ∧ ({ part0 with plan := [⟨0, 0, 5, 1⟩] } : Part).landsAt 0 = 5 ∧
    ([part0, { part0 with plan := [⟨0, 0, 5, 1⟩], clock := 4 }].map fun p =>
      after (exec (.slabLand 0 3 0) (partState (some p))) fun t => ((t.core 0).parts[3]).map (·.flight)) =
      [some (some 0), some (some 1)] := by
  decide +kernel

/-- Ridge state of level 1 at core 0. -/
def ridgeState (r : RidgeSt) : State :=
  coreIs (state0 []) fun c => { c with
    domEff := 2
    ridge := c.ridge.set 1 r }

theorem witness_RidgeResults :
    Ready (ridgeState {}) {} ∧ Ready (ridgeState { arrivals := 1 }) {} ∧ (ridgeState {}).taskOf 0 = some task0 ∧
    ((ridgeState {}).own at0).markAt 1 0x1000 = none ∧ ((ridgeState {}).own at0).rwait = none ∧ task0.level < 2 ∧ 1 ≤ task0.level ∧
    ((ridgeState {}).core 0).domEff.getLsbD 1 = true ∧
    ([.ridgea {} 2 0, .ridge {} 3 2 0].map fun i => after (exec i (ridgeState {})) fun t => (t.thread 0 0).cause) =
      [some 0x90, some 0x90] ∧
    ([.ridgea {} 1 0, .ridge {} 3 1 0, .ridgew {} 3 1].map fun i => after (exec i (ridgeState { arrivals := 1 })) fun t =>
      ((t.thread 0 0).run, ((t.core 0).ridgeAt 1).arrivals)) = [some (.waiting, 1), some (.waiting, 1), some (.waiting, 1)] ∧
    ([.ridgea {} 1 0, .ridge {} 3 1 0, .ridgew {} 3 1].map fun i => after (exec i (ridgeState {})) fun t =>
      ((t.thread 0 0).run, ((t.core 0).ridgeAt 1).arrivals, (t.thread 0 0).pc)) =
      [some (.running, 1, 0x1002), some (.waiting, 1, 0x1000), some (.running, 0, 0x1002)] :=
  ⟨ready _ _ (by decide +kernel), ready _ _ (by decide +kernel), by decide +kernel⟩

/-- A `RIDGE` that has arrived: its release has not come, has come, or leaves a cause. -/
theorem witness_RidgeWaits :
    let m (r : RidgeSt) := threadIs (ridgeState r) fun t => { t with marks := [⟨1, 1, 0x1000, none⟩] }
    Ready (m { arrivals := 1 }) {} ∧ Ready (m { arrivals := 1, released := 1, status := 77 }) {} ∧
    Ready (ridgeState { arrivals := 1, released := 1, owed := [⟨1, 0x91, none⟩] }) {} ∧
    after (exec (.ridge {} 3 1 0) (m { arrivals := 1 })) (fun t => (t.thread 0 0).run) = some .waiting ∧
    after (exec (.ridge {} 3 1 0) (m { arrivals := 1, released := 1, status := 77 })) (fun t =>
      (reg 3 t, (t.thread 0 0).marks, (t.thread 0 0).pc)) = some (77, [], 0x1002) ∧
    after (exec (.ridgew {} 3 1) (ridgeState { arrivals := 1, released := 1, owed := [⟨1, 0x91, none⟩] })) (fun t =>
      ((t.thread 0 0).cause, ((t.core 0).ridgeAt 1).owed)) = some (0x91, []) :=
  ⟨ready _ _ (by decide +kernel), ready _ _ (by decide +kernel), ready _ _ (by decide +kernel), by decide +kernel⟩

theorem witness_RidgeReleases :
    let c1 (s : State) (r : RidgeSt) : State := s.setCore 1 { s.core 1 with
      domEff := 2
      ridge := (s.core 1).ridge.set 1 r }
    let a := c1 (ridgeState { arrivals := 1 }) {}
    let b := c1 (ridgeState { arrivals := 1 }) { arrivals := 1 }
    let z : State := { state0 [] with
      fab := { State.reset.fab with comms := [(5, { ctl := 0x0002000000000001, ranks := [0, 1], tokens := [] })] } }
    a.ridgeReady 0 1 = false ∧ b.ridgeReady 0 1 = true ∧ b.members 0 1 = [0, 1] ∧
    after (exec (.ridgeRelease 1 0) a) (fun t => ((t.core 0).ridgeAt 1).released) = some 0 ∧
    after (exec (.ridgeRelease 1 0) b) (fun t => [0, 1].map fun c => (((t.core c).ridgeAt 1).released, (t.core c).course[1])) =
      some [(1, 1), (1, 1)] ∧
    ((tblGet z.fab.comms 5 {}).ctl.getLsbD 0 = true ∧ ((tblGet z.fab.comms 5 {}).others) = [1]) ∧
    after (exec (.ridgeTokenArrive 5 1 ⟨3, 9⟩) z) (fun t => tblGet (tblGet t.fab.comms 5 {}).tokens 1 []) = some [(3, 9)] := by decide +kernel

/-- A timetable of level 1 with one send of one flit to core 1 at 0x200, one of a bad peer at 0x240, and an empty one. -/
def tableState : State :=
  coreIs (wordsAre (wordsAre (state0 [(4, 0x200), (5, 0x240), (6, 0x280), (7, 0x3BFF8)]) 0x200 [0x0000A00020000001, 0x0000000040100100])
    0x240 [0x0000A00020000001, 0x0000000000100100, 0, 0, 0, 0, 0, 0, 0x20000000]) fun c => { c with domEff := 2 }

theorem witness_ExchangeResults :
    Ready tableState {} ∧
    ([.xtt {} 5, .xtt {} 4].map fun i => after (exec i tableState) fun t =>
      ((t.thread 0 0).cause, (((t.core 0).ridgeAt 1).table).map fun z => (z.window, z.entries.length))) =
      [some (0x91, none), some (0, some (10, 1))] ∧
    after (exec (.xtt {} 6) tableState) (fun t => (((t.core 0).ridgeAt 1).table, (t.thread 0 0).cause)) = some (none, 0) ∧
    after (exec (.xtt {} 7) (wordsAre tableState 0x3BFF8 [0x0000A00020000001])) (fun t => (t.thread 0 0).cause) = some 0x91 :=
  ⟨ready _ _ (by decide +kernel), by decide +kernel⟩

/-- One flit, two that meet, and one that finds no receive unit, at cycle 5. -/
theorem witness_ExchangeFlits :
    let f : XFlit := ⟨0, 0, 1, 0x100, 1, 3, 5, some (List.replicate 16 7)⟩
    let w : Window := ⟨1, 4, 20, [⟨1, true, 0, 1, 0x20⟩], []⟩
    let s (l : List XFlit) (ws : List Window) : State :=
      let z : State := { state0 [] with
        cycle := 5
        fab := { State.reset.fab with flits := l } }
      z.setCore 1 { z.core 1 with ridge := (z.core 1).ridge.set 1 { windows := ws } }
    ((s [f] [w]).core 1).receiveUnit 5 = some 0x20 ∧ ((s [f] []).core 1).receiveUnit 5 = none ∧ (s [f] [w]).mem.sram.wf = true ∧
    after (exec (.exchangeFlitArrive 0) (s [f] [w])) (fun t => (readLE t.mem.sram (padKey 1 + 0x200) 2, t.fab.flits)) =
      some (0x707, []) ∧
    ([s [f] [], s [f, { f with id := 1, src := 2 }] [w]].map fun z => after (exec (.exchangeFlitArrive 0) z) fun t =>
      (((t.core 1).ridgeAt 1).coll, t.fab.flits, t.mem.sram)) = [some (true, [], []), some (true, [], [])] := by decide +kernel

/-- The tile's bank and a declaration of 64 bytes of 32-bit integers at level 1. -/
def sliceState (l : List SliceRegion) : State :=
  { state0 [(4, 0x300000000), (5, 0x2000000040), (6, 0x1000000000), (7, 0x10000000000), (8, 0x2000000041), (9, 15), (10, 16), (11, 0x100)] with
    fab := { State.reset.fab with slices := l } }

def slice0 : SliceRegion := { task := 7, base := 0x300000000, size := 64, kind := 0, level := 1, declarer := 0, det := false }

theorem witness_SliceResults :
    Ready (sliceState []) {} ∧ Ready (sliceState [slice0]) {} ∧ (sliceState []).taskOf 0 = some task0 ∧
    (sliceState []).bankAddr 0 0x300000000 = some 0x300000000 ∧ bankOf 0x300000000 = some (1, 0) ∧
    sliceInvalid 1 1 0 64 0x300000000 1 = false ∧ sliceInvalid 1 1 0 65 0x300000000 1 = true ∧
    ([.sldecl {} 4 7, .sldecl {} 4 8, .sldecl {} 4 6, .rfold {} 4, .radd {} 11 5, .raddv {} 11 2, .amrg {} 5 11 2 9, .amrg {} 5 4 2 10].map
      fun i => after (exec i (sliceState [])) fun t => (t.thread 0 0).cause) =
      [some 0x93, some 0x93, some 0x93, some 0x93, some 0x02, some 0x02, some 0x02, some 0x02] ∧
    after (exec (.sldecl {} 4 5) (sliceState [slice0])) (fun t => (t.thread 0 0).cause) = some 0x94 ∧
    after (exec (.sldecl {} 4 5) (sliceState [])) (fun t => t.fab.slices) = some [slice0] ∧
    after (exec (.sldecl {} 4 6) (sliceState [slice0])) (fun t => t.fab.slices) = some [] :=
  ⟨ready _ _ (by decide +kernel), ready _ _ (by decide +kernel), by decide +kernel⟩

theorem witness_SliceContributions :
    let c : Contrib := ⟨0, 7, 0, 0, 0, 0x300000004, .elem 5⟩
    let s (l : List SliceRegion) : State :=
      let z := flying (sliceState l) (.contrib c)
      { z with fab := { z.fab with slices := l } }
    let r : SliceRegion := { slice0 with acc := [(1, [7])] }
    ([.radd {} 4 9, .raddv {} 4 2, .amrg {} 5 4 2 9].map fun i => after (exec i (sliceState [])) fun t => t.fab.fly.length) =
      [some 1, some 1, some 1] ∧
    slice0.covers 7 0x300000004 = true ∧ r.admits c = true ∧ { r with det := true }.admits c = true ∧
    after (exec (.sliceContributionArrive 0) (s [])) (fun t => (t.thread 0 0).due.lates) = some [⟨0, 0x96, 0, false⟩] ∧
    after (exec (.sliceContributionArrive 0) (s [r])) (fun t => t.fab.slices.map (·.acc)) = some [[(1, [12])]] ∧
    after (exec (.sliceContributionArrive 0) (s [{ r with det := true }])) (fun t => t.fab.slices.map (·.buffered)) = some [[c]] ∧
    (s [r]).mayStore 7 0 1 0x300000004 4 = true ∧ (s [r]).storesDone at0 = true ∧
    after (exec (.rfold {} 4) (sliceState [r])) (fun t => (t.fab.slices.map (·.acc), readLE t.mem.sram (bankKey 1 0 4) 4)) =
      some ([[]], 7) ∧
    after (exec (.rfold {} 4) (flying (sliceState [r]) (.store (.cell 8) [1] ⟨0, false, false, 0⟩))) (fun t => (t.thread 0 0).run) =
      some .waiting ∧
    (let h : State := { sliceState [r] with fab := { (sliceState [r]).fab with caps := [⟨7, 1, 0x300000000, 8, 1⟩] } }
     after (exec (.rfold {} 4) h) (fun t => ((t.thread 0 0).cause, (t.thread 0 0).einfo))) = some (0x68, 0x300000004) := by decide +kernel

/-- An `RFAA` descriptor at 0x100 for handle 0x105 of this device, and one of reserved kind at 0x120; the counter holds 5. -/
def remoteState (a : List Armed) : State :=
  coreIs (wordsAre (state0 [(4, 0x100), (5, 0x120), (6, 5), (7, 6), (8, 0x8000000000000100), (9, 0x3000000040), (10, 0x105),
    (11, 0x106), (12, 0x100000), (13, 0x8000000000000101)]) 0x100 [2, 3, 8, 0, 4, 0, 0, 0]) fun c => { c with
      h := c.h.set 3 5
      armed := a }

theorem witness_RemoteResults :
    Ready (remoteState []) {} ∧ (remoteState []).taskOf 0 = some task0 ∧
    (let ws (a : Nat) := wordsOf64 4 ((remoteState []).seenBytes 0 0 (.sram a) 32)
     rdBad (ws 0x100) = false ∧ rdKind (ws 0x100) = 2 ∧ rdBad (ws 0x120) = true) ∧ (remoteState []).freePost = some 0 ∧
    canonical 0x8000000000000100 = true ∧ canonical 0x100 = false ∧
    ([.rfaa {} 5, .rst {} 4, .rfence {} 4, .trig {} 20 5 3 6, .cpost {} 20 4 9, .crevoke {} 12, .crevoke {} 11].map fun i =>
      after (exec i (remoteState [])) fun t => (t.thread 0 0).cause) =
      [some 0x02, some 0x02, some 0x02, some 0x02, some 0x02, some 0x02, some 0x02] ∧
    ([.rfaa {} 4, .trig {} 20 4 3 6, .trig {} 20 4 3 7].map fun i => after (exec i (remoteState [])) fun t =>
      (t.fab.fly.length, (t.core 0).armed.length, reg 20 t)) = [some (1, 0, 0), some (1, 0, 1), some (0, 1, 0)] ∧
    ([.hcnt {} 20 6 3, .hcnts {} 20 6 3, .hwait {} 20 6 3, .cpost {} 20 8 9].map fun i => after (exec i (remoteState [])) (reg 20)) =
      [some 10, some 0, some 5, some 0] ∧
    after (exec (.hwait {} 20 7 3) (remoteState [])) (fun t => (t.thread 0 0).run) = some .waiting ∧
    after (exec (.cpost {} 20 13 9) (remoteState [])) (fun t => (t.thread 0 0).cause) = some 0x60 ∧
    after (exec (.trig {} 20 4 3 7) (remoteState ((List.range 32).map fun n => ⟨n, [], 3, 9, 0⟩))) (reg 20) = some 2 :=
  ⟨ready _ _ (by decide +kernel), by decide +kernel⟩

/-- A posted slot 1 of generation 5, and an `RFAA` and an `RFENCE` for it under way, checked or not, or ended. -/
def peerState (r : RemoteOp) : State :=
  let s := flying (state0 [(10, 0x105)]) (.remote r)
  { s with
    boot := { s.boot with devnum := 9 }
    mem := { s.mem with phys := writeSpan [] 0x108 [40] }
    xl := { s.xl with tlb := [(0, [⟨1, 0, 16, 0, true, false⟩])] }
    fab := { s.fab with posts := [(1, ⟨5, true, 7, 0, 1, 0x8000000000000100, 64, true, true, 0, 3⟩)] } }

def remote0 : RemoteOp := { kind := 2, dev := 9, words := [0x0009001050000002, 3, 8, 0], tenant := 0, task := 7, mreg := 2 }

/-- An event leaves this of the operation and of the posted word. -/
def peerAfter (r : RemoteOp) (i : Instr) (q : Bool × Option (BitVec 8) × Word) (n : Nat) : Bool :=
  match exec i (peerState r) with
  | .next t => readLE t.mem.phys 0x108 1 == n && t.fab.fly.all fun f => match f.what with
      | .remote z => decide ((z.checked, z.status, z.result) = q)
      | _ => false
  | _ => false

theorem witness_RemoteArrivals :
    rdHandle remote0.words = 0x105 ∧ (peerState remote0).handleCheck 0x105 0 2 8 8 = none ∧
    (peerState remote0).handleCheck 0x106 0 2 8 8 = some 2 ∧ (peerState remote0).routeTo 8 = none ∧
    (((peerState { remote0 with checked := true }).postedWord remote0).map (·.2.2)) = some 0x8000000000000108 ∧
    (holds ((peerState remote0).globalBytes 1 0x8000000000000108 8) fun (bs, s1) => leNat bs == 40 &&
      holds (s1.checkedWrite (some (7, 0)) 1 0x8000000000000108 (leBytes 8 43)) fun _ => true) = true := by decide +kernel

theorem test_remote_ends :
    peerAfter { remote0 with dev := 8 } (.remoteRequestArrive 0 none) (false, some 9, 0) 40 = true ∧
    peerAfter remote0 (.remoteRequestArrive 0 none) (true, none, 0) 40 = true ∧
    peerAfter { remote0 with checked := true } (.rfaaPerform 0) (true, some 0, 40) 43 = true ∧
    peerAfter { remote0 with checked := true, kind := 1 } (.rfenceFlagLand 0) (true, some 0, 8) 3 = true ∧
    peerAfter { remote0 with checked := true, words := [0x0009001060000002, 3, 8, 0] } (.rfaaPerform 0) (true, some 7, 0) 40 = true := by decide +kernel

theorem test_remote_completion :
    after (exec (.remoteCompletionArrive 0 0) (peerState { remote0 with checked := true, status := some 0, result := 40 }))
      (fun t => ((t.thread 0 0).m[2], t.fab.fly.length)) = some (⟨40, true⟩, 0) ∧
    after (exec (.crevoke {} 10) (peerState remote0)) (fun t => let z := tblGet t.fab.posts 1 {}; (z.live, z.gen)) =
      some (false, 6) := by decide +kernel

/-- R396: a chunk of no bytes ends a transfer from another device, and the flag behind it lands. -/
theorem test_transfer_stopped :
    let r : RemoteOp := { remote0 with kind := 0, words := [0x0009001050000000, 0, 8, 8], checked := true, foreign := some (8, 1, 2) }
    (after (exec (.rstChunkLand 0 0 []) (peerState r)) fun t => (t.fab.fly.length, t.out.length)) = some (0, 0) ∧
    (after (exec (.rstChunkLand 0 0 [1]) (peerState r)) fun t => t.fab.fly.length) = some 1 := by decide +kernel

/-- An operation to device 8 and a transfer of eight bytes; a port that leads there; another operation behind one; and an
operation whose posting task is switched out. -/
def farOp : RemoteOp := { remote0 with dev := 8 }
def moveOp : RemoteOp := { remote0 with kind := 0, words := [0x0009001050000000, 0x100, 8, 8] }
def linked (s : State) : State := { s with ports := [(0, { state := .up, peer := 8 })] }
def behindOp (r q : RemoteOp) : State :=
  let s := linked (peerState r)
  { s with fab := { s.fab with fly := s.fab.fly ++ [⟨1, 0, 0, 0, .remote q, false⟩] } }
def awayState (r : RemoteOp) : State := { peerState r with sched := State.reset.sched }

/-- How far the operations under way have come. -/
def opsOf (t : State) : List (Bool × Bool × Option (BitVec 8)) := t.fab.fly.filterMap fun f => match f.what with
  | .remote z => some (z.sent, z.checked, z.status)
  | _ => none

/-- Sent; behind an earlier transfer's request; and past the peer's checks. -/
theorem witness_RemoteRequests :
    (linked (peerState farOp)).routeTo 8 = some 0 ∧
    after (exec (.remoteRequestArrive 0 none) (linked (peerState farOp))) opsOf = some [(true, false, none)] ∧
    after (exec (.remoteRequestArrive 0 none) (linked (peerState farOp))) (fun t => (t.port 0).outq.length) = some 1 ∧
    after (exec (.remoteRequestArrive 1 none) (behindOp { moveOp with dev := 8 } { farOp with kind := 1 })) opsOf =
      some [(false, false, none), (false, false, none)] ∧
    after (exec (.remoteRequestArrive 0 none) (peerState { moveOp with dev := 8, sent := true })) opsOf =
      some [(true, true, none)] := by decide +kernel

/-- One whose task is switched out is kept; a chunk of this device's lands and counts. -/
theorem witness_RemoteChunks :
    (awayState { remote0 with checked := true }).mustKeep 0 0 { remote0 with checked := true } = true ∧
    after (exec (.rfaaPerform 0) (awayState { remote0 with checked := true })) (fun t => t.fab.kept) = some [⟨0, 0, leBytes 8 3⟩] ∧
    (peerState remote0).mustKeep 0 0 remote0 = false ∧ ((peerState remote0).postedSlot remote0).isSome = true ∧
    moveOp.chunkCount = 1 ∧ ((peerState moveOp).keptAt 0 0).isNone = true ∧
    (match (peerState { moveOp with checked := true }).readChunk ⟨0, 0, 0, 0, .msg 0 ⟨0, 0, 0, 0⟩, false⟩ moveOp 0 with
      | .bytes _ bs => bs.length
      | _ => 0) = 8 ∧
    after (exec (.rstChunkLand 0 0 []) (peerState { moveOp with checked := true })) opsOf =
      some [(false, true, some 0)] ∧
    after (exec (.rstChunkLand 0 0 []) (peerState { moveOp with checked := true })) (fun t => (t.core 0).h[3]) = some 8 := by decide +kernel
/-! ## The package: boot, ports, registers, translation -/

/-- Some source of each kind under some fused field; and while the ROM fetches, one of the cases of the claim holds whatever
the fused field is. Which check an image passes depends on the fused key and the signature, so on no known value. -/
theorem witness_BootEvents :
    State.reset.boot.phase = .off ∧ (bootSources 0)[0]? = some false ∧ (bootSources 3)[0]? = some true ∧
    ({ State.reset with boot := { State.reset.boot with phase := .stage0 } } : State).boot.phase = .stage0 ∧
    4 ≤ (7 : Fin 8).val ∧ (3 : Fin 8).val < 4 ∧ State.reset.ports = [] := by decide +kernel

theorem witness_BootFetch : ∀ s : State, s = { State.reset with boot := { State.reset.boot with phase := .fetching 0 15 } } →
    s.boot.source = some false ∨ (s.boot.source = some true ∧ s.stagedImage = none) := by
  intro s h
  subst h
  show (bootSources Config.bootSource)[0]? = some false ∨ ((bootSources Config.bootSource)[0]? = some true ∧ _)
  generalize Config.bootSource = f
  have : ∀ g : BitVec 2, (bootSources g)[0]? = some false ∨ (bootSources g)[0]? = some true := by decide
  rcases this f with h | h
  · exact .inl h
  · exact .inr ⟨h, by decide +kernel⟩

theorem witness_BootRest :
    let s : State := { State.reset with boot := { State.reset.boot with phase := .stage0, minVersion := 7 } }
    s.boot.minVersion.toNat < (8 : BitVec 32).toNat ∧ (7 : BitVec 32).toNat ≤ s.boot.minVersion.toNat ∧
    s.boot.phase ≠ .off ∧ after (exec .powerOnReset s) (fun t => t.boot.minVersion) = some 7 ∧
    after (exec .powerOnReset s) (fun t => t.boot.phase) = some (.fetching 0 0) ∧
    after (exec (.securityVersionRaise 8) s) (fun t => t.boot.minVersion) = some 8 ∧
    after (exec (.securityVersionRaise 6) s) (fun t => t.boot.minVersion) = some 7 ∧
    after (exec (.devnumWrite 5) { s with ports := [(3, { ctl := 1 })] }) (fun t => t.boot.devnum) = some 0xFFFF ∧
    after (exec (.devnumWrite 5) s) (fun t => t.boot.devnum) = some 5 ∧
    after (exec (.powerlimWrite 1199) s) (fun t => t.boot.powerLim) = some 1200 ∧
    after (exec (.powerlimWrite 2401) s) (fun t => t.boot.powerLim) = some 2400 := by decide +kernel

/-- Port 3 in some state, its partner able to do everything. -/
def portState (l : LinkPort) : State :=
  { State.reset with
    boot := { State.reset.boot with devnum := 9 }
    ports := [(3, l)] }

def partner0 : Partner := ⟨true, true, true, true, true, true, false, 5⟩

theorem witness_PortEvents :
    (portState {}).port 3 = {} ∧ ({} : LinkPort).ctl.getLsbD 0 = false ∧ partner0.lane0 = true ∧ partner0.devnum ≠ 0xFFFF ∧
    (portState {}).boot.devnum ≠ 0xFFFF ∧ partner0.devnum ≠ (portState {}).boot.devnum ∧
    ({ ctl := 0x81, attempt := 7 } : LinkPort).attempt < ({ ctl := 0x81, attempt := 7 } : LinkPort).attempts ∧
    ({ ctl := 0x81, attempt := 8 } : LinkPort).attempts ≤ ({ ctl := 0x81, attempt := 8 } : LinkPort).attempt ∧
    ({ ctl := 0x89 } : LinkPort).ctl.getLsbD 3 = true ∧
    (({ lane0 := true } : LinkPort).agreeWith partner0 false).isSome = true ∧
    ([(.detect : PortState), .equalise, .pair, .deskew, .agree, .identify].map fun st =>
      after (exec (.trainingStepComplete 3 partner0) (portState { ctl := 0x81, state := st, lane0 := true, lane1 := true })) fun t =>
        (t.port 3).state) =
      [some .equalise, some .pair, some .deskew, some .agree, some .identify, some .up] ∧
    ([7, 8].map fun n => after (exec (.trainingStepTimeout 3 2) (portState { ctl := 0x81, state := .pair, attempt := n })) fun t =>
      ((t.port 3).state, (t.port 3).failCode)) = [some (.detect, 3), some (.failed, 3)] ∧
    ([(0x81, 7), (0x89, 6), (0x89, 7), (0x89, 1)].map fun (c, n) =>
      after (exec (.trainingStepTimeout 3 n) (portState { ctl := c, state := .identify })) fun t => (t.port 3).failCode) =
      [some 6, some 6, some 8, some 8] ∧
    ([5, 9, 0xFFFF].map (portState {}).badNumbers) = [false, true, true] ∧
    ([5, 9].map fun d => after (exec (.identityReportReceive 3 d []) (portState { ctl := 0x89, state := .identify })) fun t =>
      (t.port 3).failCode) = [some 7, some 6] ∧
    after (exec (.portEnable 3 0x81) (portState {})) (fun t => (t.port 3).state) = some .detect ∧
    checkReport { ctl := 0x89 } 5 [] = none := by decide +kernel

theorem witness_PortTraffic :
    let f (n : BitVec 12) : Flit := ⟨n, 0, 0⟩
    let up : LinkPort := { ctl := 0x81, state := .up, peer := 5, recvSeq := 4, retry := [f 1, f 2, f 3], rate512 := true, width2 := true }
    let many : LinkPort := { up with resentWin := 65 }
    up.state = .up ∧ (f 4).seq = up.recvSeq ∧ (f 5).seq ≠ up.recvSeq ∧ up.retry = [f 1] ++ f 2 :: [f 3] ∧ up.width2 = true ∧
    up.rate512 = true ∧ up.inService = true ∧ (portState up).earlyFull = false ∧
    ([f 4, f 5, f 3].map fun g => after (exec (.flitReceive 3 g true) (portState up)) fun t => ((t.port 3).delivered, t.out)) =
      [some ([f 4], [.ack 3 4, .credit 3 0 1]), some ([], [.nak 3 4]), some ([], [])] ∧
    after (exec (.flitReceive 3 (f 4) false) (portState up)) (fun t => t.out) = some [.nak 3 4] ∧
    (let z : State := ((portState up).flitArrives 3 ⟨4, 2, 0⟩ true true); ((z.port 3).withheld[2], z.out)) = (1, [.ack 3 4]) ∧
    ((portState up).transmit 3 0 7).out = [] ∧
    (let z := (portState { up with credits := up.credits.set 0 2 }).transmit 3 0 7
     ((z.port 3).credits[0], (z.port 3).sendSeq, (z.port 3).retry.length)) = (1, 1, 4) ∧
    ([(up, up.resends), (many, 65), (many, 64), ({ many with threshold := true }, 65)].map fun (l, n) =>
      after (exec (.errorThreshold 3 n) (portState l)) fun t => (t.boot.logCnt, (t.port 3).threshold)) =
      [some (0, false), some (1, true), some (0, false), some (0, true)] ∧
    after (exec (.flitAckReceive 3 2) (portState up)) (fun t => (t.port 3).retry) = some [f 3] ∧
    after (exec (.flitResend 3 2) (portState up)) (fun t => t.out.length) = some 2 ∧
    after (exec (.linkDown 3) (portState up)) (fun t => ((t.port 3).state, (t.port 3).down)) = some (.detect, some 5) := by
  decide +kernel

theorem witness_DeviceRegisters :
    let f : Fly := ⟨3, 0, 0, 10, .msg 1 ⟨1, 2, 9, 0⟩, false⟩
    let s : State := { State.reset with
      cycle := 1034
      fab := { State.reset.fab with fly := [⟨2, 0, 0, 20, .msg 1 ⟨0, 2, 9, 0⟩, false⟩, f] } }
    let r : Rec := { id := 4, port := 0, words := [], stamp := 0, t0 := 0, phase := .waiting, deferred := some 0 }
    let z : State := { State.reset with
      cycle := 2 ^ 20
      sched := { State.reset.sched with recs := [r] } }
    s.fab.fly.find? (·.id == f.id) = some f ∧ f.cyc + 1024 ≤ s.cycle ∧ ({ s with cycle := 1033 } : State).cycle < f.cyc + 1024 ∧
    after (exec (.arbiterAgeLimit 3) s) (fun t => t.fab.fly.map fun f => (f.id, f.aged)) = some [(2, false), (3, true)] ∧
    ([1023, 1024].map fun c => after (exec (.budgetBoundary [] []) { s with
      cycle := c
      bud := { s.bud with tbud := [(0, 9)] } }) fun t => (t.bud.period, tblGet t.bud.tbudE 0 0)) = [some (0, 0), some (1, 9)] ∧
    r.deferred = some 0 ∧ 0 + 2 ^ 20 ≤ z.cycle ∧
    after (exec (.energyDeferExpiry 4) z) (fun t => t.sched.recs.any t.energyDeferred) = some false ∧
    (1840 : BitVec 16).toInt = 1840 ∧
    after (exec (.monitorUpdate ⟨List.replicate 256 1839, [], []⟩) s) (fun t => t.boot.phase) = some .off ∧
    after (exec (.monitorUpdate ⟨List.replicate 256 1840, [], []⟩) s) (fun t => t.boot.phase) = some .thermal := by decide +kernel

/-- R38: the read-only words of a port's page in BAR2. -/
theorem test_port_page :
    let s := State.reset.setSub 3 { refusals := 2, code := 5, accepted := 7, occupied := 64 }
    [0x3040, 0x3048, 0x304C, 0x3044, 0x2040].map s.bar2 = [0x20005, 64, 7, 0, 0] := by decide +kernel

/-- A page table of four levels with one writable leaf of 64 KiB at 0x10000, for address 0 of ASID 1 (R105). -/
def tables : Memory :=
  [(0x80008, 0x2001), (0x2000, 0x4001), (0x4000, 0x6001), (0x6000, 0x8001), (0x8000, 0x10007)].foldl
    (fun m (a, e) => writeSpan m a (leBytes 8 e)) []

theorem witness_TranslationEvents :
    let e : TlbEntry := ⟨1, 0, 16, 0, true, false⟩
    let s : State := { State.reset with xl := { State.reset.xl with tlb := [(0, [e, { e with asid := 2 }])], inval := some ⟨1, 0, 2, 0⟩ } }
    let z : State := { State.reset with
      mem := { State.reset.mem with phys := tables }
      xl := { State.reset.xl with rootE := 0x80001 } }
    e.covers 1 0 = true ∧ e.covers 1 0x10000 = false ∧ e.covers 2 0 = false ∧ State.reset.xl.inval = none ∧
    ([(0 : Nat), 0x10000].map fun a => match walk tables 0x80001 1 a with | .error c => (c, 0) | .ok l => (0, l.pa)) =
      [(0, 0x10000), (0x65, 0)] ∧
    after (exec (.translationWalkComplete 1 0x8000000000000123) z) (fun t => t.xl.tlb) =
      some [(0, [⟨1, 0, 16, 0x10000, true, false⟩])] ∧
    after (exec .xlinvAll s) (fun t => t.xl.dropped) = some true ∧
    (let w : State := { s with fab := { s.fab with fly := [⟨0, 0, 0, 0, .store (.cell 8) [1] ⟨0, false, false, 0⟩, false⟩] } }
     (s.invalWaits ⟨1, 0, 2, 0⟩, w.invalWaits ⟨1, 0, 2, 0⟩)) = (false, true) ∧
    after (exec .xlinvComplete s) (fun t => (t.xl.tlb, t.xl.inval)) = some ([(0, [e])], none) := by decide +kernel

/-! ## Writes under a translation that covers the first GiB -/

/-- Every station holds a translation of the first GiB of address space 1. -/
def cached : Xlat := { tlb := (List.range 64).map fun i => (i, [⟨1, 0, 30, 0, true, false⟩]) }

theorem cached_stations : ∀ st : Fin 64, tblGet cached.tlb st [] = [⟨1, 0, 30, 0, true, false⟩] ∧
    tblSet cached.tlb st [⟨1, 0, 30, 0, true, false⟩] = cached.tlb := by decide +kernel

theorem cached_cell (s : State) (n : Nat) (hs : s.xl = cached) (hn : n < 2 ^ 30) :
    s.globalCell 1 (BitVec.ofNat 64 (2 ^ 63 + n)) true = .ok (n, s) := by
  have ht : (BitVec.ofNat 64 (2 ^ 63 + n)).toNat = 2 ^ 63 + n := by rw [BitVec.toNat_ofNat]; omega
  have hf : fieldOf (2 ^ 63 + n) 62 56 = 0 := by simp only [fieldOf, Nat.shiftRight_eq_div_pow]; omega
  have hv : (2 ^ 63 + n) % 2 ^ 56 = n := by omega
  have hst : stationOf n < 64 := by simp only [stationOf, fieldOf, Nat.shiftRight_eq_div_pow]; omega
  obtain ⟨h1, h2⟩ := cached_stations ⟨stationOf n, hst⟩
  have hc : (⟨1, 0, 30, 0, true, false⟩ : TlbEntry).covers 1 n = true := by
    simp only [TlbEntry.covers, Nat.div_eq_of_lt hn]; decide
  have hx : cached.touch n ⟨1, 0, 30, 0, true, false⟩ = cached := by
    simp only [Xlat.touch] at *
    rw [h1]
    exact congrArg (fun t => { cached with tlb := t }) h2
  have htr : s.translate 1 n = .ok (⟨1, 0, 30, 0, true, false⟩, s) := by
    simp only [State.translate, hs, h1, List.find?, hc, hx]
    rw [← hs]
  have hp : physOk n = true := by
    have : n < lpddrEnd := by simp only [lpddrEnd]; omega
    simp [physOk, this]
  simp only [State.globalCell, ht, hf, hv, htr]
  have hm : n % 1073741824 = n := Nat.mod_eq_of_lt (by omega)
  simp [hm, hp, dramCell]

theorem cached_targets (f : Nat) : ∀ (s : State) (n : Nat) (bs : List Byte), s.xl = cached → n + bs.length ≤ 2 ^ 30 →
    ∃ l, State.globalTargets f s 1 (BitVec.ofNat 64 (2 ^ 63 + n)) bs = .ok (l, s) := by
  induction f with
  | zero => exact fun s n bs _ _ => ⟨[], rfl⟩
  | succ f ih =>
    intro s n bs hs hn
    by_cases hb : bs = []
    · exact ⟨[], by simp [State.globalTargets, hb]⟩
    have hl : 0 < bs.length := List.length_pos_iff.2 hb
    have hc := cached_cell s n hs (by omega)
    have hbit : (BitVec.ofNat 64 (2 ^ 63 + n)).getLsbD 63 = true := by
      rw [BitVec.getLsbD_ofNat, Nat.testBit_eq_decide_div_mod_eq]; simp; omega
    have hk : ∀ k : Nat, BitVec.ofNat 64 (2 ^ 63 + n) + BitVec.ofNat 64 k = BitVec.ofNat 64 (2 ^ 63 + (n + k)) := by
      intro k; rw [← BitVec.ofNat_add, Nat.add_assoc]
    obtain ⟨l, h⟩ := ih s (n + min bs.length (unitLeft (BitVec.ofNat 64 (2 ^ 63 + n)).toNat))
      (bs.drop (min bs.length (unitLeft (BitVec.ofNat 64 (2 ^ 63 + n)).toNat))) hs (by rw [List.length_drop]; omega)
    refine ⟨(n, bs.take (min bs.length (unitLeft (BitVec.ofNat 64 (2 ^ 63 + n)).toNat))) :: l, ?_⟩
    simp only [State.globalTargets, List.isEmpty_iff, hb, hbit, hc, hk, h]
    rfl

theorem cached_write (s : State) (n : Nat) (bs : List Byte) (hs : s.xl = cached) (hn : n + bs.length ≤ 2 ^ 30) :
    ∃ z, s.globalWrite 1 (BitVec.ofNat 64 (2 ^ 63 + n)) bs = .ok z ∧ z.xl = cached := by
  obtain ⟨l, h⟩ := cached_targets (bs.length / 4096 + 2) s n bs hs hn
  refine ⟨l.foldl (fun s (c, b) => s.writePhys c b) s, by simp only [State.globalWrite, h], ?_⟩
  have : ∀ (l : List (Nat × List Byte)) (s : State), (l.foldl (fun s (c, b) => s.writePhys c b) s).xl = s.xl := by
    intro l
    induction l with
    | nil => exact fun _ => rfl
    | cons p l ih => exact fun s => ih (s.writePhys p.1 p.2)
  rw [this, hs]

theorem cached_context (s : State) (mib : Nat) (l : List (Nat × List Byte)) (hs : s.xl = cached)
    (ht : tblGet s.bud.tctx 0 0 = 0x8000000000000064) (hl : ∀ p ∈ l, mib * 2 ^ 20 + p.1 + p.2.length ≤ 2 ^ 30) :
    ∃ z, s.writeContext 1 0 mib l = (z, true) := by
  have hb : ∀ o : Nat, ((0x8000000000000064 : Word) &&& 0xFFFFFFFFFFF00000) + BitVec.ofNat 64 o = BitVec.ofNat 64 (2 ^ 63 + o) := by
    intro o; rw [BitVec.ofNat_add]; rfl
  simp only [State.writeContext, ht, hb]
  clear ht
  induction l generalizing s with
  | nil => exact ⟨s, rfl⟩
  | cons p l ih =>
    obtain ⟨z, h, hz⟩ := cached_write s (mib * 2 ^ 20 + p.1) p.2 hs (hl p (by simp))
    obtain ⟨y, hy⟩ := ih z hz fun q hq => hl q (by simp [hq])
    exact ⟨y, by simpa only [List.foldl_cons, h, Bool.not_true, Bool.false_eq_true, if_false] using hy⟩

theorem cached_piece (s : State) (o n : Nat) (b : List Byte) (hs : s.xl = cached)
    (ht : tblGet s.bud.tctx 0 0 = 0x8000000000000064) (hb : b.length = n) (hn : o + n ≤ 2 ^ 30) :
    ∃ z, s.writeContext 1 0 0 [(o, b)] = (z, true) := by
  refine cached_context s 0 _ hs ht fun p hp => ?_
  rw [List.mem_singleton] at hp
  subst hp hb
  simp only
  omega

/-! ## Lengths of saved frames -/

theorem leBytes_length (n : Nat) : ∀ a : Nat, (leBytes n a).length = n := by
  induction n with
  | zero => exact fun _ => rfl
  | succ n ih => exact fun a => congrArg (· + 1) (ih _)

theorem flatMap_length {α : Type} (n : Nat) (f : α → List Byte) (h : ∀ x, (f x).length = n) (l : List α) :
    (l.flatMap f).length = l.length * n := by
  induction l with
  | nil => simp
  | cons x l ih => rw [List.flatMap_cons, List.length_append, h, ih, List.length_cons, Nat.add_mul]; omega

theorem wordBytes_length (l : List Word) : (wordBytes l).length = l.length * 8 :=
  flatMap_length 8 _ (fun _ => leBytes_length _ _) l

theorem fit_length (n : Nat) (bs : List Byte) : (fit n bs).length = n := by
  simp only [fit, List.length_append, List.length_take, List.length_replicate]; omega

theorem queueBytes_length (q : Option QCopy) : (queueBytes q).length = 64 := by
  cases q <;> simp [queueBytes, wordBytes_length]

theorem streamBytes_length (q : Option Stream) : (streamBytes q).length = 32 := by
  cases q <;> simp [streamBytes, wordBytes_length]

theorem laneBytes_length (l : YLane) : (laneBytes l).length = 32 := by
  simp only [laneBytes, List.length_append, leBytes_length, flatMap_length 4 _ (fun _ => leBytes_length _ _), List.length_range,
    List.length_cons, List.length_nil]

theorem armedBytes_length (l : List Armed) (i : Nat) : (armedBytes l i).length ≤ 48 := by
  unfold armedBytes
  split
  · simp only [List.length_append, wordBytes_length, leBytes_length, List.length_take]; omega
  · simp

theorem keyBytes_length (k : KeySlot) : (keyBytes k).length = 64 := by
  simp only [keyBytes, List.length_append, leBytes_length]

theorem partBytes_length (c : Core) (i : Fin 8) : (partBytes c i).length = 64 := by
  simp only [partBytes, List.length_append, wordBytes_length, List.length_replicate, List.length_cons, List.length_nil]

theorem ringBytes_length (c : Core) (e : RingEntry) : (ringBytes c e).length = 16 := by
  simp only [ringBytes, List.length_append, leBytes_length, List.length_take, List.length_replicate,
    flatMap_length 2 _ (fun _ => leBytes_length _ _)]
  omega

theorem threadFrame_length (t : Thread) (rel : Nat) (i : Fin 4) : (threadFrame t rel i).length ≤ 0x4000 := by
  simp only [threadFrame, List.length_append, wordBytes_length, flatMap_length 64 _ queueBytes_length,
    flatMap_length 32 _ streamBytes_length, flatMap_length 64 _ (fun _ => leBytes_length _ _), List.length_replicate,
    List.length_map, Vector.length_toList, List.length_cons, List.length_nil]
  rw [flatMap_length 512]
  · cases t.due.misses <;> cases t.loop <;> simp
  · intro y
    rw [flatMap_length 32 _ laneBytes_length]; simp

theorem coreFrame_length (c : Core) : (coreFrame c false).length ≤ 0x4000 := by
  have h (l : List Nat) : (l.flatMap (armedBytes c.armed)).length ≤ l.length * 48 := by
    induction l with
    | nil => simp
    | cons x l ih =>
      have := armedBytes_length c.armed x
      rw [List.flatMap_cons, List.length_append, List.length_cons]; omega
  have := h (List.range 32)
  simp only [coreFrame, List.length_append, wordBytes_length, fit_length, flatMap_length 64 _ keyBytes_length,
    flatMap_length 64 _ (partBytes_length c), flatMap_length 16 _ (ringBytes_length c), Vector.length_toList, List.length_range,
    List.length_finRange] at *
  omega

theorem slice_length (bs : List Byte) (n k : Nat) : (slice bs n k).length ≤ k := by
  simp only [slice, List.length_take]; omega

theorem framePieces_length (t : Thread) (rel : Nat) (i : Fin 4) (p : Nat × List Byte) (hp : p ∈ framePieces t rel i false) :
    p.1 + p.2.length ≤ 0x5000 := by
  have := threadFrame_length t rel i
  simp only [framePieces, Bool.false_eq_true, if_false, List.mem_cons, List.not_mem_nil, or_false] at hp
  obtain rfl | rfl | rfl := hp
  · simp only [List.length_take]; omega
  · have := slice_length (threadFrame t rel i) 0x1C0 0x40
    simp only; omega
  · simp only [List.length_drop]; omega

theorem preempt_pieces (s : State) (c : Nat) (p : Nat × List Byte) (hp : p ∈ s.preemptPieces c) :
    0 * 2 ^ 20 + p.1 + p.2.length ≤ 2 ^ 30 := by
  simp only [State.preemptPieces, Core.frames, shifted, List.mem_append, List.mem_flatMap, List.mem_map] at hp
  obtain ⟨i, -, q, hq, rfl⟩ | ⟨q, hq, rfl⟩ := hp
  · have := framePieces_length _ _ i q hq
    have := i.isLt
    simp only
    omega
  · have := coreFrame_length (s.core c)
    simp only [corePieces, Bool.false_eq_true, if_false, List.mem_singleton] at hq
    subst hq
    simp only [List.length_drop]
    omega
/-! ## Host, scheduler, truss, switching, collectives -/

/-- A record of one crew in ASID 1 with an image at 0x1000, sequence number 5 and a priority. -/
def recWords (prio : Nat) : List Word :=
  [BitVec.ofNat 64 (2 ^ 48 + 2 ^ 32 + prio * 2 ^ 16 + prio * 2 ^ 8), 0x101, 0x8000000000001000, 0, 0xFFFFFFFFFFFFFFFF,
    0x8000000000002000, 0, 5]

/-- Port 2, open to tenant 0 and ASID 1, holds a submission of these words; maintenance is over. -/
def portHolds (ctl : Word) (ws : List Word) : State :=
  { State.reset with
    boot := { State.reset.boot with maintenance := false }
    sched := { State.reset.sched with ports := [(2, { ctl := ctl, held := [⟨.host true, 0, true, ws.flatMap fun w => leBytes 8 w.toNat⟩] })] } }

theorem witness_HostEvents :
    let p := portHolds 0x0001000101FC0001 (recWords 3)
    State.reset.boot.maintenance = true ∧ State.reset.mem.stage.wf = true ∧ p.sched.hapBase.getLsbD 63 = false ∧
    ((p.sub 3).held).isEmpty = true ∧ ((p.sub 2).held).length = 1 ∧
    ([0x0001000101FC0001, 0x0001000101FC0000, 0x0002000101FC0001].map fun c =>
      after (exec (.submissionDecide 2) (portHolds c (recWords 3))) fun t => (t.sched.recs.length, (t.sub 2).code, (t.sub 2).held.length)) =
      [some (1, 0, 0), some (0, 4, 0), some (0, 3, 0)] ∧
    after (exec (.submissionDecide 2) (portHolds 0x0001000101FC0001 [7])) (fun t => (t.sub 2).code) = some 2 ∧
    after (exec (.submissionDecide 2) { p with boot := State.reset.boot }) (fun t => (t.sub 2).code) = some 5 := by decide +kernel

theorem test_aperture :
    ([0x3FFFFFF, 0x4000000].map fun o => after (exec (.hostApertureAccess true o 0 [7]) State.reset) fun t =>
      (readLE t.mem.stage 0x3FFFFFF 1, t.out)) = [some (7, [.completed]), some (0, [.abort])] ∧
    ([(0 : BitVec 12), 64].map fun o => after (exec (.hostSubmit 3 o (List.replicate 64 0) true) State.reset) fun t =>
      (t.sub 3).held.length) = [some 1, some 0] := by decide +kernel

/-- A state with records, and a translation of the first pages. -/
def recState (l : List Rec) : State :=
  { State.reset with
    xl := { State.reset.xl with tlb := [(0, [⟨1, 0, 16, 0, true, false⟩])] }
    sched := { State.reset.sched with recs := l } }

def rec0 (p : RecPhase) : Rec := { id := 4, port := 2, words := recWords 3, stamp := 0, t0 := 0, phase := p }

/-- An edge that holds one token. -/
def edge0 : Edge := { enable := true, capacity := 2, filled := 1 }

/-- The record with that edge as its first input and nothing else. -/
def recIn : Rec := { rec0 .waiting with words := (recWords 3).set 4 0xFFFFFFFFFFFF0009 }

theorem witness_SchedulerEvents :
    ((recState [rec0 .accepted]).sched.recs.find? fun r => r.phase == .accepted) = some (rec0 .accepted) ∧
    (recState [rec0 .accepted]).badEdge (rec0 .accepted) = none ∧ (recState [recIn]).badEdge recIn = some 9 ∧
    (recState []).readyRecs = [] ∧ (recState [rec0 .waiting]).readyRecs = [rec0 .waiting] ∧ (rec0 .waiting).needsCores = true ∧
    (recState []).placeable [] (rec0 .waiting) = true ∧
    (let s : State := (recState [recIn]).setEdge 9 edge0
     s.readyRecs = [recIn] ∧ realEdges (lrIn recIn.words) = [9] ∧ realEdges (lrOut recIn.words) = [] ∧
       after (exec .schedulerStart s) (fun t => ((t.edge 9).filled, t.sched.recs.map (·.phase))) = some (0, [.loading])) ∧
    after (exec .schedulerIntake (recState [{ recIn with phase := .accepted }])) (fun t => t.sched.recs) = some [] ∧
    after (exec .schedulerIntake (recState [rec0 .accepted])) (fun t => t.sched.recs) = some [rec0 .waiting] := by decide +kernel

theorem witness_Edges :
    let s : State := (recState [rec0 .waiting]).setEdge 9 edge0
    (s.edge 9).enable = true ∧ (s.edge 8).enable = false ∧ (0xC0 : Word).toNat % 128 = 64 ∧ (0xC0 : Word).getLsbD 7 = true ∧
    after (exec (.edgectlWrite 8 0x30000008C) s) (fun t => t.edge 8) = some { enable := true, capacity := 12, filled := 3 } ∧
    after (exec (.edgectlWrite 9 0x30000008C) s) (fun t => t.edge 9) = some edge0 ∧
    after (exec (.edgectlWrite 9 0) s) (fun t => (t.edge 9).enable) = some false ∧
    s.recsNamed 0x0002000000000005 = [rec0 .waiting] ∧ s.recsNamed 0x0001000000000005 = [] ∧
    after (exec (.schendWrite 0x0002000000000005) s) (fun t => t.sched.recs) = some [] := by decide +kernel

/-- An image of one resident segment of four bytes at the record's code address, and a bad one. -/
def imageWords : List Nat :=
  [0x00000102464C457F, 0, 0x00000000A7C10003, 0x1000, 64, 0, 0x0038000000000000, 0x0000000000400001,
    0x70000001, 120, 0x1000, 0, 4, 4, 0, 0x50FF0400]

def imageState : State :=
  match (recState [rec0 .loading]).globalWrite 1 0x8000000000001000 (imageWords.flatMap fun w => leBytes 8 w) with
  | .ok s => s
  | .error _ => recState []

theorem witness_Loading :
    imageState.firstIn .loading = some (rec0 .loading) ∧
    (holds (imageState.loadImage (rec0 .loading)).1 fun i => i.entry == 0x1000 && i.resident == [(1, [0x00, 0x04, 0xFF, 0x50])]) = true ∧
    (match ((recState [rec0 .loading]).loadImage (rec0 .loading)).1 with | .error e => e.reason | .ok _ => 0) = 1 ∧
    after (exec .imageLoadComplete imageState) (fun t => (t.sched.recs.map (·.phase), t.sched.images.map (·.2.entry))) =
      some ([.loaded], [0x1000]) ∧
    after (exec .imageLoadComplete (recState [rec0 .loading])) (fun t => t.sched.recs) = some [] ∧
    andThen (exec .imageLoadComplete imageState) .placement (fun t =>
      ((t.thread 0 0).run, (t.thread 0 0).pc, readLE t.mem.code (codeKey 0 0x1000) 4)) = some (.running, 0x1000, 0x50FF0400) := by
  decide +kernel

theorem witness_Placement :
    let s : State := { recState [rec0 .loaded] with sched := { (recState [rec0 .loaded]).sched with images := [(4, probeImage)] } }
    s.boot.phase ≠ .thermal ∧ s.firstIn .loaded = some (rec0 .loaded) ∧ firstFit s.heldBlocks (rec0 .loaded).domain = some 0 ∧
    s.sched.saved.find? (·.task.id == (rec0 .loaded).id) = none ∧
    s.sched.images.find? (·.1 == (rec0 .loaded).id) = some (4, probeImage) ∧ lrTrace (recWords 3) = false ∧ lrGang (recWords 3) = 1 := by
  decide +kernel

/-- A system copy of 8 bytes in global memory (R44). -/
theorem witness_SystemCopy :
    let s : State := { recState [rec0 .running] with
      mem := { State.reset.mem with phys := writeSpan [] 0x100 (leBytes 8 0x1122334455667788) }
      sched := { (recState [rec0 .running]).sched with copies := [⟨4, [0, 0x8000000000000100, 0x8000000000000200, 8]⟩] } }
    s.sched.recs.find? (·.id == 4) = some (rec0 .running) ∧
    after (exec .systemCopyComplete s) (fun t => (readLE t.mem.phys 0x200 8, t.sched.copies, t.sched.recs)) =
      some (0x1122334455667788, [], []) := by decide +kernel

/-- Cores of the task, running or stopped; with the other core's report made. -/
def endState (r : Run) (reports : Tbl (Nat × BitVec 16 × Nat × BitVec 8)) : State :=
  let s := threadIs (state0 []) fun t => { t with run := r }
  { s with sched := { s.sched with tasks := [{ task0 with reports := reports }], recs := [{ rec0 .running with id := 7 }] } }

theorem witness_TrussEvents :
    let w : Crew := { task := 7, rel := 0 }
    let r : Report := (1, 0, 0, 0)
    ((endState .stopped []).core 0).crew = some w ∧ (endState .stopped []).crewStopped 0 = true ∧
    (endState .stopped []).gangsStopped 0 = true ∧ (endState .running []).crewStopped 0 = false ∧ w.finished = false ∧
    (endState .stopped []).taskOf 0 = some task0 ∧ task0.dueLevel 0 = none ∧
    ({ task0 with reports := [(reportKey 0 0, r), (reportKey 0 1, r)] } : Task).dueLevel 0 = some 1 ∧
    ({ task0 with level := 2, reports := [(reportKey 0 0, r), (reportKey 0 1, r)] } : Task).dueLevel 0 = some 1 := by decide +kernel

theorem test_truss :
    let r : Report := (1, 0, 0, 0)
    after (exec (.crewFinish 0) (endState .stopped [])) (fun t => t.sched.tasks.all fun q => decide (q.report 0 0 = some r)) = some true ∧
    after (exec (.crewFinish 0) (endState .running [])) (fun t => t.sched.tasks.all fun q => (q.report 0 0).isNone) = some true ∧
    after (exec (.trussReport 0) (endState .stopped [(reportKey 0 0, r), (reportKey 0 1, r)])) (fun t =>
      (t.sched.tasks, t.sched.recs)) = some ([], []) := by decide +kernel

/-- A task that runs, one record of higher priority that needs the whole package, and a context space of 100 MiB. -/
def pressureState (c : Nat) : State :=
  let big : Rec := { id := 9, port := 2, words := [BitVec.ofNat 64 (2 ^ 60 + 2 ^ 32 + 16 * 2 ^ 16 + 16 * 2 ^ 8), 0x129, 0x8000000000001000, 0,
    0xFFFFFFFFFFFFFFFF, 0x8000000000002000, 0, 6], stamp := 0, t0 := 0, phase := .waiting }
  let s := state0 []
  { s with
    cycle := c
    bud := { s.bud with tctx := [(0, 0x8000000000000064)] }
    sched := { s.sched with recs := [{ rec0 .running with id := 7 }, big], pressure := some (9, 0) } }

/-- The task is being switched out. -/
def switchState (w : SwitchOut) : State :=
  let s := pressureState 9000
  { s with
    xl := { s.xl with tlb := [] }
    sched := { s.sched with switch := some w } }

theorem witness_SwitchOutEvents :
    (pressureState 8191).sched.switch = none ∧ ((pressureState 8191).victim.map (·.id)) = some 7 ∧ 8191 < 0 + 8192 ∧
    (pressureState 8192).bud.context 0 (levelCores 1) = some 0 ∧
    ([8191, 8192].map fun c => after (exec .switchOutTrigger (pressureState c)) fun t =>
      (t.sched.switch, (t.thread 0 0).due.switchOut)) = [some (none, false), some (some ⟨7, false, 0, 0, none⟩, true)] ∧
    (switchState ⟨7, false, 0, 0, none⟩).switching = some (⟨7, false, 0, 0, none⟩, task0) ∧
    ([⟨7, false, 0, 0, none⟩, ⟨7, true, 1, 0, none⟩].map fun w => after (exec .switchOutDrainPass (switchState w)) fun t =>
      t.sched.switch) = [some (some ⟨7, false, 0, 0, none⟩), some (some ⟨7, true, 2, 0, none⟩)] ∧
    after (exec .switchOutComplete (switchState ⟨7, true, 1, 0, none⟩)) (fun t => t.sched.switch) = some (some ⟨7, true, 1, 0, none⟩) ∧
    after (exec (.contextCopyFault 0 true) (switchState ⟨7, true, 2, 0, some 0⟩)) (fun t => t.sched.switch) =
      some (some ⟨7, true, 2, 0, none⟩) ∧
    after (exec (.contextCopyFault 0 false) (switchState ⟨7, true, 2, 0, some 0⟩)) (fun t => (t.sched.switch, (t.thread 0 0).live)) =
      some (none, false) := by decide +kernel

theorem witness_ContextFault :
    ((switchState ⟨7, true, 2, 0, none⟩).saveContext ⟨7, true, 2, 0, none⟩ task0).2 = some 0 := by decide +kernel

/-- The smallest context: a task of the least domain without crews, whose bank share is written. -/
def task1 : Task := { task0 with crews := 0, level := 0 }

def savedState : State :=
  let z := switchState ⟨7, true, 2, 0, none⟩
  { z with
    xl := cached
    sched := { z.sched with tasks := [task1] } }

theorem readSpan_length (n : Nat) : ∀ (a : Nat) (m : Memory), (readSpan n a m).length = n := by
  induction n with
  | zero => exact fun _ _ => rfl
  | succ n ih => exact fun a m => congrArg (· + 1) (ih _ _)

theorem task1_pieces (s : State) : s.contextPieces task1 0 = [(0xA0000, s.bankShare 0 1)] := by
  simp only [State.contextPieces]
  rfl

theorem bankShare_length (s : State) (c l : Nat) : (s.bankShare c l).length = 0x20000 := readSpan_length _ _ _

theorem task1_level : List.range (levelCores task1.level) = [0] := by decide

theorem saves_one (s u : State) (w : SwitchOut) (t : Task) (hl : List.range (levelCores t.level) = [0])
    (hc : t.carries 0 = false)
    (h : s.writeContext t.asid t.tenant (w.ctxOff + 0) (s.contextPieces t 0) = (u, true)) : s.saveContext w t = (u, none) := by
  rw [State.saveContext, hl]
  simp only [List.foldl_cons, List.foldl_nil, hc, Bool.false_eq_true, if_false, h]

theorem savedState_switching : savedState.switching = some (⟨7, true, 2, 0, none⟩, task1) := by decide +kernel

theorem savedState_context : ∃ z,
    savedState.writeContext task1.asid task1.tenant (0 + 0) (savedState.contextPieces task1 0) = (z, true) := by
  have ha : task1.asid = 1 := by rfl
  have ht : task1.tenant = 0 := by rfl
  rw [ha, ht, task1_pieces]
  exact cached_piece savedState 0xA0000 0x20000 _ (by rfl) (by rfl) (bankShare_length _ _ _) (by decide)

theorem witness_ContextSaved :
    savedState.switching = some (⟨7, true, 2, 0, none⟩, task1) ∧ task1.ended = false ∧
    ∃ u, savedState.saveContext ⟨7, true, 2, 0, none⟩ task1 = (u, none) := by
  obtain ⟨z, h⟩ := savedState_context
  exact ⟨savedState_switching, by rfl, z, saves_one savedState z ⟨7, true, 2, 0, none⟩ task1 task1_level (by rfl) h⟩

/-- A core whose threads are parked for a pre-emption, which has a slot or none. -/
def preemptState (q : Preempt) : State :=
  let z := coreIs (threadIs (state0 []) fun t => { t with run := .parked, cause := 0xA0, epc := 0x1234, estat := 0x100 }) fun c =>
    { c with preempt := some q }
  { z with
    xl := cached
    bud := { z.bud with tctx := [(0, 0x8000000000000064)], ctxUsed := match q.slot with | some o => [(0, o, 1)] | none => [] } }

theorem witness_Preemption :
    ((state0 []).core 0).preempt = none ∧ (state0 []).inSwitch 0 = false ∧ (preemptState {}).coreStopped 0 = true ∧
    (preemptState {}).bud.context 0 1 = some 0 ∧
    after (exec (.perCorePreemption 0) (state0 [])) (fun t => ((t.core 0).preempt, (t.thread 0 0).due.preempt)) = some (some {}, true) ∧
    (switchState ⟨7, false, 0, 0, none⟩).inSwitch 0 = true ∧
    after (exec (.perCorePreemption 0) (switchState ⟨7, false, 0, 0, none⟩)) (fun t => ((t.core 0).preempt, (t.core 0).preemptWaits)) =
      some (none, true) ∧
    after (exec (.preemptionRelease 0) (preemptState ⟨some 0, false⟩)) (fun t =>
      ((t.core 0).preempt, t.bud.ctxUsed, (t.thread 0 0).run, (t.thread 0 0).pc)) = some (none, [], .running, 0x1234) := by
  decide +kernel

theorem witness_PreemptionSaved : ∃ u, ((preemptState {}).leaveFrames 0 false).writeContext 1 0 0 ((preemptState {}).preemptPieces 0) = (u, true) :=
  cached_context _ 0 _ (by rfl) (by rfl) fun p hp => preempt_pieces _ _ p hp

/-- A block of 64 bytes at 0x100 for a launch port; a request on communicator 5 at 0x140 for collective port 256. -/
def collWords : List Word :=
  [0x0000000300505000, 0x8000000000000100, 0x8000000000000200, 8, 0, 0x0000000980000001, 0, 0]

def submitState (l : List Coll) (asked : List (BitVec 16 × Option Word)) : State :=
  let s := threadIs (wordsAre (state0 [(4, 0x100), (5, 0x140), (6, 255), (7, 256), (8, 258), (9, 0x40000), (10, 0x110)]) 0x140
    (collWords.map (·.toNat))) fun t => { t with asked := asked }
  { s with
    boot := { s.boot with maintenance := false }
    fab := { s.fab with comms := [(5, { ctl := 0x0002000000000001, ranks := [9, 8] })], colls := l } }

def coll0 : Coll := { engine := 0, words := collWords, asid := 1, tenant := 0, task := some 7, rcd := none }

theorem witness_SubmissionResults :
    Ready (submitState [] []) {} ∧ Ready (submitState [] [(0x1000, some 3)]) {} ∧ Ready (submitState [] [(0x1000, none)]) {} ∧
    (submitState [] []).storesDone at0 = true ∧ ((submitState [] []).sub 255).held = [] ∧ task0.kind ≠ 1 ∧
    (submitState [] []).collCode 0 collWords 0 2 false = 0 ∧ (submitState [] []).collCode 1 collWords 0 2 false = 3 ∧
    ([.st64s {} 3 8 5, .st64s {} 3 7 5].map fun i => after (exec i (submitState [] [])) fun t => (reg 3 t, t.fab.colls)) =
      [some (4, []), some (0, [coll0])] ∧
    ([.st64s {} 3 6 9, .st64s {} 3 6 10].map fun i => after (exec i (submitState [] [])) fun t => (t.thread 0 0).cause) =
      [some 0x02, some 0x60] ∧
    after (exec (.st64s {} 3 6 5) (submitState [] [])) (fun t => ((t.sub 255).held.length, (t.thread 0 0).asked)) =
      some (1, [(0x1000, none)]) ∧
    after (exec (.st64s {} 3 6 5) (submitState [] [(0x1000, none)])) (fun t => ((t.thread 0 0).run, (t.sub 255).held)) =
      some (.waiting, []) ∧
    after (exec (.st64s {} 3 6 5) (submitState [] [(0x1000, some 3)])) (fun t => (reg 3 t, (t.thread 0 0).pc)) = some (3, 0x1002) :=
  ⟨ready _ _ (by decide +kernel), ready _ _ (by decide +kernel), ready _ _ (by decide +kernel), by decide +kernel⟩

/-- A vector load of acquire order that the thread has dispatched holds `ST64S`. -/
theorem witness_SubmissionWaits :
    let s := coreIs (submitState [] []) fun c => { c with vq := [{ id := 0, ts := 0, seq := 0, x := { order := .acq }, kind := .vld }] }
    Ready s {} ∧ s.acquiring 0 0 = true ∧ (s.own at0).askedAt at0.addr = none ∧
    after (exec (.st64s {} 3 6 5) s) (fun t => ((t.thread 0 0).run, (t.sub 255).held)) = some (.waiting, []) :=
  ⟨ready _ _ (by decide +kernel), by decide +kernel⟩

theorem witness_CollectiveEvents :
    let s := submitState [coll0] []
    (tblGet s.fab.comms 5 {}).ctl.getLsbD 0 = true ∧ (tblGet s.fab.comms 6 {}).ctl.getLsbD 0 = false ∧
    (s.readMap {}).1 = none ∧ (s.nextColl 0).isSome = true ∧ s.nextColl 1 = none ∧ s.coll 5 3 = some coll0 ∧ s.coll 5 4 = none ∧
    s.collRuns coll0 = true ∧ s.earlyBytes = 0 ∧
    (tblGet s.fab.comms 5 {}).size = 2 := by decide +kernel

theorem test_collectives :
    let s := submitState [coll0] []
    let k := submitState [{ coll0 with phase := .taken }] []
    let row : VWord := BitVec.ofNat 512 (leNat (collWords.flatMap fun w => leBytes 8 w.toNat))
    let ends (i : Instr) (z : State) (p : Coll → Bool) : Bool := (after (exec i z) fun t => t.fab.colls.map p) == some [true]
    ends (.collectiveRequestTake 0) s (fun q => decide (q.ending = some (9, 0))) = true ∧
    ends (.collectiveRequestTake 0) { s with ports := [(0, { state := .up, peer := 8 })] } (·.phase == .taken) = true ∧
    ends (.collectiveMatch 5 3 [row, row] []) k (·.phase == .matched) = true ∧
    ends (.collectiveMatch 5 3 [row, row + 256] []) k (fun q => decide (q.ending = some (3, 0))) = true ∧
    ends (.collectiveFaultNotice 5 3 77) k (fun q => decide (q.ending = some (4, 77))) = true ∧
    ends (.collectiveChunkArrive 5 3 1 0 0 [1, 2]) k (fun q => decide (q.early = [(1, 0, 0, [1, 2])])) = true ∧
    ends (.collectiveChunkArrive 5 3 1 0 0 [1, 2]) (submitState [{ coll0 with phase := .taken, early := [(1, 0, 0, [3])] }] [])
      (fun q => decide (q.early = [(1, 0, 0, [3])])) = true ∧
    after (exec (.collectiveComplete 5 3) (submitState [{ coll0 with ending := some (4, 77) }] [])) (fun t =>
      (t.fab.colls, t.fab.fly.map (·.what))) = some ([], [.deposit 1 0x0000000904000005 77 true]) ∧
    ends (.commDisable 5) s (fun q => decide (q.ending = some (6, 0))) = true := by decide +kernel

/-- A request of kind 6 waits for the other rank's count table. -/
theorem witness_CountTables :
    let ws : List Word := [collWords.headD 0 / 16 * 16 + 6, 0, 0, 0, 0x8000000000000100, 0, 0, 0]
    let q : Coll := { coll0 with phase := .taken, words := ws }
    let z := submitState [q] []
    let s : State := { z with xl := { z.xl with tlb := [(0, [⟨1, 0, 16, 0, true, false⟩])] } }
    let m := tblGet s.fab.comms 5 {}
    let row : VWord := BitVec.ofNat 512 (leNat (ws.flatMap fun w => leBytes 8 w.toNat))
    let ends (t : List (List Byte)) : Option (List Bool) :=
      after (exec (.collectiveMatch 5 3 [row, row] t) s) fun t => t.fab.colls.map (·.phase == .matched)
    clKind ws = 6 ∧ s.coll 5 3 = some q ∧ tablesHere m ws [] = false ∧ tablesHere m ws [[], List.replicate 32 0] = true ∧
    (collTable m (s, q)).2.2.ending = none ∧ ends [] = some [false] ∧ ends [[], List.replicate 32 0] = some [true] := by decide +kernel

/-- A rank map that names this device at rank 0. -/
theorem witness_RankMap :
    let z := recState []
    let s : State := { z with
      boot := { z.boot with devnum := 9 }
      mem := { z.mem with phys := writeSpan [] 0x100 [9, 0, 8, 0] }
      fab := { z.fab with comms := [(5, { map := 0x8000000000000100 })] } }
    (s.readMap { ctl := 0x0002000000010000, map := 0x8000000000000100 }).1 = some [9, 8] ∧
    after (exec (.commEnable 5 0x0002000000010001) s) (fun t => let m := tblGet t.fab.comms 5 {}; (m.ctl, m.ranks)) =
      some (0x0002000000010001, [9, 8]) := by decide +kernel

/-- The early-arrival store holds `n` bytes, and a chunk of some length waits on channel 2 or none does. -/
def keptState (n : Nat) (l : List (Fin 8 × Nat)) : State :=
  let s := submitState [{ coll0 with phase := .taken }] []
  { s with fab := { s.fab with kept := [⟨0, 0, List.replicate n 0⟩], stuck := l } }

theorem keptState_bytes (n : Nat) (l : List (Fin 8 × Nat)) : (keptState n l).earlyBytes = n := by
  have : (keptState n l).earlyBytes = 0 + (0 + (List.replicate n (0 : Byte)).length) := rfl
  rw [this, List.length_replicate, Nat.zero_add, Nat.zero_add]

/-- Of a full store: one more byte does not fit, and a chunk that waits holds its channel. -/
theorem keptState_full (n : Nat) (hn : 2 ^ 28 ≤ n) :
    (keptState n []).earlyFull = true ∧ (∀ v, v ≠ 0 → v ≠ 1 → (keptState n []).vcHeld v = false) ∧
    (keptState n []).keepsCredit 2 = true ∧ (keptState n [(2, 1)]).vcHeld 2 = true ∧ (keptState n [(1, 1)]).vcHeld 1 = true := by
  have h (l : List (Fin 8 × Nat)) : (keptState n l).earlyFull = true := by
    rw [State.earlyFull, keptState_bytes]; exact decide_eq_true hn
  have r (l : List (Fin 8 × Nat)) : (keptState n l).roomFor 1 = false := by
    rw [State.roomFor, keptState_bytes]; exact decide_eq_false (by omega)
  refine ⟨h _, fun v h0 h1 => ?_, ?_, ?_, ?_⟩
  · have : (keptState n []).channelFull v = false := rfl
    simp [State.vcHeld, this, h0, h1]
  · simp [State.keepsCredit, h]
  · have : (keptState n [(2, 1)]).fab.stuck = [(2, 1)] := rfl
    simp [State.vcHeld, State.channelFull, this, r]
  · have : (keptState n [(1, 1)]).fab.stuck = [(1, 1)] := rfl
    simp [State.vcHeld, State.channelFull, this, r]

theorem witness_EarlyFull :
    (keptState (2 ^ 28) []).earlyFull = true ∧ 2 ^ 28 < (keptState (2 ^ 28) []).earlyBytes + ([7] : List Byte).length ∧
    (∀ v, v ≠ 0 → v ≠ 1 → (keptState (2 ^ 28) []).vcHeld v = false) ∧ (keptState (2 ^ 28) []).keepsCredit 2 = true ∧
    (keptState (2 ^ 28) []).coll 5 3 = some { coll0 with phase := .taken } ∧
    (keptState (2 ^ 28) [(2, 1)]).vcHeld 2 = true ∧ (keptState (2 ^ 28) [(1, 1)]).vcHeld 1 = true :=
  have ⟨a, b, c, d, e⟩ := keptState_full (2 ^ 28) (Nat.le_refl _)
  ⟨a, by rw [keptState_bytes]; exact Nat.lt_succ_self _, b, c, rfl, d, e⟩

/-! ## Roundings, reductions and scans of floats; blocks, rows and lattices in memory -/

/-- `v3` holds 1 + 2^-8 in every lane of f32, the middle of two values of `bf16`; `v4` holds infinities and `v5` lanes 1.0, 2.0, … 16.0.
`y1` and `y2` hold 192 bits of 1/2 and, in lane 1, of 1/4, `y3` and `y4` nothing; key slot 1 is a table at 0x200 of 16 entries, whose chunks of index 0 are
0x40000000 and zeros, slot 2 an empty table. -/
def uniformState : State :=
  let y (n : Nat) : YLane := { known := BitVec.ofNat 192 (2 ^ n), len := 192 }
  let f (v : Thread → Vector VWord 32) (s : State) : State := threadIs s fun t => { t with v := v t }
  let s := f (fun t => ((t.v.set 3 (BitVec.ofNat 512 (leNat ((List.replicate 16 (leBytes 4 0x3F808000)).flatten)))).set 4
    (BitVec.ofNat 512 (leNat ((List.replicate 16 (leBytes 4 0x7F800000)).flatten)))).set 5
    (BitVec.ofNat 512 (leNat ([0x3F800000, 0x40000000, 0x40400000, 0x40800000, 0x40A00000, 0x40C00000, 0x40E00000, 0x41000000,
      0x41100000, 0x41200000, 0x41300000, 0x41400000, 0x41500000, 0x41600000, 0x41700000, 0x41800000].flatMap (leBytes 4))))) (state0 [(4, 0x200)])
  let t := threadIs s fun t => { t with
    y := (((t.y.set 1 ((Vector.replicate 16 (y 191)).set 1 (y 190))).set 2 ((Vector.replicate 16 (y 191)).set 1 (y 190))).set 3 (Vector.replicate 16 { slot := 1 })).set 4
      (Vector.replicate 16 { slot := 2, index := 5 })
    k := t.k.set 1 1 }
  coreIs (bytesAre t 0x200 [0, 0, 0, 0x40]) fun c => { c with
    keys := (c.keys.set 1 { kind := 1, tbase := 0x200, entries := 16 }).set 2 { kind := 1 } }

/-- An instruction's command performed. -/
def performed {α : Type} (i : Instr) (s : State) (f : State → α) : Option α := andThen (exec i s) (.vectorCommandComplete 0) f

/-- A fraction 1/2 rounds toward zero under U = 1/2 and away under 1/4 (R185): what is known decides, one chunk of a table decides, no
entry of a table is there, and a store of another thread set to the table is under way. -/
theorem witness_RoundedResults :
    Ready uniformState {} ∧ uniformState.room at0 false [3] [(true, 1)] = true ∧ uniformState.room at0 false [3] [(true, 3)] = true ∧
    (∃ r, Claims.rounded (.yrnd {} 1 3 1) = some r ∧ r.x.order = .relaxed) ∧ (∃ r, Claims.rounded (.vfadd {} 1 3 3) = some r) ∧
    (∃ r, Claims.rounded (.vcvt { stype := .f32, dtype := .bf16, rnd := .sr, yreg := 1 } 3 3 1) = some r) ∧
    performed (.yrnd {} 1 3 1) uniformState (fun t => (laneOf (t.thread 0 0).v[1] 0 16, laneOf (t.thread 0 0).v[1] 1 16, (t.core 0).vq.length,
      (t.thread 0 0).fpflags)) = some (0x3F80, 0x3F81, 0, flagNX) ∧
    performed (.vcvt { stype := .f32, dtype := .bf16, rnd := .sr, yreg := 1 } 3 3 1) uniformState (fun t =>
      [0, 15, 16, 17].map fun j => laneOf (t.thread 0 0).v[3] j 16) = some [0x8000, 0x3F80, 0x3F80, 0x3F81] ∧
    performed (.yrnd { mask := 1 } 1 3 3) uniformState (fun t => (laneOf (t.thread 0 0).v[1] 0 16, ((t.thread 0 0).y[3][0]).len,
      ((t.thread 0 0).y[3][1]).len, (t.thread 0 0).yxcyc)) = some (0x3F81, 32, 0, 20) ∧
    performed (.yrnd { mask := 1 } 1 3 4) uniformState (fun t => ((t.thread 0 0).due.lates.map fun f => (f.cause, f.info), (t.core 0).vq.length)) =
      some ([(0x4C, 5)], 0) ∧
    (let s := { uniformState with fab := { uniformState.fab with
      fly := [⟨0, 0, 1, 0, .store (.sram 0x200) [1] ⟨0, false, true, 0⟩, false⟩], nextId := 1 } }
     performed (.yrnd { mask := 1 } 1 3 3) s (fun t => (t.core 0).vq.length) = some 1) :=
  ⟨ready _ _ (by decide +kernel), by decide +kernel, by decide +kernel, ⟨_, rfl, rfl⟩, ⟨_, rfl⟩, ⟨_, rfl⟩, by decide +kernel,
    by decide +kernel, by decide +kernel, by decide +kernel, by decide +kernel⟩

/-- The sum 136 of 1.0 to 16.0, the greatest, and serial sums; of the active lane 0 alone the sum is 1.0 (R201, R344, R346). -/
theorem witness_FloatReductions :
    uniformState.room at0 false [5] [(true, 1)] = true ∧ (Claims.fty { dtype := .f32 }).isFloat = true ∧ (Claims.fty {}).isFloat = true ∧
    ([.vfred {} 1 5, .vfredmax {} 1 5, .vfred { mask := 1 } 1 5, .vfredmax { mask := 1 } 1 5].map fun i =>
      performed i uniformState fun t => (t.thread 0 0).v[1]) =
      [some 0x43080000, some 0x41800000, some 0x3F800000, some 0x3F800000] ∧
    ([.vscan { dtype := .f32 } 1 5, .vscanx { dtype := .f32 } 1 5, .vscan { dtype := .f32, mask := 1, zero := true } 1 5].map fun i =>
      performed i uniformState fun t => [0, 1, 15].map fun j => laneOf (t.thread 0 0).v[1] j 32) =
      [some [0x3F800000, 0x40400000, 0x43080000], some [0x80000000, 0x3F800000, 0x42F00000], some [0x3F800000, 0, 0]] := by
  decide +kernel

/-- Two words at 0x200, one stride of 8 bytes apart. -/
theorem witness_VectorBlock :
    let s := wordsAre (state0 [(4, 0x200), (5, 8)]) 0x200 [0x0000000200000001, 0x0000000400000003]
    Ready s {} ∧ s.room at0 false [] ((Claims.regs 8 16).map fun n => (true, n)) = true ∧ s.mem.sram.wf = true ∧ s.fab.fly = [] ∧
    (∀ p : Fin 8, (s.core 0).parts[p] = none) ∧
    (∀ i j : Fin 16, let a := (s.sreg at0 4 + BitVec.ofNat 64 j.val * s.sreg at0 5 + BitVec.ofNat 64 (4 * i.val)).toNat
      a < 0x3C000 ∧ a % 4 = 0) ∧
    performed (.vldt {} 8 4 5) s (fun t => ((t.core 0).vq.length, [(8 : VReg), 9, 10].map fun r => [0, 1].map fun j =>
      laneOf (t.thread 0 0).v[r] j 32)) = some (0, [[1, 3], [2, 4], [3, 0]]) :=
  ⟨ready _ _ (by decide +kernel), by decide +kernel⟩

/-- A row of the tile's bank of two vectors at 0x300000080, whose first words are 7 and 9; `v8` to `v11` hold 1, 2, 7 and 9 there. -/
def rowState : State :=
  let s := threadIs (state0 [(4, 0x300000080), (5, 0x300000040), (6, 0x200)]) fun t => { t with
    v := (((t.v.set 8 1).set 9 2).set 10 7).set 11 9 }
  { s with mem := { s.mem with sram := writeSpan (writeSpan [] (bankKey 1 0 0x80) [7]) (bankKey 1 0 0xC0) [9] } }

theorem witness_Rows :
    let rowAt (a n : Nat) (t : State) : Nat := readLE t.mem.sram (bankKey 1 0 a) n
    let both (t : State) : Nat × Nat := (rowAt 0x80 64 t, rowAt 0xC0 64 t)
    Ready rowState {} ∧ rowState.mem.sram.wf = true ∧ rowState.fab.fly = [] ∧
    holds (rowState.place 0 0x300000080 false) (· == .bank 1 0 0x80) = true ∧ 0x80 + 64 * 2 ≤ bankSize 1 ∧
    holds (rowState.place 0 0x200 false) (fun p => p.isOwn 0) = true ∧
    rowState.mayStore (rowState.taskNo 0) (rowState.relOf 0) (rowState.asidOf 0) (rowState.absAddr 0 (.bank 1 0 0x80)) 128 = true ∧
    rowState.room at0 false [8, 9, 10, 11] [(true, 8), (true, 9)] = true ∧
    (Claims.fty { dtype := .i32 }) ∈ [Ty.i32, .n32, .i64, .n64] ∧ (Claims.fty {}) ∈ [Ty.bf16, .f16, .f32] ∧
    ([.vrowst {} 8 5 1, .vrowst {} 8 6 1].map fun i => performed i rowState fun t => (t.thread 0 0).due.lates.map fun f => (f.cause, f.info)) =
      [some [(0x60, 0x300000040)], some [(0x6E, 0x200)]] ∧
    performed (.vrowld {} 20 4 1) rowState (fun t => ((t.thread 0 0).v[20], (t.thread 0 0).v[21], both t)) = some (7, 9, 7, 9) ∧
    performed (.vrowst {} 8 4 1) rowState both = some (1, 2) ∧
    performed (.vrowadd { dtype := .i32 } 8 4 1) rowState both = some (8, 11) ∧
    performed (.vrowcas {} 8 4 1) rowState (fun t => ((t.thread 0 0).v[8], (t.thread 0 0).v[9], both t)) = some (7, 9, 1, 2) ∧
    performed (.vrowcas {} 10 4 1) rowState (fun t => ((t.thread 0 0).v[10], both t)) = some (7, 7, 9) :=
  ⟨ready _ _ (by decide +kernel), by decide +kernel⟩

/-- `y1` holds 1/4 with index 3, spent, `y2` 1/2, and `y3` 1/4 with index 2; lane 15 of `y2` is 0. `v2` holds 0.5, a NaN in lane 1. A lane as
`YST` writes it at 0x400 (a prefix of 32 bits, index 9, slot 5, exhausted), and one of length 33 behind it. -/
def latticeState : State :=
  let y (n : Nat) (i : BitVec 48) : YVec := Vector.replicate 16 { known := BitVec.ofNat 192 n, len := 192, index := i }
  let s := threadIs (wordsAre (state0 [(4, 0x400), (5, 0x410), (6, 0x600)]) 0x400
      ([0x12345678, 0, 0, 0x0D20000000000009] ++ (List.replicate 14 [0, 0, 0, 0]).flatten)) fun t => { t with
    y := ((t.y.set 1 (y (2 ^ 190) 3)).set 2 ((y (2 ^ 191) 4).set 15 { len := 192 })).set 3 (y (2 ^ 190) 2)
    v := t.v.set 2 (BitVec.ofNat 512 (leNat ([0x3F000000, 0x7FC00000, 0x3F000000].flatMap (leBytes 4)))) }
  s

theorem witness_Decisions :
    let s := latticeState
    Ready s {} ∧ s.room at0 false [2] [] = true ∧ s.room at0 false [] [(true, 1)] = true ∧
    ([(.ycmp {} 3 1 2 : Instr), .ycmp {} 3 2 2, .ycmpy {} 3 1 2, .ycmpy {} 3 1 3, .ycmpy {} 3 3 1, .ycmpy {} 3 1 1].map fun i =>
      performed i s fun t => (((t.thread 0 0).k[3]).toNat, (t.thread 0 0).fpflags, (t.thread 0 0).yexh.toNat, (t.thread 0 0).y[1][0].exh)) =
      [some (5, flagNV, 0, false), some (0, flagNV, 0, false), some (0x7FFF, 0, 0, false), some (0, 0, 16, true), some (0xFFFF, 0, 16, true),
        some (0, 0, 0, false)] ∧
    performed (.ycvt {} 1 2) s (fun t => ([0, 15].map fun j => laneOf (t.thread 0 0).v[1] j 32, [(14 : Fin 16), 15].map fun j =>
      ((t.thread 0 0).y[2][j]).exh)) = some ([0x3F000000, 0], [false, true]) :=
  ⟨ready _ _ (by decide +kernel), by decide +kernel⟩

theorem witness_Lattices :
    let s := latticeState
    let bad := bytesAre s 0x43E [33]
    s.mem.sram.wf = true ∧ s.fab.fly = [] ∧ (∀ p : Fin 8, (s.core 0).parts[p] = none) ∧
    (s.sreg at0 4 + 512 * 0).toNat = 0x400 ∧ (s.sreg at0 5 + 512 * 0).toNat % 32 ≠ 0 ∧ 0x600 + 512 ≤ 0x3C000 ∧
    (∀ j : Fin 64, s.mayStore (s.taskNo 0) (s.relOf 0) (s.asidOf 0) (s.absAddr 0 (.pad 0 (0x600 + 8 * j.val))) 8 = true) ∧
    ([.yst {} 1 5 0, .yld {} 1 5 0].map fun i => performed i s fun t => (t.thread 0 0).due.lates.map fun f => (f.cause, f.info)) =
      [some [(0x60, 0x410)], some [(0x60, 0x410)]] ∧
    performed (.yld {} 6 4 0) s (fun t => let l := (t.thread 0 0).y[6][0]; (l.len, l.index, l.slot, l.exh, l.known.toNat)) =
      some (32, 9, 5, true, 0x12345678 * 2 ^ 160) ∧
    performed (.yld {} 1 4 0) bad (fun t => ((t.thread 0 0).due.lates.map fun f => (f.cause, f.info), (t.thread 0 0).y[1][0].index)) =
      some ([(0x40, 0x420)], 3) ∧
    performed (.yst {} 1 6 0) s (fun t => readLE t.mem.sram 0x600 32) = some (0x40000000 + 2 ^ 192 * 3 + 2 ^ 240 * 192) := by
  decide +kernel

/-- What is left after a matrix instruction's command. -/
def multiplied {α : Type} (i : Instr) (s : State) (f : State → α) : Option α := andThen (exec i s) (.matrixCommandComplete 0) f

/-- Slots as in `slotState`; row 1 of accumulator 1 holds 5, −1 and 1.0 as `f32`; words of 64 bits at 0x8000 and 0x8100; the scalar
registers hold the place of a matrix and its line words, selectors, and scale words: G 32 with factors 1 and 2, and two in error. -/
def matrixState : State :=
  let s := threadIs (wordsAre slotState 0x8000 ([0x1122334455667788] ++ List.replicate 31 0 ++ [9])) fun t => { t with
    s := ((((((((t.s.set 4 0x8000).set 5 0x100).set 6 0x100000100).set 7 0x8008).set 8 1).set 9 0x101).set 10 0x0000400000003C00).set 11
      0x0100400000003C00).set 12 0x200 }
  let m := writeSpan s.mem.operand (laneKey 0 1 1 0) ([5, 2 ^ 48 - 1, 0x3F800000].flatMap (leBytes 6))
  coreIs ({ s with mem := { s.mem with operand := m } }.modThread 0 1 fun t => { t with run := .running }) fun c => { c with
    arrayCycles := 7 }

theorem witness_MatrixMoves :
    let s := matrixState
    Ready s {} ∧ s.room at0 true [] [] = true ∧ s.room at0 true [] [(false, 3)] = true ∧ s.room at0 true [] [(true, 1)] = true ∧
    (1 % 32 + 1 / 256 % 8 * 256 = (s.sreg at0 8).toNat ∧ (s.sreg at0 9).toNat / 256 % 8 < 64 / (Claims.fty { dtype := .i32 }).lanes) ∧
    multiplied (.orel {} 1 3) s (fun t => [(2 : Fin 32), 3, 4, 5].map fun j => (t.core 0).slots[j]) = some [{}, {}, {}, ⟨some 1, false⟩] ∧
    ([.mstat {} 3 0, .mstat {} 3 1, .mstat {} 3 2, .mstat {} 3 3].map fun i => multiplied i s (reg 3)) =
      [some 0x1C, some 0x3C, some 0x18, some 7] ∧
    ([.zmovv { dtype := .i32 } 1 1 8, .zmovv { dtype := .i32 } 1 1 9, .zmovv { dtype := .f32 } 1 1 8, .zmovv { stype := .i32, dtype := .f32 } 1 1 8].map
      fun i => multiplied i s fun t => [0, 1, 2].map fun j => laneOf (t.thread 0 0).v[1] j 32) =
      [some [5, 0xFFFFFFFF, 0x3F800000], some [0, 0, 0], some [5, 0x7FC00000, 0x3F800000], some [0x40A00000, 0xBF800000, 0x4E7E0000]] :=
  ⟨ready _ _ (by decide +kernel), by decide +kernel⟩

theorem witness_MatrixFloat :
    let s := matrixState
    let late (i : Instr) : Option (List (BitVec 8)) := multiplied i s fun t => (t.thread 0 0).due.lates.map (·.cause)
    (3 : OReg).val < 31 ∧ s.mem.operand.wf = true ∧
    (Claims.mmaFloat (.mmaE45 {} 1 2 3)).isSome = true ∧ (Claims.mmaScaled (.mmaQ4q8 {} 1 2 3 10)).isSome = true ∧
    (let a := (s.sreg at0 10).toNat
     Claims.scaleGroup (a % 2 ^ 32) = 32 ∧ a / 2 ^ 26 % 64 = 0 ∧ a / 2 ^ 58 = 0 ∧ a / 2 ^ 24 % 4 = a / 2 ^ 56 % 4) ∧
    (s.sreg at0 11).toNat / 2 ^ 56 = 1 ∧
    ([.mmaQ8 {} 1 5 3 10, .mmaQ8 {} 1 2 4 10, .mmaQ8 {} 1 3 3 10, .mmaQ8 {} 1 2 3 11, .mmaHfOw {} 1 5 3, .mmaHfOw {} 1 3 3].map late) =
      [some [0x43], some [0x43], some [0x40], some [0x42], some [0x43], some [0x40]] := by
  decide +kernel

/-- The first lane of scaled products: 32 of 3 and −5 by 1 and 2; and its flags (R200). -/
theorem test_scaled_lane :
    let d : Cmd := { id := 0, ts := 0, seq := 0, x := {}, kind := .mma .q8 true, a := 1, b := 2, c := 3, s1 := 0x0000400000003C00 }
    ((matrixState.mmaLanes 0 d .q8 true)[0]?).map (·.1) = some 0xC4700000 := by decide +kernel

/-- A matrix at 0x8000 with rows of 256 bytes, two of them with a value; and at an odd place. -/
theorem witness_MatrixMemory :
    let s := matrixState
    let line (n : Nat) (t : State) : Nat := t.slotLine 0 2 n
    (s.sreg at0 5).toNat < 2 ^ 32 ∧ (s.sreg at0 6).toNat < 2 ^ 34 ∧ (∀ p : Fin 8, (s.core 0).parts[p] = none) ∧ s.fab.fly = [] ∧
    s.mem.sram.wf = true ∧ (∀ m : Fin 32, (Claims.rowAt (s.sreg at0 4) (s.sreg at0 5) m.val).toNat + 512 ≤ 0x3C000) ∧
    (∀ m : Fin 128, (Claims.rowAt (s.sreg at0 4) (s.sreg at0 6) m.val).toNat + 32 ≤ 0x3C000) ∧
    (∀ j : Fin 64, s.mayStore (s.taskNo 0) (s.relOf 0) (s.asidOf 0) (s.absAddr 0 (.pad 0 (0x8000 + 8 * j.val))) 8 = true) ∧
    ([.old {} 5 4 5, .oldt {} 2 7 6, .ost {} 5 4 5, .ost {} 2 7 5].map fun i => multiplied i s fun t => (t.thread 0 0).due.lates.map (·.cause)) =
      [some [0x43], some [0x60], some [0x43], some [0x60]] ∧
    multiplied (.oldb {} 2 4 5) s (fun t => (line 0 t, line 1 t, ((t.core 0).slots[2]).roleB)) =
      some (0x1122334455667788, 9, true) := by decide +kernel

/-! ## Cases of single clauses -/

/-- A repeated prefix of each kind. -/
theorem witness_RepeatedPrefixes :
    (({ n := 1, xw := some ⟨3, false, 2⟩ } : Chain).xw.isSome = true ∧ (0xEC00 : Half).toNat / 1024 = 59) ∧
    (({ n := 1, xm := some default } : Chain).xm.isSome = true ∧ (0xF000 : Half).toNat / 1024 = 60) ∧
    (({ n := 1, xt := some (.i8, .i8) } : Chain).xt.isSome = true ∧ (0xF400 : Half).toNat / 1024 = 61) ∧
    (({ n := 3, xs := some (.pkg, .acq, false) } : Chain).xs.isSome = true ∧ (0xF800 : Half).toNat / 1024 = 62) := by decide +kernel

/-- What the claim about a step assumes of the turns: the thread set is the first that can issue, and acts. -/
theorem witness_StepTurns :
    let s := State.reset.withFetchWord 16 0x0400
    let s0 : State := { s with fetch := none, touched := [], runq := [(0, 0)] }
    let s1 := { s0.clearHeld 0 with fetch := some ⟨0, 0, (s.thread 0 0).pc, 0x1002, [0x0400], none⟩ }
    s.dueFlit = none ∧ s.byAge 0 = [0] ∧ (s.thread 0 0).live = true ∧
    after (exec (.nop {}) s1) (fun t => (t.touched, s1.hasActed (t.afterIssue (t.dropAsk (0, 0)) (.nop {})) 0 0)) = some ([], true) := by
  decide +kernel

/-- The thread's own store to the bytes is under way: a `strong` load waits, and reads the place once it has landed (R158). -/
theorem witness_StrongLoads :
    let s (a : Nat) : State := flying (state0 [(4, 0x300000008)]) (.store (.sram (bankKey 1 0 a)) [5] ⟨0, false, false, 0⟩)
    Ready (s 8) {} ∧ (holds ((s 8).unpopped.access 0 ((s 8).sreg at0 4 + 0) 4 4 false (sysAccess at0 ((s 8).own at0))) fun (acc, _) =>
      (s 8).strongHolds at0 { strong := true, scope := .pkg } acc 4) = true ∧
    ([s 8, s 12].map fun z => after (exec (.ldw { strong := true, scope := .pkg } 3 4 0) z) fun t => (t.thread 0 0).run) = [some .waiting, some .running] ∧
    after (exec (.ldw {} 3 4 0) (s 8)) (reg 3) = some 5 :=
  ⟨ready _ _ (by decide +kernel), by decide +kernel⟩

/-- Accesses that fail two checks: misaligned and out of range; reserved bits and no translation; no translation and another core's
region; another core's region over lap cells. -/
theorem witness_CheckOrder :
    let held (a : Word) (s : State) : State := { s with fab := { s.fab with caps := [⟨7, 1, a, 8, 1⟩] } }
    let traps (a : Word) (s : State) : Option (BitVec 8) :=
      after (exec (.stw {} 3 4 0) (threadIs s fun t => t.setS 4 a)) fun t => (t.thread 0 0).cause
    [traps 0x3C001 (state0 []), traps 0x81000000000000F2 (state0 []), traps 0x81000000000000F0 (state0 []),
      traps 0x80000000000000F0 (held 0x8000000000000000 (state0 [])), traps 0x8000000000000100 (held 0x8000000000000100 capRanges),
      traps 0x100 (held 0x200000100 (state0 []))] =
      [some 0x60, some 0x60, some 0x64, some 0x65, some 0x68, some 0x68] ∧
    (let lap := partState (some { part0 with desc := part0.desc.set 1 0x1000000001 })
     [traps 0x2000 lap, traps 0x2000 (held 0x200002000 lap)] = [some 0x84, some 0x68]) := by decide +kernel

/-- `TRACE` while the stream region is written, and while it is not; the states of thread sets (R243, R326, R327). -/
theorem witness_TraceRecords :
    let s := coreIs (state0 [(4, 0x1122334455667788)]) fun c => { c with trctl := 0x8000000000000005, trTime := 0 }
    let g : State := { s with cycle := 100 }
    let r (u : Run) : State := g.modThread 0 1 fun t => { t with run := u }
    Ready g {} ∧ (g.core 0).trGap = 0 ∧ g.cycle - (g.core 0).trTime < 128 ∧ (g.core 0).trSince < 255 ∧ (g.core 0).stagedBytes + 10 ≤ 8192 ∧
    (g.core 0).trBytes.toNat % (g.core 0).streamSize + 10 ≤ (g.core 0).streamSize ∧
    after (exec (.trace {} 4) g) (fun t => (t.core 0).trStaged.map (·.2)) = some [[0xC4, 100, 0x88, 0x77, 0x66, 0x55, 0x44, 0x33, 0x22, 0x11]] ∧
    after (exec (.trace {} 4) (state0 [])) (fun t => (t.core 0).trStaged) = some [] ∧
    ([Run.off, .stopped, .parked, .running, .waiting].map fun u => after (exec (.bgtrd {} 3 0) (r u)) (reg 3)) =
      [some 0x1102, some 0x1112, some 0x1142, some 0x1122, some 0x1132] :=
  ⟨ready _ _ (by decide +kernel), by decide +kernel⟩

/-- What `LAPW` waits for: no release, one that has not come, one whose slab is in flight, and one that has come (R384, R394). -/
theorem witness_LapTargets :
    let z (p : Part) (r : RidgeSt) (j : Option Nat) : State :=
      threadIs (coreIs (partState (some p)) fun c => { c with ridge := c.ridge.set 1 r }) fun t => { t with lapFor := j }
    let done : Part := { part0 with flight := 0 }
    let sent : Part := { done with sentRefresh := true }
    Ready (z sent { arrivals := 1 } none) {} ∧ Ready (z part0 { arrivals := 1, released := 1 } (some 1)) {} ∧
    ([(done, 1, 0, none), (sent, 1, 1, none), (sent, 1, 0, some 1), (part0, 1, 1, some 1), (done, 1, 1, some 1),
      (part0, 2, 2, some 1)].map fun (p, a, r, j) =>
      after (exec (.lapw {} 3 9) (z p { arrivals := a, released := r } j)) fun t => (t.thread 0 0).run) =
      [some .running, some .running, some .waiting, some .waiting, some .running, some .running] ∧
    ([(sent, 1, 0), (part0, 1, 1), (part0, 1, 0)].map fun (p, a, r) =>
      after (exec (.lapw {} 3 9) (z p { arrivals := a, released := r } none)) fun t => ((t.thread 0 0).run, (t.thread 0 0).lapFor)) =
      [some (.waiting, some 1), some (.waiting, some 1), some (.waiting, some 0)] :=
  ⟨ready _ _ (by decide +kernel), ready _ _ (by decide +kernel), by decide +kernel⟩

/-- A release whose window is open: a marked `RIDGE` waits, and a cause left to the core is not taken (R387). -/
theorem witness_OpenWindows :
    let r : RidgeSt := { arrivals := 1, released := 1, windows := [⟨1, 0, 0, [], []⟩] }
    let m := threadIs (ridgeState r) fun t => { t with marks := [⟨1, 1, 0x1000, none⟩] }
    let o := ridgeState { arrivals := 2, released := 2, windows := [⟨1, 0, 0, [], []⟩], owed := [⟨1, 0x92, none⟩] }
    Ready m {} ∧ Ready o {} ∧ after (exec (.ridge {} 3 1 0) m) (fun t => (t.thread 0 0).run) = some .waiting ∧
    after (exec (.ridgew {} 3 1) o) (fun t => ((t.thread 0 0).run, ((t.core 0).ridgeAt 1).owed)) =
      some (.waiting, [⟨1, 0x92, none⟩]) :=
  ⟨ready _ _ (by decide +kernel), ready _ _ (by decide +kernel), by decide +kernel⟩

/-- A release of level 6 on communicator 5 of two ranks, as rank 0: its token goes to device 8 once, and when that rank's has come
the release is made (R116, R118). -/
theorem witness_TopLevel :
    let z (m : Comm) : State :=
      let s := coreIs (state0 []) fun c => { c with
        domEff := 64
        ridge := c.ridge.set 6 { arrivals := 1, comm := 5 } }
      { s with
        ports := [(0, { state := .up, peer := 8 })]
        fab := { s.fab with comms := [(5, m)] } }
    let m : Comm := { ctl := 0x0002000000000001, ranks := [9, 8] }
    (z m).ridgeReady 0 6 = true ∧ (z m).members 0 6 = [0] ∧ m.others = [1] ∧ (z m).wayTo 8 = some 0 ∧
    after (exec (.ridgeRelease 6 0) (z m)) (fun t => ((t.port 0).outq.map (·.vc), (tblGet t.fab.comms 5 {}).sent,
      ((t.core 0).ridgeAt 6).released)) = some ([1], true, 0) ∧
    after (exec (.ridgeRelease 6 0) (z { m with sent := true })) (fun t => (t.port 0).outq.length) = some 0 ∧
    after (exec (.ridgeRelease 6 0) (z { m with sent := true, tokens := [(1, [(3, 9), (0, 0)])] })) (fun t =>
      (tblGet (tblGet t.fab.comms 5 {}).tokens 1 [], ((t.core 0).ridgeAt 6).released, (t.core 0).course[6])) =
      some ([(0, 0)], 1, 1) := by decide +kernel

/-- `RADDV` past the end of a bank, and `RFOLD` behind a vector load of acquire order (R391, R101, R419). -/
theorem witness_SliceEdges :
    let r : SliceRegion := { slice0 with acc := [(1, [7])] }
    let s := coreIs (sliceState [r]) fun c => { c with vq := [{ id := 0, ts := 0, seq := 0, x := { order := .acq }, kind := .vld }] }
    let e := threadIs (sliceState []) fun t => t.setS 4 0x30007FFF0
    Ready s {} ∧ Ready e {} ∧ s.acquiring 0 0 = true ∧ after (exec (.rfold {} 4) s) (fun t => (t.thread 0 0).run) = some .waiting ∧
    (match e.place 0 0x30007FFF0 false with | .ok (.bank l _ o) => decide (bankSize l < o + 64) | _ => false) = true ∧
    after (exec (.raddv {} 4 2) e) (fun t => (t.thread 0 0).cause) = some 0x61 :=
  ⟨ready _ _ (by decide +kernel), ready _ _ (by decide +kernel), by decide +kernel⟩

/-- `CREVOKE` while something that has passed its check is under way (R403). -/
theorem witness_Revokes :
    (peerState { remote0 with checked := true }).revokeWaits 1 = true ∧ (peerState remote0).revokeWaits 1 = false ∧
    Ready (peerState { remote0 with checked := true }) {} ∧
    after (exec (.crevoke {} 10) (peerState { remote0 with checked := true })) (fun t => ((t.thread 0 0).run, (tblGet t.fab.posts 1 {}).live)) =
      some (.waiting, true) :=
  ⟨by decide +kernel, by decide +kernel, ready _ _ (by decide +kernel), by decide +kernel⟩

/-- A `CFET` behind a store of its thread waits for it (R163). -/
theorem witness_FetchWaits :
    let s : State := { fetchState with fab := { fetchState.fab with fly := [⟨0, 0, 0, 0, .store (.cell 8) [1] ⟨0, false, false, 0⟩, false⟩] } }
    let late := coreIs s fun c => { c with copyq := c.copyq.map fun r => { r with id := 1 } }
    (late.storesOf 0 0).any (·.id < 1) = true ∧ after (exec (.cfetLand 0) late) (fun t => (t.core 0).copyq.length) = some 1 ∧
    after (exec (.cfetLand 0) s) (fun t => (t.core 0).copyq.length) = some 0 := by decide +kernel

/-- A port that was `Up` before it retrained sends what is not acknowledged again when it is `Up` (R14). -/
theorem witness_Resent :
    let l : LinkPort := { ctl := 0x81, state := .identify, granted := true, retry := [⟨1, 0, 0⟩, ⟨2, 0, 0⟩] }
    after (exec (.trainingStepComplete 3 partner0) (portState l)) (fun t => ((t.port 3).state, t.out.length)) = some (.up, 2) := by
  decide +kernel

/-- A submission for a priority above the port's, and for a port whose 64 places are taken (R39). -/
theorem witness_SubmissionCodes :
    let z (n p : Nat) : State :=
      let s := portHolds 0x0001000101FC0001 (recWords p)
      { s with sched := { s.sched with ports := s.sched.ports.map fun (i, q) => (i, { q with occupied := n }) } }
    ([(64, 3), (63, 3)].map fun (n, p) => after (exec (.submissionDecide 2) (z n p)) fun t => ((t.sub 2).code, t.sched.recs.length)) =
      [some (1, 0), some (0, 1)] ∧
    ([0x0001000101FC0001, 0x0001000100040001, 0x0001000001FC0001].map fun c =>
      after (exec (.submissionDecide 2) (portHolds c (recWords 3))) fun t => (t.sub 2).code) = [some 0, some 3, some 3] := by decide +kernel

/-- What pre-empting a core and letting it go do nothing for: a crew that has finished; no context yet; a copy that faulted. -/
theorem witness_PreemptionNothing :
    let f := coreIs (state0 []) fun c => { c with crew := c.crew.map fun w => { w with finished := true } }
    after (exec (.perCorePreemption 0) f) (fun t => (t.core 0).preempt) = some none ∧
    ([(none, false), (some 0, true)].map fun (o, b) =>
      after (exec (.preemptionRelease 0) (preemptState ⟨o, b⟩)) fun t => (t.core 0).preempt) =
      [some (some ⟨none, false⟩), some (some ⟨some 0, true⟩)] := by decide +kernel

theorem witness_StepKeepsCanonical : State.reset.canonical :=
  ⟨rfl, rfl, rfl, rfl, rfl, rfl, fun _ h => nomatch h⟩

end Sys2Proof.Tests
end

/-!
Proofs: device registers, monitors, budgets and ages (R5, R28, R29, R55, R70, R73, R76).
-/
namespace Sys2Proof.Proofs
open Sys2Proof Sys2Proof.Machine

/-! ## Folds and tables of values by position -/

/-- A view of the state that no step of a fold changes is unchanged by the fold. -/
theorem foldl_view {σ α β : Type} (view : σ → β) (f : σ → α → σ) (h : ∀ s a, view (f s a) = view s) (l : List α) (s : σ) :
    view (l.foldl f s) = view s := by
  induction l generalizing s with
  | nil => rfl
  | cons a l ih => rw [List.foldl_cons, ih, h]

theorem tblGet_tblOf {α : Type} (l : List α) (i : Nat) (d : α) : tblGet (tblOf l) i d = l.getD i d := by
  suffices h : ∀ k i, tblGet ((l.zipIdx k).map fun (v, i) => (i, v)) (k + i) d = l.getD i d by
    simpa [tblOf] using h 0 i
  intro k i
  induction l generalizing k i with
  | nil => simp [tblGet]
  | cons a l ih =>
    cases i with
    | zero => simp [tblGet]
    | succ i =>
      have hi := ih (k + 1) i
      rw [show k + 1 + i = k + (i + 1) by omega] at hi
      simpa [tblGet] using hi

theorem map_snd_tblOf {α : Type} (l : List α) : (tblOf l).map Prod.snd = l := by
  simp [tblOf, Function.comp_def]

/-! ## Register writes (R5, R32) -/

section RegisterWrites
variable (s : State) (off : Nat) (v : Word)

theorem exec_registerWrite : exec (.registerWrite off v) s = execRegisterWrite off v s := rfl

/-- A choice between two steps that complete completes. -/
theorem completes_ite {p : Prop} [Decidable p] {a b : Res} (ha : ∃ t, a = .next t) (hb : ∃ t, b = .next t) :
    ∃ t, (if p then a else b) = .next t := by
  split
  · exact ha
  · exact hb

theorem lowWrite_completes : ∃ t, s.lowWrite off v = .next t := by
  have devnum : ∃ t, execDevnumWrite (v.setWidth 16) s = .next t := completes_ite ⟨_, rfl⟩ ⟨_, rfl⟩
  exact completes_ite ⟨_, rfl⟩ <| completes_ite ⟨_, rfl⟩ <| completes_ite ⟨_, rfl⟩ <| completes_ite ⟨_, rfl⟩ <|
    completes_ite ⟨_, rfl⟩ <| completes_ite ⟨_, rfl⟩ <| completes_ite devnum <| completes_ite ⟨_, rfl⟩ ⟨_, rfl⟩

theorem monitorWrite_completes : ∃ t, s.monitorWrite off v = .next t :=
  completes_ite ⟨_, rfl⟩ <| completes_ite ⟨_, rfl⟩ ⟨_, rfl⟩

theorem commEnable_completes (c : Fin 4096) : ∃ t, execCommEnable c v s = .next t := by
  refine completes_ite ⟨_, rfl⟩ ?_
  split <;> exact ⟨_, rfl⟩

theorem commCtl_completes (c : Fin 4096) : ∃ t, s.commCtl c v = .next t :=
  completes_ite (commEnable_completes s v c) <| completes_ite ⟨_, rfl⟩ ⟨_, rfl⟩

/-- One term per range of the register map, in its order. -/
theorem registerWrite_completes : ∃ t, exec (.registerWrite off v) s = .next t := by
  rw [exec_registerWrite]
  exact completes_ite (lowWrite_completes s off v) <|
  completes_ite (monitorWrite_completes s off v) <|
  completes_ite ⟨_, rfl⟩ <|
  completes_ite (completes_ite ⟨_, rfl⟩ ⟨_, rfl⟩) <|
  completes_ite (completes_ite ⟨_, rfl⟩ ⟨_, rfl⟩) <|
  completes_ite (completes_ite ⟨_, rfl⟩ ⟨_, rfl⟩) <|
  completes_ite (completes_ite ⟨_, rfl⟩ <| completes_ite ⟨_, rfl⟩ ⟨_, rfl⟩) <|
  completes_ite (completes_ite ⟨_, rfl⟩ ⟨_, rfl⟩) <|
  completes_ite (completes_ite (commCtl_completes s v _) <| completes_ite ⟨_, rfl⟩ ⟨_, rfl⟩) <|
  completes_ite ⟨_, rfl⟩ <| completes_ite ⟨_, rfl⟩ <| completes_ite ⟨_, rfl⟩ ⟨_, rfl⟩

/-- The last register starts at 0x70010, so no range of the map holds the offset. -/
theorem registerWrite_beyond (h : 0x70018 ≤ off) : exec (.registerWrite off v) s = .next s := by
  simp (disch := omega) only [exec_registerWrite, execRegisterWrite, beq_iff_eq, if_neg]

theorem registerWrite_hapBase : exec (.registerWrite 0x200 v) s =
    .next { s with sched := { s.sched with hapBase := v &&& 0xFFFFFFF000000000 } } := rfl

theorem registerWrite_devnum : exec (.registerWrite 0x400 v) s = exec (.devnumWrite (v.setWidth 16)) s := rfl

theorem registerWrite_powerLim : exec (.registerWrite 0x408 v) s = exec (.powerlimWrite (v.setWidth 16)) s := rfl

end RegisterWrites

/-! ## Monitors (R28, R29) -/

section Monitors
variable (s : State) (r : Readings)

/-- Losing a task ends crews, and nothing in that writes a device register. -/
theorem loseTask_boot (t : Task) (code : Nat → BitVec 8) : (s.loseTask t code).boot = s.boot := by
  unfold State.loseTask
  refine (foldl_view State.boot _ ?_ _ _).trans ?_
  · intro s c
    split
    · split
      · rfl
      · exact Laws.State.endCrew_boot ..
    · rfl
  · split
    · split <;> rfl
    · rfl

theorem thermalStop_boot : s.thermalStop.boot = { s.boot with phase := .thermal, maintenance := true } :=
  foldl_view State.boot _ (fun s t => loseTask_boot s t _) _ _

/-- No sensor of a list reads above a limit. -/
theorem hottest_eq_none {l : List (BitVec 16)} {limit : Int} : hottest l limit = none ↔ ∀ v ∈ l, v.toInt ≤ limit := by
  conv_rhs => rw [← map_snd_tblOf l]
  simp only [hottest, List.find?_eq_none, decide_eq_true_eq, not_lt, List.forall_mem_map]

/-- The thermal stop's test of the first `n` sensors, by position (R28). -/
theorem hottest_take_eq_none {l : List (BitVec 16)} {n : Nat} :
    hottest (l.take n) 1839 = none ↔ ∀ i v, i < n → l[i]? = some v → v.toInt < 1840 := by
  rw [hottest_eq_none]
  constructor
  · intro h i v hi hv
    have hle := h v (List.mem_of_getElem? ((List.getElem?_take_of_lt hi).trans hv))
    omega
  · intro h v hv
    obtain ⟨i, hi⟩ := List.mem_iff_getElem?.1 hv
    obtain ⟨hn, hi⟩ : i < n ∧ l[i]? = some v := by simpa [List.getElem?_take] using hi
    have hlt := h i v hn hi
    omega

/-- What new readings do to the readings, counts and log of the device, before a thermal stop. -/
def monitored (b : Boot) (r : Readings) (cycle : Nat) : Boot :=
  let b := { b with temps := tblOf (r.temps.take 256), process := tblOf (r.process.take 24) }.droops r.droops
  match hottest (r.temps.take 256) b.twarn.toInt with
  | some (i, v) => b.append (logRecord cycle v i 6 0 false false 0)
  | none => b

/-- The state with new readings. -/
def withReadings : State := { s with boot := monitored s.boot r s.cycle }

theorem exec_monitorUpdate : exec (.monitorUpdate r) s =
    .next (if hottest (r.temps.take 256) 1839 = none then withReadings s r else (withReadings s r).thermalStop) := by
  change execMonitorUpdate r s = _
  unfold execMonitorUpdate
  dsimp only
  split
  · rename_i h; rw [h]; rfl
  · rename_i h; rw [h]; rfl

/-- A view of the device registers that the droop monitors do not enter is unchanged by their responses. -/
theorem droops_view {β : Type} (view : Boot → β) (b : Boot) (l : List (BitVec 16))
    (h : ∀ (b : Boot) m c g, view { b with droopMin := m, droopCount := c, droopHeld := g } = view b) :
    view (b.droops l) = view b := by
  unfold Boot.droops
  rw [foldl_view view]
  · exact h b _ b.droopCount b.droopHeld
  · intro b p
    dsimp only
    split
    · exact h b b.droopMin _ _
    · rfl

theorem monitored_temps (b : Boot) (cycle : Nat) : (monitored b r cycle).temps = tblOf (r.temps.take 256) := by
  unfold monitored
  dsimp only
  split <;> exact droops_view Boot.temps _ _ fun _ _ _ _ => rfl

theorem monitored_maintenance (b : Boot) (cycle : Nat) : (monitored b r cycle).maintenance = b.maintenance := by
  unfold monitored
  dsimp only
  split <;> exact droops_view Boot.maintenance _ _ fun _ _ _ _ => rfl

/-- New readings are kept, with a thermal stop or without one. -/
theorem withReadings_temps {i : Nat} (hi : i < 256) : tblGet (withReadings s r).boot.temps i 0 = r.temps.getD i 0 := by
  change tblGet (monitored s.boot r s.cycle).temps i 0 = _
  rw [monitored_temps, tblGet_tblOf]
  simp [List.getElem?_take_of_lt hi]

theorem monitorUpdate_spec : ∃ t, exec (.monitorUpdate r) s = .next t ∧
    (∀ i, i < 256 → tblGet t.boot.temps i 0 = r.temps.getD i 0) ∧
    ((∃ i v, i < 256 ∧ r.temps[i]? = some v ∧ 1840 ≤ v.toInt) → t.boot.maintenance = true ∧ t.boot.phase = .thermal) ∧
    ((∀ i v, i < 256 → r.temps[i]? = some v → v.toInt < 1840) → t.cores = s.cores ∧ t.sched = s.sched ∧
      t.boot.maintenance = s.boot.maintenance) := by
  refine ⟨_, exec_monitorUpdate s r, ?_⟩
  by_cases hot : hottest (r.temps.take 256) 1839 = none
  · have cool := hottest_take_eq_none.1 hot
    rw [if_pos hot]
    refine ⟨fun i hi => withReadings_temps s r hi, ?_, fun _ => ⟨rfl, rfl, monitored_maintenance r s.boot s.cycle⟩⟩
    rintro ⟨i, v, hi, hv, hle⟩
    exact absurd (cool i v hi hv) (not_lt.2 hle)
  · rw [if_neg hot, thermalStop_boot]
    exact ⟨fun i hi => withReadings_temps s r hi, fun _ => ⟨rfl, rfl⟩, fun cool => absurd (hottest_take_eq_none.2 cool) hot⟩

end Monitors

/-! ## Budget boundaries (R70, R73, R74) -/

section BudgetBoundary
variable (s : State) (b : Budgets)

/-- The budgets but for what a boundary computes or the control cores set: written and effective shares and pools, context
space, and the period. -/
def settings (b : Budgets) : Budgets :=
  { b with buckets := [], ecoef := [], coefNext := [], coefAt := 0, epool := [], epoolNext := [] }

/-- `n` boundaries have put the written shares and pools into effect. -/
def inEffect (n : Nat) (b : Budgets) : Budgets := { b with tbudE := b.tbud, bpoolE := b.bpool, period := b.period + n }

theorem inEffect_inEffect (m n : Nat) : inEffect m (inEffect n b) = inEffect (n + m) b := by
  simp [inEffect, Nat.add_assoc]

theorem setBucket_settings (die tenant : Nat) (k : Bucket) : settings (b.setBucket die tenant k) = settings b := rfl

theorem refillKind_settings (was : Bool) (die : Nat) (energy : Bool) :
    settings (b.refillKind was die energy) = settings b := by
  refine foldl_view settings _ (fun b p => ?_) _ _
  dsimp only
  generalize (if energy = true then _ else _ : Bucket) = k
  split
  · rfl
  · exact setBucket_settings ..

theorem noteHolds_settings : settings s.noteHolds.bud = settings s.bud := by
  refine foldl_view (fun s : State => settings s.bud) _ (fun s p => ?_) _ _
  dsimp only
  split
  · rfl
  · split
    · rfl
    · exact setBucket_settings ..

theorem recalibrate_settings (cycle : Nat) : settings (b.recalibrate cycle) = settings b := by
  unfold Budgets.recalibrate
  split <;> rfl

theorem boundary_settings : settings s.boundary.bud = inEffect 1 (settings s.bud) := by
  simp only [State.boundary]
  rw [foldl_view settings _ fun b d => by rw [refillKind_settings, refillKind_settings], recalibrate_settings]
  exact congrArg (inEffect 1) (noteHolds_settings s)

theorem boundaries_settings (n : Nat) : settings (State.boundaries (n + 1) s).bud = inEffect (n + 1) (settings s.bud) := by
  induction n generalizing s with
  | zero => exact boundary_settings s
  | succ n ih =>
    rw [State.boundaries, ih, boundary_settings, inEffect_inEffect, Nat.add_comm]

/-- A boundary changes the budgets alone. -/
theorem boundary_eq : ∃ b, s.boundary = { s with bud := b } := ⟨_, rfl⟩

/-- Boundaries change the budgets alone. -/
theorem boundaries_eq (n : Nat) : ∃ b, State.boundaries n s = { s with bud := b } := by
  induction n generalizing s with
  | zero => exact ⟨s.bud, rfl⟩
  | succ n ih =>
    obtain ⟨b, hb⟩ := boundary_eq s
    obtain ⟨d, hd⟩ := ih s.boundary
    exact ⟨d, by rw [State.boundaries, hd, hb]⟩

/-- The coefficients and energy pools that the control cores set wait for a boundary. -/
def withCoefs (c e : List (BitVec 32)) (s : State) : State :=
  { s with bud := { s.bud with coefNext := if c.isEmpty then s.bud.coefNext else c,
                               epoolNext := if e.isEmpty then s.bud.epoolNext else e } }

theorem exec_budgetBoundary (c e : List (BitVec 32)) : exec (.budgetBoundary c e) s =
    .next (State.boundaries (s.cycle / 1024 - s.bud.period) (withCoefs c e s)) := by
  change execBudgetBoundary c e s = _
  by_cases h : s.bud.period < s.cycle / 1024
  · simp [execBudgetBoundary, State.boundaryDue, withCoefs, h]
  · have h0 : s.cycle / 1024 - s.bud.period = 0 := by omega
    simp [execBudgetBoundary, State.boundaryDue, withCoefs, h, h0, State.boundaries]

/-- A boundary that is due puts the written shares and pools into effect. -/
theorem budgetBoundary_due (c e : List (BitVec 32)) (h : s.bud.period < s.cycle / 1024) :
    ∃ t, exec (.budgetBoundary c e) s = .next t ∧ t.bud.tbudE = s.bud.tbud ∧ t.bud.bpoolE = s.bud.bpool ∧
      t.bud.period = s.cycle / 1024 ∧ t.bud.ctxUsed = s.bud.ctxUsed ∧ t.mem = s.mem ∧ t.cores = s.cores ∧
      t.sched = s.sched := by
  obtain ⟨n, hn⟩ : ∃ n, s.cycle / 1024 - s.bud.period = n + 1 := Nat.exists_eq_succ_of_ne_zero (by omega)
  have hset : settings (State.boundaries (n + 1) (withCoefs c e s)).bud = inEffect (n + 1) (settings s.bud) :=
    boundaries_settings (withCoefs c e s) n
  have hperiod : s.bud.period + (n + 1) = s.cycle / 1024 := by omega
  refine ⟨_, exec_budgetBoundary s c e, ?_⟩
  rw [hn]
  refine ⟨congrArg Budgets.tbudE hset, congrArg Budgets.bpoolE hset, (congrArg Budgets.period hset).trans hperiod,
    (congrArg Budgets.ctxUsed hset :), ?_⟩
  obtain ⟨b, hb⟩ := boundaries_eq (withCoefs c e s) (n + 1)
  rw [hb]
  exact ⟨rfl, rfl, rfl⟩

/-- Within a period the coefficients and energy pools only wait. -/
theorem budgetBoundary_early (c e : List (BitVec 32)) (h : s.cycle / 1024 ≤ s.bud.period) :
    exec (.budgetBoundary c e) s = .next (withCoefs c e s) := by
  rw [exec_budgetBoundary, Nat.sub_eq_zero_of_le h]; rfl

end BudgetBoundary

/-! ## Deferrals and ages (R55, R76) -/

section Ages
variable (s : State) (n : Nat)

/-- A record after the expiry of record `n`'s deferral. -/
def expired (r : Rec) : Rec :=
  match r.deferred with
  | some c => if r.id == n && c + 2 ^ 20 ≤ s.cycle then { r with deferred := some (s.cycle - 2 ^ 20) } else r
  | none => r

theorem exec_energyDeferExpiry : exec (.energyDeferExpiry n) s =
    .next { s with sched := { s.sched with recs := s.sched.recs.map (expired s n) } } := rfl

theorem expired_other {r : Rec} (h : r.id ≠ n) : expired s n r = r := by
  unfold expired
  split
  · simp [h]
  · rfl

theorem expired_due {r : Rec} {c : Nat} (hid : r.id = n) (hr : r.deferred = some c) (hc : c + 2 ^ 20 ≤ s.cycle) :
    expired s n r = { r with deferred := some (s.cycle - 2 ^ 20) } := by
  simp only [expired, hr]
  exact if_pos (by simpa [hid] using hc)

/-- A record that has been deferred for 2^20 cycles is deferred no longer, whatever its tenant's energy is. -/
theorem energyDeferred_expired {r : Rec} {c : Nat} (hr : r.deferred = some c) (hc : c + 2 ^ 20 ≤ s.cycle) :
    s.energyDeferred r = false := by
  have h : decide (s.cycle < c + 2 ^ 20) = false := decide_eq_false (not_lt.2 hc)
  simp only [State.energyDeferred, hr, h, Bool.and_false]

/-- The deferral of record `n` ends, and every other record is kept. -/
theorem energyDeferExpiry_spec : ∃ t, exec (.energyDeferExpiry n) s = .next t ∧ t.mem = s.mem ∧ t.cores = s.cores ∧
    ∀ r ∈ s.sched.recs, (r.id ≠ n → r ∈ t.sched.recs) ∧
      (∀ c, r.id = n → r.deferred = some c → c + 2 ^ 20 ≤ s.cycle → ∃ q ∈ t.sched.recs, q.id = n ∧ q.words = r.words ∧
        t.energyDeferred q = false) := by
  refine ⟨_, exec_energyDeferExpiry s n, rfl, rfl, fun r hr => ⟨fun hid => ?_, fun c hid hd hc => ?_⟩⟩
  · exact List.mem_map.2 ⟨r, hr, expired_other s n hid⟩
  · refine ⟨_, List.mem_map.2 ⟨r, hr, expired_due s n hid hd hc⟩, hid, rfl, ?_⟩
    refine energyDeferred_expired (c := s.cycle - 2 ^ 20) _ rfl ?_
    change s.cycle - 2 ^ 20 + 2 ^ 20 ≤ s.cycle
    omega

/-- What is under way is kept, and marked when it is request `n` and has waited 1,024 cycles. -/
theorem arbiterAgeLimit_spec : ∃ t, exec (.arbiterAgeLimit n) s = .next t ∧ t.mem = s.mem ∧ t.cores = s.cores ∧
    ∀ f ∈ s.fab.fly, ∃ g ∈ t.fab.fly, g.id = f.id ∧ g.what = f.what ∧
      (g.aged = true ↔ f.aged = true ∨ (f.id = n ∧ f.cyc + 1024 ≤ s.cycle)) := by
  refine ⟨_, rfl, rfl, rfl, fun f hf => ⟨_, List.mem_map.2 ⟨f, hf, rfl⟩, rfl, rfl, ?_⟩⟩
  simp

end Ages

/-- Settles O51: each kind of event by the lemma that says what it does. -/
theorem deviceRegisters : Obligations.DeviceRegisters := by
  intro s
  refine ⟨fun off v => ⟨registerWrite_completes s off v, registerWrite_beyond s off v⟩, registerWrite_hapBase s,
    fun v => ⟨registerWrite_devnum s v, registerWrite_powerLim s v⟩, monitorUpdate_spec s, fun _ => rfl,
    fun c e => ⟨budgetBoundary_due s c e, fun h => ?_⟩, energyDeferExpiry_spec s, arbiterAgeLimit_spec s⟩
  exact ⟨_, budgetBoundary_early s c e h, rfl, rfl, rfl, rfl⟩

end Sys2Proof.Proofs

/-!
Proofs: power, boot, measurement, attestation and the state of reset (R25, R26, R27, R30, R31, R34).
-/
namespace Sys2Proof.Proofs
open Sys2Proof Sys2Proof.Machine

/-! ## Power and reset (R30, R31) -/

theorem toNat_clampedPower (v : BitVec 16) : (BitVec.ofNat 16 (max 1200 (min 2400 v.toNat))).toNat =
    if v.toNat < 1200 then 1200 else if 2400 < v.toNat then 2400 else v.toNat := by
  rw [BitVec.toNat_ofNat, Nat.mod_eq_of_lt (by omega)]
  split_ifs <;> omega

/-- Settles O48: the written value is clamped, and `powerLim` is the one field that the write names. -/
theorem powerLimit : Obligations.PowerLimit :=
  ⟨rfl, fun _ v => ⟨_, rfl, toNat_clampedPower v⟩⟩

theorem reset_canonical : State.reset.canonical :=
  ⟨rfl, rfl, rfl, rfl, rfl, rfl, fun _ hq => absurd hq List.not_mem_nil⟩

theorem reset_thread_dead (c : Nat) (ts : Fin 4) : (State.reset.thread c ts).live = false := by
  change (Core.reset.thr[ts]).live = false
  revert ts
  decide

/-- Settles O59: no table has an entry after reset, so each lookup reads its default. -/
theorem resetState : Obligations.ResetState := by
  refine ⟨reset_canonical, rfl, rfl, rfl, rfl, rfl, fun c ts => ⟨reset_thread_dead c ts, rfl⟩, fun _ => rfl,
    fun _ => ⟨rfl, rfl, rfl, rfl⟩, ?_⟩
  decide +kernel

/-! ## Bytes of reports (R27) -/

theorem length_leBytes (n v : Nat) : (leBytes n v).length = n := by
  induction n generalizing v with
  | zero => rfl
  | succ n ih => rw [leBytes, List.length_cons, ih]

theorem length_beBytes (n v : Nat) : (beBytes n v).length = n := by
  rw [beBytes, List.length_reverse, length_leBytes]

theorem length_bytes256 (v : BitVec 256) : (bytes256 v).length = 32 := length_leBytes ..

theorem slice_append {pre mid post : List Byte} {n k : Nat} (hn : pre.length = n) (hk : mid.length = k) :
    slice (pre ++ mid ++ post) n k = mid := by
  subst hn hk
  simp [slice]

/-- The fields of a report before its nonce. -/
def reportHead (b : Boot) : List Byte :=
  leBytes 4 0x41545347 ++ leBytes 2 1 ++ leBytes 2 (boolNat b.maintenance) ++ leBytes 16 Config.serial.toNat ++
    leBytes 4 b.minVersion.toNat ++ leBytes 2 (boolNat b.hostSource) ++ leBytes 2 b.devnum.toNat

/-- The measurements as a report gives them. -/
def measBytes (b : Boot) : List Byte := (b.meas.toList.map bytes256).flatten

theorem length_reportHead (b : Boot) : (reportHead b).length = 0x20 := by
  simp only [reportHead, List.length_append, length_leBytes]

theorem length_measBytes (b : Boot) : (measBytes b).length = 256 := by
  simp [measBytes, List.length_flatten, Function.comp_def, length_bytes256]

/-- The parts of a report: the key and the signature follow the measurements. -/
theorem report_parts (b : Boot) (fresh : Nat) (nonce : BitVec 256) : ∃ tail : List Byte, tail.length = 128 ∧
    b.report fresh nonce = reportHead b ++ bytes256 nonce ++ measBytes b ++ tail := by
  refine ⟨_, ?_, List.append_assoc (reportHead b ++ bytes256 nonce ++ measBytes b) _ _⟩
  rw [List.length_append, length_beBytes, length_beBytes]

theorem length_report (b : Boot) (fresh : Nat) (nonce : BitVec 256) : (b.report fresh nonce).length = 0x1C0 := by
  obtain ⟨tail, htail, hr⟩ := report_parts b fresh nonce
  simp only [hr, List.length_append, length_reportHead, length_bytes256, length_measBytes, htail]

theorem report_nonce (b : Boot) (fresh : Nat) (nonce : BitVec 256) :
    slice (b.report fresh nonce) 0x20 32 = bytes256 nonce := by
  obtain ⟨tail, -, hr⟩ := report_parts b fresh nonce
  rw [hr, List.append_assoc]
  exact slice_append (length_reportHead b) (length_bytes256 nonce)

theorem report_measurements (b : Boot) (fresh : Nat) (nonce : BitVec 256) :
    slice (b.report fresh nonce) 0x40 256 = (b.meas.toList.map bytes256).flatten := by
  obtain ⟨tail, -, hr⟩ := report_parts b fresh nonce
  rw [hr]
  exact slice_append (by rw [List.length_append, length_reportHead, length_bytes256]) (length_measBytes b)

/-! ## Measurements (R26) -/

section Measurements
variable (b : Boot) (m : Fin 8) (d : BitVec 256)

theorem extend_meas_same : (b.extend m d).meas[m] = digestValue (sm3 (bytes256 b.meas[m] ++ bytes256 d)) :=
  Vector.getElem_set_self ..

theorem extend_meas_other {i : Nat} (hi : i < 8) (h : m.val ≠ i) : (b.extend m d).meas[i] = b.meas[i] :=
  Vector.getElem_set_ne m.isLt hi h

/-- Power-on reset clears the measurements and then extends `MEAS0`. -/
theorem start_meas_zero : b.start.meas[0] = digestValue (sm3 (bytes256 0 ++ bytes256 Config.romDigest)) :=
  extend_meas_same _ 0 _

theorem start_meas_other {i : Fin 8} (h : i ≠ 0) : b.start.meas[i] = 0 :=
  (extend_meas_other _ 0 _ i.isLt fun hi => h (Fin.ext hi.symm)).trans (Vector.getElem_replicate _)

end Measurements

/-! ## Images (R25) -/

section Images
variable (b : Boot) (host : Bool) (img : List Byte)

/-- The measurements of an image's stages, all in `MEAS2`. -/
def measureStages (b : Boot) (img : List Byte) : Boot :=
  (stageTable img (leNat (slice img 0xC 4))).foldl (fun b (o, l) => b.extend 2 (digestValue (sm3 (slice img o l)))) b

/-- A view of the boot registers that extending `MEAS2` does not change is unchanged by measuring the stages. -/
theorem measureStages_view {β : Type} (view : Boot → β) (h : ∀ b d, view (b.extend 2 d) = view b) :
    view (measureStages b img) = view b :=
  foldl_view view _ (fun b _ => h b _) _ b

/-- The boot registers while the ROM looks at an image: taking one from the host clears `BOOTGO`. -/
def looking (b : Boot) (host : Bool) : Boot := { b with bootGo := if host then false else b.bootGo }

/-- The boot registers once the ROM has measured an image that passes. -/
def measured (b : Boot) (host : Bool) (img : List Byte) : Boot :=
  (measureStages ((looking b host).extend 1 (digestValue (sm3 (slice img 0 0x110)))) img).extend 3 Config.trainingDigest

theorem receive_passed (h : imageCheck b img = 0) :
    b.receive host img = { measured b host img with phase := .stage0, hostSource := host } := by
  simp only [Boot.receive, h]
  rfl

theorem receive_failed (h : imageCheck b img ≠ 0) :
    b.receive host img = { (looking b host).nextAttempt with bootStat := imageCheck b img } := by
  simp only [Boot.receive, bne_iff_ne, ne_eq, h, not_false_iff, if_true]
  rfl

theorem measured_bootGo : (measured b host img).bootGo = if host then false else b.bootGo :=
  measureStages_view _ img Boot.bootGo fun _ _ => rfl

theorem measured_meas_one : (measured b host img).meas[1] =
    digestValue (sm3 (bytes256 b.meas[1] ++ bytes256 (digestValue (sm3 (slice img 0 0x110))))) := by
  rw [measured, extend_meas_other _ 3 _ (by decide) (by decide),
    measureStages_view _ img (·.meas[1]) fun b d => extend_meas_other b 2 d (by decide) (by decide)]
  exact extend_meas_same _ 1 _

theorem measured_meas_three : (measured b host img).meas[3] =
    digestValue (sm3 (bytes256 b.meas[3] ++ bytes256 Config.trainingDigest)) := by
  refine (extend_meas_same _ 3 _).trans ?_
  have stages := measureStages_view ((looking b host).extend 1 (digestValue (sm3 (slice img 0 0x110)))) img (·.meas[3])
    fun b d => extend_meas_other b 2 d (by decide) (by decide)
  have header := extend_meas_other (looking b host) 1 (digestValue (sm3 (slice img 0 0x110))) (i := 3) (by decide) (by decide)
  exact congrArg (fun v => digestValue (sm3 (bytes256 v ++ bytes256 Config.trainingDigest))) (stages.trans header)

/-- Where the ROM goes when attempt `n` on source `i` ends without an image. -/
def afterAttempt (i n : Nat) : BootPhase :=
  if n + 1 < 16 then .fetching i (n + 1)
  else if i + 1 < (bootSources Config.bootSource).length then .fetching (i + 1) 0 else .dead

theorem nextAttempt_fetching {i n : Nat} (h : b.phase = .fetching i n) :
    b.nextAttempt = { b with phase := afterAttempt i n } := by
  simp only [Boot.nextAttempt, h, afterAttempt]
  split
  · rfl
  · split <;> rfl

theorem nextAttempt_bootGo : b.nextAttempt.bootGo = b.bootGo := by
  unfold Boot.nextAttempt
  split
  · split
    · rfl
    · split <;> rfl
  · rfl

/-- An image from the host ends its `BOOTGO`, whether it passes or not (R34). -/
theorem receive_host_bootGo : (b.receive true img).bootGo = false := by
  by_cases h : imageCheck b img = 0
  · rw [receive_passed b true img h]
    exact measured_bootGo b true img
  · rw [receive_failed b true img h]
    exact nextAttempt_bootGo _

end Images

/-! ## The ROM's attempts (R25) -/

section Attempts
variable (s : State) {i n : Nat}

theorem exec_bootFetchRetry_none (h : s.boot.source = some false ∨ (s.boot.source = some true ∧ s.stagedImage = none)) :
    exec .bootFetchRetry s = .next { s with boot := s.boot.nextAttempt } := by
  change execBootFetchRetry s = _
  rcases h with h | ⟨h, himg⟩
  · simp only [execBootFetchRetry, h]
  · simp only [execBootFetchRetry, h, himg]

theorem exec_bootImageReceived_port (img : List Byte) (h : s.boot.source = some false) :
    exec (.bootImageReceived img) s = .next (s.bootFrom false img) := by
  change execBootImageReceived img s = _
  simp only [execBootImageReceived, h]

theorem exec_bootImageReceived_host {img : List Byte} (x : List Byte) (h : s.boot.source = some true)
    (himg : s.stagedImage = some img) : exec (.bootImageReceived x) s = .next (s.bootFrom true img) := by
  change execBootImageReceived x s = _
  simp only [execBootImageReceived, h, himg]

theorem bootFrom_boot (host : Bool) (img : List Byte) : (s.bootFrom host img).boot = s.boot.receive host img := by
  unfold State.bootFrom
  split <;> rfl

theorem bootFrom_mem_passed (host : Bool) {img : List Byte} (h : imageCheck s.boot img = 0) :
    (s.bootFrom host img).mem = { s.mem with control := loadStages s.mem.control img } := by
  simp only [State.bootFrom, h, beq_self_eq_true, if_true]

theorem bootFetchRetry_next (hp : s.boot.phase = .fetching i n)
    (h : s.boot.source = some false ∨ (s.boot.source = some true ∧ s.stagedImage = none)) :
    exec .bootFetchRetry s = .next { s with boot := { s.boot with phase := afterAttempt i n } } := by
  rw [exec_bootFetchRetry_none s h, nextAttempt_fetching _ hp]

/-- An image from the management port that passes starts stage 0, measured and loaded. -/
theorem bootImageReceived_passed (img : List Byte) (hs : s.boot.source = some false) (hc : imageCheck s.boot img = 0) :
    ∃ t, exec (.bootImageReceived img) s = .next t ∧ t.boot.phase = .stage0 ∧ t.boot.hostSource = false ∧
      t.boot.bootGo = s.boot.bootGo ∧
      t.boot.meas[1] = digestValue (sm3 (bytes256 s.boot.meas[1] ++ bytes256 (digestValue (sm3 (slice img 0 0x110))))) ∧
      t.boot.meas[3] = digestValue (sm3 (bytes256 s.boot.meas[3] ++ bytes256 Config.trainingDigest)) ∧
      t.mem = { s.mem with control := loadStages s.mem.control img } := by
  refine ⟨_, exec_bootImageReceived_port s img hs, ?_⟩
  rw [bootFrom_boot, receive_passed _ _ _ hc, bootFrom_mem_passed s false hc]
  exact ⟨rfl, rfl, measured_bootGo _ false img, measured_meas_one _ false img, measured_meas_three _ false img, rfl⟩

/-- One that fails a check names it, measures nothing, and ends the attempt. -/
theorem bootImageReceived_failed (img : List Byte) (hp : s.boot.phase = .fetching i n) (hs : s.boot.source = some false)
    (hc : imageCheck s.boot img ≠ 0) : ∃ t, exec (.bootImageReceived img) s = .next t ∧
      t.boot.phase = afterAttempt i n ∧ t.boot.bootStat = imageCheck s.boot img ∧ t.boot.meas = s.boot.meas := by
  refine ⟨_, exec_bootImageReceived_port s img hs, ?_⟩
  rw [bootFrom_boot, receive_failed _ _ _ hc, nextAttempt_fetching (looking s.boot false) hp]
  exact ⟨rfl, rfl, rfl⟩

theorem bootImageReceived_host (img x : List Byte) (hs : s.boot.source = some true) (himg : s.stagedImage = some img) :
    ∃ t, exec (.bootImageReceived x) s = .next t ∧ t.boot.bootGo = false := by
  refine ⟨_, exec_bootImageReceived_host s x hs himg, ?_⟩
  rw [bootFrom_boot, receive_host_bootGo]

end Attempts

/-! ## Steps of the ROM, of stage 0 and of the host -/

section BootSteps
variable (s : State)

theorem exec_powerOnReset_off (h : s.boot.phase = .off) : exec .powerOnReset s = .next { s with boot := s.boot.start } := by
  change execPowerOnReset s = _
  simp only [execPowerOnReset, h, beq_self_eq_true, if_true]

theorem exec_powerOnReset_on (h : s.boot.phase ≠ .off) :
    exec .powerOnReset s = .next { s.powerCycle with boot := s.powerCycle.boot.start } := by
  change execPowerOnReset s = _
  simp only [execPowerOnReset, beq_iff_eq, h, if_false]

theorem powerOnReset_off (h : s.boot.phase = .off) : ∃ t, exec .powerOnReset s = .next t ∧ t.boot.phase = .fetching 0 0 ∧
    t.boot.maintenance = true ∧ t.boot.meas[0] = digestValue (sm3 (bytes256 0 ++ bytes256 Config.romDigest)) ∧
    (∀ i : Fin 8, i ≠ 0 → t.boot.meas[i] = 0) ∧ t.mem = s.mem ∧ t.cores = s.cores :=
  ⟨_, exec_powerOnReset_off s h, rfl, rfl, start_meas_zero s.boot, fun _ hi => start_meas_other s.boot hi, rfl, rfl⟩

theorem powerOnReset_on (h : s.boot.phase ≠ .off) : ∃ t, exec .powerOnReset s = .next t ∧ t.boot.phase = .fetching 0 0 ∧
    t.boot.maintenance = true ∧ t.boot.minVersion = s.boot.minVersion ∧ t.mem = State.reset.mem ∧
    t.cores = State.reset.cores ∧ t.ports = State.reset.ports :=
  ⟨_, exec_powerOnReset_on s h, rfl, rfl, rfl, rfl, rfl, rfl⟩

theorem measurementExtend_firmware (m : Fin 8) (d : BitVec 256) (h : s.boot.phase = .stage0) (hm : 4 ≤ m.val) :
    exec (.measurementExtend m d) s = .next { s with boot := s.boot.extend m d } := by
  change execMeasurementExtend m d s = _
  simp only [execMeasurementExtend, h, beq_self_eq_true, hm, decide_true, Bool.and_self, if_true]

theorem measurementExtend_rom (m : Fin 8) (d : BitVec 256) (hm : m.val < 4) :
    exec (.measurementExtend m d) s = .next s := by
  change execMeasurementExtend m d s = _
  simp only [execMeasurementExtend, not_le.2 hm, decide_false, Bool.and_false, Bool.false_eq_true, if_false]

theorem securityVersionRaise_rises (v : BitVec 32) (h : s.boot.phase = .stage0) (hv : s.boot.minVersion.toNat < v.toNat) :
    exec (.securityVersionRaise v) s = .next { s with boot := { s.boot with minVersion := v } } := by
  change execSecurityVersionRaise v s = _
  simp only [execSecurityVersionRaise, h, beq_self_eq_true, hv, decide_true, Bool.and_self, if_true]

theorem securityVersionRaise_keeps (v : BitVec 32) (hv : v.toNat ≤ s.boot.minVersion.toNat) :
    exec (.securityVersionRaise v) s = .next s := by
  change execSecurityVersionRaise v s = _
  simp only [execSecurityVersionRaise, not_lt.2 hv, decide_false, Bool.and_false, Bool.false_eq_true, if_false]

/-- The state in which die `die` has been released too. -/
def released (s : State) (die : Fin 4) : State :=
  let rel := s.boot.released.set die true
  { s with boot := { s.boot with released := rel, maintenance := s.boot.maintenance && !rel.toList.all id } }

theorem exec_dieRelease (die : Fin 4) (h : s.boot.phase = .stage0) : exec (.dieRelease die) s = .next (released s die) := by
  change execDieRelease die s = _
  unfold execDieRelease
  split
  · rfl
  · rename_i hne
    exact absurd h hne

theorem not_all_iff {n : Nat} (v : Vector Bool n) : (!v.toList.all id) = true ↔ ∃ d : Fin n, v[d] = false := by
  rw [Bool.not_eq_true', List.all_eq_false]
  simp [Vector.mem_iff_getElem, Fin.exists_iff]

theorem dieRelease_spec (die : Fin 4) (h : s.boot.phase = .stage0) : ∃ t, exec (.dieRelease die) s = .next t ∧
    t.boot.released[die] = true ∧ (∀ d : Fin 4, d ≠ die → t.boot.released[d] = s.boot.released[d]) ∧ t.mem = s.mem ∧
    t.cores = s.cores ∧ (t.boot.maintenance = true ↔ s.boot.maintenance = true ∧ ∃ d : Fin 4, t.boot.released[d] = false) := by
  refine ⟨_, exec_dieRelease s die h, Vector.getElem_set_self .., fun d hd => ?_, rfl, rfl, ?_⟩
  · exact Vector.getElem_set_ne die.isLt d.isLt fun he => hd (Fin.ext he.symm)
  · exact (Bool.and_eq_true ..).to_iff.trans (and_congr_right fun _ => not_all_iff _)

theorem attestationRequest_spec (nonce : BitVec 256) : ∃ t r, exec (.attestationRequest nonce) s = .next t ∧
    t.out = s.out ++ [.report r] ∧ r.length = 0x1C0 ∧ slice r 0x20 32 = bytes256 nonce ∧
    slice r 0x40 256 = (s.boot.meas.toList.map bytes256).flatten ∧ t.boot = s.boot ∧ t.mem = s.mem :=
  ⟨_, s.boot.report s.fresh nonce, rfl, rfl, length_report .., report_nonce .., report_measurements .., rfl, rfl⟩

theorem devnumWrite_taken (v : BitVec 16) (h : ∀ p ∈ s.ports, p.2.ctl.getLsbD 0 = false) :
    exec (.devnumWrite v) s = .next { s with boot := { s.boot with devnum := v } } := by
  refine if_pos (List.all_eq_true.2 fun p hp => ?_)
  exact Bool.not_eq_true' _ |>.mpr (h p hp)

theorem devnumWrite_ignored (v : BitVec 16) (h : ∃ p ∈ s.ports, p.2.ctl.getLsbD 0 = true) :
    exec (.devnumWrite v) s = .next s := by
  obtain ⟨p, hp, he⟩ := h
  refine if_neg fun hall => ?_
  have hp' : p.2.ctl.getLsbD 0 = false := Bool.not_eq_true' _ |>.mp (List.all_eq_true.1 hall p hp)
  exact Bool.false_ne_true (hp'.symm.trans he)

end BootSteps

/-- Settles O49: each step by the lemma that says what it does. -/
theorem bootEvents : Obligations.BootEvents := fun s =>
  ⟨powerOnReset_off s, powerOnReset_on s,
    fun _ _ hp => ⟨bootFetchRetry_next s hp,
      fun img hs => ⟨bootImageReceived_passed s img hs, bootImageReceived_failed s img hp hs⟩,
      bootImageReceived_host s⟩,
    fun m d h => ⟨measurementExtend_firmware s m d h, measurementExtend_rom s m d⟩,
    fun v h => ⟨securityVersionRaise_rises s v h, securityVersionRaise_keeps s v⟩,
    dieRelease_spec s, fun _ => rfl, attestationRequest_spec s,
    fun v => ⟨devnumWrite_taken s v, devnumWrite_ignored s v⟩⟩

end Sys2Proof.Proofs

/-!
Proofs: training, traffic and degradation of the Hjelril ports (R13, R14, R16 to R20, R22, R23).
-/
namespace Sys2Proof.Proofs
open Sys2Proof Sys2Proof.Machine

/-! ## Ports and messages of the state -/

section PortRules
variable (s : State) (p : Nat) (l : LinkPort)

@[simp] theorem port_setPort_same : (s.setPort p l).port p = l := Laws.tblGet_tblSet_same ..

theorem port_setPort_other {q : Nat} (h : q ≠ p) : (s.setPort p l).port q = s.port q := Laws.tblGet_tblSet_other _ h ..

@[simp] theorem setPort_out : (s.setPort p l).out = s.out := rfl
@[simp] theorem setPort_boot : (s.setPort p l).boot = s.boot := rfl

@[simp] theorem port_send (m : OutMsg) (q : Nat) : (s.send m).port q = s.port q := rfl
@[simp] theorem send_out (m : OutMsg) : (s.send m).out = s.out ++ [m] := rfl

@[simp] theorem port_linkEvent (peer : BitVec 16) (kind : Nat) (fail : BitVec 8) (q : Nat) :
    (s.linkEvent p peer kind fail).port q = s.port q := rfl
@[simp] theorem linkEvent_out (peer : BitVec 16) (kind : Nat) (fail : BitVec 8) :
    (s.linkEvent p peer kind fail).out = s.out := rfl
@[simp] theorem linkEvent_logCnt (peer : BitVec 16) (kind : Nat) (fail : BitVec 8) :
    (s.linkEvent p peer kind fail).boot.logCnt = s.boot.logCnt + 1 := rfl

/-- Messages sent one after another stand in `out` in that order, and nothing else changes. -/
theorem foldl_send {α : Type} (m : α → OutMsg) (fs : List α) (s : State) :
    fs.foldl (fun s f => s.send (m f)) s = { s with out := s.out ++ fs.map m } := by
  induction fs generalizing s with
  | nil => simp
  | cons f fs ih => rw [List.foldl_cons, ih]; simp [State.send]

theorem sendAgain_eq (fs : List Flit) : s.sendAgain p fs =
    { s.setPort p { s.port p with resentWin := (s.port p).resentWin + fs.length } with out := s.out ++ fs.map (.flit p) } :=
  foldl_send (.flit p) fs _

@[simp] theorem port_sendAgain_same (fs : List Flit) :
    (s.sendAgain p fs).port p = { s.port p with resentWin := (s.port p).resentWin + fs.length } := by
  rw [sendAgain_eq]
  exact port_setPort_same ..

@[simp] theorem sendAgain_out (fs : List Flit) : (s.sendAgain p fs).out = s.out ++ fs.map (.flit p) := by rw [sendAgain_eq]

@[simp] theorem sendAgain_boot (fs : List Flit) : (s.sendAgain p fs).boot = s.boot := by rw [sendAgain_eq]; rfl

end PortRules

/-! ## Steps of one port: no memory and no other port changes -/

/-- No memory and no port but `p` changes. -/
def OnlyPort (p : Nat) (s t : State) : Prop := t.mem = s.mem ∧ ∀ q, q ≠ p → t.port q = s.port q

namespace OnlyPort
variable {p : Nat} {s t u : State}

theorem refl (p : Nat) (s : State) : OnlyPort p s s := ⟨rfl, fun _ _ => rfl⟩

theorem trans (h : OnlyPort p s t) (k : OnlyPort p t u) : OnlyPort p s u :=
  ⟨k.1.trans h.1, fun q hq => (k.2 q hq).trans (h.2 q hq)⟩

theorem setPort (h : OnlyPort p s t) (l : LinkPort) : OnlyPort p s (t.setPort p l) :=
  h.trans ⟨rfl, fun _ hq => port_setPort_other _ _ _ hq⟩

theorem send (h : OnlyPort p s t) (m : OutMsg) : OnlyPort p s (t.send m) := h

theorem linkEvent (h : OnlyPort p s t) (peer : BitVec 16) (kind : Nat) (fail : BitVec 8) :
    OnlyPort p s (t.linkEvent p peer kind fail) := h

theorem sendAgain (h : OnlyPort p s t) (fs : List Flit) : OnlyPort p s (t.sendAgain p fs) := by
  rw [sendAgain_eq]
  exact h.setPort _

end OnlyPort

/-- A step of a port completes with what `f` says of the state and the port after it, and changes only this port. -/
def Ends (s : State) (p : Nat) (i : Instr) (f : State → LinkPort → Prop) : Prop :=
  ∃ t, exec i s = .next t ∧ f t (t.port p) ∧ t.mem = s.mem ∧ ∀ q : Nat, q ≠ p → t.port q = s.port q

theorem ends_of_onlyPort {s t : State} {p : Nat} {i : Instr} {f : State → LinkPort → Prop} (hx : exec i s = .next t)
    (h : OnlyPort p s t) (hf : f t (t.port p)) : Ends s p i f := ⟨t, hx, hf, h.1, h.2⟩

/-- A step that writes the port it belongs to, and nothing else. -/
theorem ends_setPort {s : State} {p : Nat} {i : Instr} {f : State → LinkPort → Prop} {l : LinkPort}
    (hx : exec i s = .next (s.setPort p l)) (hf : f (s.setPort p l) l) : Ends s p i f :=
  ends_of_onlyPort hx ((OnlyPort.refl p s).setPort l) (by rwa [port_setPort_same])

/-! ## `HLPCTL` (R19) -/

section Control
variable (s : State) (p : Nat) (v : BitVec 32)

theorem enabled_setWidth (l : LinkPort) : ({ l with ctl := v.setWidth 8 } : LinkPort).enabled = v.getLsbD 0 := by
  simp [LinkPort.enabled]

theorem hlpctlWrite_disable (h : v.getLsbD 0 = false) : s.hlpctlWrite p v =
    s.setPort p { s.port p with ctl := v.setWidth 8, state := .disabled, down := none, was := none } := by
  simp only [State.hlpctlWrite, enabled_setWidth, h, Bool.not_false, if_true]

theorem hlpctlWrite_enable (h : v.getLsbD 0 = true) (hr : v.getLsbD 8 = false) (hl : (s.port p).ctl.getLsbD 0 = false) :
    s.hlpctlWrite p v = s.setPort p { LinkPort.begin { s.port p with ctl := v.setWidth 8 } with idHash := 0 } := by
  have hold : (s.port p).enabled = false := hl
  simp only [State.hlpctlWrite, enabled_setWidth, h, hr, hold, Bool.not_true, Bool.false_eq_true, if_false]

/-- The port after a restart. -/
def restarted (l : LinkPort) (v : BitVec 32) : LinkPort :=
  { LinkPort.begin { l with ctl := v.setWidth 8 } with failCode := 0, idHash := 0, was := l.partner }

theorem hlpctlWrite_restart (h : v.getLsbD 0 = true) (hr : v.getLsbD 8 = true) : s.hlpctlWrite p v =
    if (s.port p).state == .up then (s.setPort p (restarted (s.port p) v)).linkEvent p (s.port p).peer 4 0
    else s.setPort p (restarted (s.port p) v) := by
  simp only [State.hlpctlWrite, enabled_setWidth, h, hr, Bool.not_true, Bool.false_eq_true, if_false, if_true]
  rfl

end Control

section ControlSteps
variable (s : State) (p : Fin 128) (v : BitVec 32)

theorem exec_portEnable : exec (.portEnable p v) s = .next (s.hlpctlWrite p.val (v ||| 1)) := rfl
theorem exec_portDisable : exec (.portDisable p v) s = .next (s.hlpctlWrite p.val (v &&& ~~~1)) := rfl
theorem exec_portRestart : exec (.portRestart p v) s = .next (s.hlpctlWrite p.val (v ||| 0x100)) := rfl

theorem portEnable_ends (hl : (s.port p).ctl.getLsbD 0 = false) (hv : v.getLsbD 8 = false) :
    Ends s p (.portEnable p v) fun _ m => m.state = .detect ∧ m.attempt = 1 ∧ m.failCode = (s.port p).failCode ∧
      m.idHash = 0 ∧ m.ctl = (v ||| 1).setWidth 8 := by
  have he : (v ||| 1).getLsbD 0 = true := by simp
  have hr : (v ||| 1).getLsbD 8 = false := by simpa using hv
  have hx := exec_portEnable s p v
  rw [hlpctlWrite_enable s p _ he hr hl] at hx
  exact ends_setPort hx ⟨rfl, rfl, rfl, rfl, rfl⟩

theorem portDisable_ends :
    Ends s p (.portDisable p v) fun _ m => m.state = .disabled ∧ m.ctl = (v &&& ~~~1).setWidth 8 := by
  have he : (v &&& ~~~1).getLsbD 0 = false := by simp
  have hx := exec_portDisable s p v
  rw [hlpctlWrite_disable s p _ he] at hx
  exact ends_setPort hx ⟨rfl, rfl⟩

theorem portRestart_ends (hv : v.getLsbD 0 = true) :
    Ends s p (.portRestart p v) fun _ m => m.state = .detect ∧ m.attempt = 1 ∧ m.failCode = 0 := by
  have he : (v ||| 0x100).getLsbD 0 = true := by simp [hv]
  have hr : (v ||| 0x100).getLsbD 8 = true := by simp
  have only := (OnlyPort.refl p.val s).setPort (restarted (s.port p) (v ||| 0x100))
  have written : ((s.setPort p (restarted (s.port p) (v ||| 0x100))).port p) = restarted (s.port p) (v ||| 0x100) :=
    port_setPort_same ..
  have hx := exec_portRestart s p v
  rw [hlpctlWrite_restart s p _ he hr] at hx
  split at hx
  · refine ends_of_onlyPort hx (only.linkEvent ..) ?_
    rw [port_linkEvent, written]
    exact ⟨rfl, rfl, rfl⟩
  · refine ends_of_onlyPort hx only ?_
    rw [written]
    exact ⟨rfl, rfl, rfl⟩

end ControlSteps

/-! ## Steps of training that succeed (R16 to R18) -/

section TrainingSteps
variable (s : State) (p : Nat) (o : Partner)

theorem trainStep_detect (h : (s.port p).state = .detect) (ho : o.lane0 = true ∨ o.lane1 = true) : s.trainStep p o =
    s.setPort p { s.port p with state := .equalise, lane0 := o.lane0, lane1 := o.lane1 } := by
  simp only [State.trainStep, h, Bool.or_eq_true, ho, if_true]

theorem trainStep_equalise (h : (s.port p).state = .equalise) :
    s.trainStep p o = s.setPort p { s.port p with state := .pair } := by
  simp only [State.trainStep, h]

/-- The lanes of a port that pass a step on both sides. -/
def passed (l : LinkPort) (o : Partner) : LinkPort := { l with lane0 := l.lane0 && o.lane0, lane1 := l.lane1 && o.lane1 }

/-- A lane passes on both sides. -/
abbrev LanePasses (l : LinkPort) (o : Partner) : Prop :=
  (l.lane0 = true ∧ o.lane0 = true) ∨ (l.lane1 = true ∧ o.lane1 = true)

theorem trainStep_pair (h : (s.port p).state = .pair) (ho : LanePasses (s.port p) o) :
    s.trainStep p o = s.setPort p { passed (s.port p) o with state := .deskew } := by
  simp only [State.trainStep, h, Bool.or_eq_true, Bool.and_eq_true]
  exact if_pos ho

theorem trainStep_deskew (h : (s.port p).state = .deskew) (ho : LanePasses (s.port p) o) :
    s.trainStep p o = s.setPort p { passed (s.port p) o with state := .agree } := by
  simp only [State.trainStep, h, Bool.or_eq_true, Bool.and_eq_true]
  exact if_pos ho

theorem trainStep_agree {n : LinkPort} (h : (s.port p).state = .agree) (hn : (s.port p).agreeWith o false = some n) :
    s.trainStep p o = s.enterIdentify p n .identify := by
  simp only [State.trainStep, h, hn]

theorem badNumbers_eq_false {dev : BitVec 16} (h : dev ≠ 0xFFFF) (hs : s.boot.devnum ≠ 0xFFFF) (hd : dev ≠ s.boot.devnum) :
    s.badNumbers dev = false := by
  simp only [State.badNumbers, Bool.or_eq_false_iff, beq_eq_false_iff_ne]
  exact ⟨⟨h, hs⟩, hd⟩

theorem trainStep_identify (h : (s.port p).state = .identify) (hr : (s.port p).ctl.getLsbD 3 = false)
    (hb : s.badNumbers o.devnum = false) : s.trainStep p o = s.trainUp p (s.port p) o.devnum := by
  simp only [State.trainStep, h, State.finishIdentify, hb, LinkPort.requireIdent, hr, Bool.false_and, Bool.false_eq_true, if_false]

/-- Entering step 6 keeps what step 5 agreed, and changes only this port. -/
theorem enterIdentify_spec (l : LinkPort) (st : PortState) : OnlyPort p s (s.enterIdentify p l st) ∧
    ((s.enterIdentify p l st).port p).state = st ∧ ((s.enterIdentify p l st).port p).rate512 = l.rate512 ∧
    ((s.enterIdentify p l st).port p).width2 = l.width2 ∧ ((s.enterIdentify p l st).port p).fecDeep = l.fecDeep := by
  unfold State.enterIdentify
  dsimp only
  split
  · refine ⟨OnlyPort.send (OnlyPort.setPort (t := { s with fresh := s.fresh + 1 }) (OnlyPort.refl p s) _) _, ?_⟩
    simp
  · refine ⟨(OnlyPort.refl p s).setPort _, ?_⟩
    simp

/-- The first credits of a port that has granted none: only messages and the mark at the port. -/
theorem grantFirst_eq : s.grantFirst p = if (s.port p).granted then s else
    { s.setPort p { s.port p with granted := true } with
      out := s.out ++ (List.finRange 8).map fun vc => .credit p vc (Config.recvCredits vc) } := by
  rw [State.grantFirst, foldl_send]
  rfl

theorem grantFirst_spec : OnlyPort p s (s.grantFirst p) ∧ (s.grantFirst p).port p = { s.port p with granted := true } := by
  rw [grantFirst_eq]
  split
  · rename_i h
    exact ⟨OnlyPort.refl p s, by rw [← h]⟩
  · exact ⟨(OnlyPort.refl p s).setPort _, port_setPort_same ..⟩

/-- A port that comes Up, before a link that was down is logged. -/
def cameUp (s : State) (p : Nat) (l : LinkPort) (peer : BitVec 16) : State :=
  ((s.setPort p { l with state := .up, peer := peer, down := none, was := none }).grantFirst p).sendAgain p l.retry

variable (l : LinkPort) (peer : BitVec 16)

theorem trainUp_eq : s.trainUp p l peer = cameUp s p l peer ∨
    ∃ before, s.trainUp p l peer = (cameUp s p l peer).linkEvent p before 5 0 := by
  unfold State.trainUp
  dsimp only
  split
  · exact .inr ⟨_, rfl⟩
  · exact .inl rfl

theorem cameUp_onlyPort : OnlyPort p s (cameUp s p l peer) :=
  ((OnlyPort.refl p s).setPort _).trans (grantFirst_spec _ p).1 |>.sendAgain _

theorem port_cameUp : (cameUp s p l peer).port p = { l with
    state := .up, peer := peer, down := none, was := none, granted := true, resentWin := l.resentWin + l.retry.length } := by
  rw [cameUp, port_sendAgain_same, (grantFirst_spec _ p).2, port_setPort_same]

/-- A port that comes Up changes alone, to this. -/
theorem trainUp_spec : OnlyPort p s (s.trainUp p l peer) ∧ (s.trainUp p l peer).port p = { l with
    state := .up, peer := peer, down := none, was := none, granted := true, resentWin := l.resentWin + l.retry.length } := by
  rcases trainUp_eq s p l peer with h | ⟨before, h⟩ <;> rw [h]
  · exact ⟨cameUp_onlyPort .., port_cameUp ..⟩
  · exact ⟨(cameUp_onlyPort ..).linkEvent .., port_cameUp ..⟩

/-- One that has granted its first credits before sends the flits not acknowledged, and nothing else. -/
theorem trainUp_out (h : l.granted = true) : (s.trainUp p l peer).out = s.out ++ l.retry.map (.flit p) := by
  have hout : (cameUp s p l peer).out = s.out ++ l.retry.map (.flit p) := by
    rw [cameUp, sendAgain_out, grantFirst_eq, port_setPort_same, if_pos h, setPort_out]
  rcases trainUp_eq s p l peer with he | ⟨before, he⟩
  · rw [he, hout]
  · rw [he, linkEvent_out, hout]

end TrainingSteps

section TrainingEnds
variable (s : State) (p : Fin 128) (o : Partner)

theorem exec_trainingStepComplete : exec (.trainingStepComplete p o) s = .next (s.trainStep p.val o) := rfl

theorem trainingStepComplete_detect (h : (s.port p).state = .detect) (ho : o.lane0 = true ∨ o.lane1 = true) :
    Ends s p (.trainingStepComplete p o) fun _ m => m.state = .equalise :=
  ends_setPort ((exec_trainingStepComplete s p o).trans (congrArg _ (trainStep_detect s p o h ho))) rfl

theorem trainingStepComplete_equalise (h : (s.port p).state = .equalise) :
    Ends s p (.trainingStepComplete p o) fun _ m => m.state = .pair :=
  ends_setPort ((exec_trainingStepComplete s p o).trans (congrArg _ (trainStep_equalise s p o h))) rfl

theorem trainingStepComplete_pair (h : (s.port p).state = .pair) (ho : LanePasses (s.port p) o) :
    Ends s p (.trainingStepComplete p o) fun _ m => m.state = .deskew :=
  ends_setPort ((exec_trainingStepComplete s p o).trans (congrArg _ (trainStep_pair s p o h ho))) rfl

theorem trainingStepComplete_deskew (h : (s.port p).state = .deskew) (ho : LanePasses (s.port p) o) :
    Ends s p (.trainingStepComplete p o) fun _ m => m.state = .agree :=
  ends_setPort ((exec_trainingStepComplete s p o).trans (congrArg _ (trainStep_deskew s p o h ho))) rfl

theorem trainingStepComplete_agree (n : LinkPort) (h : (s.port p).state = .agree)
    (hn : (s.port p).agreeWith o false = some n) : Ends s p (.trainingStepComplete p o) fun _ m =>
      m.state = .identify ∧ m.rate512 = n.rate512 ∧ m.width2 = n.width2 ∧ m.fecDeep = n.fecDeep := by
  have hx := exec_trainingStepComplete s p o
  rw [trainStep_agree s p o h hn] at hx
  obtain ⟨only, agreed⟩ := enterIdentify_spec s p n .identify
  exact ends_of_onlyPort hx only agreed

theorem exec_trainingStepComplete_identify (h : (s.port p).state = .identify) (hr : (s.port p).ctl.getLsbD 3 = false)
    (ho : o.devnum ≠ 0xFFFF) (hs : s.boot.devnum ≠ 0xFFFF) (hd : o.devnum ≠ s.boot.devnum) :
    exec (.trainingStepComplete p o) s = .next (s.trainUp p (s.port p) o.devnum) := by
  rw [exec_trainingStepComplete, trainStep_identify s p o h hr (badNumbers_eq_false s ho hs hd)]

theorem trainingStepComplete_up (h : (s.port p).state = .identify) (hr : (s.port p).ctl.getLsbD 3 = false)
    (ho : o.devnum ≠ 0xFFFF) (hs : s.boot.devnum ≠ 0xFFFF) (hd : o.devnum ≠ s.boot.devnum) :
    Ends s p (.trainingStepComplete p o) fun _ m => m.state = .up ∧ m.peer = o.devnum := by
  obtain ⟨only, hport⟩ := trainUp_spec s p (s.port p) o.devnum
  refine ends_of_onlyPort (exec_trainingStepComplete_identify s p o h hr ho hs hd) only ?_
  rw [hport]
  exact ⟨rfl, rfl⟩

theorem trainingStepComplete_resends (h : (s.port p).state = .identify) (hr : (s.port p).ctl.getLsbD 3 = false)
    (ho : o.devnum ≠ 0xFFFF) (hs : s.boot.devnum ≠ 0xFFFF) (hd : o.devnum ≠ s.boot.devnum)
    (hg : (s.port p).granted = true) : ∃ t, exec (.trainingStepComplete p o) s = .next t ∧
      t.out = s.out ++ (s.port p).retry.map (.flit p.val) ∧ (t.port p).retry = (s.port p).retry := by
  refine ⟨_, exec_trainingStepComplete_identify s p o h hr ho hs hd, trainUp_out s p _ _ hg, ?_⟩
  rw [(trainUp_spec s p (s.port p) o.devnum).2]

end TrainingEnds

/-! ## Steps of training that fail (R16, R22) -/

section Failing
variable (s : State) (p : Nat) (code : BitVec 8)

/-- The six steps of training from the beginning. -/
def trainingSteps : List PortState := [.detect, .equalise, .pair, .deskew, .agree, .identify]

theorem trainFail_eq (h : (s.port p).state ∈ trainingSteps) : s.trainFail p code =
    if (s.port p).attempt < (s.port p).attempts then
      s.setPort p { s.port p with failCode := code, state := .detect, attempt := (s.port p).attempt + 1 }
    else s.portFails p { s.port p with failCode := code } := by
  simp only [trainingSteps, List.mem_cons, List.not_mem_nil, or_false] at h
  rcases h with h | h | h | h | h | h <;> simp only [State.trainFail, h] <;> rfl

theorem queueOn_mem (r : Nat) (q : Parcel) : (s.queueOn r q).mem = s.mem := rfl

theorem port_queueOn_other {r : Nat} (h : p ≠ r) (q : Parcel) : (s.queueOn r q).port p = s.port p :=
  port_setPort_other _ _ _ h

/-- Messages that go another way leave memory alone, and of the port that they leave only its queue changes. -/
theorem replanPort_spec (peer : BitVec 16) (f : Parcel → Bool) : (s.replanPort p peer f).mem = s.mem ∧
    ∃ q, (s.replanPort p peer f).port p = { s.port p with outq := q } := by
  unfold State.replanPort
  split
  · exact ⟨rfl, _, rfl⟩
  · rename_i r _
    dsimp only
    split
    · exact ⟨rfl, _, rfl⟩
    · rename_i hr
      have hne : p ≠ r := fun h => hr (beq_iff_eq.2 h.symm)
      exact ⟨foldl_view State.mem _ (fun s q => queueOn_mem s r q) _ _, _,
        (foldl_view (·.port p) _ (fun s q => port_queueOn_other s p hne q) _ _).trans (port_setPort_same ..)⟩

/-- Without a message that waits no other port takes one over. -/
theorem replanPort_onlyPort (peer : BitVec 16) (f : Parcel → Bool) (h : (s.port p).outq = []) :
    OnlyPort p s (s.replanPort p peer f) := by
  unfold State.replanPort
  split
  · exact OnlyPort.refl p s
  · dsimp only
    split
    · exact OnlyPort.refl p s
    · rw [h]
      exact (OnlyPort.refl p s).setPort _

/-- The port that has failed every attempt, before its messages go another way. -/
def failedPort (l : LinkPort) : LinkPort := { l with state := .failed, down := none, was := none }

/-- A port that fails its last attempt keeps all but what waits in it, and leaves memory alone. -/
theorem portFails_spec (l : LinkPort) : (s.portFails p l).mem = s.mem ∧
    ∃ r q, (s.portFails p l).port p = { failedPort l with retry := r, outq := q } := by
  unfold State.portFails
  dsimp only
  split
  · exact ⟨rfl, l.retry, l.outq, port_setPort_same ..⟩
  · rename_i peer _
    obtain ⟨hmem, q, hport⟩ := replanPort_spec (s.setPort p (failedPort l)) p peer Parcel.free
    refine ⟨hmem, [], [], ?_⟩
    rw [port_setPort_same] at hport
    rw [port_linkEvent, port_setPort_same]
    exact congrArg (fun m : LinkPort => { m with retry := [], outq := [] }) hport

theorem portFails_onlyPort (l : LinkPort) (h : l.outq = []) : OnlyPort p s (s.portFails p l) := by
  have failed : OnlyPort p s (s.setPort p (failedPort l)) := (OnlyPort.refl p s).setPort _
  unfold State.portFails
  dsimp only
  split
  · exact failed
  · refine OnlyPort.linkEvent ((failed.trans (replanPort_onlyPort _ p _ _ ?_)).setPort _) _ _ _
    rw [port_setPort_same]
    exact h

theorem trainFail_idHash (h : (s.port p).state ∈ trainingSteps) :
    ((s.trainFail p code).port p).idHash = (s.port p).idHash := by
  rw [trainFail_eq s p code h]
  split
  · rw [port_setPort_same]
  · obtain ⟨-, r, q, hport⟩ := portFails_spec s p { s.port p with failCode := code }
    rw [hport]
    rfl

/-- A step ends the attempt with a code: the next attempt follows, or the port is Failed, and then others may take over the
messages that wait in it. -/
def Fails (s : State) (p : Nat) (i : Instr) (code : BitVec 8) : Prop :=
  ((s.port p).attempt < (s.port p).attempts → Ends s p i fun _ m =>
    m.state = .detect ∧ m.attempt = (s.port p).attempt + 1 ∧ m.failCode = code) ∧
  ((s.port p).attempts ≤ (s.port p).attempt → ∃ t, exec i s = .next t ∧ (t.port p).state = .failed ∧
    (t.port p).failCode = code ∧ t.mem = s.mem ∧ ((s.port p).outq = [] → ∀ q : Nat, q ≠ p → t.port q = s.port q))

/-- A step that leaves the port as it stands, but for what a report latches, and then ends the attempt. -/
theorem fails_of_trainFail {s u : State} {p : Nat} {i : Instr} {code : BitVec 8} (hx : exec i s = .next (u.trainFail p code))
    (only : OnlyPort p s u) {ok : Bool} {d : BitVec 256} {dev : Option (BitVec 16)}
    (hu : u.port p = { s.port p with identOk := ok, idHash := d, idDev := dev })
    (hst : (s.port p).state ∈ trainingSteps) : Fails s p i code := by
  have hattempt : (u.port p).attempt = (s.port p).attempt := by rw [hu]
  have hattempts : (u.port p).attempts = (s.port p).attempts := by rw [hu]; rfl
  have houtq : (u.port p).outq = (s.port p).outq := by rw [hu]
  rw [trainFail_eq u p code (by rw [hu]; exact hst), hattempt, hattempts] at hx
  refine ⟨fun hlt => ?_, fun hle => ?_⟩
  · rw [if_pos hlt] at hx
    refine ends_of_onlyPort hx (only.setPort _) ?_
    rw [port_setPort_same]
    exact ⟨rfl, rfl, rfl⟩
  · rw [if_neg (not_lt.2 hle)] at hx
    obtain ⟨hmem, r, q, hport⟩ := portFails_spec u p { u.port p with failCode := code }
    refine ⟨_, hx, ?_, ?_, hmem.trans only.1, fun hq => ?_⟩
    · rw [hport]
      rfl
    · rw [hport]
      rfl
    · exact (only.trans (portFails_onlyPort u p { u.port p with failCode := code } (houtq.trans hq))).2

end Failing

section FailingSteps
variable (s : State) (p : Fin 128)

theorem exec_trainingStepTimeout (code : BitVec 8) : exec (.trainingStepTimeout p code) s =
    .next (s.trainFail p.val (s.stepCode (s.port p.val) code)) := rfl

theorem trainingStepTimeout_fails (code : BitVec 8) (h : (s.port p).state ∈ trainingSteps) :
    Fails s p (.trainingStepTimeout p code) (s.stepCode (s.port p) code) :=
  fails_of_trainFail (exec_trainingStepTimeout s p code) (OnlyPort.refl _ s) rfl h

/-- The steps before identification, each with the code of its failure. -/
def stepCodes : List (PortState × BitVec 8) :=
  [(.detect, 0x01), (.equalise, 0x02), (.pair, 0x03), (.deskew, 0x04), (.agree, 0x05)]

theorem stepCodes_state {z : PortState × BitVec 8} (hz : z ∈ stepCodes) : z.1 ∈ trainingSteps := by
  revert z
  decide

theorem stepCode_of_mem {l : LinkPort} {z : PortState × BitVec 8} (hz : z ∈ stepCodes) (h : l.state = z.1) (code : BitVec 8) :
    s.stepCode l code = z.2 := by
  simp only [stepCodes, List.mem_cons, List.not_mem_nil, or_false] at hz
  rcases hz with rfl | rfl | rfl | rfl | rfl <;> simp only [State.stepCode, h]

theorem stepCode_identify {l : LinkPort} (h : l.state = .identify) (code : BitVec 8) : s.stepCode l code =
    if s.boot.devnum ≠ 0xFFFF ∧ l.ctl.getLsbD 3 = true ∧ l.identOk = false ∧ code ≠ 0x06 then 0x08 else 0x06 := by
  rw [← ite_not]
  simp only [State.stepCode, h, LinkPort.requireIdent, Bool.or_eq_true, beq_iff_eq, Bool.not_eq_true', ne_eq, not_and_or,
    not_not, Bool.not_eq_true, Bool.not_eq_false, or_assoc]

theorem trainingStepTimeout_step (code : BitVec 8) (z : PortState × BitVec 8) (hz : z ∈ stepCodes)
    (h : (s.port p).state = z.1) : Fails s p (.trainingStepTimeout p code) z.2 := by
  have hf := trainingStepTimeout_fails s p code (h ▸ stepCodes_state hz)
  rwa [stepCode_of_mem s hz h] at hf

theorem identify_mem_trainingSteps : PortState.identify ∈ trainingSteps := by decide

theorem trainingStepTimeout_identify (code : BitVec 8) (h : (s.port p).state = .identify) :
    Fails s p (.trainingStepTimeout p code)
      (if s.boot.devnum ≠ 0xFFFF ∧ (s.port p).ctl.getLsbD 3 = true ∧ (s.port p).identOk = false ∧ code ≠ 0x06 then 0x08
       else 0x06) := by
  have hf := trainingStepTimeout_fails s p code (h ▸ identify_mem_trainingSteps)
  rwa [stepCode_identify s h] at hf

end FailingSteps

/-! ## Reports of the partner (R18, R21) -/

section Reports
variable (s : State) (p : Fin 128) (dev : BitVec 16) (r : List Byte)

/-- What a report that passes latches at the port. -/
def latched (l : LinkPort) (dev : BitVec 16) (d : BitVec 256) : LinkPort :=
  { l with identOk := l.idStep == 0 || d == l.idStep, idHash := d, idDev := some dev }

theorem exec_identityReportReceive : exec (.identityReportReceive p dev r) s = .next (s.identityReport p.val dev r) := rfl

variable (h : (s.port p).state = .identify) (hr : (s.port p).ctl.getLsbD 3 = true)
include h hr

theorem identityReport_badNumbers (hb : s.badNumbers dev = true) :
    s.identityReport p dev r = s.trainFail p 0x06 := by
  simp only [State.identityReport, h, LinkPort.requireIdent, hr, hb, Bool.not_true, Bool.false_eq_true, if_false, if_true]

theorem identityReport_bad (hb : s.badNumbers dev = false) (hc : checkReport (s.port p) dev r = none) :
    s.identityReport p dev r = s.trainFail p 0x07 := by
  simp only [State.identityReport, h, LinkPort.requireIdent, hr, hb, hc, Bool.not_true, Bool.false_eq_true, if_false]

theorem identityReport_good {d : BitVec 256} (hb : s.badNumbers dev = false) (hc : checkReport (s.port p) dev r = some d) :
    s.identityReport p dev r = if (s.port p).idStep = 0 ∨ d = (s.port p).idStep then s.setPort p (latched (s.port p) dev d)
      else (s.setPort p (latched (s.port p) dev d)).trainFail p 0x07 := by
  simp only [State.identityReport, latched, h, LinkPort.requireIdent, hr, hb, hc, Bool.not_true, Bool.false_eq_true,
    if_false, Bool.or_eq_true, beq_iff_eq]

theorem identityReportReceive_badNumbers (hb : s.badNumbers dev = true) :
    Fails s p (.identityReportReceive p dev r) 0x06 := by
  have hx := exec_identityReportReceive s p dev r
  rw [identityReport_badNumbers s p dev r h hr hb] at hx
  exact fails_of_trainFail hx (OnlyPort.refl _ s) rfl (h ▸ identify_mem_trainingSteps)

theorem identityReportReceive_bad (hb : s.badNumbers dev = false) (hc : checkReport (s.port p) dev r = none) :
    Fails s p (.identityReportReceive p dev r) 0x07 := by
  have hx := exec_identityReportReceive s p dev r
  rw [identityReport_bad s p dev r h hr hb hc] at hx
  exact fails_of_trainFail hx (OnlyPort.refl _ s) rfl (h ▸ identify_mem_trainingSteps)

theorem identityReportReceive_good (hb : s.badNumbers dev = false) (d : BitVec 256)
    (hc : checkReport (s.port p) dev r = some d) (hd : (s.port p).idStep = 0 ∨ d = (s.port p).idStep) :
    Ends s p (.identityReportReceive p dev r) fun _ m =>
      m.identOk = true ∧ m.idHash = d ∧ m.idDev = some dev ∧ m.state = .identify := by
  have hx := exec_identityReportReceive s p dev r
  rw [identityReport_good s p dev r h hr hb hc, if_pos hd] at hx
  have hok : ((s.port p).idStep == 0 || d == (s.port p).idStep) = true := by simpa using hd
  exact ends_setPort hx ⟨hok, rfl, rfl, h⟩

/-- A report that passes with a digest that is not the expected one ends the attempt with the digest latched. -/
theorem identityReportReceive_other (hb : s.badNumbers dev = false) (d : BitVec 256)
    (hc : checkReport (s.port p) dev r = some d) (hz : (s.port p).idStep ≠ 0) (hd : d ≠ (s.port p).idStep) :
    Fails s p (.identityReportReceive p dev r) 0x07 ∧
      ∃ t, exec (.identityReportReceive p dev r) s = .next t ∧ (t.port p).idHash = d := by
  have hx := exec_identityReportReceive s p dev r
  rw [identityReport_good s p dev r h hr hb hc, if_neg (not_or.2 ⟨hz, hd⟩)] at hx
  have hport : (s.setPort p (latched (s.port p) dev d)).port p = latched (s.port p) dev d := port_setPort_same ..
  refine ⟨fails_of_trainFail hx ((OnlyPort.refl _ s).setPort _) hport (h ▸ identify_mem_trainingSteps), _, hx, ?_⟩
  rw [trainFail_idHash _ p _ (by rw [hport]; exact h ▸ identify_mem_trainingSteps), hport]
  rfl

end Reports

theorem identityChallenge_spec (s : State) (p : Fin 128) (nonce : BitVec 256) : ∃ t r,
    exec (.identityChallenge p nonce) s = .next t ∧ t.out = s.out ++ [.identity p.val r] ∧ r.length = 0x1C0 ∧
      slice r 0x20 32 = bytes256 nonce ∧ t.ports = s.ports ∧ t.mem = s.mem :=
  ⟨_, s.boot.report s.fresh nonce, rfl, rfl, length_report .., report_nonce .., rfl, rfl⟩

/-! ## Flits that arrive (R13, R14, R91) -/

section Arrivals
variable (s : State) (p : Nat) (f : Flit) (keep : Bool)

/-- A port after the next flit in order. -/
def takesFlit (l : LinkPort) (f : Flit) : LinkPort := { l with recvSeq := l.recvSeq + 1, delivered := l.delivered ++ [f] }

theorem flitArrives_inOrder (h : (s.port p).state = .up) (hf : f.seq = (s.port p).recvSeq) : s.flitArrives p f true keep =
    ((s.setPort p (takesFlit (s.port p) f)).send (.ack p f.seq)).giveBack p f.vc keep := by
  simp only [State.flitArrives, takesFlit, h, hf, bne_self_eq_false, beq_self_eq_true, Bool.not_true, Bool.false_eq_true,
    if_false, if_true]

theorem flitArrives_ahead (h : (s.port p).state = .up) (hf : f.seq ≠ (s.port p).recvSeq)
    (hd : (f.seq - (s.port p).recvSeq).toNat < 2048) :
    s.flitArrives p f true keep = s.send (.nak p (s.port p).recvSeq) := by
  simp only [State.flitArrives, h, bne_self_eq_false, Bool.not_true, Bool.false_eq_true, if_false, beq_iff_eq, hf, hd, if_true]

theorem flitArrives_duplicate (h : (s.port p).state = .up) (hd : 2048 ≤ (f.seq - (s.port p).recvSeq).toNat) :
    s.flitArrives p f true keep = s := by
  have hf : f.seq ≠ (s.port p).recvSeq := by
    intro he
    rw [he, BitVec.sub_self] at hd
    exact absurd hd (by decide)
  simp only [State.flitArrives, h, bne_self_eq_false, Bool.not_true, Bool.false_eq_true, if_false, beq_iff_eq, hf, not_lt.2 hd]

theorem flitArrives_uncorrectable (h : (s.port p).state = .up) :
    s.flitArrives p f false keep = s.send (.nak p (s.port p).recvSeq) := by
  simp only [State.flitArrives, h, bne_self_eq_false, Bool.not_false, Bool.false_eq_true, if_false, if_true]

end Arrivals

section ArrivalSteps
variable (s : State) (p : Fin 128) (f : Flit)

theorem exec_flitReceive (good : Bool) :
    exec (.flitReceive p f good) s = .next (s.flitArrives p.val f good (s.keepsCredit f.vc)) := rfl

variable (h : (s.port p).state = .up)
include h

theorem flitReceive_credit (hf : f.seq = (s.port p).recvSeq) (hk : s.keepsCredit f.vc = false) :
    Ends s p (.flitReceive p f true) fun t m => m.delivered = (s.port p).delivered ++ [f] ∧
      m.recvSeq = (s.port p).recvSeq + 1 ∧ t.out = s.out ++ [.ack p.val f.seq, .credit p.val f.vc 1] := by
  have hx := exec_flitReceive s p f true
  rw [hk, flitArrives_inOrder s p f _ h hf] at hx
  refine ends_of_onlyPort hx ((OnlyPort.refl _ s).setPort (takesFlit (s.port p) f)) ?_
  simp [State.giveBack, takesFlit]

theorem flitReceive_kept (hf : f.seq = (s.port p).recvSeq) (hk : s.keepsCredit f.vc = true) :
    Ends s p (.flitReceive p f true) fun t m => m.delivered = (s.port p).delivered ++ [f] ∧
      m.recvSeq = (s.port p).recvSeq + 1 ∧ m.withheld[f.vc] = (s.port p).withheld[f.vc] + 1 ∧
      t.out = s.out ++ [.ack p.val f.seq] := by
  have hx := exec_flitReceive s p f true
  rw [hk, flitArrives_inOrder s p f _ h hf] at hx
  refine ends_of_onlyPort hx (((OnlyPort.refl _ s).setPort (takesFlit (s.port p) f)).setPort _) ?_
  simp [State.giveBack, takesFlit]

theorem flitReceive_ahead (hf : f.seq ≠ (s.port p).recvSeq) (hd : (f.seq - (s.port p).recvSeq).toNat < 2048) :
    Ends s p (.flitReceive p f true) fun t m => m = s.port p ∧ t.out = s.out ++ [.nak p.val (s.port p).recvSeq] := by
  have hx := exec_flitReceive s p f true
  rw [flitArrives_ahead s p f _ h hf hd] at hx
  exact ends_of_onlyPort hx ((OnlyPort.refl _ s).send _) ⟨rfl, rfl⟩

theorem flitReceive_duplicate (hd : 2048 ≤ (f.seq - (s.port p).recvSeq).toNat) :
    exec (.flitReceive p f true) s = .next s := by
  rw [exec_flitReceive, flitArrives_duplicate s p f _ h hd]

theorem flitReceive_uncorrectable :
    Ends s p (.flitReceive p f false) fun t m => m = s.port p ∧ t.out = s.out ++ [.nak p.val (s.port p).recvSeq] := by
  have hx := exec_flitReceive s p f false
  rw [flitArrives_uncorrectable s p f _ h] at hx
  exact ends_of_onlyPort hx ((OnlyPort.refl _ s).send _) ⟨rfl, rfl⟩

end ArrivalSteps

/-! ## The retry buffer (R13) -/

section RetryBuffer
variable {pre post : List Flit} {f : Flit}

theorem dropWhile_seq (hpre : ∀ g ∈ pre, g.seq ≠ f.seq) :
    (pre ++ f :: post).dropWhile (·.seq != f.seq) = f :: post := by
  rw [List.dropWhile_append_of_pos fun g hg => by simpa using hpre g hg]
  simp

/-- An acknowledgement leaves the flits behind the first that it names. -/
theorem afterAck_append (hpre : ∀ g ∈ pre, g.seq ≠ f.seq) : afterAck f.seq (pre ++ f :: post) = post := by
  rw [afterAck, if_pos (by simp), dropWhile_seq hpre, List.drop_one, List.tail_cons]

variable (s : State) (p : Fin 128)

theorem exec_flitAckReceive (seq : BitVec 12) : exec (.flitAckReceive p seq) s =
    .next (s.setPort p.val { s.port p.val with retry := afterAck seq (s.port p.val).retry }) := rfl

theorem exec_flitResend (seq : BitVec 12) : exec (.flitResend p seq) s = .next (s.resend p.val seq) := rfl

theorem flitAckReceive_ends (hl : (s.port p).retry = pre ++ f :: post) (hpre : ∀ g ∈ pre, g.seq ≠ f.seq) :
    Ends s p (.flitAckReceive p f.seq) fun t m => m.retry = post ∧ m.delivered = (s.port p).delivered ∧ t.out = s.out := by
  refine ends_setPort (exec_flitAckReceive s p f.seq) ⟨?_, rfl, rfl⟩
  change afterAck f.seq (s.port p).retry = post
  rw [hl, afterAck_append hpre]

theorem resend_eq (hl : (s.port p).retry = pre ++ f :: post) (hpre : ∀ g ∈ pre, g.seq ≠ f.seq)
    (h : (s.port p).state = .up) : s.resend p f.seq = s.sendAgain p (f :: post) := by
  simp only [State.resend, h, bne_self_eq_false, Bool.false_eq_true, if_false, hl, dropWhile_seq hpre]

theorem flitResend_ends (hl : (s.port p).retry = pre ++ f :: post) (hpre : ∀ g ∈ pre, g.seq ≠ f.seq)
    (h : (s.port p).state = .up) : Ends s p (.flitResend p f.seq) fun t m =>
      m = { s.port p with resentWin := (s.port p).resentWin + post.length + 1 } ∧
      t.out = s.out ++ (f :: post).map (.flit p.val) := by
  have hx := exec_flitResend s p f.seq
  rw [resend_eq s p hl hpre h] at hx
  exact ends_of_onlyPort hx ((OnlyPort.refl _ s).sendAgain _) ⟨port_sendAgain_same .., sendAgain_out ..⟩

end RetryBuffer

/-! ## Credits and sending (R13, R14) -/

section Credits
variable (s : State) (p : Nat) (vc : Fin 8) (data : VWord)

/-- The flit that a port sends next. -/
def nextFlit (l : LinkPort) (vc : Fin 8) (data : VWord) : Flit := { seq := l.sendSeq, vc := vc, data := data }

/-- A port that has sent a flit. -/
def sent (l : LinkPort) (f : Flit) : LinkPort :=
  { l.countSent with sendSeq := l.sendSeq + 1, retry := l.retry ++ [f], credits := l.credits.set f.vc (l.credits[f.vc] - 1) }

theorem maySend_iff (l : LinkPort) : l.maySend vc = true ↔ l.state = .up ∧ l.credits[vc] ≠ 0 ∧ l.retry.length < 512 := by
  simp [LinkPort.maySend, and_assoc]

theorem transmit_eq (h : (s.port p).maySend vc = true) : s.transmit p vc data =
    (s.setPort p (sent (s.port p) (nextFlit (s.port p) vc data))).send (.flit p (nextFlit (s.port p) vc data)) := by
  simp only [State.transmit, h, if_true]
  rfl

theorem transmit_spec (h : (s.port p).state = .up) (hc : 0 < (s.port p).credits[vc]) (hr : (s.port p).retry.length < 512) :
    ∃ f : Flit, f.seq = (s.port p).sendSeq ∧ f.vc = vc ∧ f.data = data ∧
      (s.transmit p vc data).out = s.out ++ [.flit p f] ∧ ((s.transmit p vc data).port p).retry = (s.port p).retry ++ [f] ∧
      ((s.transmit p vc data).port p).sendSeq = (s.port p).sendSeq + 1 ∧
      ((s.transmit p vc data).port p).credits = (s.port p).credits.set vc ((s.port p).credits[vc] - 1) := by
  refine ⟨nextFlit (s.port p) vc data, rfl, rfl, rfl, ?_⟩
  rw [transmit_eq s p vc data ((maySend_iff vc _).2 ⟨h, hc.ne', hr⟩), port_send, port_setPort_same]
  exact ⟨rfl, rfl, rfl, rfl⟩

theorem transmit_refused (h : (s.port p).state ≠ .up ∨ (s.port p).credits[vc] = 0 ∨ 512 ≤ (s.port p).retry.length) :
    s.transmit p vc data = s := by
  refine if_neg fun hm => ?_
  obtain ⟨hup, hc, hr⟩ := (maySend_iff vc _).1 hm
  rcases h with h | h | h
  · exact h hup
  · exact hc h
  · exact absurd hr (not_lt.2 h)

theorem creditGrant_ends (s : State) (p : Fin 128) (vc : Fin 8) (n : Nat) : Ends s p (.creditGrant p vc n) fun _ m =>
    m.credits[vc] = (s.port p).credits[vc] + n ∧ ∀ v : Fin 8, v ≠ vc → m.credits[v] = (s.port p).credits[v] := by
  refine ends_setPort rfl ⟨Vector.getElem_set_self .., fun v hv => ?_⟩
  exact Vector.getElem_set_ne vc.isLt v.isLt fun he => hv (Fin.ext he.symm)

end Credits

/-! ## Degradation (R22, R23) -/

section Degradation
variable (s : State) (p : Fin 128)

theorem exec_laneLoss (h : (s.port p).state = .up) (hw : (s.port p).width2 = true) : exec (.laneLoss p) s =
    .next (((s.setPort p { s.port p with width2 := false }).sendAgain p (s.port p).retry).linkEvent p (s.port p).peer 1 0) := by
  change execLaneLoss p s = _
  simp only [execLaneLoss, h, hw, beq_self_eq_true, Bool.and_self, if_true]

theorem laneLoss_ends (h : (s.port p).state = .up) (hw : (s.port p).width2 = true) : Ends s p (.laneLoss p) fun t m =>
    m = { s.port p with width2 := false, resentWin := (s.port p).resentWin + (s.port p).retry.length } ∧
    t.boot.logCnt = s.boot.logCnt + 1 ∧ t.out = s.out ++ (s.port p).retry.map (.flit p.val) := by
  refine ends_of_onlyPort (exec_laneLoss s p h hw) ((((OnlyPort.refl _ s).setPort _).sendAgain _).linkEvent ..) ?_
  simp

theorem rateFallback_ends (h : (s.port p).state = .up) (hr : (s.port p).rate512 = true) : Ends s p (.rateFallback p) fun t m =>
    m = { s.port p with state := .retrainEqualise, rate512 := false } ∧ t.boot.logCnt = s.boot.logCnt + 1 := by
  have hx : exec (.rateFallback p) s =
      .next ((s.setPort p { s.port p with state := .retrainEqualise, rate512 := false }).linkEvent p (s.port p).peer 2 0) := by
    change execRateFallback p s = _
    simp only [execRateFallback, h, hr, beq_self_eq_true, Bool.and_self, if_true]
  exact ends_of_onlyPort hx (((OnlyPort.refl _ s).setPort _).linkEvent ..) ⟨port_setPort_same .., rfl⟩

theorem overThreshold_iff (l : LinkPort) :
    l.overThreshold = true ↔ l.state = .up ∧ l.threshold = false ∧ l.errLimit.toNat < l.resentWin := by
  simp [LinkPort.overThreshold, and_assoc]

theorem exec_errorThreshold (n : BitVec 32) : exec (.errorThreshold p n) s =
    if (s.port p).overThreshold && n == (s.port p).resends then
      .next ((s.setPort p { s.port p with threshold := true }).linkEvent p (s.port p).peer 3 0)
    else .next s := rfl

theorem errorThreshold_ends (h : (s.port p).state = .up) (ht : (s.port p).threshold = false)
    (hn : (s.port p).errLimit.toNat < (s.port p).resentWin) : Ends s p (.errorThreshold p (s.port p).resends) fun t m =>
      m = { s.port p with threshold := true } ∧ t.boot.logCnt = s.boot.logCnt + 1 := by
  have hx := exec_errorThreshold s p (s.port p).resends
  rw [(overThreshold_iff _).2 ⟨h, ht, hn⟩, beq_self_eq_true, Bool.and_self, if_pos rfl] at hx
  exact ends_of_onlyPort hx (((OnlyPort.refl _ s).setPort _).linkEvent ..) ⟨port_setPort_same .., rfl⟩

/-- A report that the device's own count does not bear out changes nothing. -/
theorem errorThreshold_ignored (n : BitVec 32) (h : (s.port p).state ≠ .up ∨ (s.port p).threshold = true ∨
    (s.port p).resentWin ≤ (s.port p).errLimit.toNat ∨ n ≠ (s.port p).resends) : exec (.errorThreshold p n) s = .next s := by
  rw [exec_errorThreshold, if_neg]
  rw [Bool.and_eq_true, overThreshold_iff, beq_iff_eq]
  rintro ⟨⟨hup, ht, hlt⟩, hn⟩
  rcases h with h | h | h | h
  · exact h hup
  · exact Bool.false_ne_true (ht.symm.trans h)
  · exact absurd hlt (not_lt.2 h)
  · exact h hn

theorem linkDown_ends (h : (s.port p).inService = true) : Ends s p (.linkDown p) fun t m =>
    m.state = .detect ∧ m.attempt = 1 ∧ m.down = some (s.port p).peer ∧ t.boot = s.boot :=
  ends_setPort (l := { (s.port p).begin with down := some (s.port p).peer }) (if_pos h) ⟨rfl, rfl, rfl, rfl⟩

end Degradation

/-- Settles O50: training first, then traffic and degradation, each event by the lemma that says what it does. -/
theorem portEvents : Obligations.PortEvents :=
  ⟨fun s p => ⟨
    fun v => ⟨portEnable_ends s p v, portDisable_ends s p v, portRestart_ends s p v⟩,
    fun o => ⟨trainingStepComplete_detect s p o, trainingStepComplete_equalise s p o, trainingStepComplete_pair s p o,
      trainingStepComplete_deskew s p o, trainingStepComplete_agree s p o, trainingStepComplete_up s p o,
      trainingStepComplete_resends s p o⟩,
    ⟨fun code => ⟨trainingStepTimeout_step s p code, trainingStepTimeout_identify s p code⟩,
      fun dev r h hr => ⟨identityReportReceive_badNumbers s p dev r h hr, fun hb =>
        ⟨identityReportReceive_good s p dev r h hr hb, identityReportReceive_other s p dev r h hr hb,
          identityReportReceive_bad s p dev r h hr hb⟩⟩⟩,
    identityChallenge_spec s p⟩,
  fun s p => ⟨
    fun f h => ⟨fun hf => ⟨flitReceive_credit s p f h hf, flitReceive_kept s p f h hf⟩, flitReceive_ahead s p f h,
      flitReceive_duplicate s p f h, flitReceive_uncorrectable s p f h⟩,
    fun _ _ _ hl hpre => ⟨flitAckReceive_ends s p hl hpre, flitResend_ends s p hl hpre⟩,
    fun vc data => ⟨transmit_spec s p vc data, transmit_refused s p vc data⟩,
    creditGrant_ends s p, laneLoss_ends s p, rateFallback_ends s p,
    ⟨errorThreshold_ends s p, errorThreshold_ignored s p⟩, linkDown_ends s p⟩⟩

end Sys2Proof.Proofs

/-!
Proofs: the aperture and the submission ports (R33 to R41).
-/
namespace Sys2Proof.Proofs
open Sys2Proof Sys2Proof.Machine

/-! ## The aperture (R33, R34) -/

section Aperture
variable (s : State) (w : Bool) (off : BitVec 36) (n : Nat) (data : List Byte)

theorem hostApertureAccess_beyond (hm : s.boot.maintenance = true)
    (h : 0x4000000 < off.toNat + if w then data.length else n) :
    exec (.hostApertureAccess w off n data) s = .next (s.send .abort) := by
  change execHostApertureAccess w off n data s = _
  simp only [execHostApertureAccess, stageSize, hm, if_true, h]

theorem hostApertureAccess_noBase (hm : s.boot.maintenance = false) (h : s.sched.hapBase.getLsbD 63 = false) :
    exec (.hostApertureAccess w off n data) s = .next (s.send .abort) := by
  change execHostApertureAccess w off n data s = _
  simp only [execHostApertureAccess, hm, h, Bool.false_eq_true, if_false, Bool.not_false, if_true]

/-- The state in which the host has written bytes of the staging buffer. -/
def staged : State := { s with mem := { s.mem with stage := writeSpan s.mem.stage off.toNat data } }

theorem hostApertureAccess_write (hm : s.boot.maintenance = true) (h : off.toNat + data.length ≤ 0x4000000) :
    exec (.hostApertureAccess true off n data) s = .next ((staged s off data).send .completed) := by
  change execHostApertureAccess true off n data s = _
  simp only [execHostApertureAccess, stageSize, hm, if_true, not_lt.2 h, if_false]
  rfl

theorem hostApertureAccess_read (hm : s.boot.maintenance = true) (h : off.toNat + n ≤ 0x4000000) :
    exec (.hostApertureAccess false off n data) s = .next (s.send (.readData (readSpan n off.toNat s.mem.stage))) := by
  change execHostApertureAccess false off n data s = _
  simp only [execHostApertureAccess, stageSize, hm, if_true, Bool.false_eq_true, not_lt.2 h, if_false]

/-- In maintenance BAR4 is the staging buffer. -/
theorem hostApertureAccess_stage (hm : s.boot.maintenance = true) (h : (off.toNat + if w then data.length else n) ≤ 0x4000000)
    (hwf : s.mem.stage.wf = true) : ∃ t, exec (.hostApertureAccess w off n data) s = .next t ∧
      (w = true → t.out = s.out ++ [.completed] ∧
        (∀ j, j < data.length → readByte t.mem.stage (off.toNat + j) = data.getD j 0) ∧
        (∀ g, g < off.toNat ∨ off.toNat + data.length ≤ g → readByte t.mem.stage g = readByte s.mem.stage g) ∧
        t.mem.phys = s.mem.phys ∧ t.mem.sram = s.mem.sram) ∧
      (w = false → t.mem = s.mem ∧
        t.out = s.out ++ [.readData ((List.range n).map fun j => readByte s.mem.stage (off.toNat + j))]) := by
  cases w with
  | true =>
    refine ⟨_, hostApertureAccess_write s off n data hm h, fun _ => ⟨rfl, fun j hj => ?_, fun g hg => ?_, rfl, rfl⟩, nofun⟩
    · rw [List.getD_eq_getElem _ _ hj]
      exact Laws.readByte_writeSpan_same hwf hj
    · exact Laws.readByte_writeSpan_other hwf hg
  | false =>
    refine ⟨_, hostApertureAccess_read s off n data hm h, nofun, fun _ => ⟨rfl, ?_⟩⟩
    rw [send_out, Laws.readSpan_eq hwf]

end Aperture

/-! ## Ports and records (R35, R38) -/

section Submissions
variable (s : State) (p : Nat) (v : SubPort)

@[simp] theorem sub_setSub_same : (s.setSub p v).sub p = v := Laws.tblGet_tblSet_same ..

theorem hostSubmit_taken (p : Fin 256) (data : List Byte) (d : Bool) (hl : data.length = 64) :
    exec (.hostSubmit p 0 data d) s = .next (s.present p (.host d) true data) := by
  change execHostSubmit p 0 data d s = _
  simp [execHostSubmit, hl]

theorem hostSubmit_beyond (p : Fin 256) (off : BitVec 12) (data : List Byte) (d : Bool) (h : 64 ≤ off.toNat) :
    exec (.hostSubmit p off data d) s = .next s := if_neg (not_lt.2 h)

/-- A port that holds none holds the submission that reaches it. -/
theorem present_held (who : Submitter) (whole : Bool) (bytes : List Byte) (h : (s.sub p).held = []) :
    ((s.present p who whole bytes).sub p).held = [⟨who, s.cycle, whole, bytes⟩] := by
  simp only [State.present, sub_setSub_same, h, insertSub]

/-- An answer changes no port, no record and no other part of the scheduler. -/
theorem answerSubmitter_sched (who : Submitter) (code : Nat) : (s.answerSubmitter who code).sched = s.sched := by
  cases who with
  | host d => cases d <;> rfl
  | thread => rfl

theorem answerSubmitter_mem (who : Submitter) (code : Nat) : (s.answerSubmitter who code).mem = s.mem := by
  cases who with
  | host d => cases d <;> rfl
  | thread => rfl

theorem answerSubmitter_sub (who : Submitter) (code : Nat) : (s.answerSubmitter who code).sub p = s.sub p := by
  simp only [State.sub, answerSubmitter_sched]

end Submissions

/-! ## The codes of R39 -/

section Codes
variable (s : State) (q : SubPort) (u : Submission)

/-- The submitter is a thread of another tenant's task than `n`. -/
def ofOtherTenant (n : Nat) : Bool := match s.submitterTenant u.who with | some t => t != n | none => false

theorem ofOtherTenant_eq_false {n : Nat} : ofOtherTenant s u n = false ↔
    ∀ core ts a z, u.who = .thread core ts a → s.taskOf core = some z → z.tenant = n := by
  unfold ofOtherTenant
  cases u.who with
  | host d => simp [State.submitterTenant]
  | thread core ts a =>
    cases h : s.taskOf core with
    | none =>
      simp only [State.submitterTenant, h, Option.map_none, true_iff]
      rintro _ _ _ z ⟨⟩ hz
      exact nomatch h.symm.trans hz
    | some t =>
      simp only [State.submitterTenant, h, Option.map_some, bne_eq_false_iff_eq]
      refine ⟨?_, fun hz => hz core ts a t rfl h⟩
      rintro ht _ _ _ z ⟨⟩ hz
      exact Option.some.inj (h.symm.trans hz) ▸ ht

/-- The port, or the tenant of the submitter, does not allow the record (R39). -/
def forbids : Bool :=
  let ws := wordsOf64 8 u.bytes
  let pf (hi lo : Nat) := fieldOf q.ctl.toNat hi lo
  lrTenant ws != pf 6 1 || (lrAsid ws).toNat != pf 63 48 || !(pf 36 32).testBit (lrKind ws) ||
    decide (pf 24 18 < lrPriority ws) || decide (pf 24 18 < lrCeiling ws) ||
    ((lrTrace ws || lrRecord ws || lrReplay ws) && !q.ctl.getLsbD 17) || ofOtherTenant s u (pf 6 1)

/-- The port and the tenant of the submitter allow the record. -/
def Allows : Prop :=
  let ws := wordsOf64 8 u.bytes
  let f (hi lo : Nat) := fieldOf q.ctl.toNat hi lo
  lrTenant ws = f 6 1 ∧ (lrAsid ws).toNat = f 63 48 ∧ (f 36 32).testBit (lrKind ws) = true ∧
    lrPriority ws ≤ f 24 18 ∧ lrCeiling ws ≤ f 24 18 ∧
    ((lrTrace ws = true ∨ lrRecord ws = true ∨ lrReplay ws = true) → q.ctl.getLsbD 17 = true) ∧
    ∀ core ts a z, u.who = .thread core ts a → s.taskOf core = some z → z.tenant = f 6 1

theorem forbids_eq_false : forbids s q u = false ↔ Allows s q u := by
  simp only [forbids, Allows, Bool.or_eq_false_iff, ofOtherTenant_eq_false, bne_eq_false_iff_eq, Bool.not_eq_false',
    decide_eq_false_iff_not, not_lt, Bool.and_eq_false_imp, Bool.or_eq_true, and_assoc, or_assoc]

/-- The order of the codes. -/
theorem submissionCode_eq : s.submissionCode q u =
    if s.boot.maintenance then 5
    else if !q.ctl.getLsbD 0 then 4
    else if !u.whole || lrMalformed (wordsOf64 8 u.bytes) then 2
    else if forbids s q u then 3
    else if 64 ≤ q.occupied then 1
    else 0 := rfl

theorem submissionCode_maintenance (hm : s.boot.maintenance = true) : s.submissionCode q u = 5 := by
  rw [submissionCode_eq, hm, if_pos rfl]

theorem submissionCode_disabled (hm : s.boot.maintenance = false) (he : q.ctl.getLsbD 0 = false) :
    s.submissionCode q u = 4 := by
  rw [submissionCode_eq, hm, he]; rfl

theorem submissionCode_malformed (hm : s.boot.maintenance = false) (he : q.ctl.getLsbD 0 = true)
    (h : u.whole = false ∨ lrMalformed (wordsOf64 8 u.bytes) = true) : s.submissionCode q u = 2 := by
  have hbad : (!u.whole || lrMalformed (wordsOf64 8 u.bytes)) = true := by simpa using h
  rw [submissionCode_eq, hm, he, hbad]; rfl

variable {s q u}

theorem submissionCode_wellFormed (hm : s.boot.maintenance = false) (he : q.ctl.getLsbD 0 = true) (hw : u.whole = true)
    (hf : lrMalformed (wordsOf64 8 u.bytes) = false) :
    s.submissionCode q u = if forbids s q u then 3 else if 64 ≤ q.occupied then 1 else 0 := by
  rw [submissionCode_eq, hm, he, hw, hf]; rfl

theorem submissionCode_decided (hm : s.boot.maintenance = false) (he : q.ctl.getLsbD 0 = true) (hw : u.whole = true)
    (hf : lrMalformed (wordsOf64 8 u.bytes) = false) : (¬Allows s q u → s.submissionCode q u = 3) ∧
      (Allows s q u → 64 ≤ q.occupied → s.submissionCode q u = 1) ∧
      (Allows s q u → q.occupied < 64 → s.submissionCode q u = 0) := by
  rw [submissionCode_wellFormed hm he hw hf]
  refine ⟨fun h => ?_, fun h ho => ?_, fun h ho => ?_⟩
  · rw [if_pos (Bool.not_eq_false _ ▸ mt (forbids_eq_false s q u).1 h)]
  · rw [(forbids_eq_false s q u).2 h, if_neg Bool.false_ne_true, if_pos ho]
  · rw [(forbids_eq_false s q u).2 h, if_neg Bool.false_ne_true, if_neg (not_le.2 ho)]

end Codes

/-! ## Deciding the oldest submission (R35, R36) -/

section Deciding
variable {s : State} {p : Fin 256} {u : Submission} {r : List Submission} (h : (s.sub p).held = u :: r)

/-- The record that a port accepts (R36). -/
def acceptedRec (s : State) (p : Nat) (u : Submission) : Rec :=
  { id := s.sched.nextRec, port := p, words := wordsOf64 8 u.bytes, stamp := s.cycle, t0 := s.cycle, phase := .accepted }

/-- A port that has accepted its oldest submission and holds `r`. -/
def acceptingPort (q : SubPort) (r : List Submission) : SubPort :=
  { q with held := r, accepted := q.accepted + 1, occupied := q.occupied + 1 }

/-- A port that has refused its oldest submission with a code and holds `r`. -/
def refusingPort (q : SubPort) (r : List Submission) (code : Nat) : SubPort :=
  { q with held := r, refusals := q.refusals + 1, code := BitVec.ofNat 8 code }

/-- The state in which a port has accepted a submission, before the answer. -/
def withAccepted (s : State) (p : Nat) (u : Submission) (r : List Submission) : State :=
  let t := s.setSub p (acceptingPort (s.sub p) r)
  { t with sched := { t.sched with recs := s.sched.recs ++ [acceptedRec s p u], nextRec := s.sched.nextRec + 1 } }

theorem withAccepted_sub (s : State) (p : Nat) (u : Submission) (r : List Submission) :
    (withAccepted s p u r).sub p = acceptingPort (s.sub p) r := sub_setSub_same ..

include h

theorem exec_submissionDecide_accepted (hc : s.submissionCode (s.sub p) u = 0) :
    exec (.submissionDecide p) s = .next ((withAccepted s p u r).answerSubmitter u.who 0) := by
  change execSubmissionDecide p s = _
  simp only [execSubmissionDecide, State.decideSubmission, h, hc]
  rfl

theorem exec_submissionDecide_refused (hc : s.submissionCode (s.sub p) u ≠ 0) :
    exec (.submissionDecide p) s = .next ((s.setSub p (refusingPort (s.sub p) r (s.submissionCode (s.sub p) u))).answerSubmitter
      u.who (s.submissionCode (s.sub p) u)) := by
  change execSubmissionDecide p s = _
  simp only [execSubmissionDecide, State.decideSubmission, h, beq_eq_false_iff_ne.2 hc, Bool.false_eq_true, if_false]
  rfl

theorem submissionDecide_accepted (hc : s.submissionCode (s.sub p) u = 0) : ∃ t z, exec (.submissionDecide p) s = .next t ∧
    (t.sub p).held = r ∧ (t.sub p).accepted = (s.sub p).accepted + 1 ∧ (t.sub p).occupied = (s.sub p).occupied + 1 ∧
    t.sched.recs = s.sched.recs ++ [z] ∧ z.words = wordsOf64 8 u.bytes ∧ z.port = p.val ∧ z.phase = .accepted ∧
    z.stamp = s.cycle ∧ t.mem = s.mem := by
  refine ⟨_, acceptedRec s p u, exec_submissionDecide_accepted h hc, ?_⟩
  rw [answerSubmitter_sub, answerSubmitter_sched, answerSubmitter_mem, withAccepted_sub]
  exact ⟨rfl, rfl, rfl, rfl, rfl, rfl, rfl, rfl, rfl⟩

theorem submissionDecide_refused (hc : s.submissionCode (s.sub p) u ≠ 0) : ∃ t, exec (.submissionDecide p) s = .next t ∧
    (t.sub p).held = r ∧ t.sched.recs = s.sched.recs ∧ (t.sub p).refusals = (s.sub p).refusals + 1 ∧
    (t.sub p).code = BitVec.ofNat 8 (s.submissionCode (s.sub p) u) ∧ (t.sub p).accepted = (s.sub p).accepted ∧
    t.mem = s.mem := by
  refine ⟨_, exec_submissionDecide_refused h hc, ?_⟩
  rw [answerSubmitter_sub, answerSubmitter_sched, answerSubmitter_mem, sub_setSub_same]
  exact ⟨rfl, rfl, rfl, rfl, rfl, rfl⟩

end Deciding

/-- Settles O53: the aperture, what a port takes, its codes, and what becomes of its oldest submission. -/
theorem hostEvents : Obligations.HostEvents := fun s =>
  ⟨fun w off n data => ⟨hostApertureAccess_beyond s w off n data, hostApertureAccess_noBase s w off n data,
      hostApertureAccess_stage s w off n data⟩,
    fun p off data d => ⟨hostSubmit_beyond s p off data d, fun h0 hl hh =>
      ⟨_, h0 ▸ hostSubmit_taken s p data d hl, present_held s p _ _ _ hh, rfl, rfl⟩⟩,
    fun p u _ h => ⟨submissionCode_maintenance s (s.sub p) u, submissionCode_disabled s (s.sub p) u,
      submissionCode_malformed s (s.sub p) u, submissionCode_decided, submissionDecide_accepted h,
      submissionDecide_refused h⟩⟩

end Sys2Proof.Proofs

/-!
Proofs: the scheduler: intake, starting, the system copy engine, loading, placement, edges, `SCHEND` and `DBGGO`
(R44, R46, R51 to R53, R58 to R61, R67, R245).
-/
namespace Sys2Proof.Proofs
open Sys2Proof Sys2Proof.Machine

/-! ## Accesses to global memory that no core makes change physical memory and translations alone (R101, R104) -/

/-- Physical memory and the translation caches may differ, and nothing else. -/
def OnlyGlobal (s t : State) : Prop := ∃ m x, t = { s with mem := { s.mem with phys := m }, xl := x }

namespace OnlyGlobal
variable {s t u : State}

theorem refl (s : State) : OnlyGlobal s s := ⟨s.mem.phys, s.xl, rfl⟩

theorem trans (h : OnlyGlobal s t) (k : OnlyGlobal t u) : OnlyGlobal s u := by
  obtain ⟨_, _, rfl⟩ := h
  obtain ⟨m, x, rfl⟩ := k
  exact ⟨m, x, rfl⟩

theorem withXl (s : State) (x : Xlat) : OnlyGlobal s { s with xl := x } := ⟨s.mem.phys, x, rfl⟩

theorem writePhys (s : State) (a : Nat) (bs : List Byte) : OnlyGlobal s (s.writePhys a bs) := ⟨_, s.xl, rfl⟩

theorem cores (h : OnlyGlobal s t) : t.cores = s.cores := by obtain ⟨_, _, rfl⟩ := h; rfl

theorem sched (h : OnlyGlobal s t) : t.sched = s.sched := by obtain ⟨_, _, rfl⟩ := h; rfl

end OnlyGlobal

section GlobalAccess
variable {s t : State} {asid : BitVec 16} {a : Word}

theorem translate_onlyGlobal {va : Nat} {e : TlbEntry} (h : s.translate asid va = .ok (e, t)) : OnlyGlobal s t := by
  unfold State.translate at h
  split at h
  · cases h
    exact .withXl ..
  · split at h
    · cases h
    · cases h
      exact .withXl ..

theorem globalCell_onlyGlobal {w : Bool} {c : Nat} (h : s.globalCell asid a w = .ok (c, t)) : OnlyGlobal s t := by
  unfold State.globalCell at h
  dsimp only at h
  split at h
  · cases h
  · split at h
    · cases h
    · rename_i ht
      split at h
      · cases h
      · split at h
        · cases h
        · cases h
          exact translate_onlyGlobal ht

theorem walked_onlyGlobal (s : State) (asid : BitVec 16) (a : Word) (cause : BitVec 8) : OnlyGlobal s (s.walked asid a cause) := by
  unfold State.walked
  split
  · split
    · rename_i ht
      exact translate_onlyGlobal ht
    · exact .refl s
  · exact .refl s

/-- What an access under an ASID answers, found or faulted, leaves all but physical memory and translations. -/
def AnswersGlobal {ε α : Type} (s : State) : Except (ε × State) (α × State) → Prop
  | .ok (_, t) => OnlyGlobal s t
  | .error (_, t) => OnlyGlobal s t

/-- The cells of a write are found unit by unit, and the first unit that faults ends it. -/
theorem globalTargets_answersGlobal (asid : BitVec 16) (fuel : Nat) (s : State) (a : Word) (bs : List Byte) :
    AnswersGlobal s (State.globalTargets fuel s asid a bs) := by
  induction fuel generalizing s a bs with
  | zero => exact OnlyGlobal.refl s
  | succ fuel ih =>
    simp only [State.globalTargets]
    split
    · exact OnlyGlobal.refl s
    · split
      · exact OnlyGlobal.refl s
      · split
        · exact walked_onlyGlobal ..
        · rename_i cell u hu
          have rest := ih u (a + BitVec.ofNat 64 (min bs.length (unitLeft a.toNat)))
            (bs.drop (min bs.length (unitLeft a.toNat)))
          split
          all_goals
            rename_i hr
            rw [hr] at rest
            exact (globalCell_onlyGlobal hu).trans rest

theorem foldl_writePhys_onlyGlobal (l : List (Nat × List Byte)) (s : State) :
    OnlyGlobal s (l.foldl (fun s (c, b) => s.writePhys c b) s) := by
  induction l generalizing s with
  | nil => exact .refl s
  | cons p l ih => exact (OnlyGlobal.writePhys s p.1 p.2).trans (ih _)

theorem globalWrite_ok_onlyGlobal {bs : List Byte} (h : s.globalWrite asid a bs = .ok t) : OnlyGlobal s t := by
  have targets := globalTargets_answersGlobal asid (bs.length / 4096 + 2) s a bs
  unfold State.globalWrite at h
  split at h
  · cases h
  · rename_i ht
    cases h
    rw [ht] at targets
    exact OnlyGlobal.trans targets (foldl_writePhys_onlyGlobal ..)

theorem globalWrite_error_onlyGlobal {bs : List Byte} {e : BitVec 8 × Word} (h : s.globalWrite asid a bs = .error (e, t)) :
    OnlyGlobal s t := by
  have targets := globalTargets_answersGlobal asid (bs.length / 4096 + 2) s a bs
  unfold State.globalWrite at h
  split at h
  · rename_i ht
    cases h
    rw [ht] at targets
    exact targets
  · cases h

end GlobalAccess

/-! ## Completion takes the record away and leaves every core and every other record (R45, R61) -/

/-- No core and no record changes. -/
def KeepsRecs (s t : State) : Prop := t.cores = s.cores ∧ t.sched.recs = s.sched.recs

theorem KeepsRecs.trans {s t u : State} (h : KeepsRecs s t) (k : KeepsRecs t u) : KeepsRecs s u :=
  ⟨k.1.trans h.1, k.2.trans h.2⟩

theorem OnlyGlobal.keepsRecs {s t : State} (h : OnlyGlobal s t) : KeepsRecs s t := ⟨h.cores, congrArg Sched.recs h.sched⟩

section Completion
variable (s : State) (r : Rec)

/-- The state but for its edges. -/
def withoutEdges (s : State) : State := { s with sched := { s.sched with edges := [] } }

theorem placeTokens_withoutEdges : withoutEdges (s.placeTokens r) = withoutEdges s := by
  unfold State.placeTokens
  refine foldl_view withoutEdges _ (fun _ _ => ?_) _ s
  rfl

theorem takeTokens_withoutEdges : withoutEdges (s.takeTokens r) = withoutEdges s := by
  unfold State.takeTokens
  refine (foldl_view withoutEdges _ (fun _ _ => ?_) _ _).trans (foldl_view withoutEdges _ (fun _ _ => ?_) _ s)
  · rfl
  · rfl

theorem placeTokens_keepsRecs : KeepsRecs s (s.placeTokens r) :=
  have h := placeTokens_withoutEdges s r
  ⟨(congrArg State.cores h :), (congrArg (fun s : State => s.sched.recs) h :)⟩

theorem freeSlot_keepsRecs : KeepsRecs s (s.freeSlot r) := by
  unfold State.freeSlot
  split <;> exact ⟨rfl, rfl⟩

/-- The state with a completion's result written, where there is one. -/
def withResult (result : List Byte) : State :=
  if result.isEmpty then s else
    match s.globalWrite (lrAsid r.words) (lrDone r.words + 32) result with
    | .ok s => s
    | .error (_, s) => s

theorem withResult_keepsRecs (result : List Byte) : KeepsRecs s (withResult s r result) := by
  unfold withResult
  split
  · exact ⟨rfl, rfl⟩
  · split
    · rename_i h
      exact (globalWrite_ok_onlyGlobal h).keepsRecs
    · rename_i h
      exact (globalWrite_error_onlyGlobal h).keepsRecs

/-- The state with a completion record written, or the fault of its write logged. -/
def withRecord (o : Machine.Outcome) : State :=
  match s.globalWrite (lrAsid r.words) (lrDone r.words) (completionBytes r s.cycle o) with
  | .ok s => s
  | .error (_, s) => s.logError (lrTenant r.words) 1 r.port r.words (lrDone r.words)

theorem withRecord_keepsRecs (o : Machine.Outcome) : KeepsRecs s (withRecord s r o) := by
  unfold withRecord
  split
  · rename_i h
    exact (globalWrite_ok_onlyGlobal h).keepsRecs
  · rename_i h
    exact (globalWrite_error_onlyGlobal h).keepsRecs

variable (result : List Byte) (o : Machine.Outcome) (started : Bool)

/-- The state that a completion leaves but for the record itself. -/
def completed : State :=
  let t := withRecord (withResult s r result) r o
  (if started then t.placeTokens r else t).freeSlot r

theorem complete_eq : s.complete r result o started = (completed s r result o started).dropRec r := rfl

theorem completed_keepsRecs : KeepsRecs s (completed s r result o started) := by
  have written := (withResult_keepsRecs s r result).trans (withRecord_keepsRecs _ r o)
  refine KeepsRecs.trans ?_ (freeSlot_keepsRecs _ r)
  cases started with
  | false => exact written
  | true => exact written.trans (placeTokens_keepsRecs _ r)

theorem complete_cores : (s.complete r result o started).cores = s.cores := (completed_keepsRecs ..).1

theorem mem_complete_recs {q : Rec} :
    q ∈ (s.complete r result o started).sched.recs ↔ q ∈ s.sched.recs ∧ q.id ≠ r.id := by
  rw [← (completed_keepsRecs s r result o started).2, complete_eq]
  simp [State.dropRec]

variable {s r result o started}

theorem complete_forgets : ∀ q ∈ (s.complete r result o started).sched.recs, q.id ≠ r.id :=
  fun _ hq => ((mem_complete_recs ..).1 hq).2

end Completion

/-! ## Intake (R60) -/

section Intake
variable {s : State} {r : Rec}

theorem mem_setPhase (h : r ∈ s.sched.recs) (p : RecPhase) : { r with phase := p } ∈ (s.setPhase r.id p).sched.recs :=
  List.mem_map.2 ⟨r, h, if_pos (beq_self_eq_true _)⟩

theorem setPhase_phase {id : Nat} {p : RecPhase} : ∀ q ∈ (s.setPhase id p).sched.recs, q.id = id → q.phase = p := by
  intro q hq hid
  obtain ⟨z, -, rfl⟩ := List.mem_map.1 hq
  split at hid
  · rw [if_pos ‹_›]
  · rename_i hne
    exact absurd (beq_iff_eq.2 hid) hne

variable (h : (s.sched.recs.find? fun r => r.phase == .accepted) = some r)
include h

theorem schedulerIntake_taken (hb : s.badEdge r = none) :
    exec .schedulerIntake s = .next (s.setPhase r.id .waiting) := by
  change execSchedulerIntake s = _
  simp only [execSchedulerIntake, h, hb]

theorem schedulerIntake_failed {e : Nat} (hb : s.badEdge r = some e) : exec .schedulerIntake s =
    .next ((s.logError (lrTenant r.words) 2 r.port r.words (BitVec.ofNat 64 e)).complete r [] { errors := 8 } false) := by
  change execSchedulerIntake s = _
  simp only [execSchedulerIntake, h, hb]

end Intake

/-! ## Starting (R52, R59) -/

section Starting
variable {s : State} {r q : Rec}

theorem mem_insertRec {cycle : Nat} {l : List Rec} : q ∈ insertRec cycle r l ↔ q = r ∨ q ∈ l := by
  induction l with
  | nil => simp [insertRec]
  | cons z l ih =>
    unfold insertRec
    split
    · exact List.mem_cons
    · rw [List.mem_cons, ih, List.mem_cons, or_left_comm]

/-- The order of starting is an order of records that are known. -/
theorem mem_recs_of_mem_readyRecs (h : r ∈ s.readyRecs) : r ∈ s.sched.recs := by
  have sorted : ∀ (l acc : List Rec), r ∈ l.foldl (fun l r => insertRec s.cycle r l) acc → r ∈ l ∨ r ∈ acc := by
    intro l
    induction l with
    | nil => exact fun _ => .inr
    | cons z l ih =>
      intro acc h
      rcases ih _ h with h | h
      · exact .inl (List.mem_cons_of_mem _ h)
      · exact (mem_insertRec.1 h).imp_left fun (he : r = z) => he ▸ List.mem_cons_self
  rcases sorted _ _ h with h | h
  · exact (List.mem_filter.1 h).1
  · cases h

theorem schedulerStart_none (h : s.readyRecs = []) : exec .schedulerStart s = .next s := by
  change execSchedulerStart s = _
  simp only [execSchedulerStart, h, pickStart]

/-- A record as it starts. -/
def starting (r : Rec) (cycle : Nat) : Rec := { r with prio := r.effective cycle, startedAt := cycle, deferred := none }

theorem startRec_waiting (hn : r.needsCores = true) (hp : r.phase = .waiting) :
    s.startRec r = (s.takeTokens r).putRec { starting r s.cycle with phase := .loading } := by
  simp only [State.startRec, hn, hp, if_true]
  rfl

/-- The first ready record that needs cores and finds them starts. -/
theorem schedulerStart_first {l : List Rec} (h : s.readyRecs = r :: l) (hn : r.needsCores = true) (hp : r.phase = .waiting)
    (hf : s.placeable s.heldBlocks r = true) : exec .schedulerStart s =
      .next ((s.takeTokens r).putRec { starting r s.cycle with phase := .loading }) := by
  rw [← startRec_waiting hn hp]
  change execSchedulerStart s = _
  simp only [execSchedulerStart, h, pickStart, hn, hf, Bool.not_true, Bool.false_eq_true, if_false, Bool.not_false, Bool.and_true,
    if_true]

theorem mem_putRec (h : q ∈ s.sched.recs) (hid : q.id = r.id) : r ∈ (s.putRec r).sched.recs :=
  List.mem_map.2 ⟨q, h, if_pos (beq_iff_eq.2 hid)⟩

@[simp] theorem edge_setEdge_same (e : Nat) (g : Edge) : (s.setEdge e g).edge e = g := Laws.tblGet_tblSet_same ..

/-- A record with one input and no output takes one token of that edge (R59). -/
theorem takeTokens_edge {e : Nat} (hi : realEdges (lrIn r.words) = [e]) (ho : realEdges (lrOut r.words) = []) :
    ((s.takeTokens r).edge e).filled = (s.edge e).filled - 1 := by
  simp only [State.takeTokens, hi, ho, List.foldl_cons, List.foldl_nil, edge_setEdge_same]

/-- The record that starts waits for its image, with its running priority and the cycle of its start. -/
theorem schedulerStart_spec {l : List Rec} (h : s.readyRecs = r :: l) (hn : r.needsCores = true) (hp : r.phase = .waiting)
    (hf : s.placeable s.heldBlocks r = true) : ∃ t, exec .schedulerStart s = .next t ∧ t.mem = s.mem ∧ t.cores = s.cores ∧
      (∃ q ∈ t.sched.recs, q.id = r.id ∧ q.phase = .loading ∧ q.prio = r.effective s.cycle ∧ q.startedAt = s.cycle) ∧
      ∀ e, realEdges (lrIn r.words) = [e] → realEdges (lrOut r.words) = [] → (t.edge e).filled = (s.edge e).filled - 1 := by
  have tokens := takeTokens_withoutEdges s r
  have known : r ∈ (s.takeTokens r).sched.recs := by
    rw [show (s.takeTokens r).sched.recs = s.sched.recs from (congrArg (fun s : State => s.sched.recs) tokens :)]
    exact mem_recs_of_mem_readyRecs (h ▸ List.mem_cons_self)
  exact ⟨_, schedulerStart_first h hn hp hf, (congrArg State.mem tokens :), (congrArg State.cores tokens :),
    ⟨_, mem_putRec known rfl, rfl, rfl, rfl, rfl⟩, fun _ => takeTokens_edge⟩

end Starting

/-! ## The system copy engine and the loader (R44, R46) -/

section Copying
variable {s u : State} {c : SysCopy} {l : List SysCopy} {r : Rec} {e : CopyEnd}

theorem systemCopyComplete_ends (h : s.sched.copies = c :: l) (hr : s.sched.recs.find? (·.id == c.id) = some r)
    (hc : ({ s with sched := { s.sched with copies := l } } : State).sysCopy (lrAsid r.words) c.words none = (e, u)) :
    exec .systemCopyComplete s = .next (u.complete r (copyResult c.words e)
      { errors := if e.status = 0 then 0 else 0x80, cause := if e.status = 1 then e.cause else 0 } true) := by
  have noExtra : ∀ b : BitVec 16, 0 ||| b = b := fun _ => BitVec.zero_or
  change execSystemCopyComplete s = _
  simp only [execSystemCopyComplete, h, hr, hc, State.endSysCopy, beq_iff_eq, noExtra]

end Copying

section Loading
variable {s u : State} {r : Rec}

theorem find?_tblSet {α : Type} (t : Tbl α) (k : Nat) (v : α) : (tblSet t k v).find? (·.1 == k) = some (k, v) := by
  induction t with
  | nil => simp [tblSet]
  | cons p t ih =>
    unfold tblSet
    split
    · simp
    · split
      · simp
      · rename_i hne
        simpa [hne] using ih

theorem imageLoadComplete_refused (h : s.firstIn .loading = some r) {e : Refused} (hl : s.loadImage r = (.error e, u)) :
    exec .imageLoadComplete s = .next (u.complete r e.bytes { errors := 4 } true) := by
  change execImageLoadComplete s = _
  simp only [execImageLoadComplete, h, hl]

theorem imageLoadComplete_loaded (h : s.firstIn .loading = some r) {img : Image} (hl : s.loadImage r = (.ok img, u)) :
    exec .imageLoadComplete s =
      .next ({ u with sched := { u.sched with images := tblSet u.sched.images r.id img } }.setPhase r.id .loaded) := by
  change execImageLoadComplete s = _
  simp only [execImageLoadComplete, h, hl]

end Loading

/-! ## Folds over places: each step changes its own place -/

/-- After a fold over distinct places, each place is as its own step has left it, which found the place as it was. -/
theorem foldl_at {σ α β : Type} (view : σ → α → β) {f : σ → α → σ} (other : ∀ s a b, b ≠ a → view (f s a) b = view s b)
    {l : List α} (hl : l.Nodup) {a : α} (ha : a ∈ l) (s : σ) :
    ∃ u, view u a = view s a ∧ view (l.foldl f s) a = view (f u a) a := by
  have outside : ∀ (l : List α), a ∉ l → ∀ s, view (l.foldl f s) a = view s a := by
    intro l
    induction l with
    | nil => exact fun _ _ => rfl
    | cons b l ih =>
      intro hn s
      obtain ⟨hb, hl⟩ := not_or.1 (List.mem_cons.not.1 hn)
      rw [List.foldl_cons, ih hl, other s b a hb]
  induction l generalizing s with
  | nil => cases ha
  | cons b l ih =>
    obtain ⟨hb, hl⟩ := List.nodup_cons.1 hl
    rw [List.foldl_cons]
    by_cases hab : a = b
    · subst hab
      exact ⟨s, rfl, outside l hb _⟩
    · obtain ⟨u, hu, he⟩ := ih hl ((List.mem_cons.1 ha).resolve_left hab) (f s b)
      exact ⟨u, hu.trans (other s b a hab), he⟩

/-! ## Placement (R51, R53) -/

section Enqueue
variable (s : State) (c : Nat) (ts : Fin 4)

/-- A thread set joins the order of turns, and nothing else changes. -/
theorem enqueue_eq : ∃ q, s.enqueue c ts = { s with runq := q } ∧ ∀ x, x ∈ q ↔ x ∈ s.runq ∨ x = (c, ts) := by
  unfold State.enqueue
  split
  · rename_i h
    have known : (c, ts) ∈ s.runq := by simpa using h
    exact ⟨s.runq, rfl, fun x => ⟨.inl, fun hx => hx.elim id fun he => he ▸ known⟩⟩
  · exact ⟨_, rfl, fun x => by simp⟩

@[simp] theorem enqueue_core (d : Nat) : (s.enqueue c ts).core d = s.core d := by
  obtain ⟨q, h, -⟩ := enqueue_eq s c ts
  rw [h]; rfl

@[simp] theorem enqueue_mem : (s.enqueue c ts).mem = s.mem := by
  obtain ⟨q, h, -⟩ := enqueue_eq s c ts
  rw [h]

@[simp] theorem enqueue_sched : (s.enqueue c ts).sched = s.sched := by
  obtain ⟨q, h, -⟩ := enqueue_eq s c ts
  rw [h]

@[simp] theorem enqueue_cycle : (s.enqueue c ts).cycle = s.cycle := by
  obtain ⟨q, h, -⟩ := enqueue_eq s c ts
  rw [h]

@[simp] theorem mem_enqueue_runq {x : Nat × Fin 4} : x ∈ (s.enqueue c ts).runq ↔ x ∈ s.runq ∨ x = (c, ts) := by
  obtain ⟨q, h, hq⟩ := enqueue_eq s c ts
  rw [h]
  exact hq x

end Enqueue

/-- The memories once a crew's scratchpad, operand memory and accumulators are zero and its resident segments loaded. -/
def crewMem (m : Mem) (core : Nat) (img : Image) : Mem :=
  { m with
    sram := clearSpan m.sram (padKey core) sysReserved
    operand := clearSpan m.operand (slotKey core 0) 0x40000
    code := loadResident m.code core img }

section Crews
variable {r : Rec} (htr : lrTrace r.words = false) (img : Image) (level base : Nat)
include htr

theorem startCrew_untraced (s : State) (rel : Nat) : s.startCrew r img level base rel =
    (({ s with mem := crewMem s.mem (base + rel) img } : State).setCore (base + rel)
      (startCore r img level rel s.cycle)).enqueue (base + rel) 0 := by
  simp only [State.startCrew, htr, Bool.false_eq_true, if_false]
  rfl

theorem startCrew_phys (s : State) (rel : Nat) : (s.startCrew r img level base rel).mem.phys = s.mem.phys := by
  rw [startCrew_untraced htr, enqueue_mem]
  rfl

theorem startCrew_sched (s : State) (rel : Nat) : (s.startCrew r img level base rel).sched = s.sched := by
  rw [startCrew_untraced htr, enqueue_sched]
  rfl

theorem startCrew_cycle (s : State) (rel : Nat) : (s.startCrew r img level base rel).cycle = s.cycle := by
  rw [startCrew_untraced htr, enqueue_cycle]
  rfl

theorem startCrew_core_same (s : State) (rel : Nat) :
    (s.startCrew r img level base rel).core (base + rel) = startCore r img level rel s.cycle := by
  rw [startCrew_untraced htr, enqueue_core, Laws.State.core_setCore]

theorem startCrew_core_other (s : State) {rel c : Nat} (hc : c ≠ base + rel) :
    (s.startCrew r img level base rel).core c = s.core c := by
  rw [startCrew_untraced htr, enqueue_core, Laws.State.core_setCore_other _ _ _ _ hc]
  rfl

theorem mem_startCrew_runq (s : State) (rel : Nat) {x : Nat × Fin 4} :
    x ∈ (s.startCrew r img level base rel).runq ↔ x ∈ s.runq ∨ x = (base + rel, 0) := by
  rw [startCrew_untraced htr, mem_enqueue_runq]
  rfl

/-- What the start of one crew leaves of the place of another: its core and its turn; and the cycle. -/
def crewPlace (base : Nat) (s : State) (rel : Nat) : Core × Nat × Prop := (s.core (base + rel), s.cycle, (base + rel, 0) ∈ s.runq)

theorem startCrew_crewPlace_other (s : State) (rel b : Nat) (hb : b ≠ rel) :
    crewPlace base (s.startCrew r img level base rel) b = crewPlace base s b := by
  have hne : base + b ≠ base + rel := by omega
  have turn : (base + b, (0 : Fin 4)) ∈ (s.startCrew r img level base rel).runq ↔ (base + b, 0) ∈ s.runq := by
    rw [mem_startCrew_runq htr, or_iff_left fun he => hne (congrArg Prod.fst he)]
  simp only [crewPlace, startCrew_core_other htr img level base s hne, startCrew_cycle htr, turn]

/-- Every crew of a task starts on its own core. -/
theorem startCrews_crew (s : State) {n rel : Nat} (h : rel < n) :
    ((List.range n).foldl (fun s rel => s.startCrew r img level base rel) s).core (base + rel) =
        startCore r img level rel s.cycle ∧
      (base + rel, 0) ∈ ((List.range n).foldl (fun s rel => s.startCrew r img level base rel) s).runq := by
  obtain ⟨u, hu, he⟩ := foldl_at (crewPlace base) (startCrew_crewPlace_other htr img level base) List.nodup_range
    (List.mem_range.2 h) s
  have hcycle : u.cycle = s.cycle := congrArg (fun x => x.2.1) hu
  constructor
  · exact (congrArg Prod.fst he).trans ((startCrew_core_same htr img level base u rel).trans (by rw [hcycle]))
  · exact (iff_of_eq (congrArg (fun x => x.2.2) he)).2 ((mem_startCrew_runq htr img level base u rel).2 (.inr rfl))

end Crews

/-- The first thread set of a crew of a task without gangs (R51). -/
theorem startThread_lead {r : Rec} (hg : lrGang r.words = 1) (rel : Nat) (entry : BitVec 16) :
    let h := startThread r rel 0 entry
    h.run = .running ∧ h.pc = entry ∧ h.s[1] = lrArgs r.words ∧ h.s[2] = BitVec.ofNat 64 rel ∧
      h.s[3] = BitVec.ofNat 64 (lrCrews r.words) ∧ h.s[30] = 0x3C000 ∧ h.s[31] = 0xFF0 ∧ h.gwidth = 1 ∧ h.estat = 0 := by
  simp [startThread, hg, Thread.reset]

section Placement
variable {s : State} {r : Rec} {base : Nat} {img : Image}

/-- The state but for its budgets. -/
def withoutBudgets (s : State) : State := { s with bud := {} }

theorem freshBuckets_withoutBudgets (t : Machine.Task) : withoutBudgets (s.freshBuckets t) = withoutBudgets s :=
  foldl_view withoutBudgets _ (fun _ _ => by dsimp only; split <;> rfl) _ s

/-- A task joins the tasks, with fresh bucket pairs, before its crews start. -/
def withTask (s : State) (t : Machine.Task) : State :=
  let u := s.freshBuckets t
  { u with sched := { u.sched with tasks := u.sched.tasks ++ [t] } }

theorem withTask_phys (t : Machine.Task) : (withTask s t).mem.phys = s.mem.phys :=
  (congrArg (fun s : State => s.mem.phys) (freshBuckets_withoutBudgets t) :)

theorem startTask_eq : s.startTask r img base = (List.range (lrCrews r.words)).foldl
    (fun s rel => s.startCrew r img (lrDomain r.words) base rel) (withTask s (taskOfRec r img base s.cycle)) := rfl

theorem startTask_phys (htr : lrTrace r.words = false) : (s.startTask r img base).mem.phys = s.mem.phys := by
  rw [startTask_eq, foldl_view (fun s : State => s.mem.phys) _ (startCrew_phys htr img _ base), withTask_phys]

theorem mem_startTask_tasks (htr : lrTrace r.words = false) :
    taskOfRec r img base s.cycle ∈ (s.startTask r img base).sched.tasks := by
  rw [startTask_eq, foldl_view State.sched _ (startCrew_sched htr img _ base)]
  exact List.mem_append_right _ (List.mem_singleton.2 rfl)

theorem exec_placement (hp : s.boot.phase ≠ .thermal) (h : s.firstIn .loaded = some r)
    (hb : firstFit s.heldBlocks r.domain = some base) (hv : s.sched.saved.find? (·.task.id == r.id) = none)
    (hi : s.sched.images.find? (·.1 == r.id) = some (r.id, img)) :
    exec .placement s = .next ((s.startTask r img base).handOn r) := by
  change execPlacement s = _
  simp only [execPlacement, beq_eq_false_iff_ne.2 hp, Bool.false_eq_true, if_false, h, hb, hv, hi]

/-- A record that is handed on changes its port and the records alone. -/
theorem handOn_frame (s : State) (r : Rec) : (s.handOn r).mem = s.mem ∧ (∀ c, (s.handOn r).core c = s.core c) ∧
    (s.handOn r).runq = s.runq ∧ (s.handOn r).sched.tasks = s.sched.tasks := by
  unfold State.handOn State.freeSlot
  split <;> exact ⟨rfl, fun _ => rfl, rfl, rfl⟩

/-- The first loaded record takes the lowest free block, and every crew of it starts. -/
theorem placement_spec (hp : s.boot.phase ≠ .thermal) (h : s.firstIn .loaded = some r)
    (hb : firstFit s.heldBlocks r.domain = some base) (hv : s.sched.saved.find? (·.task.id == r.id) = none)
    (hi : s.sched.images.find? (·.1 == r.id) = some (r.id, img)) (htr : lrTrace r.words = false) (hg : lrGang r.words = 1) :
    ∃ t, exec .placement s = .next t ∧ t.mem.phys = s.mem.phys ∧
      (∃ q ∈ t.sched.tasks, q.id = r.id ∧ q.base = base ∧ q.crews = lrCrews r.words ∧ q.image = img) ∧
      ∀ rel, rel < lrCrews r.words →
        (t.core (base + rel)).crew = some { task := r.id, rel := rel } ∧ (base + rel, 0) ∈ t.runq ∧
        (let h := t.thread (base + rel) 0
         h.run = .running ∧ h.pc = img.entry ∧ h.s[1] = lrArgs r.words ∧ h.s[2] = BitVec.ofNat 64 rel ∧
         h.s[3] = BitVec.ofNat 64 (lrCrews r.words) ∧ h.s[30] = 0x3C000 ∧ h.s[31] = 0xFF0 ∧ h.gwidth = 1 ∧ h.estat = 0) := by
  obtain ⟨mem, cores, runq, tasks⟩ := handOn_frame (s.startTask r img base) r
  refine ⟨_, exec_placement hp h hb hv hi, (congrArg Mem.phys mem).trans (startTask_phys htr), ?_, fun rel hrel => ?_⟩
  · exact ⟨_, tasks ▸ mem_startTask_tasks htr, rfl, rfl, rfl, rfl⟩
  · obtain ⟨core, turn⟩ := startCrews_crew htr img (lrDomain r.words) base (withTask s (taskOfRec r img base s.cycle)) hrel
    have core := (cores (base + rel)).trans core
    have lead : ((s.startTask r img base).handOn r).thread (base + rel) 0 = startThread r rel 0 img.entry := by
      rw [State.thread, core]
      exact Vector.getElem_ofFn ..
    rw [core, runq, lead]
    exact ⟨rfl, turn, startThread_lead hg rel img.entry⟩

end Placement

/-! ## Edges (R58) -/

section Edges
variable (s : State) (e : Fin 4096) (v : Word)

/-- A write of an edge that is off, with a capacity that an edge may have. -/
theorem edgectlWrite_on (h : (s.edge e).enable = false) (hv : v.getLsbD 7 = true) (h0 : 0 < v.toNat % 128)
    (h64 : v.toNat % 128 ≤ 64) : exec (.edgectlWrite e v) s = .next (s.setEdge e { s.edge e with
      enable := true, capacity := v.toNat % 128, tenant := v.toNat / 2 ^ 8 % 64,
      filled := min (v.toNat / 2 ^ 32 % 128) (v.toNat % 128) }) := by
  have inRange : (v.toNat % 128 == 0 || decide (64 < v.toNat % 128)) = false := by
    rw [Bool.or_eq_false_iff, beq_eq_false_iff_ne, decide_eq_false_iff_not]
    omega
  have filled : fieldOf v.toNat 38 32 = v.toNat / 2 ^ 32 % 128 := by simp [fieldOf, Nat.shiftRight_eq_div_pow]
  have tenant : fieldOf v.toNat 13 8 = v.toNat / 2 ^ 8 % 64 := by simp [fieldOf, Nat.shiftRight_eq_div_pow]
  have capacity : fieldOf v.toNat 6 0 = v.toNat % 128 := by simp [fieldOf]
  change execEdgectlWrite e v s = _
  simp only [execEdgectlWrite, h, hv, filled, tenant, capacity, inRange, Bool.not_true, Bool.false_eq_true, if_false]

theorem edgectlWrite_kept (h : (s.edge e).enable = true) (hv : v.getLsbD 7 = true) :
    exec (.edgectlWrite e v) s = .next (s.setEdge e (s.edge e)) := by
  change execEdgectlWrite e v s = _
  simp only [execEdgectlWrite, h, hv, if_true, Bool.not_true, Bool.false_eq_true, if_false]

theorem edgectlWrite_off (hv : v.getLsbD 7 = false) :
    ∃ g : Edge, exec (.edgectlWrite e v) s = .next (s.setEdge e { g with enable := false }) := by
  change ∃ g : Edge, execEdgectlWrite e v s = _
  simp only [execEdgectlWrite, hv, Bool.not_false, if_true]
  exact ⟨_, rfl⟩

theorem edgectlWrite_spec :
    let g := s.edge e
    let n := v.toNat % 128
    (g.enable = false → v.getLsbD 7 = true → 0 < n → n ≤ 64 → ∃ t, exec (.edgectlWrite e v) s = .next t ∧
      (t.edge e).enable = true ∧ (t.edge e).capacity = n ∧ (t.edge e).tenant = v.toNat / 2 ^ 8 % 64 ∧
      (t.edge e).filled = min (v.toNat / 2 ^ 32 % 128) n ∧ (t.edge e).held = g.held) ∧
    (g.enable = true → v.getLsbD 7 = true → ∃ t, exec (.edgectlWrite e v) s = .next t ∧ t.edge e = g) ∧
    (v.getLsbD 7 = false → ∃ t, exec (.edgectlWrite e v) s = .next t ∧ (t.edge e).enable = false) := by
  refine ⟨fun h hv h0 h64 => ⟨_, edgectlWrite_on s e v h hv h0 h64, ?_⟩,
    fun h hv => ⟨_, edgectlWrite_kept s e v h hv, edge_setEdge_same ..⟩, fun hv => ?_⟩
  · rw [edge_setEdge_same]
    exact ⟨rfl, rfl, rfl, rfl, rfl⟩
  · obtain ⟨g, hg⟩ := edgectlWrite_off s e v hv
    exact ⟨_, hg, by rw [edge_setEdge_same]⟩

end Edges

/-! ## `SCHEND` (R67) -/

section EndingBySoftware
variable {s : State} {v : Word} {r : Rec}

theorem schendWrite_none (h : s.recsNamed v = []) : exec (.schendWrite v) s = .next s := by
  change execSchendWrite v s = _
  rw [execSchendWrite, h, List.foldl_nil]

/-- A record that has not started completes at once, with error bit 3 and no token. -/
theorem schendWrite_notStarted (h : s.recsNamed v = [r]) (hp : r.phase = .accepted ∨ r.phase = .waiting) :
    exec (.schendWrite v) s = .next (s.complete r [] { errors := 8 } false) := by
  change execSchendWrite v s = _
  rw [execSchendWrite, h, List.foldl_cons, List.foldl_nil]
  rcases hp with hp | hp <;> simp only [State.endRec, hp]

end EndingBySoftware

/-! ## The trace and a released thread set leave the other thread sets and memory (R230, R243) -/

/-- No memory and no thread set changes. -/
def KeepsThreads (s t : State) : Prop := t.mem = s.mem ∧ ∀ c ts, t.thread c ts = s.thread c ts

namespace KeepsThreads
variable {s t u : State}

theorem refl (s : State) : KeepsThreads s s := ⟨rfl, fun _ _ => rfl⟩

theorem trans (h : KeepsThreads s t) (k : KeepsThreads t u) : KeepsThreads s u :=
  ⟨k.1.trans h.1, fun c ts => (k.2 c ts).trans (h.2 c ts)⟩

theorem setCore (s : State) {c : Nat} {v : Core} (hv : v.thr = (s.core c).thr) : KeepsThreads s (s.setCore c v) := by
  refine ⟨rfl, fun d ts => ?_⟩
  by_cases hd : d = c
  · subst hd
    rw [Laws.State.thread_setCore, hv]
    rfl
  · exact Laws.State.thread_setCore_other _ _ _ _ _ hd

theorem enqueue (s : State) (c : Nat) (ts : Fin 4) : KeepsThreads s (s.enqueue c ts) :=
  ⟨enqueue_mem .., fun d us => by rw [State.thread, enqueue_core]; rfl⟩

theorem traceWrite (s : State) (c off : Nat) (bs : List Byte) : KeepsThreads s (s.traceWrite c off bs) := .setCore s rfl

theorem streamBytes (s : State) (c from_ : Nat) (bs : List Byte) : KeepsThreads s (s.streamBytes c from_ bs) := by
  unfold State.streamBytes
  dsimp only
  split
  · exact (KeepsThreads.traceWrite ..).trans (.traceWrite ..)
  · exact .traceWrite ..

theorem streamRecord {c : Nat} {bs : List Byte} (h : s.streamRecord c bs = some t) : KeepsThreads s t := by
  unfold State.streamRecord at h
  dsimp only at h
  obtain ⟨-, h⟩ := Option.ite_none_left_eq_some.1 h
  cases h
  exact (KeepsThreads.streamBytes ..).trans (.setCore _ rfl)

theorem traceSync (s : State) (c : Nat) : KeepsThreads s (s.traceSync c) := by
  unfold State.traceSync
  dsimp only
  split
  · exact .refl s
  · split
    · rename_i h
      exact (KeepsThreads.streamRecord h).trans (.setCore _ rfl)
    · exact .setCore s rfl

end KeepsThreads

/-! ## `DBGGO` (R245) -/

section Resuming
variable (causes : List (BitVec 8))

theorem eret_pc (t : Thread) : t.eret.pc = t.epc := by
  unfold Thread.eret
  split
  · split <;> rfl
  · rfl

theorem release_run (t : Thread) : t.release.run = .running := rfl

theorem release_pc (t : Thread) : t.release.pc = t.epc := eret_pc t

/-- A thread set that is parked with one of the causes is released; then the trace goes on. -/
theorem unpark_held {s : State} {c : Nat} {ts : Fin 4} (hr : (s.thread c ts).run = .parked)
    (hc : causes.contains (s.thread c ts).cause = true) :
    KeepsThreads (s.setThread c ts (s.thread c ts).release) (s.unpark c ts causes) := by
  unfold State.unpark
  simp only [hr, hc, beq_self_eq_true, Bool.and_self, if_true]
  exact (KeepsThreads.enqueue ..).trans (.traceSync ..)

theorem unpark_cases (s : State) (c : Nat) (ts : Fin 4) : s.unpark c ts causes = s ∨
    KeepsThreads (s.setThread c ts (s.thread c ts).release) (s.unpark c ts causes) := by
  by_cases h : (s.thread c ts).run = .parked ∧ causes.contains (s.thread c ts).cause = true
  · exact .inr (unpark_held causes h.1 h.2)
  · exact .inl (if_neg (by rwa [Bool.and_eq_true, beq_iff_eq]))

theorem unpark_mem (s : State) (c : Nat) (ts : Fin 4) : (s.unpark c ts causes).mem = s.mem := by
  rcases unpark_cases causes s c ts with h | h
  · rw [h]
  · exact h.1

theorem unpark_thread_other (s : State) {c d : Nat} {ts us : Fin 4} (h : d ≠ c ∨ us ≠ ts) :
    (s.unpark c ts causes).thread d us = s.thread d us := by
  rcases unpark_cases causes s c ts with hk | hk
  · rw [hk]
  · rw [hk.2, Laws.State.thread_setThread_other _ _ _ _ _ _ h]

theorem unpark_thread_same {s : State} {c : Nat} {ts : Fin 4} (hr : (s.thread c ts).run = .parked)
    (hc : causes.contains (s.thread c ts).cause = true) : (s.unpark c ts causes).thread c ts = (s.thread c ts).release := by
  rw [(unpark_held causes hr hc).2, Laws.State.thread_setThread]

theorem unparkAll_mem (s : State) (c : Nat) : (s.unparkAll c causes).mem = s.mem :=
  foldl_view State.mem _ (fun s ts => unpark_mem causes s c ts) _ s

theorem unparkAll_thread_other (s : State) {c d : Nat} (h : d ≠ c) (us : Fin 4) :
    (s.unparkAll c causes).thread d us = s.thread d us :=
  foldl_view (fun s : State => s.thread d us) _ (fun s _ => unpark_thread_other causes s (.inl h)) _ s

theorem unparkAll_thread {s : State} {c : Nat} {ts : Fin 4} (hr : (s.thread c ts).run = .parked)
    (hc : causes.contains (s.thread c ts).cause = true) : (s.unparkAll c causes).thread c ts = (s.thread c ts).release := by
  obtain ⟨u, hu, he⟩ := foldl_at (fun (s : State) ts => s.thread c ts) (f := fun s ts => s.unpark c ts causes)
    (fun s a b hb => unpark_thread_other causes s (.inr hb)) (List.nodup_finRange 4) (List.mem_finRange ts) s
  rw [← hu] at hr hc ⊢
  exact he.trans (unpark_thread_same causes hr hc)

end Resuming

section DebugGo
variable {s : State} {v : Word} {r : Rec} {q : Machine.Task}

theorem dbggoWrite_none (h : s.recsNamed v = []) : exec (.dbggoWrite v) s = .next s := by
  change execDbggoWrite v s = _
  rw [execDbggoWrite, h, List.foldl_nil]

/-- The cores of a task's crews. -/
def crewCores (q : Machine.Task) : List Nat := (List.range q.crews).map q.coreAt

theorem nodup_crewCores (q : Machine.Task) : (crewCores q).Nodup :=
  List.nodup_range.map fun _ _ h => Nat.add_left_cancel h

/-- Every thread set of a task's crews that a debug or replay stop holds is released. -/
def resumed (s : State) (q : Machine.Task) : State := (crewCores q).foldl (fun s c => s.unparkAll c [0xA3, 0xA5]) s

theorem resumed_mem (s : State) (q : Machine.Task) : (resumed s q).mem = s.mem :=
  foldl_view State.mem _ (fun s c => unparkAll_mem _ s c) _ s

theorem resumed_thread {rel : Nat} {ts : Fin 4} (hrel : rel < q.crews) (hr : (s.thread (q.coreAt rel) ts).run = .parked)
    (hc : (s.thread (q.coreAt rel) ts).cause = 0xA3) :
    (resumed s q).thread (q.coreAt rel) ts = (s.thread (q.coreAt rel) ts).release := by
  obtain ⟨u, hu, he⟩ := foldl_at (fun (s : State) c => s.thread c ts) (f := fun s c => s.unparkAll c [0xA3, 0xA5])
    (fun s a b hb => unparkAll_thread_other _ s hb ts) (nodup_crewCores q)
    (List.mem_map.2 ⟨rel, List.mem_range.2 hrel, rfl⟩) s
  rw [← hu] at hr hc ⊢
  exact he.trans (unparkAll_thread _ hr (by rw [hc]; decide))

/-- The threads of a stopped task return, and after a replay stop its enforcement is over. -/
theorem exec_dbggoWrite (h : s.recsNamed v = [r]) (hq : s.sched.tasks.find? (·.id == r.id) = some q)
    (hs : q.stoppedAt s = true) : ∃ t, exec (.dbggoWrite v) s = .next t ∧ t.mem = (resumed s q).mem ∧
      t.cores = (resumed s q).cores := by
  change ∃ t, execDbggoWrite v s = _ ∧ _
  rw [execDbggoWrite, h, List.foldl_cons, List.foldl_nil]
  simp only [hq, hs, Bool.not_true, Bool.false_eq_true, if_false]
  refine ⟨_, rfl, ?_⟩
  split <;> exact ⟨rfl, rfl⟩

theorem dbggoWrite_stopped (h : s.recsNamed v = [r]) (hq : s.sched.tasks.find? (·.id == r.id) = some q)
    (hs : q.stoppedAt s = true) : ∃ t, exec (.dbggoWrite v) s = .next t ∧ t.mem = s.mem ∧
      ∀ rel ts, rel < q.crews → (s.thread (q.coreAt rel) ts).run = .parked →
        (s.thread (q.coreAt rel) ts).cause = 0xA3 → (t.thread (q.coreAt rel) ts).run = .running ∧
        (t.thread (q.coreAt rel) ts).pc = (s.thread (q.coreAt rel) ts).epc := by
  obtain ⟨t, hx, hmem, hcores⟩ := exec_dbggoWrite h hq hs
  refine ⟨t, hx, hmem.trans (resumed_mem s q), fun rel ts hrel hr hc => ?_⟩
  have released : t.thread (q.coreAt rel) ts = (s.thread (q.coreAt rel) ts).release := by
    rw [← resumed_thread hrel hr hc, State.thread, State.core, hcores]
    rfl
  rw [released]
  exact ⟨release_run _, release_pc _⟩

end DebugGo

/-- Settles O54: intake, start, copy, load, placement, edges, `SCHEND` and `DBGGO`, each by the lemma that says what it does. -/
theorem schedulerEvents : Obligations.SchedulerEvents := fun s =>
  ⟨fun _ h => ⟨fun hb => ⟨_, schedulerIntake_taken h hb, mem_setPhase (List.mem_of_find?_eq_some h) _, rfl⟩,
      fun _ hb => ⟨_, schedulerIntake_failed h hb, complete_forgets⟩⟩,
    schedulerStart_none,
    fun _ _ => schedulerStart_spec,
    fun _ _ _ _ _ h hr hc => ⟨_, systemCopyComplete_ends h hr hc, complete_forgets, rfl⟩,
    fun _ h => ⟨fun _ _ hl => ⟨_, imageLoadComplete_refused h hl, complete_forgets⟩,
      fun _ _ hl => ⟨_, imageLoadComplete_loaded h hl, find?_tblSet .., rfl, setPhase_phase⟩⟩,
    fun _ _ _ => placement_spec,
    edgectlWrite_spec s,
    fun _ => ⟨fun h => ⟨schendWrite_none h, dbggoWrite_none h⟩,
      fun _ h => ⟨fun hp => ⟨_, schendWrite_notStarted h hp, fun _ => mem_complete_recs .., complete_cores ..⟩,
        fun _ => dbggoWrite_stopped h⟩⟩⟩

end Sys2Proof.Proofs

/-!
Proofs: what the traces of cores change, the reports of the truss and the end of a task (R61, R65 to R67, R240 to R243).
-/
namespace Sys2Proof.Proofs
open Sys2Proof Sys2Proof.Machine

/-! ## What the traces of cores change (R240 to R243) -/

/-- A core but for the counts and the staging buffer of its trace. -/
def untraced (c : Core) : Core := { c with trBytes := 0, trLost := 0, trGap := 0, trSince := 0, trTime := 0, trStaged := [] }

/-- The scheduler, the budgets and every core but for its trace stand as they were. -/
def OnlyTraces (s t : State) : Prop := t.sched = s.sched ∧ t.bud = s.bud ∧ ∀ c, untraced (t.core c) = untraced (s.core c)

namespace OnlyTraces
variable {s t u : State}

theorem refl (s : State) : OnlyTraces s s := ⟨rfl, rfl, fun _ => rfl⟩

theorem trans (h : OnlyTraces s t) (k : OnlyTraces t u) : OnlyTraces s u :=
  ⟨k.1.trans h.1, k.2.1.trans h.2.1, fun c => (k.2.2 c).trans (h.2.2 c)⟩

theorem foldl {α : Type} {f : State → α → State} (h : ∀ s a, OnlyTraces s (f s a)) (l : List α) (s : State) :
    OnlyTraces s (l.foldl f s) := by
  induction l generalizing s with
  | nil => exact .refl s
  | cons a l ih => exact (h s a).trans (ih _)

theorem setCore (s : State) {c : Nat} {v : Core} (hv : untraced v = untraced (s.core c)) : OnlyTraces s (s.setCore c v) := by
  refine ⟨rfl, rfl, fun d => ?_⟩
  by_cases hd : d = c
  · rw [hd, Laws.State.core_setCore, hv]
  · rw [Laws.State.core_setCore_other _ _ _ _ hd]

theorem ofGlobal (h : OnlyGlobal s t) : OnlyTraces s t := by
  obtain ⟨_, _, rfl⟩ := h
  exact ⟨rfl, rfl, fun _ => rfl⟩

theorem enqueue (s : State) (c : Nat) (ts : Fin 4) : OnlyTraces s (s.enqueue c ts) := by
  obtain ⟨_, h, -⟩ := enqueue_eq s c ts
  rw [h]
  exact ⟨rfl, rfl, fun _ => rfl⟩

theorem traceDrain (s : State) (c : Nat) : OnlyTraces s (s.traceDrain c) := by
  unfold State.traceDrain
  dsimp only
  split
  · exact .refl s
  · rename_i r _
    have taken : OnlyTraces s (s.setCore c { s.core c with trStaged := r }) := .setCore s rfl
    split
    · rename_i h
      exact taken.trans (.ofGlobal (globalWrite_ok_onlyGlobal h))
    · rename_i h
      exact taken.trans (.ofGlobal (globalWrite_error_onlyGlobal h))

theorem traceFlush (s : State) (c : Nat) : OnlyTraces s (s.traceFlush c) := .foldl (fun s _ => .traceDrain s c) _ s

theorem traceWrite (s : State) (c off : Nat) (bs : List Byte) : OnlyTraces s (s.traceWrite c off bs) := .setCore s rfl

theorem streamBytes (s : State) (c from_ : Nat) (bs : List Byte) : OnlyTraces s (s.streamBytes c from_ bs) := by
  unfold State.streamBytes
  dsimp only
  split
  · exact (OnlyTraces.traceWrite ..).trans (.traceWrite ..)
  · exact .traceWrite ..

theorem streamRecord {c : Nat} {bs : List Byte} (h : s.streamRecord c bs = some t) : OnlyTraces s t := by
  unfold State.streamRecord at h
  dsimp only at h
  obtain ⟨-, h⟩ := Option.ite_none_left_eq_some.1 h
  cases h
  exact (OnlyTraces.streamBytes ..).trans (.setCore _ rfl)

theorem traceSync (s : State) (c : Nat) : OnlyTraces s (s.traceSync c) := by
  unfold State.traceSync
  dsimp only
  split
  · exact .refl s
  · split
    · rename_i h
      exact (OnlyTraces.streamRecord h).trans (.setCore _ rfl)
    · exact .setCore s rfl

end OnlyTraces

/-! ## Reports of crews (R65 to R67) -/

/-- The task with a report made at a level. -/
def withReport (q : Machine.Task) (l rel : Nat) (r : Report) : Machine.Task :=
  { q with reports := tblSet q.reports (reportKey l rel) r }

section Reports
variable {s : State} {core : Fin 4096} {w : Crew}

theorem withReport_report (q : Machine.Task) (l rel : Nat) (r : Report) : (withReport q l rel r).report l rel = some r := by
  rw [Task.report, withReport, find?_tblSet, Option.map_some]

/-- A report made at a task stands at every task of its number. -/
theorem modTask_report (s : State) (id l rel : Nat) (r : Report) :
    ∀ q ∈ (s.modTask id (withReport · l rel r)).sched.tasks, q.id = id → q.report l rel = some r := by
  intro q hq hid
  obtain ⟨z, -, rfl⟩ := List.mem_map.1 hq
  by_cases hz : z.id = id
  · rw [if_pos (beq_iff_eq.2 hz)]
    exact withReport_report z l rel r
  · rw [if_neg (by rwa [beq_iff_eq])] at hid
    exact absurd hid hz

theorem reporting_ended (c : Core) (h : w.errors.getLsbD 3 = true) : c.reporting w = w := if_pos h

theorem reporting_own (c : Core) (h : w.errors.getLsbD 3 = false) :
    c.reporting w = { w with errors := w.errors ||| c.accOverflow } := if_neg (by rw [h]; exact Bool.false_ne_true)

theorem reporting_eq (c : Core) (w : Crew) : c.reporting w = { w with errors := (c.reporting w).errors } := by
  unfold Core.reporting
  split <;> rfl

/-- The crew of a core once it has reported. -/
def reported (c : Core) (w : Crew) : Crew := { w with errors := (c.reporting w).errors, finished := true }

theorem crewFinish_waits (h : (s.core core).crew = some w)
    (hw : w.finished = true ∨ s.crewStopped core = false ∨ s.gangsStopped core = false) :
    exec (.crewFinish core) s = .next s := by
  change execCrewFinish core s = _
  simp only [execCrewFinish, h]
  rcases hw with hw | hw | hw <;> simp [hw]

theorem crewFinish_reports (h : (s.core core).crew = some w) (hf : w.finished = false) (hc : s.crewStopped core = true)
    (hg : s.gangsStopped core = true) : exec (.crewFinish core) s =
      .next ((s.setCore core { s.core core with crew := some (reported (s.core core) w) }).modTask w.task
        (withReport · 0 w.rel (crewReport (reported (s.core core) w)))) := by
  change execCrewFinish core s = _
  simp only [execCrewFinish, h, hf, hc, hg, Bool.not_true, Bool.or_self, Bool.false_eq_true, if_false]
  rw [reporting_eq]
  rfl

theorem crewFinish_spec (h : (s.core core).crew = some w) (hf : w.finished = false) (hc : s.crewStopped core = true)
    (hg : s.gangsStopped core = true) : ∃ t z, exec (.crewFinish core) s = .next t ∧ (t.core core).crew = some z ∧
      z.finished = true ∧ z.clean = w.clean ∧ (w.errors.getLsbD 3 = true → z.errors = w.errors) ∧
      (w.errors.getLsbD 3 = false → z.errors = w.errors ||| (s.core core).accOverflow) ∧ t.mem = s.mem ∧
      ∀ q ∈ t.sched.tasks, q.id = w.task → q.report 0 w.rel = some (crewReport z) := by
  refine ⟨_, _, crewFinish_reports h hf hc hg, congrArg Core.crew (Laws.State.core_setCore ..), rfl, rfl, fun he => ?_,
    fun he => ?_, rfl, modTask_report _ _ _ _ _⟩
  · rw [reported, reporting_ended _ he]
  · rw [reported, reporting_own _ he]

end Reports

/-! ## The end of a task (R45, R61, R404) -/

section EndOfTask
variable {s : State} {q : Machine.Task} {r : Report}

theorem revoke_sched (s : State) (i : Nat) : (s.revoke i).sched = s.sched := rfl

theorem revokeAll_sched (s : State) (id : Nat) : (s.revokeAll id).sched = s.sched := by
  unfold State.revokeAll
  exact foldl_view State.sched _ revoke_sched _ s

/-- The state with what a task's trace buffers stage written. -/
def flushed (s : State) (q : Machine.Task) : State := (crewCores q).foldl State.traceFlush s

theorem flushed_onlyTraces (s : State) (q : Machine.Task) : OnlyTraces s (flushed s q) := .foldl .traceFlush _ s

theorem freeDomain_tasks (s : State) (q : Machine.Task) :
    (s.freeDomain q).sched.tasks = ((flushed s q).revokeAll q.id).sched.tasks.filter (·.id != q.id) := by
  unfold State.freeDomain State.pruneKept
  rw [flushed, crewCores]

theorem freeDomain_slices (s : State) (q : Machine.Task) :
    (s.freeDomain q).fab.slices = ((flushed s q).revokeAll q.id).fab.slices.filter (·.task != q.id) := by
  unfold State.freeDomain State.pruneKept
  rw [flushed, crewCores]

theorem freeDomain_recs (s : State) (q : Machine.Task) : (s.freeDomain q).sched.recs = s.sched.recs := by
  rw [← (flushed_onlyTraces s q).1, ← revokeAll_sched (flushed s q) q.id]
  unfold State.freeDomain State.pruneKept
  rw [flushed, crewCores]

/-- A domain that is freed takes away its task and the task's slice regions. -/
theorem freeDomain_forgets (s : State) (q : Machine.Task) :
    (∀ z ∈ (s.freeDomain q).sched.tasks, z.id ≠ q.id) ∧ ∀ z ∈ (s.freeDomain q).fab.slices, z.task ≠ q.id := by
  rw [freeDomain_tasks, freeDomain_slices]
  exact ⟨fun z hz => bne_iff_ne.1 (List.mem_filter.1 hz).2, fun z hz => bne_iff_ne.1 (List.mem_filter.1 hz).2⟩

/-- A task that ends is forgotten, with its record and its slice regions. -/
theorem endTask_forgets : (∀ z ∈ (s.endTask q r).sched.tasks, z.id ≠ q.id) ∧
    (∀ z ∈ (s.endTask q r).sched.recs, z.id ≠ q.id) ∧ ∀ z ∈ (s.endTask q r).fab.slices, z.task ≠ q.id := by
  unfold State.endTask
  dsimp only
  split
  · rename_i p hp
    obtain ⟨tasks, slices⟩ := freeDomain_forgets (s.complete p [] ⟨r.1, r.2.2.1, r.2.2.2, r.2.1,
      (s.core q.base).course.toList.getD q.level 0⟩ true) q
    have hid : p.id = q.id := by simpa using List.find?_some hp
    refine ⟨tasks, ?_, slices⟩
    rw [freeDomain_recs, ← hid]
    exact complete_forgets
  · rename_i hn
    obtain ⟨tasks, slices⟩ := freeDomain_forgets s q
    refine ⟨tasks, ?_, slices⟩
    rw [freeDomain_recs]
    exact fun z hz => beq_iff_eq.not.1 (List.find?_eq_none.1 hn z hz)

end EndOfTask

/-! ## Reports of leaders (R65, R66) -/

section Leaders
variable {s : State} {core : Fin 4096} {q : Machine.Task} {l : Nat} {kids : List Report}

theorem trussReport_none (h : s.taskOf core = some q) (hl : q.dueLevel (s.relOf core) = none) :
    exec (.trussReport core) s = .next s := by
  change execTrussReport core s = _
  simp only [execTrussReport, h, hl]

/-- A leader's report: the root's ends the task, another stands at its level. -/
theorem trussReport_due (h : s.taskOf core = some q) (hl : q.dueLevel (s.relOf core) = some l)
    (hk : allSome ((q.children l (s.relOf core)).map (q.report (l - 1))) = some kids) :
    exec (.trussReport core) s = .next (if l = q.level ∧ s.relOf core = 0 then s.endTask q (combineReports kids)
      else s.modTask q.id (withReport · l (s.relOf core) (combineReports kids))) := by
  change execTrussReport core s = _
  simp only [execTrussReport, h, hl, hk, Bool.and_eq_true, beq_iff_eq]
  split <;> rfl

theorem trussReport_inner (h : s.taskOf core = some q) (hl : q.dueLevel (s.relOf core) = some l)
    (hk : allSome ((q.children l (s.relOf core)).map (q.report (l - 1))) = some kids)
    (hr : ¬(l = q.level ∧ s.relOf core = 0)) : ∃ t, exec (.trussReport core) s = .next t ∧ t.mem = s.mem ∧
      t.cores = s.cores ∧ ∀ z ∈ t.sched.tasks, z.id = q.id → z.report l (s.relOf core) = some (combineReports kids) := by
  rw [trussReport_due h hl hk, if_neg hr]
  exact ⟨_, rfl, rfl, rfl, modTask_report _ _ _ _ _⟩

theorem trussReport_root (h : s.taskOf core = some q) (hl : q.dueLevel (s.relOf core) = some l)
    (hk : allSome ((q.children l (s.relOf core)).map (q.report (l - 1))) = some kids)
    (hr : l = q.level ∧ s.relOf core = 0) : ∃ t, exec (.trussReport core) s = .next t ∧ (∀ z ∈ t.sched.tasks, z.id ≠ q.id) ∧
      (∀ z ∈ t.sched.recs, z.id ≠ q.id) ∧ ∀ z ∈ t.fab.slices, z.task ≠ q.id := by
  rw [trussReport_due h hl hk, if_pos hr]
  exact ⟨_, rfl, endTask_forgets⟩

end Leaders

/-- Settles O55: a crew's report waits or is made, and a leader's report waits, is combined or ends the task. -/
theorem trussEvents : Obligations.TrussEvents := fun _ _ =>
  ⟨fun _ h => ⟨crewFinish_waits h, crewFinish_spec h⟩,
    fun _ h => ⟨trussReport_none h, fun _ _ hl hk => ⟨trussReport_inner h hl hk,
      fun hlevel hrel => trussReport_root h hl hk ⟨hlevel, hrel⟩⟩⟩⟩

end Sys2Proof.Proofs

/-!
Proofs: switching out and per-core pre-emption (R56, R78, R230, R232, R236).
-/
namespace Sys2Proof.Proofs
open Sys2Proof Sys2Proof.Machine

/-! ## Thread sets asked to stop (R78, R232) -/

section Asking
variable (f : Due → Due)

/-- Every thread set of a core asked to stop at its next boundary. -/
def askCore (s : State) (c : Nat) : State := s.setCore c { s.core c with thr := (s.core c).thr.map (Thread.asks f) }

theorem asks_live {t : Thread} (h : t.halted = false) : t.asks f = { t with due := f t.due } :=
  if_neg (by rw [h]; exact Bool.false_ne_true)

theorem map_asks_live {l : Vector Thread 4} {ts : Fin 4} (h : l[ts].halted = false) :
    (l.map (Thread.asks f))[ts] = { l[ts] with due := f l[ts].due } := by
  rw [Fin.getElem_fin, Vector.getElem_map]
  exact asks_live f h

theorem askCores_sched (l : List Nat) (s : State) : (l.foldl (askCore f) s).sched = s.sched :=
  foldl_view State.sched (askCore f) (fun _ _ => rfl) l s

theorem askCores_mem (l : List Nat) (s : State) : (l.foldl (askCore f) s).mem = s.mem :=
  foldl_view State.mem (askCore f) (fun _ _ => rfl) l s

theorem askCores_thread {l : List Nat} (hl : l.Nodup) {c : Nat} (hc : c ∈ l) {s : State} {ts : Fin 4}
    (h : (s.thread c ts).halted = false) :
    (l.foldl (askCore f) s).thread c ts = { s.thread c ts with due := f (s.thread c ts).due } := by
  obtain ⟨u, hu, he⟩ := foldl_at (fun (s : State) c => s.thread c ts) (f := askCore f)
    (fun _ _ _ hb => Laws.State.thread_setCore_other _ _ _ _ _ hb) hl hc s
  rw [← hu] at h ⊢
  rw [he, askCore, Laws.State.thread_setCore]
  exact map_asks_live f h

end Asking

theorem coreAt_mem_crewCores {q : Machine.Task} {rel : Nat} (h : rel < q.crews) : q.coreAt rel ∈ crewCores q :=
  List.mem_map.2 ⟨rel, List.mem_range.2 h, rfl⟩

/-! ## A switch-out is asked for (R56, R78) -/

section Trigger
variable {s : State} {i c off : Nat} {r : Rec} {t : Machine.Task}

/-- The state once a task's context space is taken, before its cores are asked to stop. -/
def switchAsked (s : State) (t : Machine.Task) (off : Nat) : State :=
  let s := s.setPhase t.id .switchedOut
  { s with
    sched := { s.sched with switch := some { task := t.id, ctxOff := off }, pressure := none }
    bud := { s.bud with ctxUsed := s.bud.ctxUsed ++ [(t.tenant, off, levelCores t.level)] } }

theorem switchOutTrigger_early (hs : s.sched.switch = none) (hp : s.sched.pressure = some (i, c)) (hv : s.victim = some r)
    (hc : s.cycle < c + 8192) : exec .switchOutTrigger s = .next s := by
  change execSwitchOutTrigger s = _
  simp only [execSwitchOutTrigger, hs, hp, hv, hc, if_true]

theorem switchOutTrigger_due (hs : s.sched.switch = none) (hp : s.sched.pressure = some (i, c)) (hv : s.victim = some r)
    (hc : c + 8192 ≤ s.cycle) (ht : s.sched.tasks.find? (·.id == r.id) = some t)
    (ho : s.bud.context t.tenant (levelCores t.level) = some off) : exec .switchOutTrigger s =
      .next ((crewCores t).foldl (askCore fun d => { d with switchOut := true }) (switchAsked s t off)) := by
  change execSwitchOutTrigger s = _
  simp only [execSwitchOutTrigger, hs, hp, hv, Nat.not_lt.2 hc, if_false, ht, ho]
  rfl

theorem switchOutTrigger_spec (hs : s.sched.switch = none) (hp : s.sched.pressure = some (i, c)) (hv : s.victim = some r)
    (hc : c + 8192 ≤ s.cycle) (ht : s.sched.tasks.find? (·.id == r.id) = some t)
    (ho : s.bud.context t.tenant (levelCores t.level) = some off) : ∃ z, exec .switchOutTrigger s = .next z ∧
      z.sched.switch = some { task := t.id, ctxOff := off } ∧ z.mem = s.mem ∧
      ∀ rel ts, rel < t.crews → (s.thread (t.coreAt rel) ts).halted = false →
        (z.thread (t.coreAt rel) ts).due.switchOut = true ∧
        (z.thread (t.coreAt rel) ts).s = (s.thread (t.coreAt rel) ts).s ∧
        (z.thread (t.coreAt rel) ts).pc = (s.thread (t.coreAt rel) ts).pc := by
  refine ⟨_, switchOutTrigger_due hs hp hv hc ht ho, ?_, ?_, fun rel ts hrel h => ?_⟩
  · rw [askCores_sched]
    rfl
  · rw [askCores_mem]
    rfl
  · rw [askCores_thread (s := switchAsked s t off) _ (nodup_crewCores t) (coreAt_mem_crewCores hrel) h]
    exact ⟨rfl, rfl, rfl⟩

end Trigger

/-! ## Stop, drain and save (R78, R235, R236) -/

section SwitchingOut
variable {s u : State} {w : SwitchOut} {t : Machine.Task}

theorem switching_eq (h : s.switching = some (w, t)) : s.sched.switch = some w ∧ w.task = t.id := by
  unfold State.switching at h
  split at h
  · cases h
  · rename_i hw
    obtain ⟨q, hq, he⟩ := Option.map_eq_some_iff.1 h
    cases he
    have hid : t.id = w.task := by simpa using List.find?_some hq
    exact ⟨hw, hid.symm⟩

theorem switchOutDrainPass_stops (h : s.switching = some (w, t)) (hw : w.stopped = false) :
    exec .switchOutDrainPass s = .next { s with sched := { s.sched with
      switch := some { w with stopped := ((List.range t.crews).map t.coreAt).all s.coreQuiet } } } := by
  change execSwitchOutDrainPass s = _
  simp only [execSwitchOutDrainPass, h, hw, Bool.not_false, if_true]

theorem switchOutDrainPass_counts (h : s.switching = some (w, t)) (hw : w.stopped = true) :
    exec .switchOutDrainPass s = .next { s with sched := { s.sched with
      switch := some { w with passes := if s.underWay t = 0 then w.passes + 1 else 0 } } } := by
  change execSwitchOutDrainPass s = _
  simp only [execSwitchOutDrainPass, h, hw, Bool.not_true, Bool.false_eq_true, if_false, beq_iff_eq]

theorem switchOutComplete_waits (h : s.switching = some (w, t)) (hw : w.passes < 2 ∨ w.faulted ≠ none) :
    exec .switchOutComplete s = .next s := by
  have waits : (decide (w.passes < 2) || w.faulted.isSome) = true := by
    rwa [Bool.or_eq_true, decide_eq_true_eq, Option.isSome_iff_ne_none]
  change execSwitchOutComplete s = _
  simp only [execSwitchOutComplete, h, waits, if_true]

theorem switchOutComplete_faults (h : s.switching = some (w, t)) (hp : 2 ≤ w.passes) (hf : w.faulted = none) {c : Nat}
    (hs : s.saveContext w t = (u, some c)) : exec .switchOutComplete s =
      .next { u with sched := { u.sched with switch := some { w with faulted := some c } } } := by
  change execSwitchOutComplete s = _
  simp only [execSwitchOutComplete, h, hf, Nat.not_lt.2 hp, decide_false, Option.isSome_none, Bool.or_self,
    Bool.false_eq_true, if_false, hs]

theorem switchOutComplete_saves (h : s.switching = some (w, t)) (hp : 2 ≤ w.passes) (hf : w.faulted = none)
    (hs : s.saveContext w t = (u, none)) (he : t.ended = false) :
    exec .switchOutComplete s = .next (u.switchedOut w t) := by
  change execSwitchOutComplete s = _
  simp only [execSwitchOutComplete, h, hf, Nat.not_lt.2 hp, decide_false, Option.isSome_none, Bool.or_self,
    Bool.false_eq_true, if_false, hs, he]

theorem flushed_unstaged (h : ∀ rel, rel < t.crews → (u.core (t.coreAt rel)).trStaged = []) : flushed u t = u := by
  refine List.foldlRecOn (motive := (· = u)) (crewCores t) _ rfl fun b hb c hc => ?_
  obtain ⟨rel, hrel, rfl⟩ := List.mem_map.1 hc
  rw [hb, State.traceFlush, h rel (List.mem_range.1 hrel), List.foldl_nil]

/-- A task that has been saved is known as saved, and no longer as one that runs. -/
theorem switchedOut_sched (u : State) (w : SwitchOut) (t : Machine.Task) : (u.switchedOut w t).sched.switch = none ∧
    (∀ q ∈ (u.switchedOut w t).sched.tasks, q.id ≠ t.id) ∧
    (u.switchedOut w t).sched.saved = u.sched.saved ++ [(flushed u t).savedOf w t] := by
  refine ⟨rfl, fun q hq => bne_iff_ne.1 (List.mem_filter.1 hq).2, ?_⟩
  rw [← (flushed_onlyTraces u t).1]
  rfl

theorem switchedOut_mem (h : ∀ rel, rel < t.crews → (u.core (t.coreAt rel)).trStaged = []) :
    (u.switchedOut w t).mem = u.mem := by
  have kept : (u.switchedOut w t).mem = (flushed u t).mem := rfl
  rw [kept, flushed_unstaged h]

/-- Every crew's core is saved as it was. -/
theorem saveCore_mem_savedOf {rel : Nat} (hrel : rel < t.crews) : (flushed u t).saveCore t rel ∈ ((flushed u t).savedOf w t).cores :=
  List.mem_map.2 ⟨rel, List.mem_range.2 hrel, rfl⟩

theorem saveCore_keeps (u : State) (t : Machine.Task) (rel : Nat) :
    ((flushed u t).saveCore t rel).core.mailbox = (u.core (t.coreAt rel)).mailbox ∧
    ((flushed u t).saveCore t rel).core.thr = (u.core (t.coreAt rel)).thr := by
  have same := (flushed_onlyTraces u t).2.2 (t.coreAt rel)
  exact ⟨(congrArg Core.mailbox same :), (congrArg Core.thr same :)⟩

theorem switchOutComplete_spec (h : s.switching = some (w, t)) (hp : 2 ≤ w.passes) (hf : w.faulted = none)
    (hs : s.saveContext w t = (u, none)) (he : t.ended = false) : ∃ z v, exec .switchOutComplete s = .next z ∧
      z.sched.switch = none ∧ (∀ q ∈ z.sched.tasks, q.id ≠ t.id) ∧ z.sched.saved = u.sched.saved ++ [v] ∧ v.task = t ∧
      v.cores.length = t.crews ∧ ((∀ rel, rel < t.crews → (u.core (t.coreAt rel)).trStaged = []) → z.mem = u.mem) ∧
      ∀ rel, rel < t.crews → ∃ k ∈ v.cores, k.rel = rel ∧ k.core.mailbox = (u.core (t.coreAt rel)).mailbox ∧
        ∀ ts : Fin 4, (k.core.thr[ts]).s = (u.thread (t.coreAt rel) ts).s ∧
          (k.core.thr[ts]).v = (u.thread (t.coreAt rel) ts).v ∧ (k.core.thr[ts]).epc = (u.thread (t.coreAt rel) ts).epc := by
  obtain ⟨switch, tasks, saved⟩ := switchedOut_sched u w t
  refine ⟨_, _, switchOutComplete_saves h hp hf hs he, switch, tasks, saved, rfl, ?_, switchedOut_mem, fun rel hrel => ?_⟩
  · exact (List.length_map ..).trans List.length_range
  · obtain ⟨mailbox, thr⟩ := saveCore_keeps u t rel
    refine ⟨_, saveCore_mem_savedOf hrel, rfl, mailbox, fun ts => ?_⟩
    rw [thr]
    exact ⟨rfl, rfl, rfl⟩

end SwitchingOut

/-! ## The end of crews in a switch-out (R225, R236) -/

section EndingCrews
variable {s : State} {c d : Nat} {ts : Fin 4} (bits : BitVec 16) (cause : BitVec 8)

theorem stop_live (t : Thread) : t.stop.live = false := by
  unfold Thread.stop Thread.live
  dsimp only
  split <;> rfl

theorem live_of_halted {t : Thread} (h : t.halted = true) : t.live = false := by
  unfold Thread.halted at h
  unfold Thread.live
  rcases (Bool.or_eq_true ..).mp h with h | h <;> rw [beq_iff_eq.1 h] <;> rfl

theorem crewStopped_live (h : s.crewStopped c = true) : (s.thread c ts).live = false := by
  simp only [State.crewStopped, Bool.and_eq_true, List.all_eq_true] at h
  obtain ⟨⟨⟨⟨halted, -⟩, -⟩, -⟩, -⟩ := h
  exact live_of_halted (halted _ (Vector.mem_toList_iff.2 (Vector.getElem_mem ts.isLt)))

theorem withdrawAll_core (s : State) (c d : Nat) : (s.withdrawAll c).core d = s.core d := by
  rw [State.core, Laws.State.withdrawAll_cores]
  rfl

theorem endCrew_core_other (h : d ≠ c) : (s.endCrew c bits cause).core d = s.core d := by
  unfold State.endCrew State.raise
  rw [Laws.State.core_setCore_other _ _ _ _ h, withdrawAll_core, Laws.State.core_setCore_other _ _ _ _ h]

theorem endCrew_thread : (s.endCrew c bits cause).thread c ts = (s.thread c ts).stop := by
  unfold State.endCrew State.raise
  rw [Laws.State.thread_setCore, withdrawAll_core, Laws.State.core_setCore, Fin.getElem_fin, Vector.getElem_map]
  rfl

theorem withdraw_switch (s : State) (c : Nat) (ts : Fin 4) : (s.withdraw c ts).sched.switch = s.sched.switch := by
  unfold State.withdraw
  dsimp only
  split <;> rfl

theorem endCrew_switch : (s.endCrew c bits cause).sched.switch = s.sched.switch :=
  foldl_view (fun s : State => s.sched.switch) _ (fun s ts => withdraw_switch s c ts) _ (s.raise c bits cause)

/-- A crew of a task that is lost: one that has not stopped ends by a machine check with its core's code. -/
def loseCrew (code : Nat → BitVec 8) (s : State) (c : Nat) : State :=
  match (s.core c).crew with
  | some w => if w.finished || s.crewStopped c then s else s.endCrew c 2 (code c)
  | none => s

variable {code : Nat → BitVec 8}

theorem loseCrew_cases (code : Nat → BitVec 8) (s : State) (c : Nat) :
    loseCrew code s c = s ∨ loseCrew code s c = s.endCrew c 2 (code c) := by
  unfold loseCrew
  split
  · split
    · exact .inl rfl
    · exact .inr rfl
  · exact .inl rfl

theorem loseCrew_core_other (h : d ≠ c) : (loseCrew code s c).core d = s.core d := by
  rcases loseCrew_cases code s c with he | he <;> rw [he]
  exact endCrew_core_other _ _ h

theorem loseCrew_switch : (loseCrew code s c).sched.switch = s.sched.switch := by
  rcases loseCrew_cases code s c with he | he <;> rw [he]
  exact endCrew_switch _ _

theorem loseCrew_live {w : Crew} (h : (s.core c).crew = some w) (hf : w.finished = false) :
    ((loseCrew code s c).thread c ts).live = false := by
  simp only [loseCrew, h, hf, Bool.false_or]
  split
  case isTrue stopped => exact crewStopped_live stopped
  case isFalse => rw [endCrew_thread]; exact stop_live _

variable {w : SwitchOut} {t : Machine.Task}

/-- The task that is being switched out is lost: the switch-out is over, and each of its crews ends. -/
theorem loseTask_eq (code : Nat → BitVec 8) (h : s.switching = some (w, t)) : ∃ u : State, u.cores = s.cores ∧
    u.sched.switch = none ∧ s.loseTask t code = (crewCores t).foldl (loseCrew code) u := by
  obtain ⟨hs, hid⟩ := switching_eq h
  unfold State.loseTask
  simp only [hs, hid, beq_self_eq_true, if_true]
  refine ⟨_, ?_, ?_, rfl⟩
  · rfl
  · rfl

theorem loseTask_switch (h : s.switching = some (w, t)) : (s.loseTask t code).sched.switch = none := by
  obtain ⟨u, -, switch, he⟩ := loseTask_eq code h
  rw [he, foldl_view (fun s : State => s.sched.switch) _ (fun _ _ => loseCrew_switch), switch]

theorem loseTask_live (h : s.switching = some (w, t)) {rel : Nat} (hrel : rel < t.crews) {c : Crew}
    (hc : (s.core (t.coreAt rel)).crew = some c) (hf : c.finished = false) :
    ((s.loseTask t code).thread (t.coreAt rel) ts).live = false := by
  obtain ⟨u, cores, -, he⟩ := loseTask_eq code h
  obtain ⟨v, hv, hl⟩ := foldl_at State.core (f := loseCrew code) (fun _ _ _ hb => loseCrew_core_other hb)
    (nodup_crewCores t) (coreAt_mem_crewCores hrel) u
  have same : v.core (t.coreAt rel) = s.core (t.coreAt rel) := by rw [hv, State.core, cores]; rfl
  rw [he, State.thread, hl]
  exact loseCrew_live (same ▸ hc) hf

end EndingCrews

section CopyFault
variable {s : State} {w : SwitchOut} {t : Machine.Task} {core : Fin 4096}

theorem faultedSwitch_eq (h : s.switching = some (w, t)) (hf : w.faulted = some core.val) :
    s.faultedSwitch core = some (w, t) := by
  simp only [State.faultedSwitch, h, hf, beq_self_eq_true, if_true]

theorem contextCopyFault_mapped (h : s.switching = some (w, t)) (hf : w.faulted = some core.val) :
    exec (.contextCopyFault core true) s = .next { s with sched := { s.sched with switch := some { w with faulted := none } } } := by
  change execContextCopyFault core true s = _
  simp only [execContextCopyFault, faultedSwitch_eq h hf, if_true]

theorem contextCopyFault_lost (h : s.switching = some (w, t)) (hf : w.faulted = some core.val) :
    exec (.contextCopyFault core false) s = .next (s.loseTask t fun _ => 0xC7) := by
  change execContextCopyFault core false s = _
  simp only [execContextCopyFault, faultedSwitch_eq h hf, Bool.false_eq_true, if_false]

end CopyFault

/-! ## Per-core pre-emption (R232) -/

section Preempting
variable {s u : State} {core : Fin 4096} {w : Crew} {t : Machine.Task} (hw : (s.core core).crew = some w)
  (ht : s.taskOf core = some t)
include hw ht

theorem perCorePreemption_asks (hp : (s.core core).preempt = none) (hf : w.finished = false) (hs : s.inSwitch core = false) :
    exec (.perCorePreemption core) s = .next (s.askPreempt core) := by
  change execPerCorePreemption core s = _
  simp only [execPerCorePreemption, hw, hp, ht, hf, hs, Bool.false_eq_true, if_false]

theorem perCorePreemption_finished (hp : (s.core core).preempt = none) (hf : w.finished = true) :
    exec (.perCorePreemption core) s = .next s := by
  change execPerCorePreemption core s = _
  simp only [execPerCorePreemption, hw, hp, ht, hf, if_true]

theorem perCorePreemption_inSwitch (hp : (s.core core).preempt = none) (hf : w.finished = false) (hs : s.inSwitch core = true) :
    exec (.perCorePreemption core) s = .next (s.setCore core { s.core core with preemptWaits := true }) := by
  change execPerCorePreemption core s = _
  simp only [execPerCorePreemption, hw, hp, ht, hf, hs, Bool.false_eq_true, if_false, if_true]

variable {p : Preempt} (hp : (s.core core).preempt = some p)
include hp

theorem perCorePreemption_stopping (hc : s.coreStopped core = false) : exec (.perCorePreemption core) s = .next s := by
  change execPerCorePreemption core s = _
  simp only [execPerCorePreemption, hw, hp, ht, hc, Bool.not_false, Bool.or_true, if_true]

variable (hn : p.slot = none) (hf : p.faulted = false) {off : Nat} (hc : s.coreStopped core = true)
  (ho : s.bud.context t.tenant 1 = some off)
include hn hf hc ho

theorem perCorePreemption_saves
    (hz : (s.leaveFrames core false).writeContext t.asid t.tenant off (s.preemptPieces core) = (u, true)) :
    ∃ z, exec (.perCorePreemption core) s = .next z ∧ (z.core core).preempt = some { p with slot := some off } ∧
      z.bud.ctxUsed = u.bud.ctxUsed ++ [(t.tenant, off, 1)] ∧ z.mem = u.mem := by
  change ∃ z, execPerCorePreemption core s = .next z ∧ _
  simp only [execPerCorePreemption, hw, hp, ht, hn, hf, hc, ho, hz, Option.isSome_none, Bool.not_true, Bool.or_self,
    Bool.false_eq_true, if_false]
  exact ⟨_, rfl, congrArg Core.preempt (Laws.State.core_setCore ..), rfl, rfl⟩

theorem perCorePreemption_faults
    (hz : (s.leaveFrames core false).writeContext t.asid t.tenant off (s.preemptPieces core) = (u, false)) :
    ∃ z, exec (.perCorePreemption core) s = .next z ∧ (z.core core).preempt = some { p with faulted := true } ∧
      z.mem = u.mem := by
  change ∃ z, execPerCorePreemption core s = .next z ∧ _
  simp only [execPerCorePreemption, hw, hp, ht, hn, hf, hc, ho, hz, Option.isSome_none, Bool.not_true, Bool.or_self,
    Bool.false_eq_true, if_false]
  exact ⟨_, rfl, congrArg Core.preempt (Laws.State.core_setCore ..), rfl⟩

end Preempting

theorem askPreempt_spec (s : State) (c : Nat) : ((s.askPreempt c).core c).preempt = some {} ∧ (s.askPreempt c).mem = s.mem ∧
    ∀ ts : Fin 4, (s.thread c ts).halted = false → ((s.askPreempt c).thread c ts).due.preempt = true ∧
      ((s.askPreempt c).thread c ts).s = (s.thread c ts).s ∧ ((s.askPreempt c).thread c ts).pc = (s.thread c ts).pc := by
  refine ⟨congrArg Core.preempt (Laws.State.core_setCore ..), rfl, fun ts h => ?_⟩
  rw [State.askPreempt, Laws.State.thread_setCore, map_asks_live _ h]
  exact ⟨rfl, rfl, rfl⟩

/-! ## The release of a pre-empted core (R232, R236) -/

section Releasing
variable {s : State} {core : Fin 4096} {t : Machine.Task} {p : Preempt}

/-- What the release of thread sets leaves alone: the pre-emption of their core, and the budgets. -/
def preemption (c : Nat) (s : State) : Option Preempt × Budgets := ((s.core c).preempt, s.bud)

theorem OnlyTraces.keeps_preemption {s t : State} (h : OnlyTraces s t) (c : Nat) : preemption c t = preemption c s := by
  obtain ⟨-, bud, core⟩ := h
  exact Prod.ext (congrArg Core.preempt (core c) :) bud

theorem setThread_preemption (s : State) (c : Nat) (ts : Fin 4) (h : Thread) :
    preemption c (s.setThread c ts h) = preemption c s := by
  rw [preemption, Laws.State.core_setThread]
  rfl

theorem unpark_preemption (causes : List (BitVec 8)) (c : Nat) (s : State) (ts : Fin 4) :
    preemption c (s.unpark c ts causes) = preemption c s := by
  unfold State.unpark
  dsimp only
  split
  · have traced := (OnlyTraces.enqueue (s.setThread c ts (s.thread c ts).release) c ts).trans (.traceSync _ c)
    exact (traced.keeps_preemption c).trans (setThread_preemption ..)
  · rfl

theorem unparkAll_preemption (causes : List (BitVec 8)) (c : Nat) (s : State) :
    preemption c (s.unparkAll c causes) = preemption c s :=
  foldl_view (preemption c) (fun s ts => s.unpark c ts causes) (unpark_preemption causes c) _ s

theorem preemptionRelease_waits (ht : s.taskOf core = some t) (hp : (s.core core).preempt = some p)
    (h : p.slot = none ∨ p.faulted = true) : exec (.preemptionRelease core) s = .next s := by
  change execPreemptionRelease core s = _
  simp only [execPreemptionRelease, hp, ht]
  rcases h with h | h
  · rw [h]
  · rw [h]
    cases p.slot <;> rfl

/-- The state of a core whose pre-emption is over and whose slot is free, before its thread sets go on. -/
def slotFreed (s : State) (core : Nat) (t : Machine.Task) (off : Nat) : State :=
  ({ s with bud := { s.bud with ctxUsed := s.bud.ctxUsed.filter (· != (t.tenant, off, 1)) } } : State).setCore core
    { s.core core with
      preempt := none
      thr := (s.core core).thr.map fun h => { h with due := { h.due with preempt := false } } }

theorem slotFreed_thread (s : State) (c : Nat) (t : Machine.Task) (off : Nat) (ts : Fin 4) : (slotFreed s c t off).thread c ts =
    { s.thread c ts with due := { (s.thread c ts).due with preempt := false } } := by
  rw [slotFreed, Laws.State.thread_setCore, Fin.getElem_fin, Vector.getElem_map]
  rfl

theorem preemptionRelease_frees {off : Nat} (ht : s.taskOf core = some t) (hp : (s.core core).preempt = some p)
    (ho : p.slot = some off) (hf : p.faulted = false) :
    exec (.preemptionRelease core) s = .next ((slotFreed s core t off).unparkAll core [0xA0]) := by
  change execPreemptionRelease core s = _
  simp only [execPreemptionRelease, hp, ht, ho, hf]
  rfl

theorem preemptionRelease_spec {off : Nat} (ht : s.taskOf core = some t) (hp : (s.core core).preempt = some p)
    (ho : p.slot = some off) (hf : p.faulted = false) : ∃ z, exec (.preemptionRelease core) s = .next z ∧
      (z.core core).preempt = none ∧ z.mem = s.mem ∧ (t.tenant, off, 1) ∉ z.bud.ctxUsed ∧
      ∀ ts : Fin 4, (s.thread core ts).run = .parked → (s.thread core ts).cause = 0xA0 →
        (z.thread core ts).run = .running ∧ (z.thread core ts).pc = (s.thread core ts).epc := by
  obtain ⟨preempt, bud⟩ := Prod.mk.inj (unparkAll_preemption [0xA0] core (slotFreed s core t off))
  refine ⟨_, preemptionRelease_frees ht hp ho hf, ?_, ?_, ?_, fun ts hr hc => ?_⟩
  · rw [preempt, slotFreed, Laws.State.core_setCore]
  · rw [unparkAll_mem]
    rfl
  · rw [bud]
    exact fun h => bne_iff_ne.1 (List.mem_filter.1 h).2 rfl
  · have parked := slotFreed_thread s core t off ts
    rw [unparkAll_thread [0xA0] (by rw [parked]; exact hr) (by rw [parked, hc]; decide), parked]
    exact ⟨release_run _, release_pc _⟩

end Releasing

/-- Settles O56: a switch-out is asked for, drains, and saves or faults; a pre-emption is asked for, waits, saves or faults, and
is released. -/
theorem switchOutEvents : Obligations.SwitchOutEvents :=
  ⟨fun _ =>
    ⟨fun _ _ _ _ _ hs hp hv => ⟨switchOutTrigger_early hs hp hv, switchOutTrigger_spec hs hp hv⟩,
      fun _ _ h => ⟨switchOutDrainPass_stops h, switchOutDrainPass_counts h, switchOutComplete_waits h,
        fun hp hf => ⟨fun _ _ hs => ⟨_, switchOutComplete_faults h hp hf hs, rfl, rfl, rfl⟩,
          fun _ => switchOutComplete_spec h hp hf⟩,
        fun _ hf => ⟨contextCopyFault_mapped h hf, _, contextCopyFault_lost h hf, loseTask_switch h,
          fun _ _ _ hrel hc hf => loseTask_live h hrel hc hf⟩⟩⟩,
    fun s core _ _ hw ht =>
      ⟨fun hp hf hs => ⟨_, perCorePreemption_asks hw ht hp hf hs, askPreempt_spec s core⟩,
        perCorePreemption_finished hw ht,
        perCorePreemption_inSwitch hw ht,
        fun _ hp hn hf => ⟨perCorePreemption_stopping hw ht hp,
          fun _ _ hc ho => perCorePreemption_saves hw ht hp hn hf hc ho,
          fun _ _ hc ho => perCorePreemption_faults hw ht hp hn hf hc ho⟩,
        fun _ => preemptionRelease_waits ht,
        fun _ _ => preemptionRelease_spec ht⟩⟩

end Sys2Proof.Proofs

/-!
Proofs: what messages to a port, accesses to global memory, log entries and completions leave alone (R14, R45, R101, R246).
-/
namespace Sys2Proof.Proofs
open Sys2Proof Sys2Proof.Machine

/-! ## A message to a device changes ports alone (R14) -/

section Posting
variable (s : State) (dev : BitVec 16) (vc : Fin 8) (m : OutMsg) (moves : Bool)

@[simp] theorem post_fab : (s.post dev vc m moves).fab = s.fab := by
  unfold State.post
  split <;> rfl

@[simp] theorem post_mem : (s.post dev vc m moves).mem = s.mem := by
  unfold State.post
  split <;> rfl

@[simp] theorem post_core (c : Nat) : (s.post dev vc m moves).core c = s.core c := by
  unfold State.post
  split <;> rfl

/-- Messages to several devices, made from what they find, leave what is under way and pending. -/
theorem foldl_post_fab {α : Type} (dst : α → BitVec 16) (msg : α → OutMsg) (l : List α) (s : State) :
    (l.foldl (fun s a => s.post (dst a) vc (msg a)) s).fab = s.fab :=
  foldl_view State.fab _ (fun _ _ => post_fab ..) l s

end Posting

/-! ## Accesses to global memory (R101, R111) -/

theorem OnlyGlobal.fab {s t : State} (h : OnlyGlobal s t) : t.fab = s.fab := by
  obtain ⟨_, _, rfl⟩ := h
  rfl

/-- Bytes are read unit by unit, and the first unit that faults ends the read. -/
theorem globalRead_answersGlobal (asid : BitVec 16) (fuel : Nat) (s : State) (a : Word) (n : Nat) :
    AnswersGlobal s (State.globalRead fuel s asid a n) := by
  induction fuel generalizing s a n with
  | zero => exact OnlyGlobal.refl s
  | succ fuel ih =>
    simp only [State.globalRead]
    split
    · exact OnlyGlobal.refl s
    · split
      · exact OnlyGlobal.refl s
      · split
        · exact walked_onlyGlobal ..
        · rename_i cell u hu
          have rest := ih u (a + BitVec.ofNat 64 (min n (unitLeft a.toNat))) (n - min n (unitLeft a.toNat))
          split
          all_goals
            rename_i hr
            rw [hr] at rest
            exact (globalCell_onlyGlobal hu).trans rest

section Accesses
variable {s t : State} {asid : BitVec 16} {a : Word} {bs : List Byte}

theorem globalBytes_ok_onlyGlobal {n : Nat} (h : s.globalBytes asid a n = .ok (bs, t)) : OnlyGlobal s t := by
  have answer := globalRead_answersGlobal asid (n / 4096 + 2) s a n
  rwa [← State.globalBytes, h] at answer

theorem globalBytes_error_onlyGlobal {n : Nat} {e : BitVec 8 × Word} (h : s.globalBytes asid a n = .error (e, t)) :
    OnlyGlobal s t := by
  have answer := globalRead_answersGlobal asid (n / 4096 + 2) s a n
  rwa [← State.globalBytes, h] at answer

theorem checkedWrite_ok_onlyGlobal {who : Option (Nat × Nat)} (h : s.checkedWrite who asid a bs = .ok t) : OnlyGlobal s t := by
  unfold State.checkedWrite at h
  split at h
  · cases h
  · rename_i hw
    split at h
    · cases h
    · cases h
      exact globalWrite_ok_onlyGlobal hw

theorem checkedWrite_error_onlyGlobal {who : Option (Nat × Nat)} {e : BitVec 8 × Word}
    (h : s.checkedWrite who asid a bs = .error (e, t)) : OnlyGlobal s t := by
  unfold State.checkedWrite at h
  split at h
  · rename_i hw
    cases h
    exact globalWrite_error_onlyGlobal hw
  · split at h
    · cases h
      exact .withXl ..
    · cases h

/-- The state after a write, landed or faulted. -/
def written (s : State) (asid : BitVec 16) (a : Word) (bs : List Byte) : State :=
  match s.globalWrite asid a bs with
  | .ok s => s
  | .error (_, s) => s

theorem written_onlyGlobal : OnlyGlobal s (written s asid a bs) := by
  unfold written
  split
  · rename_i h
    exact globalWrite_ok_onlyGlobal h
  · rename_i h
    exact globalWrite_error_onlyGlobal h

end Accesses

/-! ## Log entries (R246, R247) -/

section Logs
variable (s : State) (core ty src : Nat) (ts : Fin 4) (detail : Nat)

theorem logEntry_onlyGlobal (w0 w1 : Word) : OnlyGlobal s (s.logEntry core w0 w1) := by
  unfold State.logEntry
  split
  · exact .refl s
  · split
    · dsimp only
      split
      · rename_i h
        exact globalBytes_error_onlyGlobal h
      · rename_i h
        refine (globalBytes_ok_onlyGlobal h).trans ?_
        split
        · exact written_onlyGlobal.trans written_onlyGlobal
        · exact written_onlyGlobal
    · exact .refl s

theorem record_fab : (s.record core ty src ts detail).fab = s.fab := (logEntry_onlyGlobal ..).fab

theorem replayStep_fab : (s.replayStep core ty src ts detail).fab = s.fab := by
  unfold State.replayStep
  split
  · rfl
  · exact record_fab ..

variable {s core}

/-- A task that does not record logs nothing. -/
theorem record_unrecorded (h : ∀ q, s.taskOf core = some q → q.record = false) : s.record core ty src ts detail = s := by
  unfold State.record State.logEntry
  cases ht : s.taskOf core with
  | none => rfl
  | some q => simp only [h q ht]

end Logs

/-! ## The completion of a record changes nothing that is under way (R45, R61) -/

section Completions
variable (s : State) (r : Rec) (result : List Byte) (o : Machine.Outcome) (started : Bool)

theorem withResult_fab : (withResult s r result).fab = s.fab := by
  unfold withResult
  split
  · rfl
  · exact written_onlyGlobal.fab

theorem withRecord_fab : (withRecord s r o).fab = s.fab := by
  unfold withRecord
  split
  · rename_i h
    exact (globalWrite_ok_onlyGlobal h).fab
  · rename_i h
    exact (globalWrite_error_onlyGlobal h).fab

theorem freeSlot_fab : (s.freeSlot r).fab = s.fab := by
  unfold State.freeSlot
  split <;> rfl

theorem placeTokens_fab : (s.placeTokens r).fab = s.fab :=
  (congrArg State.fab (placeTokens_withoutEdges s r) :)

theorem complete_fab : (s.complete r result o started).fab = s.fab := by
  have written := (withRecord_fab (withResult s r result) r o).trans (withResult_fab s r result)
  refine (freeSlot_fab _ r).trans ?_
  cases started with
  | false => exact written
  | true => exact (placeTokens_fab _ r).trans written

end Completions

end Sys2Proof.Proofs

/-!
Proofs: communicators and collective requests (R81, R85, R89 to R91).
-/
namespace Sys2Proof.Proofs
open Sys2Proof Sys2Proof.Machine

/-! ## Pending requests by communicator and sequence number (R83) -/

section Requests
variable {s t : State} {c : Nat} {seq : BitVec 32} {q z : Coll}

theorem coll_names (h : s.coll c seq = some q) : clComm q.words = c ∧ clSeq q.words = seq := by
  simpa using List.find?_some h

theorem coll_congr (h : t.fab.colls = s.fab.colls) : t.coll c seq = s.coll c seq := by
  unfold State.coll
  rw [h]

theorem mem_putColl (h : q ∈ s.fab.colls) (hw : z.words = q.words) : z ∈ (s.putColl z).fab.colls :=
  List.mem_map.2 ⟨q, h, by simp [hw]⟩

/-- A request put in place of one with its words is found where that one was. -/
theorem coll_putColl (h : s.coll c seq = some q) (hw : z.words = q.words) : (s.putColl z).coll c seq = some z := by
  obtain ⟨rfl, rfl⟩ := coll_names h
  have place : ((fun p : Coll => clComm p.words == clComm q.words && clSeq p.words == clSeq q.words) ∘
      fun p => if clComm p.words == clComm z.words && clSeq p.words == clSeq z.words then z else p) =
      fun p => clComm p.words == clComm q.words && clSeq p.words == clSeq q.words := by
    funext p
    by_cases hp : (clComm p.words == clComm z.words && clSeq p.words == clSeq z.words) = true
    · rw [Function.comp_apply, if_pos hp, ← hw, hp]
      simp
    · rw [Function.comp_apply, if_neg hp]
  have found := h
  unfold State.coll at found ⊢
  simp only [State.putColl, State.modColls, List.find?_map, place, found, Option.map_some]
  simp [hw]

end Requests

/-! ## What the work of a request leaves alone -/

/-- Work on a request leaves the pending requests as they were, and the request's words and phase. -/
def KeepsRequest (w v : Work) : Prop := v.1.fab.colls = w.1.fab.colls ∧ v.2.words = w.2.words ∧ v.2.phase = w.2.phase

namespace KeepsRequest
variable {w v u : Work}

theorem refl (w : Work) : KeepsRequest w w := ⟨rfl, rfl, rfl⟩

theorem trans (h : KeepsRequest w v) (k : KeepsRequest v u) : KeepsRequest w u :=
  ⟨k.1.trans h.1, k.2.1.trans h.2.1, k.2.2.trans h.2.2⟩

theorem foldl {α : Type} {f : Work → α → Work} (h : ∀ w a, KeepsRequest w (f w a)) (l : List α) (w : Work) :
    KeepsRequest w (l.foldl f w) := by
  induction l generalizing w with
  | nil => exact .refl w
  | cons a l ih => exact (h w a).trans (ih _)

theorem ofFab {s t : State} (q : Coll) (h : t.fab = s.fab) : KeepsRequest (s, q) (t, q) := ⟨congrArg Fabric.colls h, rfl, rfl⟩

theorem ofGlobal {s t : State} (q : Coll) (h : OnlyGlobal s t) : KeepsRequest (s, q) (t, q) := ofFab q h.fab

/-- A step marked done. -/
theorem mark (h : KeepsRequest w v) (code : Nat) : KeepsRequest w (v.1, v.2.mark code) := h

/-- A chunk kept. -/
theorem keepOwn (h : KeepsRequest w v) (rank stage off : Nat) (bs : List Byte) :
    KeepsRequest w (v.1, v.2.keepOwn rank stage off bs) := h

end KeepsRequest

section Work
variable (m : Comm) (w : Work)

theorem collFault_keeps (a : Word) : KeepsRequest w (collFault m a w) := by
  unfold collFault
  dsimp only
  split
  · exact .refl w
  · exact ⟨congrArg Fabric.colls (foldl_post_fab ..), rfl, rfl⟩

theorem collRead_keeps (off n : Nat) : KeepsRequest w (collRead m off n w).2 := by
  unfold collRead
  dsimp only
  split
  · rename_i h
    exact .ofGlobal w.2 (globalBytes_ok_onlyGlobal h)
  · rename_i h
    exact (KeepsRequest.ofGlobal w.2 (globalBytes_error_onlyGlobal h)).trans (collFault_keeps ..)

theorem collTable_keeps : KeepsRequest w (collTable m w).2 := by
  unfold collTable
  dsimp only
  split
  · exact .refl w
  · split
    · rename_i h
      exact .ofGlobal w.2 (globalBytes_ok_onlyGlobal h)
    · rename_i h
      exact (KeepsRequest.ofGlobal w.2 (globalBytes_error_onlyGlobal h)).trans (collFault_keeps ..)

theorem collWrite_keeps (off : Nat) (bs : List Byte) : KeepsRequest w (collWrite m off bs w) := by
  unfold collWrite
  dsimp only
  split
  · exact .refl w
  · split
    · rename_i h
      exact .ofGlobal w.2 (checkedWrite_ok_onlyGlobal h)
    · rename_i h
      exact (KeepsRequest.ofGlobal w.2 (checkedWrite_error_onlyGlobal h)).trans (collFault_keeps ..)

theorem collSend_keeps (dst stage off : Nat) (bs : List Byte) : KeepsRequest w (collSend m dst stage off bs w) := by
  unfold collSend
  dsimp only
  split
  · exact .refl w
  · split
    · exact .keepOwn (.refl w) ..
    · split
      · exact .ofFab w.2 rfl
      · exact .ofFab w.2 (post_fab ..)

/-- A piece sent to several ranks. -/
theorem collSends_keeps (stage off : Nat) (bs : List Byte) (l : List Nat) :
    KeepsRequest w (l.foldl (fun w d => collSend m d stage off bs w) w) :=
  .foldl (fun w _ => collSend_keeps m w ..) l w

/-- The first half of a direct reduction of a unit: the own piece goes to the ranks that want the result. -/
def sendPiece (want : List Nat) (u : CUnit) (w : Work) : Work :=
  if w.2.did (unitCode false 0 u.off) then w
  else
    match w.2.chunk m.rank stagePart u.off with
    | none => w
    | some own =>
      let w := (want.filter (· != m.rank)).foldl (fun w d => collSend m d stagePart u.off own w) w
      (w.1, w.2.mark (unitCode false 0 u.off))

/-- The second half: a rank that wants the result combines every piece and writes it. -/
def takePieces (n : Nat) (want : List Nat) (u : CUnit) (w : Work) : Work :=
  if w.2.did (unitCode true 0 u.off) || !want.contains m.rank then w
  else
    match combineAt m w.2 ((List.range n).filter (· != m.rank)) u with
    | none => w
    | some acc =>
      let v := collWrite m (resultOff w.2.words u) acc w
      (v.1, v.2.mark (unitCode true 0 u.off))

theorem directUnit_eq (n : Nat) (u : CUnit) : directUnit m n u w =
    takePieces m n (wanters w.2.words n u) u (sendPiece m (wanters w.2.words n u) u w) := rfl

theorem sendPiece_keeps (want : List Nat) (u : CUnit) : KeepsRequest w (sendPiece m want u w) := by
  unfold sendPiece
  split
  · exact .refl w
  · split
    · exact .refl w
    · exact .mark (collSends_keeps ..) _

theorem takePieces_keeps (n : Nat) (want : List Nat) (u : CUnit) : KeepsRequest w (takePieces m n want u w) := by
  unfold takePieces
  split
  · exact .refl w
  · split
    · exact .refl w
    · exact .mark (collWrite_keeps ..) _

theorem directUnit_keeps (n : Nat) (u : CUnit) : KeepsRequest w (directUnit m n u w) := by
  rw [directUnit_eq]
  exact (sendPiece_keeps m w ..).trans (takePieces_keeps ..)

theorem unitUp_keeps (n : Nat) (u : CUnit) : KeepsRequest w (unitUp m n u w) := by
  unfold unitUp
  dsimp only
  split
  · exact .refl w
  · split
    · exact .mark (.refl w) _
    · split
      · exact .refl w
      · refine .mark ?_ _
        split
        · exact .keepOwn (.refl w) ..
        · exact collSend_keeps ..

theorem unitDown_keeps (n : Nat) (u : CUnit) : KeepsRequest w (unitDown m n u w) := by
  unfold unitDown
  dsimp only
  split
  · exact .refl w
  · split
    · exact .refl w
    · refine .mark (KeepsRequest.trans ?_ (collSends_keeps ..)) _
      split
      · exact collWrite_keeps ..
      · exact .refl w

theorem treeUnit_keeps (n : Nat) (u : CUnit) : KeepsRequest w (treeUnit m n u w) := by
  unfold treeUnit
  split
  · exact directUnit_keeps ..
  · exact (unitUp_keeps ..).trans (unitDown_keeps ..)

theorem dataUnit_keeps (from_ : Nat) (u : CUnit) : KeepsRequest w (dataUnit m from_ u w) := by
  unfold dataUnit
  dsimp only
  split
  · exact .refl w
  · split
    · exact .mark (collWrite_keeps ..) _
    · exact .refl w

theorem collTell_keeps : KeepsRequest w (collTell m w) := by
  unfold collTell
  dsimp only
  split
  · exact .refl w
  · exact ⟨congrArg Fabric.colls (foldl_post_fab ..), rfl, rfl⟩

theorem collAdvance_keeps : KeepsRequest w (collAdvance m w) := by
  unfold collAdvance
  dsimp only
  split
  · exact .refl w
  · refine KeepsRequest.trans ?_ (collTell_keeps m _)
    split
    · exact .foldl (fun w u => treeUnit_keeps m w _ u) _ w
    · refine .foldl (fun w p => ?_) _ w
      split
      · exact .refl w
      · exact dataUnit_keeps ..

theorem collStart_keeps (tables : List (List Byte)) : KeepsRequest w (collStart m tables w) := by
  unfold collStart
  dsimp only
  split
  · exact .refl w
  · split
    · exact .foldl (fun w _ => .keepOwn (collRead_keeps m w ..) ..) _ w
    · refine .foldl (fun w p => ?_) _ w
      split
      · exact .refl w
      · exact (collRead_keeps m w ..).trans (collSend_keeps ..)

theorem collDeliver_keeps (c : Nat × Nat × Nat × List Byte) : KeepsRequest w (collDeliver c w) := by
  unfold collDeliver
  dsimp only
  split
  · exact .refl w
  · split
    · exact .keepOwn (.ofFab w.2 (replayStep_fab ..)) ..
    · exact .keepOwn (.refl w) ..

theorem collDrain_keeps (fuel : Nat) : KeepsRequest w (collDrain fuel w) := by
  induction fuel generalizing w with
  | zero => exact .refl w
  | succ fuel ih =>
    unfold collDrain
    dsimp only
    split
    · exact .refl w
    · refine KeepsRequest.trans ?_ (ih _)
      exact collDeliver_keeps (w.1, { w.2 with early := _ }) _

end Work

/-- A matched request that goes on is pending still, with its words and its phase. -/
theorem collGo_coll {s t : State} {c : Nat} {seq : BitVec 32} {q z : Coll} (h : s.coll c seq = some q)
    (hs : t.fab.colls = s.fab.colls) (hw : z.words = q.words) :
    ∃ v, (t.collGo z).coll c seq = some v ∧ v.words = z.words ∧ v.phase = z.phase := by
  obtain ⟨colls, words, phase⟩ := (collDrain_keeps (t, z) z.early.length).trans
    (collAdvance_keeps (tblGet t.fab.comms (clComm z.words) {}) _)
  exact ⟨_, coll_putColl ((coll_congr (colls.trans hs)).trans h) (words.trans hw), words, phase⟩

/-! ## Communicators (R81) -/

section Communicators
variable (s : State) (c : Fin 4096) (v : Word)

/-- The registers of a communicator. -/
abbrev commOf (s : State) (c : Fin 4096) : Comm := tblGet s.fab.comms c.val {}

/-- A communicator with a written `COMMCTL`, not enabled yet. -/
def withCtl (m : Comm) (v : Word) : Comm := { m with ctl := v &&& 0x1FFF0FFFFFFF3F02 }

theorem ctl_masked : v &&& commMask &&& ~~~(1 : Word) = v &&& 0x1FFF0FFFFFFF3F02 := by
  rw [BitVec.and_assoc]
  rfl

variable {s c v}

theorem commEnable_enabled (h : (commOf s c).ctl.getLsbD 0 = true) : exec (.commEnable c v) s = .next s := by
  change execCommEnable c v s = _
  simp only [execCommEnable, Comm.enabled, h, if_true]

theorem commEnable_unreadable {t : State} (h : (commOf s c).ctl.getLsbD 0 = false)
    (hr : s.readMap (withCtl (commOf s c) v) = (none, t)) :
    exec (.commEnable c v) s = .next (t.setComm c (withCtl (commOf s c) v)) := by
  change execCommEnable c v s = _
  rw [withCtl] at hr ⊢
  simp only [execCommEnable, Comm.enabled, h, Bool.false_eq_true, if_false, ctl_masked, hr]

theorem commEnable_readable {t : State} {l : List (BitVec 16)} (h : (commOf s c).ctl.getLsbD 0 = false)
    (hr : s.readMap (withCtl (commOf s c) v) = (some l, t)) :
    exec (.commEnable c v) s = .next (t.setComm c { withCtl (commOf s c) v with
      ctl := (withCtl (commOf s c) v).ctl ||| 1, ranks := l, tokens := [], sent := false }) := by
  change execCommEnable c v s = _
  rw [withCtl] at hr ⊢
  simp only [execCommEnable, Comm.enabled, h, Bool.false_eq_true, if_false, ctl_masked, hr]

theorem comm_setComm (t : State) (c : Nat) (m : Comm) : tblGet (t.setComm c m).fab.comms c {} = m :=
  Laws.tblGet_tblSet_same ..

/-- Disabling a communicator ends its pending requests with status 6. -/
theorem commDisable_spec : ∃ t, exec (.commDisable c) s = .next t ∧
    (tblGet t.fab.comms c.val {}).ctl = (commOf s c).ctl &&& ~~~1 ∧ t.mem = s.mem ∧
    ∀ q ∈ s.fab.colls, clComm q.words = c.val → q.ending = none →
      { q with ending := some (6, BitVec.ofNat 64 q.written) } ∈ t.fab.colls := by
  refine ⟨_, rfl, congrArg Comm.ctl (comm_setComm s c _), rfl, fun q hq hc he => List.mem_map.2 ⟨q, hq, ?_⟩⟩
  simp [hc, he]

end Communicators

/-! ## The engines take their requests (R89) -/

section Taking
variable {s : State} {e : Fin 2} {q : Coll}

theorem foldl_choice_mem {α : Type} {f : α → α → α} (h : ∀ p q, f p q = p ∨ f p q = q) (l : List α) (a : α) :
    l.foldl f a ∈ a :: l := by
  induction l generalizing a with
  | nil => exact List.mem_singleton_self a
  | cons b l ih =>
    rw [List.foldl_cons]
    rcases h a b with hf | hf <;> rw [hf]
    · exact List.cons_subset_cons a (List.subset_cons_self b l) (ih a)
    · exact List.mem_cons_of_mem _ (ih b)

theorem nextColl_mem (h : s.nextColl e = some q) : q ∈ s.fab.colls := by
  unfold State.nextColl at h
  dsimp only at h
  split at h
  · cases h
  · rename_i first rest waiting
    have queued : ∀ p ∈ first :: rest, p ∈ s.fab.colls := fun p hp => by
      rw [← waiting] at hp
      exact (List.mem_filter.1 hp).1
    split at h
    · cases h
      exact queued _ (List.mem_cons_self ..)
    · cases h
      refine queued _ (foldl_choice_mem (fun p q => ?_) rest first)
      split
      · exact .inr rfl
      · exact .inl rfl

/-- Every device of the request's plan can be reached. -/
def Reached (s : State) (q : Coll) : Prop :=
  ∀ dev ∈ s.collDevices q, portWhere s.ports (fun l => l.peer == dev && l.inService) ≠ none

theorem reached_iff : Reached s q ↔
    ((s.collDevices q).any fun dev => (portWhere s.ports fun l => l.peer == dev && l.inService).isNone) = false := by
  simp [Reached, Option.isNone_iff_eq_none]

theorem collectiveRequestTake_none (h : s.nextColl e = none) : exec (.collectiveRequestTake e) s = .next s := by
  change execCollectiveRequestTake e s = _
  simp only [execCollectiveRequestTake, h]

theorem collectiveRequestTake_reached (h : s.nextColl e = some q) (hr : Reached s q) :
    exec (.collectiveRequestTake e) s = .next (s.putColl { q with phase := .taken }) := by
  change execCollectiveRequestTake e s = _
  simp only [execCollectiveRequestTake, h, reached_iff.1 hr, Bool.false_eq_true, if_false]

theorem collectiveRequestTake_far (h : s.nextColl e = some q) (hr : ¬Reached s q) :
    exec (.collectiveRequestTake e) s = .next (s.putColl { q with ending := some (9, 0) }) := by
  rw [reached_iff, Bool.not_eq_false] at hr
  change execCollectiveRequestTake e s = _
  simp only [execCollectiveRequestTake, h, hr, if_true]

end Taking

/-! ## Notices and chunks (R90, R91) -/

section Arriving
variable {s : State} {c : Fin 4096} {seq : BitVec 32} {q : Coll}

theorem collectiveFaultNotice_held (a : Word) (h : s.coll c seq = some q) (hv : s.vcHeld 1 = true) :
    exec (.collectiveFaultNotice c seq a) s = .next s := by
  change execCollectiveFaultNotice c seq a s = _
  simp [execCollectiveFaultNotice, h, hv]

theorem collectiveFaultNotice_ends (a : Word) (h : s.coll c seq = some q) (he : q.ending = none) (hv : s.vcHeld 1 = false) :
    exec (.collectiveFaultNotice c seq a) s = .next (s.putColl { q with ending := some (4, a) }) := by
  change execCollectiveFaultNotice c seq a s = _
  simp [execCollectiveFaultNotice, h, hv, he]

variable {rank stage off : Nat} (data : List Byte)

/-- The early-arrival store keeps this chunk of the request. -/
def Keeps (q : Coll) (rank stage off : Nat) : Prop := ∃ d, (rank, stage, off, d) ∈ q.early

theorem keeps_iff : Keeps q rank stage off ↔ (q.early.any fun (r, st, o, _) => r == rank && st == stage && o == off) = true := by
  simp only [Keeps, List.any_eq_true, Prod.exists, Bool.and_eq_true, beq_iff_eq, and_assoc]
  constructor
  · rintro ⟨d, hd⟩
    exact ⟨_, _, _, d, hd, rfl, rfl, rfl⟩
  · rintro ⟨_, _, _, d, hd, rfl, rfl, rfl⟩
    exact ⟨d, hd⟩

theorem chunkArrive_kept (h : s.coll c seq = some q) (he : q.ending = none) (hp : q.phase ≠ .matched)
    (hk : Keeps q rank stage off) : exec (.collectiveChunkArrive c seq rank stage off data) s = .next (s.putColl q) := by
  change execCollectiveChunkArrive c seq rank stage off data s = _
  simp [execCollectiveChunkArrive, h, he, hp, keeps_iff.1 hk]

theorem chunkArrive_held (h : s.coll c seq = some q) (hk : ¬Keeps q rank stage off)
    (hv : s.vcHeld (chunkChannel c.val stage) = true) :
    exec (.collectiveChunkArrive c seq rank stage off data) s = .next s := by
  rw [keeps_iff, Bool.not_eq_true] at hk
  change execCollectiveChunkArrive c seq rank stage off data s = _
  simp [execCollectiveChunkArrive, h, hk, hv]

theorem chunkArrive_enters (h : s.coll c seq = some q) (he : q.ending = none) (hp : q.phase ≠ .matched)
    (hk : ¬Keeps q rank stage off) (hv : s.vcHeld (chunkChannel c.val stage) = false)
    (hr : s.earlyBytes + data.length ≤ 2 ^ 28) : exec (.collectiveChunkArrive c seq rank stage off data) s =
      .next (s.putColl { q with early := q.early ++ [(rank, stage, off, data)] }) := by
  have room : s.roomFor data.length = true := decide_eq_true hr
  rw [keeps_iff, Bool.not_eq_true] at hk
  change execCollectiveChunkArrive c seq rank stage off data s = _
  simp [execCollectiveChunkArrive, h, he, hp, hk, hv, room]

theorem chunkArrive_sticks (h : s.coll c seq = some q) (he : q.ending = none) (hp : q.phase ≠ .matched)
    (hk : ¬Keeps q rank stage off) (hv : s.vcHeld (chunkChannel c.val stage) = false)
    (hr : 2 ^ 28 < s.earlyBytes + data.length) : exec (.collectiveChunkArrive c seq rank stage off data) s =
      .next (s.stick (chunkChannel c.val stage) data.length) := by
  have full : s.roomFor data.length = false := decide_eq_false (not_le.2 hr)
  rw [keeps_iff, Bool.not_eq_true] at hk
  change execCollectiveChunkArrive c seq rank stage off data s = _
  simp [execCollectiveChunkArrive, h, he, hp, hk, hv, full]

theorem chunkArrive_matched (h : s.coll c seq = some q) (he : q.ending = none) (hp : q.phase = .matched)
    (hruns : s.collRuns q = true) (hk : ¬Keeps q rank stage off) (hv : s.vcHeld (chunkChannel c.val stage) = false)
    (hr : s.roomFor data.length = true) : exec (.collectiveChunkArrive c seq rank stage off data) s =
      .next (s.collGo { q with early := q.early ++ [(rank, stage, off, data)] }) := by
  rw [keeps_iff, Bool.not_eq_true] at hk
  change execCollectiveChunkArrive c seq rank stage off data s = _
  simp [execCollectiveChunkArrive, h, he, hp, hruns, hk, hv, hr]

end Arriving

/-! ## The match of all ranks' requests (R85) -/

section Matching
variable {s : State} {c : Fin 4096} {seq : BitVec 32} {q : Coll} {peers : List VWord} {tables : List (List Byte)}

/-- The requests that registers hold, one of each rank. -/
def requestsOf (peers : List VWord) : List (List Word) :=
  peers.map fun p => (List.range 8).map fun i => BitVec.ofNat 64 (laneOf p i 64)

/-- The request has been taken and is the next of its communicator, and the requests of all ranks have come, its own among them. -/
structure Matchable (s : State) (c : Fin 4096) (seq : BitVec 32) (q : Coll) (peers : List VWord) : Prop where
  pending : s.coll c seq = some q
  taken : q.phase = .taken
  going : q.ending = none
  runs : s.collRuns q = true
  all : (requestsOf peers).length = (commOf s c).size
  own : (requestsOf peers)[(commOf s c).rank]? = some q.words
  first : ∀ p ∈ s.fab.colls, clComm p.words = c.val → seq.toNat ≤ (clSeq p.words).toNat

/-- The match begins: no request of the communicator comes before this one. -/
theorem Matchable.mayMatch (h : Matchable s c seq q peers) :
    (q.phase != .taken || q.ending.isSome ||
      (s.fab.colls.any fun p => clComm p.words == c.val && decide ((clSeq p.words).toNat < seq.toNat)) || !s.collRuns q ||
      (requestsOf peers).length != (commOf s c).size ||
      (requestsOf peers)[(commOf s c).rank]? != some q.words) = false := by
  have first : (s.fab.colls.any fun p => clComm p.words == c.val && decide ((clSeq p.words).toNat < seq.toNat)) = false := by
    simpa using h.first
  rw [h.taken, h.going, h.runs, h.all, h.own, first, bne_self_eq_false, bne_self_eq_false, bne_self_eq_false]
  rfl

theorem collectiveMatch_differ (h : Matchable s c seq q peers) (hd : ∃ r ∈ requestsOf peers, sameRequest q.words r = false) :
    exec (.collectiveMatch c seq peers tables) s = .next (s.putColl { q with ending := some (3, 0) }) := by
  have differ : (requestsOf peers).all (sameRequest q.words) = false := by simpa using hd
  change execCollectiveMatch c seq peers tables s = _
  simp only [execCollectiveMatch, h.pending]
  rw [← requestsOf, h.mayMatch, differ]
  rfl

theorem all_same (ha : ∀ r ∈ requestsOf peers, sameRequest q.words r = true) :
    (requestsOf peers).all (sameRequest q.words) = true := List.all_eq_true.2 ha

theorem collectiveMatch_waits (h : Matchable s c seq q peers) (ha : ∀ r ∈ requestsOf peers, sameRequest q.words r = true)
    (ht : tablesHere (commOf s c) q.words tables = false)
    (hr : (collTable (commOf s c) (s, q)).2.2.ending = none) :
    exec (.collectiveMatch c seq peers tables) s = .next s := by
  change execCollectiveMatch c seq peers tables s = _
  simp only [execCollectiveMatch, h.pending]
  rw [← requestsOf, h.mayMatch, all_same ha, hr, ht]
  rfl

/-- What a rank brings to the match of a request: its own count table has been read, and the request is marked matched. -/
def matchStart (m : Comm) (w : Work) (all : List (List Byte)) (bad : List Nat) (routes : List (Nat × Nat))
    (tbl : List Byte) : Work :=
  collStart m all (w.1, { w.2 with phase := .matched, bad := bad, routes := routes, table := tbl })

theorem matchStart_keeps (m : Comm) (w : Work) (all : List (List Byte)) (bad : List Nat) (routes : List (Nat × Nat))
    (tbl : List Byte) : (matchStart m w all bad routes tbl).1.fab.colls = w.1.fab.colls ∧
      (matchStart m w all bad routes tbl).2.words = w.2.words ∧ (matchStart m w all bad routes tbl).2.phase = .matched :=
  collStart_keeps m (w.1, { w.2 with phase := .matched, bad := bad, routes := routes, table := tbl }) all

theorem collectiveMatch_starts (h : Matchable s c seq q peers) (ha : ∀ r ∈ requestsOf peers, sameRequest q.words r = true)
    (ht : tablesHere (commOf s c) q.words tables = true) :
    ∃ all bad routes tbl, exec (.collectiveMatch c seq peers tables) s =
      .next ((matchStart (commOf s c) (collTable (commOf s c) (s, q)).2 all bad routes tbl).1.collGo
        (matchStart (commOf s c) (collTable (commOf s c) (s, q)).2 all bad routes tbl).2) := by
  change ∃ all bad routes tbl, execCollectiveMatch c seq peers tables s = _
  simp only [execCollectiveMatch, h.pending]
  rw [← requestsOf, h.mayMatch, all_same ha, ht]
  simp only [Bool.not_true, Bool.and_false, Bool.false_eq_true, if_false]
  exact ⟨_, _, _, _, rfl⟩

/-- A request that matches goes on as matched. -/
theorem collectiveMatch_matches (h : Matchable s c seq q peers) (ha : ∀ r ∈ requestsOf peers, sameRequest q.words r = true)
    (ht : tablesHere (commOf s c) q.words tables = true) :
    ∃ t z, exec (.collectiveMatch c seq peers tables) s = .next t ∧ t.coll c seq = some z ∧ z.phase = .matched ∧
      z.words = q.words := by
  obtain ⟨all, bad, routes, tbl, hx⟩ := collectiveMatch_starts h ha ht
  obtain ⟨read, table, -⟩ := collTable_keeps (commOf s c) (s, q)
  obtain ⟨colls, words, phase⟩ := matchStart_keeps (commOf s c)
    (collTable (commOf s c) (s, q)).2 all bad routes tbl
  obtain ⟨z, hz, zwords, zphase⟩ := collGo_coll h.pending (colls.trans read) (words.trans table)
  exact ⟨_, z, hx, hz, zphase.trans phase, zwords.trans (words.trans table)⟩

end Matching

/-! ## The end of a request (R90) -/

section Ending
variable {s : State} {c : Fin 4096} {seq : BitVec 32} {q : Coll} {st : BitVec 8} {w : Word}

theorem collectiveComplete_none (h : s.coll c seq = none) : exec (.collectiveComplete c seq) s = .next s := by
  change execCollectiveComplete c seq s = _
  simp only [execCollectiveComplete, h]

theorem collectiveComplete_ends (h : s.coll c seq = some q) (hr : s.collRuns q = true) (he : s.collEnding q = some (st, w)) :
    exec (.collectiveComplete c seq) s = .next (s.endColl q st w (if st == 5 then 8 else 0)) := by
  change execCollectiveComplete c seq s = _
  simp only [execCollectiveComplete, h, hr, he, Bool.not_true, Bool.false_eq_true, if_false]

theorem endColl_colls (extra : BitVec 16) : (s.endColl q st w extra).fab.colls = (s.dropColl q).fab.colls := by
  unfold State.endColl
  dsimp only
  have told : ∀ k : Option Nat, (match k with
      | some t => match (s.dropColl q).sched.tasks.find? (·.id == t) with
        | some k => if clNotify q.words then (s.dropColl q).launch foreignCore 0
            (.deposit (k.coreAt (clCore q.words)) (collMessage q.words st) w true) else s.dropColl q
        | none => s.dropColl q
      | none => s.dropColl q : State).fab.colls = (s.dropColl q).fab.colls := by
    intro k
    split
    · split
      · split <;> rfl
      · rfl
    · rfl
  split
  · split
    · rw [complete_fab]
      exact told q.task
    · exact told q.task
  · exact told q.task

theorem endColl_forgets (h : s.coll c seq = some q) (extra : BitVec 16) :
    ∀ z ∈ (s.endColl q st w extra).fab.colls, ¬(clComm z.words = c.val ∧ clSeq z.words = seq) := by
  intro z hz hn
  obtain ⟨hc, hs⟩ := coll_names h
  rw [endColl_colls] at hz
  have := (List.mem_filter.1 hz).2
  simp [hn, hc, hs] at this

/-- The message of a request that a task has submitted goes to the core that it names. -/
theorem endColl_notifies {i : Nat} {k : Machine.Task} (hrcd : q.rcd = none) (ht : q.task = some i)
    (hk : s.sched.tasks.find? (·.id == i) = some k) (hn : clNotify q.words = true) (extra : BitVec 16) :
    s.endColl q st w extra = (s.dropColl q).launch foreignCore 0
      (.deposit (k.coreAt (clCore q.words)) (collMessage q.words st) w true) := by
  have hk' : (s.dropColl q).sched.tasks.find? (·.id == i) = some k := hk
  simp only [State.endColl, hrcd, ht, hk', hn, if_true]

end Ending

/-- Settles O58, each kind of event by the lemma that says what it does. -/
theorem collectiveEvents : Obligations.CollectiveEvents := fun s c =>
  ⟨fun v => ⟨commEnable_enabled, fun h hr => ⟨_, commEnable_unreadable h (Prod.ext hr rfl), comm_setComm .., rfl⟩,
      fun _ _ h hr => ⟨_, _, commEnable_readable h hr, comm_setComm .., rfl, rfl, rfl⟩⟩,
    commDisable_spec,
    fun _ h => collectiveRequestTake_none h,
    fun _ _ h => ⟨fun hr => ⟨_, collectiveRequestTake_reached h hr, mem_putColl (nextColl_mem h) rfl, rfl⟩,
      fun hr => ⟨_, collectiveRequestTake_far h hr, mem_putColl (nextColl_mem h) rfl⟩⟩,
    fun _ h => collectiveComplete_none h,
    fun _ q h => ⟨fun a hv => collectiveFaultNotice_held a h hv,
      fun a he hv => ⟨_, collectiveFaultNotice_ends a h he hv, coll_putColl h rfl, rfl⟩,
      fun _ _ _ data he hp => ⟨fun hk => ⟨_, chunkArrive_kept data h he hp hk, coll_putColl h rfl, rfl⟩,
        fun hk hv => chunkArrive_held data h hk hv,
        fun hk hv hr => ⟨_, chunkArrive_enters data h he hp hk hv hr, coll_putColl h rfl, rfl⟩,
        fun hk hv hr => chunkArrive_sticks data h he hp hk hv hr⟩,
      fun _ _ _ data he hp hruns hk hv hr => chunkArrive_matched data h he hp hruns (fun ⟨d, hd⟩ => hk d hd) hv hr,
      fun _ _ hp he hruns hl ho hf =>
        have m := ⟨h, hp, he, hruns, hl, ho, hf⟩
        ⟨fun hd => ⟨_, collectiveMatch_differ m hd, coll_putColl h rfl⟩, collectiveMatch_waits m, collectiveMatch_matches m⟩,
      fun _ _ hruns he => ⟨_, collectiveComplete_ends h hruns he, endColl_forgets h _, fun _ _ hrcd ht hk hn =>
        ⟨_, by rw [endColl_notifies hrcd ht hk hn]; rfl, rfl, by rw [endColl_notifies hrcd ht hk hn]; rfl⟩⟩⟩⟩

end Sys2Proof.Proofs

/-!
Proofs: remote operations, counters and posted buffers (R93 to R99, R395 to R404).
-/
namespace Sys2Proof.Proofs
open Sys2Proof Sys2Proof.Machine

/-! ## Instructions that change more than their thread -/

section Issuing
variable {s u : State} {k : Ctx} {x : Pre} {a : SReg} {v : Word} {body : Ctx → M Flow}

/-- The state after an instruction that has led to `u` writes a register and retires. -/
def wrote (u : State) (k : Ctx) (a : SReg) (v : Word) : State := (u.modThread k.core k.ts (·.setS a v)).retire k .next

theorem issue_done (h : s.Issues k x) (hb : body k s.unpopped = .ok (.next, u)) : issue x body s = .next (u.retire k .next) := by
  rw [Laws.issue_issues h, hb]
  rfl

theorem issue_wrote (h : s.Issues k x) (ha : u.plain k a)
    (hb : body k s.unpopped = (do writeS k a v; goOn : M Flow) u) : issue x body s = .next (wrote u k a v) := by
  rw [Laws.writeS_bind ha] at hb
  by_cases h0 : a = 0
  · subst h0
    rw [issue_done h (u := u) hb]
    simp [wrote, State.retire, Laws.setS_zero]
  · rw [if_neg h0] at hb
    exact issue_done h hb

theorem follow_s (t : Thread) (addr next : BitVec 16) (f : Flow) : (t.follow addr next f).s = t.s := by
  unfold Thread.follow Thread.loopNext
  repeat' split
  all_goals rfl

theorem own_retire_s (f : Flow) : ((u.retire k f).own k).s = (u.own k).s := by
  rw [State.own, State.retire, Laws.State.thread_modThread]
  exact follow_s ..

theorem own_wrote (h : a ≠ 0) : ((wrote u k a v).own k).s[a] = v := by
  rw [wrote, own_retire_s, State.own, Laws.State.thread_modThread, Thread.setS, if_neg h]
  exact Vector.getElem_set_self ..

theorem wrote_h : ((wrote u k a v).core k.core).h = (u.core k.core).h := by
  rw [wrote, State.retire, Laws.State.modThread_modThread, State.modThread, Laws.State.core_setThread]

theorem wrote_armed : ((wrote u k a v).core k.core).armed = (u.core k.core).armed := by
  rw [wrote, State.retire, Laws.State.modThread_modThread, State.modThread, Laws.State.core_setThread]

/-- A register stays plain when its core keeps its thread sets and the commands of its engines. -/
theorem plain_setCore {d : Core} (h : s.plain k a) (ht : d.thr = (s.core k.core).thr) (hv : d.vq = (s.core k.core).vq)
    (hm : d.mq = (s.core k.core).mq) : (s.setCore k.core d).plain k a := by
  unfold State.plain State.scalarBusy State.own State.thread at h ⊢
  dsimp only at h ⊢
  rwa [Laws.State.core_setCore, ht, hv, hm]

/-- An aligned block of the own scratchpad below the reserved range is read as the thread sees it (R438). -/
theorem localBlock_bind {α : Type} {p : Word} {n al : Nat} {space align : BitVec 8} {info : Bool} {g : List Byte → M α}
    (hp : p.toNat + n ≤ 0x3C000) (hal : p.toNat % al = 0) (ha : s.acquiring k.core k.ts = false) :
    (localBlock k p n al space align info >>= g) s =
      g (s.seenBytes k.core k.ts (.sram (padKey k.core + p.toNat)) n) s := by
  refine Laws.M.bind_ok ?_
  unfold localBlock
  have inside : ¬(0x40000 ≤ p.toNat) := by omega
  have below : ¬(sysReserved < p.toNat + n) := not_lt.2 hp
  rw [Laws.trapIf_bind, decide_eq_false inside, if_neg Bool.false_ne_true, Laws.trapIf_bind, if_neg (by simp [hal]),
    Laws.getState_bind, Laws.trapIf_bind, decide_eq_false below, Bool.false_and, if_neg Bool.false_ne_true,
    Laws.holdUnless_bind, if_pos (by simp [ha])]
  rfl

end Issuing

/-! ## Descriptors and the operations that they send (R99, R395) -/

section Sending
variable {s : State} {k : Ctx} {x : Pre} {b : SReg} {q : Machine.Task} {ws : List Word}

/-- The four words of the descriptor at the local address in a register, as the thread sees them. -/
def descOf (s : State) (k : Ctx) (b : SReg) : List Word :=
  wordsOf64 4 (s.seenBytes k.core k.ts (.sram (padKey k.core + (s.sreg k b).toNat)) 32)

/-- A descriptor's address is aligned and below the reserved range, and no acquire command is outstanding. -/
structure Readable (s : State) (k : Ctx) (b : SReg) : Prop where
  low : (s.sreg k b).toNat < 0x3C000
  aligned : (s.sreg k b).toNat % 32 = 0
  free : s.acquiring k.core k.ts = false

theorem readDesc_bind {α : Type} {g : List Byte → M α} (h : Readable s k b) :
    (localBlock k (s.sreg k b) 32 32 0x02 0x60 true >>= g) s.unpopped =
      g (s.seenBytes k.core k.ts (.sram (padKey k.core + (s.sreg k b).toNat)) 32) s.unpopped := by
  have room : (s.sreg k b).toNat + 32 ≤ 0x3C000 := by
    have := h.low
    have := h.aligned
    omega
  exact localBlock_bind (s := s.unpopped) room h.aligned h.free

theorem remoteOp_traps (n : Nat) (h : s.Issues k x) (hb : s.plain k b) (hr : Readable s k b)
    (hd : rdBad (descOf s k b) = true ∨ rdKind (descOf s k b) ≠ n) :
    remoteOp n x b s = .next (s.traps k 0x02 0) := by
  refine Laws.issue_traps h ?_
  rw [Laws.readS_bind (s := s.unpopped) hb, Laws.State.sreg_unpopped, readDesc_bind hr]
  rw [Laws.trapIf_bind, if_pos (by simpa [descOf] using hd)]

theorem remoteOp_sends (h : s.Issues k x) (hb : s.plain k b) (hr : Readable s k b)
    (hd : rdBad (descOf s k b) = false) : remoteOp (rdKind (descOf s k b)) x b s =
      .next ((s.unpopped.launchRemote k.core k.ts (descOf s k b)).retire k .next) := by
  refine issue_done h ?_
  rw [Laws.readS_bind (s := s.unpopped) hb, Laws.State.sreg_unpopped, readDesc_bind hr]
  rw [← descOf, Laws.trapIf_bind, if_neg (by simp [hd]), Laws.modState_bind]
  rfl

/-- An operation of the thread with these words is under way after everything that was. -/
def Sends (s : State) (k : Ctx) (q : Machine.Task) (ws : List Word) (t : State) : Prop :=
  ∃ f r, t.fab.fly = s.fab.fly ++ [f] ∧ f.core = k.core ∧ f.ts = k.ts ∧ f.what = .remote r ∧ r.words = ws ∧ r.task = q.id ∧
    r.status = none

theorem launchRemote_sends (hq : s.taskOf k.core = some q) : Sends s k q ws (s.launchRemote k.core k.ts ws) := by
  unfold State.launchRemote
  rw [hq]
  exact ⟨_, _, rfl, rfl, rfl, rfl, rfl, rfl, rfl⟩

theorem remoteOp_spec (h : s.Issues k x) (hb : s.plain k b) (hq : s.taskOf k.core = some q) (hr : Readable s k b)
    (hd : rdBad (descOf s k b) = false) : ∃ t, remoteOp (rdKind (descOf s k b)) x b s = .next t ∧
      Sends s k q (descOf s k b) t ∧ (t.own k).s = (s.own k).s ∧ t.mem = s.mem :=
  ⟨_, remoteOp_sends h hb hr hd, launchRemote_sends (s := s.unpopped) hq, own_retire_s _, rfl⟩

end Sending

/-! ## `TRIG` (R98, R399) -/

section Triggering
variable {s : State} {k : Ctx} {x : Pre} {a b : SReg} {h : HReg} {d : Fin 16} {q : Machine.Task} {th : Word} {ws : List Word}

/-- A task that replays no log has nothing logged for it. -/
theorem loggedHere_unreplayed (ts : Fin 4) (ty : Nat) {core : Nat} (hq : s.taskOf core = some q) (hr : q.replay = false) :
    s.loggedHere core ts ty = none := by
  simp [State.loggedHere, State.replays, hq, Task.replaying, hr]

theorem trigger_plain (ha : s.plain k a) (status : Nat) : (s.trigger k.core k.ts ws h th status).plain k a := by
  unfold State.trigger
  dsimp only
  split
  · exact ha
  · split
    · exact ha
    · exact plain_setCore ha rfl rfl rfl

/-- The threshold of `TRIG`, in the register that its fourth field names. -/
def thresholdOf (s : State) (k : Ctx) (d : Fin 16) : Word := s.sreg k (d.castLE (by decide))

theorem trig_traps (hi : s.Issues k x) (hb : s.plain k b) (hd : s.plain k (d.castLE (by decide)))
    (hr : Readable s k b) (hbad : rdBad (descOf s k b) = true) :
    exec (.trig x a b h d) s = .next (s.traps k 0x02 0) := by
  refine Laws.issue_traps hi ?_
  rw [Laws.readS_bind (s := s.unpopped) hb, Laws.readS_bind (s := s.unpopped) hd, Laws.State.sreg_unpopped, readDesc_bind hr]
  rw [← descOf, Laws.trapIf_bind, if_pos hbad]

/-- The status of `TRIG` now, outside replay. -/
def statusNow (s : State) (k : Ctx) (h : HReg) (th : Word) : Nat :=
  trigStatus (decide (th.toNat ≤ ((s.core k.core).h[h]).toNat)) (s.core k.core).armed

theorem trig_ends (hi : s.Issues k x) (ha : s.plain k a) (hb : s.plain k b) (hd : s.plain k (d.castLE (by decide)))
    (hq : s.taskOf k.core = some q) (hreplay : q.replay = false) (hrecord : q.record = false)
    (hr : Readable s k b) (hgood : rdBad (descOf s k b) = false) : exec (.trig x a b h d) s =
      .next (wrote (s.unpopped.trigger k.core k.ts (descOf s k b) h (thresholdOf s k d)
        (statusNow s k h (thresholdOf s k d))) k a
        (BitVec.ofNat 64 (statusNow s k h (thresholdOf s k d)))) := by
  refine issue_wrote hi (trigger_plain (s := s.unpopped) ha _) ?_
  rw [Laws.readS_bind (s := s.unpopped) hb, Laws.readS_bind (s := s.unpopped) hd, Laws.State.sreg_unpopped, readDesc_bind hr]
  rw [← descOf, Laws.trapIf_bind, if_neg (by simp [hgood]), Laws.getState_bind]
  rw [loggedHere_unreplayed (s := s.unpopped) _ _ hq hreplay, Laws.modState_bind,
    record_unrecorded (s := s.unpopped) _ _ _ _ fun p hp => by cases hq.symm.trans hp; exact hrecord, ite_self]
  rfl

theorem trigger_fires : s.trigger k.core k.ts ws h th 1 = s.launchRemote k.core k.ts ws := by
  simp [State.trigger]

theorem trigger_full : s.trigger k.core k.ts ws h th 2 = s := by
  simp [State.trigger]

theorem trigger_arms (hv : ((s.core k.core).h[h]).toNat < th.toNat) (harmed : (s.core k.core).armed = []) :
    s.trigger k.core k.ts ws h th 0 = s.setCore k.core { s.core k.core with armed := [⟨0, ws, h, th, k.ts⟩] } := by
  have arms : (0 == 1 || (0 == 0 && decide (th.toNat ≤ ((s.core k.core).h[h]).toNat))) = false := by simpa using hv
  simp only [State.trigger, arms, harmed]
  rfl

theorem freeArmed_full {l : List Armed} (hl : ∀ n, n < 32 → ∃ e ∈ l, e.slot = n) : freeArmed l = none := by
  simpa [freeArmed] using hl

theorem statusNow_reached (hv : th.toNat ≤ ((s.core k.core).h[h]).toNat) : statusNow s k h th = 1 := by
  rw [statusNow, decide_eq_true hv]
  rfl

theorem statusNow_free (hv : ((s.core k.core).h[h]).toNat < th.toNat) (harmed : (s.core k.core).armed = []) :
    statusNow s k h th = 0 := by
  simp only [statusNow, decide_eq_false (not_le.2 hv), harmed]
  rfl

theorem statusNow_full (hv : ((s.core k.core).h[h]).toNat < th.toNat)
    (hl : ∀ n, n < 32 → ∃ e ∈ (s.core k.core).armed, e.slot = n) : statusNow s k h th = 2 := by
  simp only [statusNow, decide_eq_false (not_le.2 hv), trigStatus, freeArmed_full hl]
  rfl

section
variable (hi : s.Issues k x) (ha : s.plain k a) (hb : s.plain k b) (hd : s.plain k (d.castLE (by decide)))
  (hq : s.taskOf k.core = some q) (hreplay : q.replay = false) (hrecord : q.record = false)
  (hr : Readable s k b) (hgood : rdBad (descOf s k b) = false)
include hi ha hb hd hq hreplay hrecord hr hgood

theorem trig_fires (hv : (thresholdOf s k d).toNat ≤ ((s.core k.core).h[h]).toNat) :
    ∃ t, exec (.trig x a b h d) s = .next t ∧ Sends s k q (descOf s k b) t ∧ (a ≠ 0 → (t.own k).s[a] = 1) ∧
      t.mem = s.mem := by
  refine ⟨_, trig_ends hi ha hb hd hq hreplay hrecord hr hgood, ?_⟩
  rw [statusNow_reached hv, trigger_fires]
  exact ⟨launchRemote_sends (s := s.unpopped) hq, own_wrote, rfl⟩

theorem trig_arms (hv : ((s.core k.core).h[h]).toNat < (thresholdOf s k d).toNat)
    (harmed : (s.core k.core).armed = []) : ∃ t e, exec (.trig x a b h d) s = .next t ∧ (t.core k.core).armed = [e] ∧
      e.words = descOf s k b ∧ e.h = h ∧ e.threshold = thresholdOf s k d ∧ e.ts = k.ts ∧ e.slot = 0 ∧
      (a ≠ 0 → (t.own k).s[a] = 0) ∧ t.fab.fly = s.fab.fly := by
  refine ⟨_, ⟨0, descOf s k b, h, thresholdOf s k d, k.ts⟩,
    trig_ends hi ha hb hd hq hreplay hrecord hr hgood, ?_⟩
  rw [statusNow_free hv harmed, trigger_arms (s := s.unpopped) hv harmed]
  exact ⟨by rw [wrote_armed, Laws.State.core_setCore], rfl, rfl, rfl, rfl, rfl, own_wrote, rfl⟩

theorem trig_refused (hv : ((s.core k.core).h[h]).toNat < (thresholdOf s k d).toNat)
    (hl : ∀ n, n < 32 → ∃ e ∈ (s.core k.core).armed, e.slot = n) : ∃ t, exec (.trig x a b h d) s = .next t ∧
      (a ≠ 0 → (t.own k).s[a] = 2) ∧ (t.core k.core).armed = (s.core k.core).armed ∧ t.fab.fly = s.fab.fly := by
  refine ⟨_, trig_ends hi ha hb hd hq hreplay hrecord hr hgood, ?_⟩
  rw [statusNow_full hv hl, trigger_full]
  exact ⟨own_wrote, wrote_armed, rfl⟩

end

end Triggering

/-! ## Counters (R98, R400, R401) -/

section Counting
variable {s : State} {k : Ctx} {x : Pre} {a b : SReg} {h : HReg}

/-- A counter on which nothing is armed is set, and nothing else changes. -/
theorem setCounter_unarmed {core : Nat} (harmed : (s.core core).armed = []) (v : Word) :
    s.setCounter core h v = s.setCore core { s.core core with h := (s.core core).h.set h v } := by
  unfold State.setCounter
  dsimp only
  split
  · rfl
  · simp only [harmed, List.filter_nil, List.isEmpty_nil, if_true, List.foldl_nil, Laws.State.core_setCore,
      Laws.State.setCore_setCore]

theorem countBy_counts (f : Word → Word → Word) (hi : s.Issues k x) (ha : s.plain k a) (hb : s.plain k b)
    (harmed : (s.core k.core).armed = []) :
    ∃ t, countBy f x a b h s = .next t ∧ (t.core k.core).h[h] = f (s.core k.core).h[h] (s.sreg k b) ∧
      (a ≠ 0 → (t.own k).s[a] = f (s.core k.core).h[h] (s.sreg k b)) ∧ t.fab.fly = s.fab.fly ∧ t.mem = s.mem := by
  refine ⟨_, issue_wrote hi (u := s.unpopped.setCore k.core { s.core k.core with
      h := (s.core k.core).h.set h (f (s.core k.core).h[h] (s.sreg k b)) }) (plain_setCore (s := s.unpopped) ha rfl rfl rfl) ?_,
    ?_, own_wrote, rfl, rfl⟩
  · rw [Laws.readS_bind (s := s.unpopped) hb, Laws.getCore_bind]
    dsimp only
    rw [Laws.modState_bind, setCounter_unarmed (s := s.unpopped) harmed]
    rfl
  · rw [wrote_h, Laws.State.core_setCore]
    exact Vector.getElem_set_self ..

theorem hwait_reached (hi : s.Issues k x) (ha : s.plain k a) (hb : s.plain k b)
    (hn : (s.sreg k b).toNat ≤ ((s.core k.core).h[h]).toNat) :
    exec (.hwait x a b h) s = .next (s.retires k .next (·.setS a (s.core k.core).h[h])) := by
  refine Laws.issue_writes hi ha ?_
  rw [Laws.readS_bind (s := s.unpopped) hb, Laws.getCore_bind, Laws.holdUnless_bind]
  exact if_pos (decide_eq_true hn)

theorem hwait_waits (hi : s.Issues k x) (hb : s.plain k b) (hn : ((s.core k.core).h[h]).toNat < (s.sreg k b).toNat) :
    exec (.hwait x a b h) s = .next (s.held k) := by
  refine Laws.issue_held hi ?_
  rw [Laws.readS_bind (s := s.unpopped) hb, Laws.getCore_bind, Laws.holdUnless_bind]
  exact if_neg (by rw [decide_eq_true_iff]; exact not_le.2 hn)

end Counting

/-! ## `CPOST` and `CREVOKE` (R93, R402, R403) -/

section Posted
variable {s : State} {k : Ctx} {x : Pre} {a b c : SReg} {q : Machine.Task}

theorem fieldOf_eq (n hi lo : Nat) : fieldOf n hi lo = n / 2 ^ lo % 2 ^ (hi + 1 - lo) := by
  rw [fieldOf, Nat.shiftRight_eq_div_pow]

theorem cpost_traps_space (hi : s.Issues k x) (hb : s.plain k b) (hc : s.plain k c) (ha : canonical (s.sreg k b) = false) :
    exec (.cpost x a b c) s = .next (s.traps k 0x02 0) := by
  refine Laws.issue_traps hi ?_
  rw [Laws.readS_bind (s := s.unpopped) hb, Laws.readS_bind (s := s.unpopped) hc, Laws.trapIf_bind, if_pos (by simp [ha])]

theorem cpost_traps_align (hi : s.Issues k x) (hb : s.plain k b) (hc : s.plain k c) (ha : canonical (s.sreg k b) = true)
    (hal : (s.sreg k b).toNat % 8 ≠ 0) : exec (.cpost x a b c) s = .next (s.traps k 0x60 (s.sreg k b)) := by
  refine Laws.issue_traps hi ?_
  rw [Laws.readS_bind (s := s.unpopped) hb, Laws.readS_bind (s := s.unpopped) hc, Laws.trapIf_bind, if_neg (by simp [ha]),
    Laws.trapIf_bind, if_pos (by simpa using hal)]
  rfl

/-- The operands of `CPOST` are a canonical aligned address and a length other than 0 without reserved bits. -/
structure Postable (s : State) (k : Ctx) (b c : SReg) : Prop where
  space : canonical (s.sreg k b) = true
  aligned : (s.sreg k b).toNat % 8 = 0
  reserved : (s.sreg k c).toNat < 2 ^ 38
  length : (s.sreg k c).toNat % 2 ^ 32 ≠ 0

theorem Postable.fields (h : Postable s k b c) :
    (fieldOf (s.sreg k c).toNat 63 38 != 0 || fieldOf (s.sreg k c).toNat 31 0 == 0) = false := by
  have := h.reserved
  have := h.length
  simp only [fieldOf_eq, Bool.or_eq_false_iff, bne_eq_false_iff_eq, beq_eq_false_iff_ne]
  omega

/-- `CPOST` with such operands comes past its checks. -/
theorem cpostOperands_bind {α : Type} {g : Word → Word → M α} (hb : s.plain k b) (hc : s.plain k c) (hp : Postable s k b c) :
    (do
      let ea ← readS k b
      let w ← readS k c
      trapIf (!canonical ea) 0x02
      trapIf (ea.toNat % 8 != 0) 0x60 ea
      trapIf (fieldOf w.toNat 63 38 != 0 || fieldOf w.toNat 31 0 == 0) 0x02
      g ea w) s.unpopped = g (s.sreg k b) (s.sreg k c) s.unpopped := by
  rw [Laws.readS_bind (s := s.unpopped) hb, Laws.readS_bind (s := s.unpopped) hc, Laws.trapIf_bind, if_neg (by simp [hp.space]),
    Laws.trapIf_bind, if_neg (by simp [hp.aligned]), Laws.trapIf_bind, Laws.State.sreg_unpopped, Laws.State.sreg_unpopped,
    hp.fields, if_neg Bool.false_ne_true]

theorem cpost_full (hi : s.Issues k x) (ha : s.plain k a) (hb : s.plain k b) (hc : s.plain k c) (hp : Postable s k b c)
    (hf : s.freePost = none) : exec (.cpost x a b c) s = .next (s.retires k .next (·.setS a 0x0200000000000000)) := by
  have free : s.unpopped.freePost = none := hf
  refine Laws.issue_writes hi ha ((cpostOperands_bind hb hc hp).trans ?_)
  rw [Laws.getState_bind]
  simp only [free]
  rfl

/-- The slot that `CPOST` fills, of the generation that stood there. -/
def slotOf (s : State) (k : Ctx) (b c : SReg) (q : Machine.Task) (n : Nat) : PostSlot :=
  { gen := (tblGet s.fab.posts n {}).gen, live := true, task := q.id, tenant := q.tenant, asid := q.asid, addr := s.sreg k b,
    len := fieldOf (s.sreg k c).toNat 31 0, st := (s.sreg k c).getLsbD 36, faa := (s.sreg k c).getLsbD 37,
    core := s.relOf k.core, ctr := ⟨fieldOf (s.sreg k c).toNat 35 32 % 16, Nat.mod_lt _ (by decide)⟩ }

/-- The state with a slot of the posted buffers. -/
def setPost (s : State) (n : Nat) (z : PostSlot) : State := { s with fab := { s.fab with posts := tblSet s.fab.posts n z } }

theorem cpost_posts {n : Nat} (hi : s.Issues k x) (ha : s.plain k a) (hb : s.plain k b) (hc : s.plain k c)
    (hq : s.taskOf k.core = some q) (hp : Postable s k b c) (hf : s.freePost = some n) : exec (.cpost x a b c) s =
      .next (wrote (setPost s.unpopped n (slotOf s k b c q n)) k a
        (BitVec.ofNat 64 (n * 256 + (slotOf s k b c q n).gen.toNat))) := by
  have free : s.unpopped.freePost = some n := hf
  have task : s.unpopped.taskOf k.core = some q := hq
  refine issue_wrote hi ha ((cpostOperands_bind hb hc hp).trans ?_)
  rw [Laws.getState_bind]
  simp only [free, task]
  rw [Laws.modState_bind]
  rfl

theorem cpost_spec {n : Nat} (hi : s.Issues k x) (ha : s.plain k a) (hb : s.plain k b) (hc : s.plain k c)
    (hq : s.taskOf k.core = some q) (hp : Postable s k b c) (hf : s.freePost = some n) :
    ∃ t z, exec (.cpost x a b c) s = .next t ∧ tblGet t.fab.posts n {} = z ∧ z.live = true ∧
      z.task = q.id ∧ z.tenant = q.tenant ∧ z.addr = s.sreg k b ∧ z.len = (s.sreg k c).toNat % 2 ^ 32 ∧
      z.st = (s.sreg k c).getLsbD 36 ∧ z.faa = (s.sreg k c).getLsbD 37 ∧
      (a ≠ 0 → (t.own k).s[a] = BitVec.ofNat 64 (n * 256 + z.gen.toNat)) ∧ t.mem = s.mem :=
  ⟨_, slotOf s k b c q n, cpost_posts hi ha hb hc hq hp hf, Laws.tblGet_tblSet_same .., rfl, rfl, rfl, rfl,
    by simp [slotOf, fieldOf_eq], rfl, rfl, own_wrote, rfl⟩

theorem handle_reserved {g : Nat} (h : g < 2 ^ 20) : fieldOf g 63 20 = 0 := by
  rw [fieldOf_eq]
  omega

theorem handle_slot {g : Nat} (h : g < 2 ^ 20) : fieldOf g 19 8 = g / 256 := by
  rw [fieldOf_eq]
  omega

theorem handle_gen (g : Nat) : fieldOf g 7 0 = g % 256 := by
  rw [fieldOf_eq]
  omega

/-- A handle without reserved bits names a live slot of the task, of its generation. -/
structure NamesOwn (s : State) (q : Machine.Task) (g : Nat) : Prop where
  live : (tblGet s.fab.posts (g / 256) {}).live = true
  task : (tblGet s.fab.posts (g / 256) {}).task = q.id
  gen : (tblGet s.fab.posts (g / 256) {}).gen.toNat = g % 256

theorem not_namesOwn {g : Nat} (h : (tblGet s.fab.posts (g / 256) {}).live = false ∨
    (tblGet s.fab.posts (g / 256) {}).task ≠ q.id ∨ (tblGet s.fab.posts (g / 256) {}).gen.toNat ≠ g % 256) : ¬NamesOwn s q g := by
  intro own
  obtain h | h | h := h
  · exact Bool.false_ne_true (h.symm.trans own.live)
  · exact h own.task
  · exact h own.gen

/-- The test of a handle that `CREVOKE` makes once no reserved bit stands in it. -/
theorem namesOwn_iff {g : Nat} : NamesOwn s q g ↔ (!(tblGet s.fab.posts (g / 256) {}).live ||
    !((tblGet s.fab.posts (g / 256) {}).task == q.id) || (tblGet s.fab.posts (g / 256) {}).gen.toNat != g % 256) = false := by
  simp only [Bool.or_eq_false_iff, Bool.not_eq_false', beq_iff_eq, bne_eq_false_iff_eq, and_assoc]
  exact ⟨fun h => ⟨h.live, h.task, h.gen⟩, fun ⟨h1, h2, h3⟩ => ⟨h1, h2, h3⟩⟩

theorem crevoke_traps_reserved (hi : s.Issues k x) (hb : s.plain k b) (hg : 2 ^ 20 ≤ (s.sreg k b).toNat) :
    exec (.crevoke x b) s = .next (s.traps k 0x02 0) := by
  have reserved : (fieldOf (s.sreg k b).toNat 63 20 != 0) = true := by
    rw [fieldOf_eq, bne_iff_ne]
    have := (s.sreg k b).isLt
    omega
  refine Laws.issue_traps hi ?_
  rw [Laws.readS_bind (s := s.unpopped) hb, Laws.State.sreg_unpopped, Laws.getState_bind]
  rw [Laws.trapIf_bind, reserved]
  rfl

theorem crevoke_traps_handle (hi : s.Issues k x) (hb : s.plain k b) (hq : s.taskOf k.core = some q)
    (hg : (s.sreg k b).toNat < 2 ^ 20) (hn : ¬NamesOwn s q (s.sreg k b).toNat) :
    exec (.crevoke x b) s = .next (s.traps k 0x02 0) := by
  have task : s.unpopped.taskOf k.core = some q := hq
  rw [namesOwn_iff, Bool.not_eq_false] at hn
  refine Laws.issue_traps hi ?_
  rw [Laws.readS_bind (s := s.unpopped) hb, Laws.State.sreg_unpopped, Laws.getState_bind]
  simp only [task, handle_reserved hg, handle_slot hg, handle_gen, bne_self_eq_false, Bool.false_or]
  rw [Laws.trapIf_bind]
  exact if_pos hn

theorem revokeWaits_unpopped (n : Nat) : s.unpopped.revokeWaits n = s.revokeWaits n := rfl

/-- With a handle that names an own slot it comes to the wait, and then to the end of the slot. -/
theorem crevoke_named (hi : s.Issues k x) (hb : s.plain k b) (hq : s.taskOf k.core = some q)
    (hg : (s.sreg k b).toNat < 2 ^ 20) (hn : NamesOwn s q (s.sreg k b).toNat) :
    exec (.crevoke x b) s = .next (s.unpopped.settle k ((do
      holdUnless (!s.revokeWaits ((s.sreg k b).toNat / 256))
      modState fun u => u.revoke ((s.sreg k b).toNat / 256)
      goOn : M Flow) s.unpopped)) := by
  have task : s.unpopped.taskOf k.core = some q := hq
  rw [namesOwn_iff] at hn
  refine (Laws.issue_issues hi _).trans (congrArg (fun r => Host.Outcome.next (s.unpopped.settle k r)) ?_)
  rw [Laws.readS_bind (s := s.unpopped) hb, Laws.State.sreg_unpopped, Laws.getState_bind]
  simp only [task, handle_reserved hg, handle_slot hg, handle_gen, bne_self_eq_false, Bool.false_or,
    revokeWaits_unpopped]
  rw [Laws.trapIf_bind, Laws.State.unpopped_fab, hn]
  rfl

theorem crevoke_waits (hi : s.Issues k x) (hb : s.plain k b) (hq : s.taskOf k.core = some q)
    (hg : (s.sreg k b).toNat < 2 ^ 20) (hn : NamesOwn s q (s.sreg k b).toNat)
    (hw : s.revokeWaits ((s.sreg k b).toNat / 256) = true) : exec (.crevoke x b) s = .next (s.held k) := by
  rw [crevoke_named hi hb hq hg hn, Laws.holdUnless_bind, hw]
  rfl

theorem crevoke_revokes (hi : s.Issues k x) (hb : s.plain k b) (hq : s.taskOf k.core = some q)
    (hg : (s.sreg k b).toNat < 2 ^ 20) (hn : NamesOwn s q (s.sreg k b).toNat)
    (hw : s.revokeWaits ((s.sreg k b).toNat / 256) = false) :
    exec (.crevoke x b) s = .next ((s.unpopped.revoke ((s.sreg k b).toNat / 256)).retire k .next) := by
  rw [crevoke_named hi hb hq hg hn, Laws.holdUnless_bind, hw]
  rfl

theorem crevoke_spec (hi : s.Issues k x) (hb : s.plain k b) (hq : s.taskOf k.core = some q)
    (hg : (s.sreg k b).toNat < 2 ^ 20) (hn : NamesOwn s q (s.sreg k b).toNat)
    (hw : s.revokeWaits ((s.sreg k b).toNat / 256) = false) : ∃ t, exec (.crevoke x b) s = .next t ∧
      tblGet t.fab.posts ((s.sreg k b).toNat / 256) {} = { tblGet s.fab.posts ((s.sreg k b).toNat / 256) {} with
        live := false, gen := (tblGet s.fab.posts ((s.sreg k b).toNat / 256) {}).gen + 1 } ∧ (t.own k).s = (s.own k).s :=
  ⟨_, crevoke_revokes hi hb hq hg hn hw, Laws.tblGet_tblSet_same .., own_retire_s _⟩

end Posted

/-! ## The request of an operation and its check (R94, R395) -/

section Requesting
variable {s : State} {f : Fly} {r : RemoteOp}

/-- An operation of this device is under way. -/
structure Going (s : State) (f : Fly) (r : RemoteOp) : Prop where
  found : s.fab.fly.find? (·.id == f.id) = some f
  remote : f.what = .remote r
  native : r.foreign = none

theorem Going.remoteAt (h : Going s f r) : s.remoteAt f.id = some (f, r) := by
  simp only [State.remoteAt, h.found, h.remote]

/-- The step towards its peer of an operation that has no status and has not passed its checks. -/
theorem requestArrive_unchecked (h : Going s f r) (hc : r.checked = false) (hs : r.status = none) :
    exec (.remoteRequestArrive f.id none) s = .next (if r.sent then
      (if r.kind == 0 && !s.vcHeld 1 then s.putRemote f.id { r with checked := true } else s) else s.requestRemote f r) := by
  change execRemoteRequestArrive f.id none s = _
  cases hsent : r.sent <;>
    simp only [execRemoteRequestArrive, h.found, h.remote, h.native, hc, hs, hsent, Option.isSome_none, Bool.false_eq_true,
      if_false, if_true]

theorem requestRemote_far (hd : r.dev ≠ s.boot.devnum) : s.requestRemote f r =
    if (s.routeTo r.dev).isNone then s.endRemote f.id r 9 0
    else if s.behindRequest f r then s
    else (s.putRemote f.id { r with sent := true }).post r.dev (reqChannel r.kind.val)
      (.remote r.dev.toNat f.id f.core r.tenant r.words) := by
  rw [State.requestRemote, if_neg (by simpa using hd)]

theorem requestRemote_here (hd : r.dev = s.boot.devnum) : s.requestRemote f r = s.checkRemote f r := by
  rw [State.requestRemote, if_pos (by simpa using hd)]

variable (h : Going s f r) (hc : r.checked = false) (hs : r.status = none)
include h hc hs

theorem requestArrive_passed (hsent : r.sent = true) (hk : r.kind = 0) (hv : s.vcHeld 1 = false) :
    exec (.remoteRequestArrive f.id none) s = .next (s.putRemote f.id { r with checked := true }) := by
  rw [requestArrive_unchecked h hc hs, if_pos hsent, hk, hv]
  rfl

theorem requestArrive_waits (hsent : r.sent = true) (hk : r.kind ≠ 0 ∨ s.vcHeld 1 = true) :
    exec (.remoteRequestArrive f.id none) s = .next s := by
  rw [requestArrive_unchecked h hc hs, if_pos hsent, if_neg]
  simpa [or_iff_not_imp_left] using hk

theorem requestArrive_unsent (hsent : r.sent = false) :
    exec (.remoteRequestArrive f.id none) s = .next (s.requestRemote f r) := by
  rw [requestArrive_unchecked h hc hs, hsent]
  rfl

theorem requestArrive_unreached (hsent : r.sent = false) (hd : r.dev ≠ s.boot.devnum) (hr : s.routeTo r.dev = none) :
    exec (.remoteRequestArrive f.id none) s = .next (s.endRemote f.id r 9 0) := by
  rw [requestArrive_unsent h hc hs hsent, requestRemote_far hd, hr]
  rfl

theorem requestArrive_behind (hsent : r.sent = false) (hd : r.dev ≠ s.boot.devnum) (hr : s.routeTo r.dev ≠ none)
    (hb : s.behindRequest f r = true) : exec (.remoteRequestArrive f.id none) s = .next s := by
  rw [requestArrive_unsent h hc hs hsent, requestRemote_far hd, if_neg (by simpa using hr), if_pos hb]

theorem requestArrive_leaves (hsent : r.sent = false) (hd : r.dev ≠ s.boot.devnum) (hr : s.routeTo r.dev ≠ none)
    (hb : s.behindRequest f r = false) : exec (.remoteRequestArrive f.id none) s =
      .next ((s.putRemote f.id { r with sent := true }).post r.dev (if r.kind = 0 ∨ r.kind = 1 then 1 else 0)
        (.remote r.dev.toNat f.id f.core r.tenant r.words)) := by
  have channel : ∀ k : Fin 4, reqChannel k.val = if k = 0 ∨ k = 1 then 1 else 0 := by decide
  rw [requestArrive_unsent h hc hs hsent, requestRemote_far hd, if_neg (by simpa using hr), hb, channel]
  rfl

theorem requestArrive_refused {e : BitVec 8} (hsent : r.sent = false) (hd : r.dev = s.boot.devnum)
    (he : s.handleCheck (rdHandle r.words) r.tenant r.kind.val (rdOff r.words) r.span = some e) :
    exec (.remoteRequestArrive f.id none) s = .next (s.endRemote f.id r e 0) := by
  rw [requestArrive_unsent h hc hs hsent, requestRemote_here hd, State.checkRemote, he]

theorem requestArrive_checked (hsent : r.sent = false) (hd : r.dev = s.boot.devnum)
    (he : s.handleCheck (rdHandle r.words) r.tenant r.kind.val (rdOff r.words) r.span = none) (hk : r.kind ≠ 3) :
    exec (.remoteRequestArrive f.id none) s = .next (s.putRemote f.id { r with checked := true }) := by
  rw [requestArrive_unsent h hc hs hsent, requestRemote_here hd, State.checkRemote, he]
  simp only [beq_eq_false_iff_ne.2 hk, Bool.false_eq_true, if_false, State.passRemote, h.native]

end Requesting

/-! ## `RFAA` and flags at the posted word (R96, R97, R397, R398) -/

section Changing
variable {s : State} {f : Fly} {r : RemoteOp}

/-- The number that the posted word becomes, before it is cut to 64 bits: an `RFAA` adds, a flag replaces. -/
def newWord (r : RemoteOp) : Nat → Nat := fun old => if r.kind = 2 then old + (r.words.getD 1 0).toNat else (r.words.getD 1 0).toNat

/-- The number of the answer: the old value, or the bytes of a flag. -/
def answerOf (r : RemoteOp) (old : Nat) : Nat := if r.kind = 2 then old else 8

/-- What an `RFAA` or a flag does when its turn has come. -/
def changes (s : State) (n : Nat) (r : RemoteOp) : Res :=
  if s.mustKeep n 0 r then .next (s.keep n 0 r (leBytes 8 (r.words.getD 1 0).toNat))
  else if (s.postedSlot r).isNone then .next (s.endRemote n r 7 0)
  else
    match s.changePosted r (newWord r) with
    | .ok (old, s) => .next (s.endRemote n r 0 (answerOf r old))
    | .error s => .next (s.endRemote n r 4 0)

theorem rfaaPerform_changes (h : Going s f r) (hk : r.kind = 2) (hc : r.checked = true) (hs : r.status = none) :
    exec (.rfaaPerform f.id) s = changes s f.id r := by
  have adds : newWord r = (· + (r.words.getD 1 0).toNat) := funext fun _ => if_pos hk
  have keeps : answerOf r = id := funext fun _ => if_pos hk
  change execRfaaPerform f.id s = _
  simp only [execRfaaPerform, changes, h.remoteAt, adds, keeps, hk, hc, hs]
  rfl

theorem rfenceFlagLand_waits (h : Going s f r) (hb : s.behindRst f r = true) : exec (.rfenceFlagLand f.id) s = .next s := by
  change execRfenceFlagLand f.id s = _
  simp only [execRfenceFlagLand, h.remoteAt, hb, Bool.or_true, if_true]

theorem rfenceFlagLand_changes (h : Going s f r) (hk : r.kind = 1) (hc : r.checked = true) (hs : r.status = none)
    (hb : s.behindRst f r = false) : exec (.rfenceFlagLand f.id) s = changes s f.id r := by
  have other : r.kind ≠ 2 := by rw [hk]; decide
  have replaces : newWord r = fun _ => (r.words.getD 1 0).toNat := funext fun _ => if_neg other
  have bytes : answerOf r = fun _ => 8 := funext fun _ => if_neg other
  change execRfenceFlagLand f.id s = _
  simp only [execRfenceFlagLand, changes, h.remoteAt, replaces, bytes, hk, hc, hs, hb]
  rfl

variable {n : Nat}

theorem changes_kept (hm : s.mustKeep n 0 r = true) :
    changes s n r = .next (s.keep n 0 r (leBytes 8 (r.words.getD 1 0).toNat)) := if_pos hm

theorem changes_stale (hm : s.mustKeep n 0 r = false) (hp : s.postedSlot r = none) :
    changes s n r = .next (s.endRemote n r 7 0) := by
  simp only [changes, hm, hp, Bool.false_eq_true, if_false, Option.isNone_none, if_true]

variable {q : PostSlot} {z : Machine.Task} {a : Word}

theorem postedSlot_of_postedWord (hw : s.postedWord r = some (q, z, a)) : s.postedSlot r ≠ none := by
  intro hn
  simp [State.postedWord, hn] at hw

/-- With a live slot whose task is here, it comes to the change of the posted word. -/
theorem changes_posted (hm : s.mustKeep n 0 r = false) (hw : s.postedWord r = some (q, z, a)) : changes s n r =
    match s.changePosted r (newWord r) with
    | .ok (old, s) => .next (s.endRemote n r 0 (answerOf r old))
    | .error s => .next (s.endRemote n r 4 0) := by
  simp only [changes, hm, Bool.false_eq_true, if_false, Option.isNone_iff_eq_none, postedSlot_of_postedWord hw]

variable {s1 : State} {bs : List Byte}

theorem changes_unreadable {e : BitVec 8 × Word} (hm : s.mustKeep n 0 r = false) (hw : s.postedWord r = some (q, z, a))
    (hg : s.globalBytes q.asid a 8 = .error (e, s1)) : changes s n r = .next (s1.endRemote n r 4 0) := by
  rw [changes_posted hm hw]
  simp only [State.changePosted, hw, hg]

theorem changes_unwritable {e : BitVec 8 × Word} {s2 : State} (hm : s.mustKeep n 0 r = false)
    (hw : s.postedWord r = some (q, z, a)) (hg : s.globalBytes q.asid a 8 = .ok (bs, s1))
    (hc : s1.checkedWrite (some (z.id, q.core)) q.asid a (leBytes 8 (newWord r (leNat bs) % 2 ^ 64)) = .error (e, s2)) :
    changes s n r = .next (s2.endRemote n r 4 0) := by
  rw [changes_posted hm hw]
  simp only [State.changePosted, hw, hg, hc]

theorem changes_done {s2 : State} (hm : s.mustKeep n 0 r = false) (hw : s.postedWord r = some (q, z, a))
    (hg : s.globalBytes q.asid a 8 = .ok (bs, s1))
    (hc : s1.checkedWrite (some (z.id, q.core)) q.asid a (leBytes 8 (newWord r (leNat bs) % 2 ^ 64)) = .ok s2) :
    changes s n r = .next ((s2.touchAt (homesOf a)).endRemote n r 0 (answerOf r (leNat bs))) := by
  rw [changes_posted hm hw]
  simp only [State.changePosted, hw, hg, hc]

theorem newWord_cut (r : RemoteOp) (old : Nat) : newWord r old % 2 ^ 64 =
    if r.kind = 2 then (old + (r.words.getD 1 0).toNat) % 2 ^ 64 else (r.words.getD 1 0).toNat := by
  unfold newWord
  split
  · rfl
  · exact Nat.mod_eq_of_lt (BitVec.isLt _)

end Changing

/-! ## Chunks (R95, R396) -/

section Chunks
variable {s s1 : State} {f : Fly} {r : RemoteOp} {j : Nat} {bs : List Byte}

/-- A chunk of a transfer of this device's may move now, and its source gives its bytes. -/
structure Moves (s : State) (f : Fly) (r : RemoteOp) (j : Nat) (s1 : State) (bs : List Byte) : Prop extends Going s f r where
  transfer : r.kind = 0
  checked : r.checked = true
  going : r.status = none
  whole : r.cut = false
  fresh : r.landed.contains j = false
  inside : j < r.chunkCount
  unkept : s.keptAt f.id j = none
  read : s.readChunk f r j = .bytes s1 bs

theorem rstChunkLand_moves (h : Moves s f r j s1 bs) (data : List Byte) : exec (.rstChunkLand f.id j data) s = .next
    (if r.sent then (s1.putRemote f.id { r with landed := r.landed ++ [j], bytes := r.bytes + bs.length }).post r.dev 0
      (.remoteChunk r.dev.toNat f.id j bs)
    else s1.takeChunk f r j bs) := by
  have inside : decide (r.chunkCount ≤ j) = false := decide_eq_false (not_le.2 h.inside)
  change execRstChunkLand f.id j data s = _
  simp only [execRstChunkLand, h.remoteAt, h.transfer, h.checked, h.going, h.fresh, inside, h.unkept, h.whole, h.native,
    State.moveChunk, h.read]
  rfl

theorem rstChunkLand_sends (h : Moves s f r j s1 bs) (data : List Byte) (hs : r.sent = true) :
    exec (.rstChunkLand f.id j data) s = .next
      ((s1.putRemote f.id { r with landed := r.landed ++ [j], bytes := r.bytes + bs.length }).post r.dev 0
        (.remoteChunk r.dev.toNat f.id j bs)) := by
  rw [rstChunkLand_moves h, if_pos hs]

theorem rstChunkLand_keeps (h : Moves s f r j s1 bs) (data : List Byte) (hs : r.sent = false)
    (hm : s1.mustKeep f.id j r = true) : exec (.rstChunkLand f.id j data) s = .next (s1.keep f.id j r bs) := by
  rw [rstChunkLand_moves h, hs, State.takeChunk, if_pos hm]
  rfl

theorem rstChunkLand_lands (h : Moves s f r j s1 bs) (data : List Byte) (hs : r.sent = false)
    (hm : s1.mustKeep f.id j r = false) :
    exec (.rstChunkLand f.id j data) s = .next ((s1.dropKept f.id (· == j)).landChunk f r j bs) := by
  rw [rstChunkLand_moves h, hs, State.takeChunk, hm]
  rfl

@[simp] theorem endRemote_core (s : State) (n : Nat) (r : RemoteOp) (st : BitVec 8) (v c : Nat) :
    (s.endRemote n r st v).core c = s.core c := by
  unfold State.endRemote
  dsimp only
  split
  · exact post_core ..
  · rfl

@[simp] theorem endRemote_mem (s : State) (n : Nat) (r : RemoteOp) (st : BitVec 8) (v : Nat) :
    (s.endRemote n r st v).mem = s.mem := by
  unfold State.endRemote
  dsimp only
  split
  · exact post_mem ..
  · rfl

/-- What a transfer comes to after one more of its chunks has landed. -/
def chunkEnds (s : State) (n : Nat) (r : RemoteOp) : State :=
  if r.landed.length == r.chunkCount then s.endRemote n r 0 r.bytes
  else if r.cut then s.cutShort n r
  else s.putRemote n r

theorem chunkEnds_keeps (s : State) (n : Nat) (r : RemoteOp) :
    (∀ c, (chunkEnds s n r).core c = s.core c) ∧ (chunkEnds s n r).mem = s.mem := by
  unfold chunkEnds State.cutShort
  split
  · simp
  · split
    · split
      · exact ⟨fun _ => rfl, rfl⟩
      · simp
    · exact ⟨fun _ => rfl, rfl⟩

theorem touchAt_keeps (s : State) (l : List (Nat × Nat)) : (∀ c, (s.touchAt l).core c = s.core c) ∧ (s.touchAt l).mem = s.mem := by
  unfold State.touchAt
  split <;> exact ⟨fun _ => rfl, rfl⟩

/-- A chunk that lands is written, and the poster's counter counts its bytes. -/
theorem landChunk_counts {k : Nat} {q : PostSlot} {z : Machine.Task} (hq : s.postedSlot r = some q) (hz : s.postedTask r = some z)
    (hw : s.checkedWrite (some (z.id, q.core)) q.asid (q.addr + BitVec.ofNat 64 (rdOff r.words + 4096 * k)) bs = .ok s1)
    (ha : (s1.core (z.coreAt q.core)).armed = []) :
    ((s.landChunk f r k bs).core (z.coreAt q.core)).h[q.ctr] =
      (s1.core (z.coreAt q.core)).h[q.ctr] + BitVec.ofNat 64 bs.length ∧ (s.landChunk f r k bs).mem = s1.mem := by
  have lands : s.landChunk f r k bs = chunkEnds
      ((s1.setCounter (z.coreAt q.core) q.ctr ((s1.core (z.coreAt q.core)).h[q.ctr] + BitVec.ofNat 64 bs.length)).touchAt
        (homesOf (q.addr + BitVec.ofNat 64 (rdOff r.words + 4096 * k)))) f.id
      { r with landed := r.landed ++ [k], bytes := r.bytes + bs.length } := by
    simp only [State.landChunk, hq, hz, hw]
    rfl
  obtain ⟨cores, mem⟩ := chunkEnds_keeps
    ((s1.setCounter (z.coreAt q.core) q.ctr ((s1.core (z.coreAt q.core)).h[q.ctr] + BitVec.ofNat 64 bs.length)).touchAt
      (homesOf (q.addr + BitVec.ofNat 64 (rdOff r.words + 4096 * k)))) f.id
    { r with landed := r.landed ++ [k], bytes := r.bytes + bs.length }
  rw [lands, cores, mem, (touchAt_keeps _ _).1, (touchAt_keeps _ _).2, setCounter_unarmed ha, Laws.State.core_setCore]
  exact ⟨Vector.getElem_set_self .., rfl⟩

end Chunks

/-! ## Completion words (R94, R395) -/

section Completions
variable {s : State} {core : Nat}

/-- The core's task, if it has one, neither records nor replays. -/
def Unlogged (s : State) (core : Nat) : Prop := ∀ q, s.taskOf core = some q → q.record = false ∧ q.replay = false

theorem Unlogged.replays (h : Unlogged s core) : s.replays core = false := by
  unfold State.replays
  cases ht : s.taskOf core with
  | none => rfl
  | some q => simp [Task.replaying, (h q ht).2]

theorem Unlogged.replayDue (h : Unlogged s core) (ty src ts detail : Nat) : s.replayDue core ty src ts detail = true := by
  simp [State.replayDue, State.replayTurn, State.nextLogged, h.replays]

theorem Unlogged.replayStep (h : Unlogged s core) (ty src : Nat) (ts : Fin 4) (detail : Nat) :
    s.replayStep core ty src ts detail = s := by
  rw [State.replayStep, h.replays]
  exact record_unrecorded _ _ _ _ fun q hq => (h q hq).1

theorem Unlogged.setCore (h : Unlogged s core) {d : Core} (hd : d.crew = (s.core core).crew) : Unlogged (s.setCore core d) core := by
  intro q hq
  rw [State.taskOf, Laws.State.core_setCore, hd] at hq
  exact h q hq

theorem Unlogged.modThread (h : Unlogged s core) (ts : Fin 4) (g : Thread → Thread) : Unlogged (s.modThread core ts g) core :=
  h.setCore rfl

theorem Unlogged.fillReg (h : Unlogged s core) (m : Msg) :
    s.fillReg core m = s.modThread core m.ts fun t => t.fill m.reg m.val := (h.modThread m.ts _).replayStep 1 m.src m.ts m.reg.val

theorem fill_same (t : Thread) (reg : Fin 16) (v : Word) : (t.fill reg v).m[reg] = ⟨v, true⟩ := Vector.getElem_set_self ..

theorem fill_other (t : Thread) {reg r : Fin 16} (hr : r ≠ reg) (v : Word) : (t.fill r v).m[reg] = t.m[reg] :=
  Vector.getElem_set_ne r.isLt reg.isLt fun h => hr (Fin.ext h)

/-- Overflow entries that move into registers leave one that is full, what is under way and memory. -/
theorem moveOverflow_keeps (fuel : Nat) {ts : Fin 4} {reg : Fin 16} (h : Unlogged s core)
    (hf : ((s.thread core ts).m[reg]).full = true) :
    ((State.moveOverflow fuel core s).thread core ts).m[reg] = (s.thread core ts).m[reg] ∧
      (State.moveOverflow fuel core s).fab = s.fab ∧ (State.moveOverflow fuel core s).mem = s.mem := by
  induction fuel generalizing s with
  | zero => exact ⟨rfl, rfl, rfl⟩
  | succ fuel ih =>
    cases hm : s.movable core with
    | none =>
      simp only [State.moveOverflow, hm, and_self]
    | some m =>
      have empty : ((s.thread core m.ts).m[m.reg]).full = false := by
        have := List.find?_some hm
        simp only [Bool.and_eq_true, Bool.not_eq_true'] at this
        exact this.1
      have calm : Unlogged (s.setCore core { s.core core with overflow := (s.core core).overflow.erase m }) core := h.setCore rfl
      have kept : (((s.setCore core { s.core core with overflow := (s.core core).overflow.erase m }).modThread core m.ts
          fun t => t.fill m.reg m.val).thread core ts).m[reg] = (s.thread core ts).m[reg] := by
        by_cases hts : ts = m.ts
        · subst hts
          have other : m.reg ≠ reg := fun he => by
            subst he
            exact Bool.false_ne_true (empty.symm.trans hf)
          rw [Laws.State.thread_modThread, fill_other _ other, Laws.State.thread_setCore]
          rfl
        · rw [Laws.State.thread_modThread_other _ _ _ _ _ _ (.inr hts), Laws.State.thread_setCore]
          rfl
      simp only [State.moveOverflow, hm, calm.fillReg]
      obtain ⟨reg', fab', mem'⟩ := ih (calm.modThread m.ts fun t => t.fill m.reg m.val) (by rw [kept]; exact hf)
      exact ⟨reg'.trans kept, fab', mem'⟩

/-- A message to an empty register behind none of its sender's fills it. -/
theorem deliverMsg_fills {m : Msg} (h : Unlogged s core) (hf : ((s.thread core m.ts).m[m.reg]).full = false)
    (ho : ∀ o ∈ (s.core core).overflow, o.ts = m.ts → o.reg = m.reg → o.src ≠ m.src) :
    ∃ t, s.deliverMsg core m = some t ∧ (t.thread core m.ts).m[m.reg] = ⟨m.val, true⟩ ∧ t.fab = s.fab ∧ t.mem = s.mem := by
  have first : ((s.core core).overflow.any fun o => o.ts == m.ts && o.reg == m.reg && o.src == m.src) = false := by
    simpa using ho
  have filled : ((s.fillReg core m).thread core m.ts).m[m.reg] = ⟨m.val, true⟩ := by
    rw [h.fillReg, Laws.State.thread_modThread]
    exact fill_same ..
  have calm : Unlogged (s.fillReg core m) core := by
    rw [h.fillReg]
    exact h.modThread m.ts _
  obtain ⟨reg, fab, mem⟩ := moveOverflow_keeps 17 calm (by rw [filled])
  refine ⟨_, ?_, reg.trans filled, fab.trans (by rw [h.fillReg]; rfl), mem.trans (by rw [h.fillReg]; rfl)⟩
  have empty : (((s.core core).thr[m.ts]).m[m.reg]).full = false := hf
  unfold State.deliverMsg
  simp only [empty, first, h.replayDue]
  rfl

variable {f : Fly} {r : RemoteOp}

theorem completionArrive_held (w : Word) (h : Going s f r) (hs : r.status = none) (hv : s.vcHeld 1 = true) :
    exec (.remoteCompletionArrive f.id w) s = .next s := by
  change execRemoteCompletionArrive f.id w s = _
  simp only [execRemoteCompletionArrive, h.remoteAt, h.native, hs, hv, Bool.or_true]
  rfl

theorem completionArrive_answered (w : Word) (h : Going s f r) (hs : r.status = none) (hsent : r.sent = true)
    (hv : s.vcHeld 1 = false) : exec (.remoteCompletionArrive f.id w) s =
      .next ((s.putRemote f.id { r with status := some ((w >>> 56).setWidth 8), result := w &&& 0xFFFFFFFFFFFFFF }).deliverWord f
        { r with status := some ((w >>> 56).setWidth 8), result := w &&& 0xFFFFFFFFFFFFFF }) := by
  change execRemoteCompletionArrive f.id w s = _
  simp only [execRemoteCompletionArrive, h.remoteAt, h.native, hs, hv, hsent]
  rfl

theorem completionArrive_delivers (w : Word) {e : BitVec 8} (h : Going s f r) (hs : r.status = some e) :
    exec (.remoteCompletionArrive f.id w) s = .next (s.deliverWord f r) := by
  change execRemoteCompletionArrive f.id w s = _
  simp only [execRemoteCompletionArrive, h.remoteAt, h.native, hs]
  rfl

theorem completionArrive_fills (w : Word) {e : BitVec 8} {z : Machine.Task} (h : Going s f r) (hs : r.status = some e)
    (hz : s.sched.tasks.find? (·.id == r.task) = some z) (he : z.ended = false)
    (hf : ((s.thread f.core f.ts).m[r.mreg]).full = false)
    (ho : ∀ o ∈ (s.core f.core).overflow, o.ts = f.ts → o.reg = r.mreg → o.src ≠ s.relOf f.core) (hl : Unlogged s f.core) :
    ∃ t, exec (.remoteCompletionArrive f.id w) s = .next t ∧ (t.thread f.core f.ts).m[r.mreg] =
        ⟨BitVec.ofNat 64 (e.toNat * 2 ^ 56 + r.result.toNat % 2 ^ 56), true⟩ ∧
      t.fab.fly = s.fab.fly.filter (·.id != f.id) ∧ t.mem = s.mem := by
  have mine : s.wordLost f r = false := by simp [State.wordLost, hz, he]
  have here : s.sched.tasks.any (·.id == r.task) = true :=
    List.any_eq_true.2 ⟨z, List.mem_of_find?_eq_some hz, (List.find?_some hz :)⟩
  obtain ⟨t, ht, reg, fab, mem⟩ := deliverMsg_fills (m := s.wordMsg f r) hl hf ho
  refine ⟨t.landed f.id, ?_, ?_, ?_, mem⟩
  · rw [completionArrive_delivers w h hs]
    simp only [State.deliverWord, mine, here, ht]
    rfl
  · refine (reg : _).trans ?_
    simp only [State.wordMsg, hs]
    rfl
  · rw [State.landed, fab]

end Completions

/-- Settles O47: each instruction by what it comes to, and each arrival by its cases. -/
theorem remoteResults : Obligations.RemoteResults := by
  refine ⟨fun s k x a b c h d q hi ha hb hc hd hq hreplay hrecord =>
    ⟨fun hp hal hacq => ?_, fun harmed => ⟨countBy_counts (· + ·) hi ha hb harmed, countBy_counts (· - ·) hi ha hb harmed⟩,
      hwait_reached hi ha hb, hwait_waits hi hb, fun hs hal hw hlen => ?_, cpost_traps_space hi hb hc,
      cpost_traps_align hi hb hc, ?_⟩,
    fun s f r hfind hwhat hnative => ⟨fun hc hs => ?_, fun hc hs => ?_, fun j bs data s1 hk hc hs hcut hnew hj hkept hread => ?_,
      ?_, ?_⟩,
    fun _ _ _ _ _ _ _ _ hq hz hw ha => landChunk_counts hq hz hw ha⟩
  · have hr : Readable s k b := ⟨hp, hal, hacq⟩
    refine ⟨fun i n hin => ?_, trig_traps hi hb hd hr, trig_fires hi ha hb hd hq hreplay hrecord hr,
      fun hgood hv => ⟨trig_arms hi ha hb hd hq hreplay hrecord hr hgood hv,
        trig_refused hi ha hb hd hq hreplay hrecord hr hgood hv⟩⟩
    have op : exec i s = remoteOp n x b s := by
      simp only [List.mem_cons, Prod.mk.injEq, List.not_mem_nil, or_false] at hin
      obtain ⟨rfl, rfl⟩ | ⟨rfl, rfl⟩ | ⟨rfl, rfl⟩ := hin <;> rfl
    rw [op]
    exact ⟨remoteOp_traps n hi hb hr, fun hgood hk => hk ▸ remoteOp_spec hi hb hq hr hgood⟩
  · have hp : Postable s k b c := ⟨hs, hal, hw, hlen⟩
    exact ⟨fun n => cpost_spec hi ha hb hc hq hp, cpost_full hi ha hb hc hp⟩
  · exact ⟨fun hg hl ht hgen => crevoke_waits hi hb hq hg ⟨hl, ht, hgen⟩,
      fun hg hl ht hgen => crevoke_spec hi hb hq hg ⟨hl, ht, hgen⟩, crevoke_traps_reserved hi hb,
      fun hg hn => crevoke_traps_handle hi hb hq hg (not_namesOwn hn)⟩
  · have going : Going s f r := ⟨hfind, hwhat, hnative⟩
    exact ⟨fun hsent hd => ⟨requestArrive_unreached going hc hs hsent hd, requestArrive_behind going hc hs hsent hd,
        requestArrive_leaves going hc hs hsent hd⟩, requestArrive_passed going hc hs, requestArrive_waits going hc hs,
      fun hsent hd => ⟨fun _ => requestArrive_refused going hc hs hsent hd, requestArrive_checked going hc hs hsent hd⟩⟩
  · have going : Going s f r := ⟨hfind, hwhat, hnative⟩
    refine ⟨fun _ => rfenceFlagLand_waits going, fun i hi => ?_⟩
    have change : exec i s = changes s f.id r := by
      obtain ⟨rfl, hk⟩ | ⟨rfl, hk, hb⟩ := hi
      · exact rfaaPerform_changes going hk hc hs
      · exact rfenceFlagLand_changes going hk hc hs hb
    rw [change]
    refine ⟨changes_kept, changes_stale, fun q z a hm hw => ⟨fun e s1 => changes_unreadable hm hw, fun bs s1 hg => ?_⟩⟩
    dsimp only
    rw [← newWord_cut]
    exact ⟨fun e s2 => changes_unwritable hm hw hg, fun s2 => changes_done hm hw hg⟩
  · have moves : Moves s f r j s1 bs := ⟨⟨hfind, hwhat, hnative⟩, hk, hc, hs, hcut, hnew, hj, hkept, hread⟩
    exact ⟨rstChunkLand_sends moves data, rstChunkLand_keeps moves data, rstChunkLand_lands moves data⟩
  · have going : Going s f r := ⟨hfind, hwhat, hnative⟩
    exact fun w hs hsent => ⟨completionArrive_held w going hs, completionArrive_answered w going hs hsent⟩
  · exact fun e z w hs hz he hf ho hl => completionArrive_fills w ⟨hfind, hwhat, hnative⟩ hs hz he hf ho hl

end Sys2Proof.Proofs

/-!
Proofs: walks and invalidations (R104 to R106).
-/
namespace Sys2Proof.Proofs
open Sys2Proof Sys2Proof.Machine

section Translations
variable {s : State} {asid : BitVec 16} {va : Nat}

/-- The translation that a leaf gives an address (R105). -/
def leafEntry (asid : BitVec 16) (va : Nat) (l : Leaf) : TlbEntry := ⟨asid, va / 2 ^ l.log * 2 ^ l.log, l.log, l.pa, l.w, l.pin⟩

theorem leafEntry_covers (asid : BitVec 16) (va : Nat) (l : Leaf) : (leafEntry asid va l).covers asid va = true := by
  simp [TlbEntry.covers, leafEntry]

theorem touch_head (x : Xlat) (va : Nat) (e : TlbEntry) : (tblGet (x.touch va e).tlb (stationOf va) []).head? = some e := by
  simp [Xlat.touch]

/-- An address that its station's cache does not cover is translated by a walk (R104). -/
theorem translate_uncached (h : ∀ e ∈ tblGet s.xl.tlb (stationOf va) [], e.covers asid va = false) :
    s.translate asid va = (walk s.mem.phys s.xl.rootE asid va).map fun l =>
      (leafEntry asid va l, { s with xl := s.xl.touch va (leafEntry asid va l) }) := by
  have none_covers : (tblGet s.xl.tlb (stationOf va) []).find? (·.covers asid va) = none :=
    List.find?_eq_none.2 fun e he => by simp [h e he]
  unfold State.translate
  rw [none_covers]
  cases walk s.mem.phys s.xl.rootE asid va <;> rfl

theorem translationWalkComplete_uncached {a : Word}
    (h : ∀ e ∈ tblGet s.xl.tlb (stationOf (a.toNat % 2 ^ 56)) [], e.covers asid (a.toNat % 2 ^ 56) = false) :
    exec (.translationWalkComplete asid a) s =
      match walk s.mem.phys s.xl.rootE asid (a.toNat % 2 ^ 56) with
      | .ok l => .next { s with xl := s.xl.touch (a.toNat % 2 ^ 56) (leafEntry asid (a.toNat % 2 ^ 56) l) }
      | .error _ => .next s := by
  change execTranslationWalkComplete asid a s = _
  rw [execTranslationWalkComplete, translate_uncached h]
  cases walk s.mem.phys s.xl.rootE asid (a.toNat % 2 ^ 56) <;> rfl

end Translations

section Invalidations
variable {s : State} {i : Inval}

theorem tblGet_map {α : Type} (f : α → α) (t : Tbl α) (n : Nat) (d : α) :
    tblGet (t.map fun (k, v) => (k, f v)) n (f d) = f (tblGet t n d) := by
  induction t with
  | nil => rfl
  | cons p t ih =>
    simp only [List.map_cons, tblGet, ih]
    split <;> rfl

/-- A write while an invalidation is under way is dropped (R106). -/
theorem xlinvWrite_dropped {what : Nat} (hw : what ≠ 3) (h : s.xl.inval = some i) (va : Nat) (asid : BitVec 16) :
    s.xlinvWrite what va asid = { s with xl := { s.xl with dropped := true } } := by
  simp [State.xlinvWrite, hw, h]

theorem xlinvWrite_taken {what : Nat} (hw : what ≠ 3) (h : s.xl.inval = none) (va : Nat) (asid : BitVec 16) :
    s.xlinvWrite what va asid = { s with xl := { s.xl with inval := some ⟨what, va, asid, s.xl.rootW⟩ } } := by
  simp [State.xlinvWrite, hw, h]

theorem xlinvComplete_waits (h : s.invalReady = false) : exec .xlinvComplete s = .next s := by
  change execXlinvComplete s = _
  simp [execXlinvComplete, h]

theorem xlinvComplete_ends (h : s.invalReady = true) : exec .xlinvComplete s = .next s.xlinvComplete := by
  change execXlinvComplete s = _
  simp [execXlinvComplete, h]

theorem invalReady_of_inval (h : s.xl.inval = some i) : s.invalReady = !s.invalWaits i := by
  simp [State.invalReady, h]

theorem mem_xlinvComplete_tlb (h : s.xl.inval = some i) (n : Nat) (e : TlbEntry) :
    e ∈ tblGet s.xlinvComplete.xl.tlb n [] ↔ e ∈ tblGet s.xl.tlb n [] ∧ i.names e = false := by
  have kept := tblGet_map (fun l : List TlbEntry => l.filter fun e => !i.names e) s.xl.tlb n []
  simp only [List.filter_nil] at kept
  simp only [State.xlinvComplete, h, kept, List.mem_filter, Bool.not_eq_true']

end Invalidations

/-- Settles O52: a walk by its leaf, an invalidation by whether one is under way and by whether a store still waits. -/
theorem translationEvents : Obligations.TranslationEvents := by
  intro s asid va v
  refine ⟨fun uncached => ⟨fun l hl => ?_, fun c hc => ?_⟩, fun h => ⟨?_, ?_, ?_, ?_⟩, rfl, fun i h => ⟨fun j hj => ?_, fun hw => ?_,
    fun hw => ?_⟩, fun _ => rfl⟩
  · rw [translationWalkComplete_uncached uncached, hl]
    exact ⟨_, leafEntry asid v l, rfl, touch_head .., rfl, leafEntry_covers .., rfl, rfl, rfl⟩
  · rw [translationWalkComplete_uncached uncached, hc]
  · exact congrArg Host.Outcome.next (xlinvWrite_taken (by decide) h ..)
  · exact congrArg Host.Outcome.next (xlinvWrite_taken (by decide) h ..)
  · have page : va.toNat / 2 ^ 16 % 2 ^ 40 = fieldOf va.toNat 55 16 := by simp [fieldOf_eq]
    rw [page]
    exact congrArg Host.Outcome.next (xlinvWrite_taken (by decide) h ..)
  · exact xlinvComplete_waits (by simp [State.invalReady, h])
  · simp only [List.mem_cons, List.not_mem_nil, or_false] at hj
    obtain rfl | rfl | rfl := hj <;> exact congrArg Host.Outcome.next (xlinvWrite_dropped (by decide) h ..)
  · exact xlinvComplete_waits (by rw [invalReady_of_inval h, hw]; rfl)
  · refine ⟨_, xlinvComplete_ends (by rw [invalReady_of_inval h, hw]; rfl), ?_, ?_, mem_xlinvComplete_tlb h, ?_⟩ <;>
      simp [State.xlinvComplete, h]

end Sys2Proof.Proofs

/-!
Proofs: accesses that a check refuses, and the order of the checks (R72, R101, R104, R267, R277).
-/
namespace Sys2Proof.Proofs
open Sys2Proof Sys2Proof.Machine

/-! ## A load or store is refused -/

theorem exec_load {i : Instr} {x : Pre} {a b : SReg} {imm : Word} {n : Nat} {signed : Bool}
    (h : Claims.load i = some (x, a, b, imm, n, signed)) : exec i = loadS n signed x a b imm := by
  unfold Claims.load at h
  split at h <;> cases h <;> rfl

theorem exec_store {i : Instr} {x : Pre} {a b : SReg} {imm : Word} {n : Nat} (h : Claims.store i = some (x, a, b, imm, n)) :
    exec i = storeS n x a b imm := by
  unfold Claims.store at h
  split at h <;> cases h <;> rfl

section Refusals
variable {s : State} {k : Ctx} {x : Pre} {a b : SReg} {imm ea : Word} {n al : Nat} {e : BitVec 8}

/-- The state in which an access is refused: a translation is kept and the class of the space debited (R72, R104). -/
def refusedAt (s : State) (k : Ctx) (ea : Word) (e : BitVec 8) : State :=
  ((s.unpopped.walked (s.asidOf k.core) ea e).debitSpace k ea).exactTrap k.core k.ts e ea k.addr

theorem issue_refused (h : s.Issues k x) {body : Ctx → M Flow} (hb : body k s.unpopped = .error (accessTrap k ea e)) :
    issue x body s = .next (refusedAt s k ea e) := by
  rw [Laws.issue_issues h, hb]
  rfl

theorem loadMem_refused (h : s.access k.core ea n al false (sysAccess k (s.own k)) = .error e) :
    loadMem k x ea n al s = .error (accessTrap k ea e) := by
  rw [State.own] at h
  simp only [loadMem, h]

theorem storeMem_refused {bs : List Byte} (h : s.access k.core ea bs.length al true (sysAccess k (s.own k)) = .error e) :
    storeMem k x ea bs al s = .error (accessTrap k ea e) := by
  rw [State.own] at h
  simp only [storeMem, h]

theorem loadS_refused (signed : Bool) (h : s.Issues k x) (hb : s.plain k b)
    (hacc : s.unpopped.access k.core (s.sreg k b + imm) n n false (sysAccess k (s.own k)) = .error e) :
    loadS n signed x a b imm s = .next (refusedAt s k (s.sreg k b + imm) e) := by
  refine issue_refused h ?_
  rw [Laws.readS_bind (s := s.unpopped) hb]
  exact Laws.M.bind_error (loadMem_refused hacc)

theorem storeS_refused (h : s.Issues k x) (ha : s.plain k a) (hb : s.plain k b)
    (hacc : s.unpopped.access k.core (s.sreg k b + imm) n n true (sysAccess k (s.own k)) = .error e) :
    storeS n x a b imm s = .next (refusedAt s k (s.sreg k b + imm) e) := by
  refine issue_refused h ?_
  rw [Laws.readS_bind (s := s.unpopped) hb, Laws.readS_bind (s := s.unpopped) ha]
  refine Laws.M.bind_error (storeMem_refused ?_)
  rw [length_leBytes]
  exact hacc

end Refusals

/-! ## The order of the checks (R101) -/

section Checks
variable {s : State} {core : Nat} {a : Word} {n al : Nat} {w sys : Bool} {t : Machine.Task} {e : BitVec 8}

theorem access_misaligned (h : a.toNat % al ≠ 0) : s.access core a n al w sys = .error 0x60 := by
  simp [State.access, h]

theorem access_of_place_error (h : a.toNat % al = 0) (hp : s.place core a sys = .error e) : s.access core a n al w sys = .error e := by
  simp [State.access, h, hp]

theorem getLsbD_63_iff : a.getLsbD 63 = true ↔ 0x8000000000000000 ≤ a.toNat := by
  rw [BitVec.getLsbD, Nat.testBit_eq_decide_div_mod_eq, decide_eq_true_eq]
  omega

theorem place_pad (ht : s.taskOf core = some t) (h : a.toNat < 0x3C000) : s.place core a false = .ok (.pad core a.toNat) := by
  have inside : a.toNat < 0x40000 := by omega
  have open_ : ¬ sysReserved ≤ a.toNat := by simp only [sysReserved]; omega
  simp [State.place, ht, inside, open_]

theorem place_reserved (ht : s.taskOf core = some t) (h1 : 0x3C000 ≤ a.toNat) (h2 : a.toNat < 0x40000) :
    s.place core a false = .error 0x62 := by
  have reserved : sysReserved ≤ a.toNat := h1
  simp [State.place, ht, h2, reserved]

theorem place_global (ht : s.taskOf core = some t) (h : 0x8000000000000000 ≤ a.toNat) :
    s.place core a false = if a.toNat / 2 ^ 56 % 128 = 0 then .ok (.glob a) else .error 0x64 := by
  have outside : ¬ a.toNat < 0x40000 := by omega
  have high : a.getLsbD 63 = true := getLsbD_63_iff.2 h
  have reserved : fieldOf a.toNat 62 56 = a.toNat / 2 ^ 56 % 128 := fieldOf_eq ..
  simp only [State.place, ht, outside, high, reserved, if_true, if_false]
  split <;> simp_all

theorem place_gap (ht : s.taskOf core = some t) (h1 : 0x40000 ≤ a.toNat) (h2 : a.toNat < 0x100000000) :
    s.place core a false = .error 0x61 := by
  have outside : ¬ a.toNat < 0x40000 := by omega
  have near : a.getLsbD 63 = false := by rw [← Bool.not_eq_true, getLsbD_63_iff]; omega
  have relative : relWindow a.toNat = none := by rw [relWindow, if_neg (by omega), if_neg (by omega), if_neg (by omega)]
  have pads : ¬ (0x200000000 ≤ a.toNat ∧ a.toNat < 0x240000000) := by omega
  have banks : bankWindow a.toNat = none := by rw [bankWindow, if_neg (by omega), if_neg (by omega), if_neg (by omega)]
  simp only [State.place, ht, outside, near, relative, pads, banks, Bool.false_eq_true, if_false]

theorem place_sgroup (ht : s.taskOf core = some t) (h1 : 0x100400000 ≤ a.toNat) (h2 : a.toNat < 0x100C00000) (hl : t.level < 3) :
    s.place core a false = .error 0x63 := by
  have outside : ¬ a.toNat < 0x40000 := by omega
  have near : a.getLsbD 63 = false := by rw [← Bool.not_eq_true, getLsbD_63_iff]; omega
  have relative : relWindow a.toNat = some (3, a.toNat - 0x100400000) := by
    unfold relWindow
    rw [if_neg (by omega), if_neg (by omega), if_pos ⟨h1, h2⟩]
  simp only [State.place, ht, outside, near, relative, hl, Bool.false_eq_true, if_false, if_true]

/-- An aligned access to global space ends in its unit of 2^56 bytes. -/
theorem global_tail (hn : n ∈ [1, 2, 4, 8]) (h : a.toNat % n = 0) : fieldOf a.toNat 55 0 + n ≤ 0x100000000000000 := by
  have low : fieldOf a.toNat 55 0 = a.toNat % 2 ^ 56 := by rw [fieldOf_eq, pow_zero, Nat.div_one]
  simp only [List.mem_cons, List.not_mem_nil, or_false] at hn
  rw [low]
  obtain rfl | rfl | rfl | rfl := hn <;> omega

section Global
variable (hal : a.toNat % n = 0) (hn : n ∈ [1, 2, 4, 8]) (hp : s.place core a false = .ok (.glob a))
include hal hn hp

theorem access_untranslated (hc : s.globalCell (s.asidOf core) a w = .error e) : s.access core a n n w false = .error e := by
  simp [State.access, hal, hp, global_tail hn hal, State.locate, hc]

theorem access_global_refused {r : Nat × State} (hc : s.globalCell (s.asidOf core) a true = .ok r)
    (hm : s.mayStore (s.taskNo core) (s.relOf core) (s.asidOf core) a n = false) : s.access core a n n true false = .error 0x68 := by
  simp [State.access, hal, hp, global_tail hn hal, State.locate, hc, State.absAddr, hm]

end Global

section Scratchpad
variable (hal : a.toNat % n = 0) (hn : n ≤ 8) (ht : s.taskOf core = some t) (ha : a.toNat < 0x3C000)
include hal hn ht ha

theorem access_pad_refused
    (hm : s.mayStore (s.taskNo core) (s.relOf core) (s.asidOf core) (s.absAddr core (.pad core a.toNat)) n = false) :
    s.access core a n n true false = .error 0x68 := by
  have tail : a.toNat + n ≤ 0x40000 := by omega
  simp [State.access, hal, place_pad ht ha, tail, State.locate, hm]

theorem access_lap_cell
    (hm : s.mayStore (s.taskNo core) (s.relOf core) (s.asidOf core) (s.absAddr core (.pad core a.toNat)) n = true)
    (hl : s.lapProtected core a.toNat n = true) : s.access core a n n true false = .error 0x84 := by
  have tail : a.toNat + n ≤ 0x40000 := by omega
  simp [State.access, hal, place_pad ht ha, tail, State.locate, hm, hl]

end Scratchpad
end Checks

/-- Settles O21: the access is refused before the instruction has an effect, and the checks are made in the order of R101. -/
theorem accessFaults : Obligations.AccessFaults := by
  refine ⟨fun s k i x a b imm n e hi ha hb => ⟨fun signed hload hacc => ?_, fun hstore hacc => ?_,
    fun hal w => access_misaligned hal⟩, fun s core a n w t ht hn => ⟨access_misaligned, fun hal => ⟨fun h1 h2 => ?_,
    fun h1 h2 => ?_, fun h1 h2 => ?_, fun h1 h2 hl => ?_, fun h1 h2 => ?_, fun ha hw => ?_⟩⟩⟩
  · rw [exec_load hload]
    exact loadS_refused signed hi hb hacc
  · rw [exec_store hstore]
    exact storeS_refused hi ha hb hacc
  · exact access_of_place_error hal (place_reserved ht h1 h2)
  · exact access_of_place_error hal ((place_global ht h1).trans (if_neg h2))
  · exact access_of_place_error hal (place_gap ht h1 h2)
  · exact access_of_place_error hal (place_sgroup ht h1 h2 hl)
  · have glob : s.place core a false = .ok (.glob a) := (place_global ht h1).trans (if_pos h2)
    exact ⟨fun e => access_untranslated hal hn glob, fun r hc hw hm => by subst hw; exact access_global_refused hal hn glob hc hm⟩
  · have small : n ≤ 8 := by simp only [List.mem_cons, List.not_mem_nil, or_false] at hn; omega
    subst hw
    exact ⟨access_pad_refused hal small ht ha, access_lap_cell hal small ht ha⟩

end Sys2Proof.Proofs

/-!
Proofs: stores that are under way until they land (R102, R103, R153, R155, R276, R277).
-/
namespace Sys2Proof.Proofs
open Sys2Proof Sys2Proof.Machine

/-! ## What an access costs and records changes nothing that a store rests on -/

/-- A step leaves what is under way, every memory, and the loop of a thread. -/
structure LeavesPlace (k : Ctx) (s t : State) : Prop where
  fab : t.fab = s.fab
  mem : t.mem = s.mem
  loop : (t.own k).loop = (s.own k).loop

namespace LeavesPlace
variable {k : Ctx} {s t u : State}

theorem refl (s : State) : LeavesPlace k s s := ⟨rfl, rfl, rfl⟩

theorem trans (h : LeavesPlace k s t) (g : LeavesPlace k t u) : LeavesPlace k s u :=
  ⟨g.fab.trans h.fab, g.mem.trans h.mem, g.loop.trans h.loop⟩

theorem withBud (s : State) (b : Budgets) : LeavesPlace k s { s with bud := b } := ⟨rfl, rfl, rfl⟩

theorem modThread (s : State) {f : Thread → Thread} (hf : ∀ t, (f t).loop = t.loop) : LeavesPlace k s (s.modThread k.core k.ts f) :=
  ⟨rfl, rfl, by rw [State.own, Laws.State.thread_modThread, hf]; rfl⟩

theorem debitEnergy (s : State) (core n : Nat) : LeavesPlace k s (s.debitEnergy core n) := by
  unfold State.debitEnergy
  split
  · exact .refl s
  · exact .withBud ..

theorem debitClass (s : State) (core cls times : Nat) : LeavesPlace k s (s.debitClass core cls times) := by
  unfold State.debitClass
  dsimp only
  split
  · exact .refl s
  · exact (LeavesPlace.withBud ..).trans (.debitEnergy ..)

theorem debitBandwidth (s : State) (core n : Nat) : LeavesPlace k s (s.debitBandwidth core n) := by
  unfold State.debitBandwidth
  split
  · exact .refl s
  · exact .withBud ..

/-- The request and the issue of an access are debited (R71, R72). -/
theorem debitAccess (s : State) (c : Ctx) (a : Word) (p : Place) (n : Nat) : LeavesPlace k s (s.debitAccess c a p n) := by
  have port : LeavesPlace k s (s.debitPort c p n) := by
    unfold State.debitPort
    split
    · exact .debitBandwidth ..
    · exact .refl s
  have space (u : State) : LeavesPlace k u (u.debitSpace c a) := by
    unfold State.debitSpace
    split
    · exact .refl u
    · exact .debitClass ..
  exact port.trans (space _)

theorem foldDigest (s : State) (a : Word) (bs : List Byte) : LeavesPlace k s (s.foldDigest k.core k.ts a bs) := by
  unfold State.foldDigest State.foldWrites
  split
  · exact .refl s
  · split
    · exact .modThread s fun _ => rfl
    · exact .modThread s fun _ => rfl

theorem missed (s : State) (x : Pre) (kind : Fin 3) (a : Word) (n : Nat) (v : Word) (home : Nat) :
    LeavesPlace k s (s.missed k.core k.ts x kind a n v home) := by
  unfold State.missed
  split
  · exact .modThread s fun _ => rfl
  · exact .refl s

end LeavesPlace

section Retiring
variable {s t : State} {k : Ctx}

theorem loopNext_pc_congr {t u : Thread} (h : t.loop = u.loop) (next : BitVec 16) : (t.loopNext next).pc = (u.loopNext next).pc := by
  unfold Thread.loopNext
  rw [h]
  split
  · split
    · split <;> rfl
    · rfl
  · rfl

theorem own_retire_pc (s : State) (k : Ctx) : ((s.retire k .next).own k).pc = ((s.own k).loopNext k.next).pc := by
  rw [State.own, State.retire, Laws.State.thread_modThread]
  rfl

end Retiring

/-! ## A store elsewhere (R102, R103, R276) -/

section Storing
variable {s s1 : State} {k : Ctx} {x : Pre} {a b : SReg} {imm ea : Word} {n al : Nat} {acc : Access} {bs : List Byte} {core : Nat}

theorem locate_onlyGlobal {p : Place} {w : Bool} {l : Loc} (h : s.locate core p w = .ok (l, s1)) : OnlyGlobal s s1 := by
  unfold State.locate at h
  split at h
  · cases h
    exact .refl s
  · cases h
    exact .refl s
  · split at h
    · rename_i hc
      cases h
      exact globalCell_onlyGlobal hc
    · cases h

/-- A check that has passed leaves what comes after it. -/
theorem eq_ok_of_check {ε α : Type} {c : Prop} [Decidable c] {e : ε} {r : Except ε α} {v : α}
    (h : (if c then .error e else r) = .ok v) : r = .ok v := by
  split at h
  · cases h
  · exact h

/-- An access that passes its checks has a place, and its state is the one in which the place was located. -/
theorem locate_of_access {w sys : Bool} (h : s.access core ea n al w sys = .ok (acc, s1)) :
    s.place core ea sys = .ok acc.place ∧ s.locate core acc.place w = .ok (acc.loc, s1) := by
  unfold State.access at h
  replace h := eq_ok_of_check h
  split at h
  · cases h
  · rename_i hp
    replace h := eq_ok_of_check h
    split at h
    · cases h
    · rename_i hl
      replace h := eq_ok_of_check h
      split at h
      · cases eq_ok_of_check h
        exact ⟨hp, hl⟩
      · cases h
        exact ⟨hp, hl⟩

/-- An access that passes its checks changes physical memory and translations alone. -/
theorem access_onlyGlobal {w sys : Bool} (h : s.access core ea n al w sys = .ok (acc, s1)) : OnlyGlobal s s1 :=
  locate_onlyGlobal (locate_of_access h).2

/-- The mark that a store of a thread carries (R102, R155). -/
def scalarTag (s : State) (k : Ctx) (x : Pre) (acc : Access) : StoreTag :=
  ⟨acc.home, orderedStore x acc.scope, false, s.absAddr k.core acc.place⟩

/-- The store goes to another home, or behind an earlier store of the thread. -/
def GoesUnderWay (s : State) (k : Ctx) (x : Pre) (acc : Access) (n : Nat) : Prop :=
  acc.place.isOwn k.core = false ∨ s.storeAhead k.core k.ts acc.loc n (scalarTag s k x acc) = true

theorem store_launches (h : GoesUnderWay s k x acc bs.length) : s.store k.core k.ts acc bs (orderedStore x acc.scope) false =
    s.launch k.core k.ts (.store acc.loc bs (scalarTag s k x acc)) := by
  unfold State.store State.storeTo
  refine if_neg ?_
  obtain own | ahead := h
  · simp [own]
  · rw [scalarTag] at ahead
    simp [ahead]

/-- A store that passes its checks and does not land at once is under way, and nothing else is. -/
theorem storeMem_launches (h : s.access k.core ea bs.length al true (sysAccess k (s.own k)) = .ok (acc, s1))
    (hw : GoesUnderWay s1 k x acc bs.length) (hacq : s.acquiring k.core k.ts = false) (hport : s.portHeld k acc.place = false) :
    ∃ t, storeMem k x ea bs al s = .ok ((), t) ∧
      LeavesPlace k (s1.launch k.core k.ts (.store acc.loc bs (scalarTag s1 k x acc))) t := by
  rw [State.own] at h
  simp only [storeMem, h, hacq, hport, store_launches hw, Bool.false_eq_true, if_false]
  exact ⟨_, rfl, ((LeavesPlace.debitAccess ..).trans (.foldDigest ..)).trans (.missed ..)⟩

theorem storeS_launches (h : s.Issues k x) (ha : s.plain k a) (hb : s.plain k b)
    (hacc : s.unpopped.access k.core (s.sreg k b + imm) n n true (sysAccess k (s.own k)) = .ok (acc, s1))
    (hw : GoesUnderWay s1 k x acc n) (hacq : s.acquiring k.core k.ts = false) (hport : s.portHeld k acc.place = false) :
    ∃ t, storeS n x a b imm s = .next (t.retire k .next) ∧
      LeavesPlace k (s1.launch k.core k.ts (.store acc.loc (leBytes n (s.sreg k a).toNat) (scalarTag s1 k x acc))) t := by
  have length := length_leBytes n (s.sreg k a).toNat
  obtain ⟨t, ht, leaves⟩ := storeMem_launches (s := s.unpopped) (bs := leBytes n (s.sreg k a).toNat) (x := x) (al := n)
    (by rw [length]; exact hacc) (by rw [length]; exact hw) hacq hport
  refine ⟨t, ?_, leaves⟩
  unfold storeS
  rw [Laws.issue_issues h, Laws.readS_bind (s := s.unpopped) hb, Laws.readS_bind (s := s.unpopped) ha]
  exact congrArg (fun r => Host.Outcome.next (s.unpopped.settle k r)) (Laws.M.bind_ok ht)

end Storing

/-! ## Landing (R103) -/

theorem accessAtHome_lands {s : State} {f : Fly} {l : Loc} {bs : List Byte} {g : StoreTag}
    (hf : s.fab.fly.find? (·.id == f.id) = some f) (hw : f.what = .store l bs g) (hl : s.mayLand f = true) :
    exec (.accessAtHome f.id) s = .next ((s.landed f.id).land l bs) := by
  change execAccessAtHome f.id s = _
  simp only [execAccessAtHome, hf, hw, hl, if_true]

theorem landed_gone (s : State) (n : Nat) : ∀ g ∈ (s.landed n).fab.fly, g.id ≠ n := by
  intro g hg
  simpa using (List.mem_filter.1 hg).2

/-- Settles O23: the checked store is launched with its register's bytes, and its landing takes it off. -/
theorem storeElsewhere : Obligations.StoreElsewhere := by
  refine ⟨fun s k i x a b imm n acc s1 hstore hi ha hb hacc hw hacq hport => ?_,
    fun s f l bs g hf hwhat hl => ⟨accessAtHome_lands hf hwhat hl, landed_gone s f.id⟩⟩
  obtain ⟨t, ht, leaves⟩ := storeS_launches hi ha hb hacc hw hacq hport
  have cores : s1.cores = s.cores := (access_onlyGlobal hacc).cores
  have thread : s1.own k = s.own k := by simp only [State.own, State.thread, State.core, cores]
  refine ⟨_, _, (congrFun (exec_store hstore) s).trans ht, congrArg Fabric.fly leaves.fab, leaves.mem, rfl, rfl, rfl, ?_⟩
  rw [own_retire_pc, loopNext_pc_congr leaves.loop, ← thread]
  rfl

end Sys2Proof.Proofs

/-!
Proofs: the canonical form of memory, and the operations on memories that keep it (R100, R107).
-/
namespace Sys2Proof.Machine
open Sys2Proof

/-! ## Memories -/

/-- A span cut out of a canonical memory is canonical (R235). -/
theorem cutSpan_wf {m : Memory} (h : m.wf = true) (a n : Nat) : (cutSpan m a n).wf = true := by
  rw [Laws.Memory.wf_iff] at h ⊢
  obtain ⟨rising, values⟩ := h
  have sub : ((m.dropWhile fun c => decide (c.1 < a)).takeWhile fun c => decide (c.1 < a + n)).Sublist m :=
    (List.takeWhile_sublist _).trans (List.dropWhile_sublist _)
  have above : ∀ c ∈ (m.dropWhile fun c => decide (c.1 < a)).takeWhile fun c => decide (c.1 < a + n), a ≤ c.1 :=
    fun c hc => (Laws.mem_dropWhile_le rising ((List.takeWhile_sublist _).subset hc)).1
  refine ⟨List.pairwise_map.2 ((rising.sublist sub).imp_of_mem fun {c d} hc hd hcd => ?_), fun c hc => ?_⟩
  · have := above c hc
    have := above d hd
    dsimp only
    omega
  · obtain ⟨d, hd, rfl⟩ := List.mem_map.1 hc
    exact values d (sub.subset hd)

/-- Writes one after the other keep a canonical memory. -/
theorem foldl_writeSpan_wf {α : Type} {m : Memory} (h : m.wf = true) (l : List α) (a : α → Nat) (bs : α → List Byte) :
    Memory.wf (l.foldl (fun m x => writeSpan m (a x) (bs x)) m) = true :=
  List.foldlRecOn (motive := fun m => Memory.wf m = true) l _ h fun _ hm _ _ => Laws.writeSpan_wf hm _ _

theorem putSpan_wf {m : Memory} (h : m.wf = true) (a n : Nat) (cells : Memory) : (putSpan m a n cells).wf = true :=
  foldl_writeSpan_wf (Laws.clearSpan_wf h a n) cells _ _

/-- Every memory of the package is canonical. -/
structure Mem.Canonical (m : Mem) : Prop where
  phys : m.phys.wf = true
  sram : m.sram.wf = true
  code : m.code.wf = true
  operand : m.operand.wf = true
  stage : m.stage.wf = true
  control : m.control.wf = true

/-- The memories of a saved core are canonical. -/
def SavedCore.Canonical (c : SavedCore) : Prop := c.pad.wf = true ∧ c.operand.wf = true ∧ c.code.wf = true

/-- The memories of a saved task are canonical. -/
def SavedTask.Canonical (v : SavedTask) : Prop := (∀ m ∈ v.banks, Memory.wf m = true) ∧ ∀ c ∈ v.cores, c.Canonical

/-! ## States -/

section States
variable {s t : State}

theorem State.canonical_iff : s.canonical ↔ s.mem.Canonical ∧ ∀ v ∈ s.sched.saved, v.Canonical :=
  ⟨fun ⟨phys, sram, code, operand, stage, control, saved⟩ => ⟨⟨phys, sram, code, operand, stage, control⟩, saved⟩,
    fun ⟨⟨phys, sram, code, operand, stage, control⟩, saved⟩ => ⟨phys, sram, code, operand, stage, control, saved⟩⟩

theorem State.canonical.mem (h : s.canonical) : s.mem.Canonical := (State.canonical_iff.1 h).1

theorem State.canonical.saved (h : s.canonical) : ∀ v ∈ s.sched.saved, v.Canonical := (State.canonical_iff.1 h).2

/-- A step that leaves every memory and every saved task leaves them canonical. -/
theorem State.canonical.congr (h : s.canonical) (hm : t.mem = s.mem)
    (hs : t.sched.saved = s.sched.saved) : t.canonical :=
  State.canonical_iff.2 ⟨hm ▸ h.mem, hs ▸ h.saved⟩

theorem State.canonical.withMem (h : s.canonical) {m : Mem} (hm : m.Canonical) : { s with mem := m }.canonical :=
  State.canonical_iff.2 ⟨hm, h.saved⟩

/-- A fold of steps that each keep the canonical form keeps it. -/
theorem State.canonical.foldl {α : Type} {f : State → α → State} (h : s.canonical) (l : List α)
    (hf : ∀ {s : State} (a : α), s.canonical → (f s a).canonical) : (l.foldl f s).canonical :=
  List.foldlRecOn l f h fun _ hs a _ => hf a hs

end States

/-! ## The operations that write memory -/

section Writes
variable {s : State} (h : s.canonical)
include h

theorem State.canonical.writePhys (a : Nat) (bs : List Byte) : (s.writePhys a bs).canonical :=
  h.withMem { h.mem with phys := Laws.writeSpan_wf h.mem.phys a bs }

theorem State.canonical.writeSram (a : Nat) (bs : List Byte) : (s.writeSram a bs).canonical :=
  h.withMem { h.mem with sram := Laws.writeSpan_wf h.mem.sram a bs }

theorem State.canonical.writeCode (core seg : Nat) (bs : List Byte) : (s.writeCode core seg bs).canonical :=
  h.withMem { h.mem with code := Laws.writeSpan_wf h.mem.code _ bs }

theorem State.canonical.writeOperand (key : Nat) (bs : List Byte) : (s.writeOperand key bs).canonical :=
  h.withMem { h.mem with operand := Laws.writeSpan_wf h.mem.operand key bs }

theorem State.canonical.leaveFrames (core : Nat) (whole : Bool) : (s.leaveFrames core whole).canonical :=
  h.withMem { h.mem with sram := foldl_writeSpan_wf h.mem.sram _ _ _ }

end Writes

end Sys2Proof.Machine

/-!
Proofs: translation and accesses to memory keep the canonical form (R101 to R108).
-/
namespace Sys2Proof.Machine
open Sys2Proof

section Translation
variable {s t : State} (h : s.canonical) {asid : BitVec 16} {a : Word} {va : Nat}
include h

theorem State.canonical.translate {e : TlbEntry} (ht : s.translate asid va = .ok (e, t)) : t.canonical := by
  unfold State.translate at ht
  split at ht
  · cases ht
    exact h.congr rfl rfl
  · split at ht
    · cases ht
    · cases ht
      exact h.congr rfl rfl

theorem State.canonical.globalCell {w : Bool} {c : Nat} (ht : s.globalCell asid a w = .ok (c, t)) : t.canonical := by
  unfold State.globalCell at ht
  replace ht := Proofs.eq_ok_of_check ht
  dsimp only at ht
  split at ht
  · cases ht
  · rename_i he
    cases Proofs.eq_ok_of_check (Proofs.eq_ok_of_check ht)
    exact h.translate he

theorem State.canonical.walked (cause : BitVec 8) : (s.walked asid a cause).canonical := by
  unfold State.walked
  split
  · split
    · rename_i ht
      exact h.translate ht
    · exact h
  · exact h

end Translation

/-- What an access under an ASID answers, found or faulted, is canonical. -/
def GlobalCanonical {ε α : Type} : Except (ε × State) (α × State) → Prop
  | .ok (_, t) => t.canonical
  | .error (_, t) => t.canonical

theorem globalRead_canonical (asid : BitVec 16) (fuel : Nat) {s : State} (h : s.canonical) (a : Word) (n : Nat) :
    GlobalCanonical (State.globalRead fuel s asid a n) := by
  induction fuel generalizing s a n with
  | zero => exact h
  | succ fuel ih =>
    simp only [State.globalRead]
    split
    · exact h
    · split
      · exact h
      · split
        · exact h.walked ..
        · rename_i hc
          have rest := ih (h.globalCell hc) (a + BitVec.ofNat 64 (min n (unitLeft a.toNat))) (n - min n (unitLeft a.toNat))
          split
          all_goals
            rename_i hr
            rw [hr] at rest
            exact rest

theorem globalTargets_canonical (asid : BitVec 16) (fuel : Nat) {s : State} (h : s.canonical) (a : Word) (bs : List Byte) :
    GlobalCanonical (State.globalTargets fuel s asid a bs) := by
  induction fuel generalizing s a bs with
  | zero => exact h
  | succ fuel ih =>
    simp only [State.globalTargets]
    split
    · exact h
    · split
      · exact h
      · split
        · exact h.walked ..
        · rename_i hc
          have rest := ih (h.globalCell hc) (a + BitVec.ofNat 64 (min bs.length (unitLeft a.toNat)))
            (bs.drop (min bs.length (unitLeft a.toNat)))
          split
          all_goals
            rename_i hr
            rw [hr] at rest
            exact rest

section GlobalAccess
variable {s t : State} (h : s.canonical) {asid : BitVec 16} {a : Word} {bs : List Byte} {e : BitVec 8 × Word}
include h

theorem State.canonical.globalBytes {n : Nat} (ht : s.globalBytes asid a n = .ok (bs, t)) : t.canonical := by
  have answer := globalRead_canonical asid (n / 4096 + 2) h a n
  rwa [← State.globalBytes, ht] at answer

theorem State.canonical.globalBytes_error {n : Nat} (ht : s.globalBytes asid a n = .error (e, t)) : t.canonical := by
  have answer := globalRead_canonical asid (n / 4096 + 2) h a n
  rwa [← State.globalBytes, ht] at answer

theorem State.canonical.globalWrite (ht : s.globalWrite asid a bs = .ok t) : t.canonical := by
  have targets := globalTargets_canonical asid (bs.length / 4096 + 2) h a bs
  unfold State.globalWrite at ht
  split at ht
  · cases ht
  · rename_i hl
    cases ht
    rw [hl] at targets
    exact State.canonical.foldl targets _ fun _ hs => hs.writePhys ..

theorem State.canonical.globalWrite_error (ht : s.globalWrite asid a bs = .error (e, t)) : t.canonical := by
  have targets := globalTargets_canonical asid (bs.length / 4096 + 2) h a bs
  unfold State.globalWrite at ht
  split at ht
  · rename_i hl
    cases ht
    rwa [hl] at targets
  · cases ht

theorem State.canonical.checkedWrite {who : Option (Nat × Nat)} (ht : s.checkedWrite who asid a bs = .ok t) : t.canonical := by
  unfold State.checkedWrite at ht
  split at ht
  · cases ht
  · rename_i hw
    split at ht
    · cases ht
    · cases ht
      exact h.globalWrite hw

theorem State.canonical.checkedWrite_error {who : Option (Nat × Nat)} (ht : s.checkedWrite who asid a bs = .error (e, t)) :
    t.canonical := by
  unfold State.checkedWrite at ht
  split at ht
  · rename_i hw
    cases ht
    exact h.globalWrite_error hw
  · split at ht
    · cases ht
      exact h.congr rfl rfl
    · cases ht

theorem State.canonical.locate {core : Nat} {p : Place} {w : Bool} {l : Loc} (ht : s.locate core p w = .ok (l, t)) :
    t.canonical := by
  unfold State.locate at ht
  split at ht
  · cases ht
    exact h
  · cases ht
    exact h
  · split at ht
    · rename_i hc
      cases ht
      exact h.globalCell hc
    · cases ht

theorem State.canonical.access {core n al : Nat} {w sys : Bool} {acc : Access} (ht : s.access core a n al w sys = .ok (acc, t)) :
    t.canonical :=
  h.locate (Proofs.locate_of_access ht).2

end GlobalAccess

end Sys2Proof.Machine

/-!
Proofs: what an instruction's body comes to keeps the canonical form: the rules of its monad.
-/
namespace Sys2Proof.Machine
open Sys2Proof

/-- The state to which an event or an instruction leads is canonical. -/
def Lands : Res → Prop
  | .next t => t.canonical
  | _ => True

/-- What a body that does not retire leaves to be done keeps a canonical state. -/
def Stop.Keeps : Stop → Prop
  | .hold | .trap _ _ => True
  | .holdIn f | .trapIn f _ _ => ∀ s : State, s.canonical → (f s).canonical
  | .trapNext s _ _ => s.canonical

/-- What a body comes to is canonical. -/
def Ends {α : Type} : Except Stop (α × State) → Prop
  | .ok (_, t) => t.canonical
  | .error e => e.Keeps

/-- A body keeps the canonical form. -/
def Keeps {α : Type} (m : M α) : Prop := ∀ s : State, s.canonical → Ends (m s)

section Bodies
variable {α β : Type} {m : M α} {f : α → M β}

theorem Keeps.pure (a : α) : Keeps (Pure.pure a : M α) := fun _ h => h

theorem Keeps.bind (hm : Keeps m) (hf : ∀ a, Keeps (f a)) : Keeps (m >>= f) := by
  intro s h
  have first := hm s h
  cases hr : m s with
  | error e =>
    rw [Laws.M.bind_error hr]
    rwa [hr] at first
  | ok r =>
    rw [Laws.M.bind_ok hr]
    rw [hr] at first
    exact hf _ _ first

/-- A body that looks at the state may rest on its canonical form. -/
theorem Keeps.getState_bind {f : State → M β} (hf : ∀ s, s.canonical → Keeps (f s)) : Keeps (getState >>= f) :=
  fun s h => hf s h s h

theorem Keeps.map {g : α → β} (hm : Keeps m) : Keeps (g <$> m) := by
  rw [map_eq_pure_bind]
  exact hm.bind fun _ => Keeps.pure _

theorem hold_keeps : Keeps (hold : M α) := fun _ _ => trivial

theorem trap_keeps {cause : BitVec 8} {info : Word} : Keeps (trap cause info : M α) := fun _ _ => trivial

theorem holdUnless_keeps {b : Bool} : Keeps (holdUnless b) := fun _ h => by
  unfold holdUnless
  split
  · exact h
  · trivial

theorem trapIf_keeps {b : Bool} {cause : BitVec 8} {info : Word} : Keeps (trapIf b cause info) := fun _ h => by
  unfold trapIf
  split
  · trivial
  · exact h

theorem getThr_keeps {k : Ctx} : Keeps (getThr k) := fun _ h => h
theorem getCore_keeps {k : Ctx} : Keeps (getCore k) := fun _ h => h
theorem goOn_keeps : Keeps goOn := fun _ h => h

theorem modState_keeps {g : State → State} (hg : ∀ {s : State}, s.canonical → (g s).canonical) : Keeps (modState g) :=
  fun _ h => hg h

end Bodies

/-! ## Loading -/

/-- A step of the loader keeps the canonical form. -/
def LoadKeeps {α : Type} (m : Load α) : Prop := ∀ s : State, s.canonical → (m.run.run s).2.canonical

section Loading
variable {α β : Type}

theorem LoadKeeps.pure (a : α) : LoadKeeps (Pure.pure a : Load α) := fun _ h => h

theorem LoadKeeps.throw (r : Refused) : LoadKeeps (throw r : Load α) := fun _ h => h

theorem LoadKeeps.bind {m : Load α} {f : α → Load β} (hm : LoadKeeps m) (hf : ∀ a, LoadKeeps (f a)) :
    LoadKeeps (m >>= f) := by
  intro s h
  have first := hm s h
  simp only [ExceptT.run_bind, StateT.run_bind]
  generalize m.run.run s = r at first ⊢
  obtain ⟨a | a, t⟩ := r
  · exact first
  · exact hf a t first

theorem LoadKeeps.lift {m : StateM State α} (hm : ∀ {s : State}, s.canonical → (m.run s).2.canonical) :
    LoadKeeps (liftM m : Load α) :=
  fun _ h => hm h

theorem LoadKeeps.get_bind {f : State → Load β} (hf : ∀ s : State, s.canonical → LoadKeeps (f s)) :
    LoadKeeps (MonadState.get >>= f) :=
  fun s h => hf s h s h

theorem LoadKeeps.set {t : State} (h : t.canonical) : LoadKeeps (MonadStateOf.set t : Load PUnit) := fun _ _ => h

theorem LoadKeeps.ite {c : Prop} [Decidable c] {m n : Load α} (hm : LoadKeeps m) (hn : LoadKeeps n) :
    LoadKeeps (if c then m else n) := by
  split
  · exact hm
  · exact hn

theorem refuse_bind {r : Refused} {f : α → Load β} : (MonadExcept.throw r >>= f) = (MonadExcept.throw r : Load β) := rfl

end Loading

/-! ## Branches -/

section Branches
variable {s t : State}

theorem canonical_ite {c : Prop} [Decidable c] (h : s.canonical) (ht : t.canonical) : (if c then s else t).canonical := by
  split
  · exact h
  · exact ht

theorem lands_ite {c : Prop} [Decidable c] {a b : Res} (ha : Lands a) (hb : Lands b) : Lands (if c then a else b) := by
  split
  · exact ha
  · exact hb

end Branches

/-! ## Pairs -/

section Pairs
variable {α β : Type} {t : State} {a : α} {b : β}

theorem fst_canonical {p : State × α} (h : p.1.canonical) (hp : p = (t, a)) : t.canonical := by
  subst hp
  exact h

theorem snd_canonical {p : α × State} (h : p.2.canonical) (hp : p = (a, t)) : t.canonical := by
  subst hp
  exact h

theorem foldl_fst_canonical {p : State × α} (h : p.1.canonical) (l : List β) {f : State × α → β → State × α}
    (hf : ∀ {p : State × α} (b : β), p.1.canonical → (f p b).1.canonical) : (l.foldl f p).1.canonical :=
  List.foldlRecOn (motive := fun p => p.1.canonical) l f h fun _ hp b _ => hf b hp

end Pairs

end Sys2Proof.Machine

/-!
Proofs: the Hjelril ports keep the canonical form (R10 to R23).
-/
namespace Sys2Proof.Machine
open Sys2Proof

section Links
variable {s t : State}

theorem State.canonical.setPort (h : s.canonical) {p v} : (s.setPort p v).canonical := h.congr rfl rfl

theorem State.canonical.send (h : s.canonical) {m} : (s.send m).canonical := h.congr rfl rfl

theorem State.canonical.linkEvent (h : s.canonical) {p peer kind fail} : (s.linkEvent p peer kind fail).canonical :=
  h.congr rfl rfl

theorem State.canonical.queueOn (h : s.canonical) {p q} : (s.queueOn p q).canonical := h.setPort

theorem State.canonical.post (h : s.canonical) {dev vc m moves} : (s.post dev vc m moves).canonical := by
  unfold State.post
  split
  · exact h.queueOn
  · exact h

theorem State.canonical.replanPort (h : s.canonical) {p peer f} : (s.replanPort p peer f).canonical := by
  unfold State.replanPort
  dsimp only
  split
  · exact h
  · split
    · exact h
    · exact h.setPort.foldl _ fun _ hs => hs.queueOn

theorem State.canonical.hlpctlWrite (h : s.canonical) {p v} : (s.hlpctlWrite p v).canonical := by
  unfold State.hlpctlWrite
  dsimp only
  split
  · exact h.setPort
  · split
    · split
      · exact h.setPort.linkEvent
      · exact h.setPort
    · split <;> exact h.setPort

theorem State.canonical.portFails (h : s.canonical) {p l} : (s.portFails p l).canonical := by
  unfold State.portFails
  dsimp only
  split
  · exact h.setPort
  · exact h.setPort.replanPort.setPort.linkEvent

theorem State.canonical.trainFail (h : s.canonical) {p code} : (s.trainFail p code).canonical := by
  unfold State.trainFail
  dsimp only
  split
  iterate 3 · exact h.setPort
  iterate 6
    · split
      · exact h.setPort
      · exact h.portFails
  · exact h

theorem State.canonical.grantFirst (h : s.canonical) {p} : (s.grantFirst p).canonical := by
  unfold State.grantFirst
  dsimp only
  split
  · exact h
  · exact h.setPort.foldl _ fun _ hs => hs.send

theorem State.canonical.sendAgain (h : s.canonical) {p fs} : (s.sendAgain p fs).canonical :=
  h.setPort.foldl _ fun _ hs => hs.send

theorem State.canonical.trainUp (h : s.canonical) {p l peer} : (s.trainUp p l peer).canonical := by
  unfold State.trainUp
  dsimp only
  split
  · exact h.setPort.grantFirst.sendAgain.linkEvent
  · exact h.setPort.grantFirst.sendAgain

theorem State.canonical.enterIdentify (h : s.canonical) {p l st} : (s.enterIdentify p l st).canonical := by
  unfold State.enterIdentify
  dsimp only
  split
  · refine State.canonical.send (State.canonical.setPort ?_)
    exact h.congr rfl rfl
  · exact h.setPort

theorem State.canonical.finishIdentify (h : s.canonical) {p l o} : (s.finishIdentify p l o).canonical := by
  unfold State.finishIdentify
  split
  · exact h.trainFail
  · split
    · exact h.trainFail
    · split
      · exact h.trainFail
      · exact h.trainUp

theorem State.canonical.trainStep (h : s.canonical) {p o} : (s.trainStep p o).canonical := by
  unfold State.trainStep
  dsimp only
  split
  · split
    · exact h.setPort
    · exact h.trainFail
  · exact h.setPort
  iterate 2
    · split
      · exact h.setPort
      · exact h.trainFail
  · split
    · exact h.enterIdentify
    · exact h.trainFail
  · exact h.finishIdentify
  · exact h.setPort
  · split
    · exact h.enterIdentify
    · exact h.trainFail
  · exact h.finishIdentify
  · exact h

theorem State.canonical.identityReport (h : s.canonical) {p devnum r} : (s.identityReport p devnum r).canonical := by
  unfold State.identityReport
  dsimp only
  split
  · exact h
  · split
    iterate 2
      · split
        · exact h.trainFail
        · split
          · exact h.trainFail
          · split
            · exact h.setPort
            · exact h.setPort.trainFail
    · exact h

theorem State.canonical.giveBack (h : s.canonical) {p vc keep} : (s.giveBack p vc keep).canonical := by
  unfold State.giveBack
  dsimp only
  split
  · exact h.setPort
  · exact h.send

theorem State.canonical.flitArrives (h : s.canonical) {p f good keep} : (s.flitArrives p f good keep).canonical := by
  unfold State.flitArrives
  dsimp only
  split
  · exact h
  · split
    · exact h.send
    · split
      · exact h.setPort.send.giveBack
      · split
        · exact h.send
        · exact h

theorem State.canonical.transmit (h : s.canonical) {p vc data} : (s.transmit p vc data).canonical := by
  unfold State.transmit
  dsimp only
  split
  · exact h.setPort.send
  · exact h

theorem State.canonical.sendParcel (h : s.canonical) {p n q} : (State.sendParcel p n q s).2.canonical := by
  induction n generalizing q s with
  | zero => exact h
  | succ n ih =>
    unfold State.sendParcel
    split
    · refine ih (State.canonical.transmit ?_)
      exact h.congr rfl rfl
    · exact h

theorem State.canonical.sendQueue (h : s.canonical) {p l held} : (State.sendQueue p l held s).2.canonical := by
  induction l generalizing held s with
  | nil => exact h
  | cons q r ih =>
    unfold State.sendQueue
    split
    · exact ih h
    · dsimp only
      split
      · exact ih h.sendParcel.send
      · exact ih h.sendParcel

theorem State.canonical.pumpPort (h : s.canonical) {p} : (s.pumpPort p).canonical := by
  unfold State.pumpPort
  dsimp only
  split
  · exact h
  · exact h.sendQueue.setPort

theorem State.canonical.pump (h : s.canonical) : s.pump.canonical := by
  unfold State.pump
  refine State.canonical.foldl h _ fun _ hs => ?_
  split
  exact hs.pumpPort

theorem State.canonical.releaseChannel (h : s.canonical) {vc} : (s.releaseChannel vc).canonical := by
  unfold State.releaseChannel
  refine State.canonical.foldl h _ fun _ hs => ?_
  split
  split
  · exact hs
  · exact hs.setPort.send

theorem State.canonical.releaseCredits (h : s.canonical) {held} : (s.releaseCredits held).canonical := by
  unfold State.releaseCredits
  refine State.canonical.foldl h _ fun _ hs => ?_
  split
  · exact hs
  · exact hs.releaseChannel

theorem State.canonical.resend (h : s.canonical) {p seq} : (s.resend p seq).canonical := by
  unfold State.resend
  dsimp only
  split
  · exact h
  · exact h.sendAgain

theorem State.canonical.stick (h : s.canonical) {vc n} : (s.stick vc n).canonical := by
  unfold State.stick
  dsimp only
  split
  · exact h
  · exact h.congr rfl rfl

theorem State.canonical.unstick (h : s.canonical) : s.unstick.canonical := by
  unfold State.unstick
  dsimp only
  split
  · exact h
  · exact h.congr rfl rfl

theorem execLaneLoss_lands (h : s.canonical) {p} : Lands (execLaneLoss p s) := by
  unfold execLaneLoss
  dsimp only
  split
  · exact h.setPort.sendAgain.linkEvent
  · exact h

theorem execRateFallback_lands (h : s.canonical) {p} : Lands (execRateFallback p s) := by
  unfold execRateFallback
  dsimp only
  split
  · exact h.setPort.linkEvent
  · exact h

theorem execErrorThreshold_lands (h : s.canonical) {p resends} : Lands (execErrorThreshold p resends s) := by
  unfold execErrorThreshold
  dsimp only
  split
  · exact h.setPort.linkEvent
  · exact h

theorem execLinkDown_lands (h : s.canonical) {p} : Lands (execLinkDown p s) := by
  unfold execLinkDown
  dsimp only
  split
  · exact h.setPort
  · exact h

end Links

end Sys2Proof.Machine

/-!
Proofs: boot, monitors, power and translation keep the canonical form (R24 to R31, R104 to R108).
-/
namespace Sys2Proof.Machine
open Sys2Proof

section Boot
variable {s t : State}

theorem State.canonical.bootFrom (h : s.canonical) {host img} : (s.bootFrom host img).canonical := by
  unfold State.bootFrom
  dsimp only
  refine State.canonical.congr ?_ rfl rfl
  split
  · exact h.withMem { h.mem with control := foldl_writeSpan_wf h.mem.control .. }
  · exact h

theorem powerCycle_canonical (s : State) : s.powerCycle.canonical := Proofs.reset_canonical.congr rfl rfl

theorem execPowerOnReset_lands (h : s.canonical) : Lands (execPowerOnReset s) := by
  unfold execPowerOnReset
  dsimp only
  refine State.canonical.congr ?_ rfl rfl
  split
  · exact h
  · exact powerCycle_canonical s

theorem execMeasurementExtend_lands (h : s.canonical) {m d} : Lands (execMeasurementExtend m d s) := by
  unfold execMeasurementExtend
  split
  · exact h.congr rfl rfl
  · exact h

theorem execSecurityVersionRaise_lands (h : s.canonical) {v} : Lands (execSecurityVersionRaise v s) := by
  unfold execSecurityVersionRaise
  dsimp only
  split
  · exact h.congr rfl rfl
  · exact h

theorem execAttestationRequest_lands (h : s.canonical) {nonce} : Lands (execAttestationRequest nonce s) := by
  refine State.canonical.send ?_
  exact h.congr rfl rfl

theorem execIdentityChallenge_lands (h : s.canonical) {p nonce} : Lands (execIdentityChallenge p nonce s) := by
  refine State.canonical.send ?_
  exact h.congr rfl rfl

theorem execDevnumWrite_lands (h : s.canonical) {v} : Lands (execDevnumWrite v s) := by
  unfold execDevnumWrite
  dsimp only
  split
  · exact h.congr rfl rfl
  · exact h

theorem State.canonical.xlinvWrite (h : s.canonical) {what va asid} : (s.xlinvWrite what va asid).canonical := by
  unfold State.xlinvWrite
  dsimp only
  split
  · exact h
  · split <;> exact h.congr rfl rfl

theorem State.canonical.xlinvComplete (h : s.canonical) : s.xlinvComplete.canonical := by
  unfold State.xlinvComplete
  dsimp only
  split
  · exact h
  · exact h.congr rfl rfl

theorem execTranslationWalkComplete_lands (h : s.canonical) {asid va} : Lands (execTranslationWalkComplete asid va s) := by
  unfold execTranslationWalkComplete
  split
  · rename_i he
    exact h.translate he
  · exact h

theorem execXlinvComplete_lands (h : s.canonical) : Lands (execXlinvComplete s) := by
  unfold execXlinvComplete
  split
  · exact h.xlinvComplete
  · exact h

end Boot

end Sys2Proof.Machine

/-!
Proofs: the host interface and budgets keep the canonical form (R32 to R45, R70 to R80).
-/
namespace Sys2Proof.Machine
open Sys2Proof

section Host
variable {s t : State}

theorem State.canonical.setSub (h : s.canonical) {p v} : (s.setSub p v).canonical := h.congr rfl rfl

theorem State.canonical.setCore (h : s.canonical) {c v} : (s.setCore c v).canonical := h.congr rfl rfl

theorem State.canonical.setThread (h : s.canonical) {c u v} : (s.setThread c u v).canonical := h.setCore

theorem State.canonical.present (h : s.canonical) {p who whole bytes} : (s.present p who whole bytes).canonical := h.setSub

theorem State.canonical.withdraw (h : s.canonical) {core ts} : (s.withdraw core ts).canonical := by
  unfold State.withdraw
  dsimp only
  split
  · exact h.congr rfl rfl
  · exact h

theorem State.canonical.answerSubmitter (h : s.canonical) {who code} : (s.answerSubmitter who code).canonical := by
  unfold State.answerSubmitter
  dsimp only
  split
  · split
    · exact h.send
    · exact h
  · exact h.setThread

theorem State.canonical.decideSubmission (h : s.canonical) {p} : (s.decideSubmission p).canonical := by
  unfold State.decideSubmission
  dsimp only
  split
  · exact h
  · split
    · refine State.canonical.answerSubmitter ?_
      exact h.congr rfl rfl
    · exact h.setSub.answerSubmitter

theorem execHostSubmit_lands (h : s.canonical) {p off data deferrable} : Lands (execHostSubmit p off data deferrable s) := by
  unfold execHostSubmit
  split
  · exact h.present
  · exact h

theorem execHostApertureAccess_lands (h : s.canonical) {write off n data} :
    Lands (execHostApertureAccess write off n data s) := by
  unfold execHostApertureAccess
  dsimp only
  split
  · split
    · split
      · exact h.send
      · refine State.canonical.send (State.canonical.withMem h ?_)
        exact { h.mem with stage := Laws.writeSpan_wf h.mem.stage .. }
    · split <;> exact h.send
  · split
    · exact h.send
    · split
      · split
        · rename_i hw
          exact (h.globalWrite hw).send
        · rename_i hw
          exact (h.globalWrite_error hw).send
      · split
        · rename_i hr
          exact (h.globalBytes hr).send
        · rename_i hr
          exact (h.globalBytes_error hr).send

theorem execBootFetchRetry_lands (h : s.canonical) : Lands (execBootFetchRetry s) := by
  unfold execBootFetchRetry
  split
  · split
    · exact h.bootFrom
    · exact h.congr rfl rfl
  · exact h.congr rfl rfl
  · exact h

theorem execBootImageReceived_lands (h : s.canonical) {image} : Lands (execBootImageReceived image s) := by
  unfold execBootImageReceived
  split
  · split
    · exact h.bootFrom
    · exact h.congr rfl rfl
  · exact h.bootFrom
  · exact h

theorem execDieRelease_lands (h : s.canonical) {die} : Lands (execDieRelease die s) := by
  unfold execDieRelease
  dsimp only
  split
  · exact h.congr rfl rfl
  · exact h

theorem State.canonical.logError (h : s.canonical) {tenant kind port ws info} : (s.logError tenant kind port ws info).canonical :=
  h.congr rfl rfl

theorem State.canonical.freeSlot (h : s.canonical) {r} : (s.freeSlot r).canonical := by
  unfold State.freeSlot
  dsimp only
  split
  · exact h.setSub
  · exact h

theorem State.canonical.setEdge (h : s.canonical) {e v} : (s.setEdge e v).canonical := h.congr rfl rfl

theorem State.canonical.placeTokens (h : s.canonical) {r} : (s.placeTokens r).canonical := by
  unfold State.placeTokens
  refine State.canonical.foldl h _ fun _ hs => ?_
  dsimp only
  exact hs.setEdge

theorem State.canonical.dropRec (h : s.canonical) {r} : (s.dropRec r).canonical := h.congr rfl rfl

theorem State.canonical.putRec (h : s.canonical) {r} : (s.putRec r).canonical := h.congr rfl rfl

theorem State.canonical.complete (h : s.canonical) {r result o started} : (s.complete r result o started).canonical := by
  unfold State.complete
  extract_lets asid done answered recorded placed
  have hanswered : answered.canonical := by
    unfold answered
    split
    · exact h
    · split
      · rename_i hw
        exact h.globalWrite hw
      · rename_i hw
        exact h.globalWrite_error hw
  have hrecorded : recorded.canonical := by
    unfold recorded
    split
    · rename_i hw
      exact hanswered.globalWrite hw
    · rename_i hw
      exact (hanswered.globalWrite_error hw).logError
  have hplaced : placed.canonical := canonical_ite hrecorded.placeTokens hrecorded
  exact hplaced.freeSlot.dropRec

theorem State.canonical.noteHolds (h : s.canonical) : s.noteHolds.canonical := by
  unfold State.noteHolds
  refine State.canonical.foldl h _ fun _ hs => ?_
  dsimp only
  split
  · exact hs
  · split
    · exact hs
    · exact hs.congr rfl rfl

theorem State.canonical.boundary (h : s.canonical) : s.boundary.canonical := by
  unfold State.boundary
  exact h.congr rfl rfl

theorem State.canonical.boundaries (h : s.canonical) {n} : (State.boundaries n s).canonical := by
  induction n generalizing s with
  | zero => exact h
  | succ n ih => exact ih h.boundary

theorem execBudgetBoundary_lands (h : s.canonical) {coefs epools} : Lands (execBudgetBoundary coefs epools s) := by
  unfold execBudgetBoundary
  extract_lets +onlyGivenNames b given
  have hgiven : given.canonical := h.congr rfl rfl
  exact canonical_ite hgiven.boundaries hgiven

theorem State.canonical.debitEnergy (h : s.canonical) {core n} : (s.debitEnergy core n).canonical := by
  unfold State.debitEnergy
  dsimp only
  split
  · exact h
  · exact h.congr rfl rfl

theorem State.canonical.debitClass (h : s.canonical) {core cls times} : (s.debitClass core cls times).canonical := by
  unfold State.debitClass
  dsimp only
  split
  · exact h
  · refine State.canonical.debitEnergy ?_
    exact h.congr rfl rfl

theorem State.canonical.debitBandwidth (h : s.canonical) {core n} : (s.debitBandwidth core n).canonical := by
  unfold State.debitBandwidth
  dsimp only
  split
  · exact h
  · exact h.congr rfl rfl

theorem State.canonical.noteHeld (h : s.canonical) {core energy} : (s.noteHeld core energy).canonical := by
  unfold State.noteHeld
  dsimp only
  split
  · exact h.setCore
  · refine State.canonical.debitClass ?_
    exact h.congr rfl rfl

theorem State.canonical.clearHeld (h : s.canonical) {core} : (s.clearHeld core).canonical := by
  unfold State.clearHeld
  dsimp only
  split
  · exact h.setCore
  · exact h

end Host

end Sys2Proof.Machine

/-!
Proofs: the shared operations of instructions keep the canonical form (R160, R174, R189, R224 to R230).
-/
namespace Sys2Proof.Machine
open Sys2Proof

section Ops
variable {s t : State}

theorem State.canonical.modPart (h : s.canonical) {core p f} : (s.modPart core p f).canonical := by
  unfold State.modPart
  dsimp only
  split
  · exact h.setCore
  · exact h

theorem State.canonical.countStale (h : s.canonical) {core p} : (s.countStale core p).canonical := h.setCore

theorem State.canonical.countStales (h : s.canonical) {core ps} : (s.countStales core ps).canonical :=
  h.foldl _ fun _ hs => hs.countStale

theorem State.canonical.countWait (h : s.canonical) {core p} : (s.countWait core p).canonical := h.setCore

theorem State.canonical.countWaits (h : s.canonical) {core ps} : (s.countWaits core ps).canonical :=
  h.foldl _ fun _ hs => hs.countWait

theorem State.canonical.markDirty (h : s.canonical) {core off n} : (s.markDirty core off n).canonical := by
  unfold State.markDirty
  refine State.canonical.foldl h _ fun _ hs => ?_
  dsimp only
  split
  · split
    · exact hs
    · exact hs.modPart
  · exact hs

theorem State.canonical.land (h : s.canonical) {l bs} : (s.land l bs).canonical := by
  unfold State.land
  dsimp only
  split
  · exact h.writePhys ..
  · split
    · exact (h.writeSram ..).markDirty
    · exact h.writeSram ..

theorem State.canonical.bumpId (h : s.canonical) : s.bumpId.canonical := h.congr rfl rfl

theorem State.canonical.launch (h : s.canonical) {core ts w} : (s.launch core ts w).canonical := h.congr rfl rfl

theorem State.canonical.landed (h : s.canonical) {id} : (s.landed id).canonical := h.congr rfl rfl

theorem State.canonical.modThread (h : s.canonical) {core ts f} : (s.modThread core ts f).canonical := h.setThread

theorem State.canonical.missed (h : s.canonical) {core ts x kind a n v home} :
    (s.missed core ts x kind a n v home).canonical := by
  unfold State.missed
  split
  · exact h.modThread
  · exact h

theorem State.canonical.foldWrites (h : s.canonical) {core ts ws} : (s.foldWrites core ts ws).canonical := by
  unfold State.foldWrites
  split
  · exact h
  · split <;> exact h.modThread

theorem State.canonical.foldDigest (h : s.canonical) {core ts a bs} : (s.foldDigest core ts a bs).canonical := h.foldWrites

theorem State.canonical.foldVector (h : s.canonical) {core ts a bs} : (s.foldVector core ts a bs).canonical := by
  unfold State.foldVector
  split
  · exact h.modThread
  · exact h

theorem State.canonical.foldOn (h : s.canonical) {core ts} : (s.foldOn core ts).canonical := by
  unfold State.foldOn
  split
  · exact h
  · exact h.modThread

theorem State.canonical.touchAt (h : s.canonical) {l} : (s.touchAt l).canonical := by
  unfold State.touchAt
  split
  · exact h
  · exact h.congr rfl rfl

theorem State.canonical.touch (h : s.canonical) {core a} : (s.touch core a).canonical := h.touchAt

theorem State.canonical.storeTo (h : s.canonical) {core ts own l bs u} : (s.storeTo core ts own l bs u).canonical := by
  unfold State.storeTo
  split
  · exact h.land
  · exact h.launch

theorem State.canonical.store (h : s.canonical) {core ts acc bs after eng} : (s.store core ts acc bs after eng).canonical :=
  h.storeTo

theorem execAccessAtHome_lands (h : s.canonical) {n} : Lands (execAccessAtHome n s) := by
  unfold execAccessAtHome
  split
  · split
    · split
      · exact h.landed.land
      · exact h
    · exact h
  · exact h

theorem modThr_keeps {c f} : Keeps (modThr c f) := modState_keeps fun hs => hs.modThread

theorem modCore_keeps {c f} : Keeps (modCore c f) := modState_keeps fun hs => hs.setCore

theorem State.canonical.raise (h : s.canonical) {core bits cause} : (s.raise core bits cause).canonical := h.setCore

theorem State.canonical.enqueue (h : s.canonical) {core ts} : (s.enqueue core ts).canonical := by
  unfold State.enqueue
  split
  · exact h
  · exact h.congr rfl rfl

theorem State.canonical.withdrawAll (h : s.canonical) {core} : (s.withdrawAll core).canonical :=
  h.foldl _ fun _ hs => hs.withdraw

theorem State.canonical.endCrew (h : s.canonical) {core bits cause} : (s.endCrew core bits cause).canonical :=
  h.raise.withdrawAll.setCore

theorem State.canonical.logEntry (h : s.canonical) {core w0 w1} : (s.logEntry core w0 w1).canonical := by
  unfold State.logEntry
  split
  · exact h
  · split
    · extract_lets area
      split
      · rename_i hr
        exact h.globalBytes_error hr
      · rename_i hr
        extract_lets n lost room bs counted
        have hcounted : counted.canonical := by
          unfold counted
          split
          · rename_i hw
            exact (h.globalBytes hr).globalWrite hw
          · rename_i hw
            exact (h.globalBytes hr).globalWrite_error hw
        split
        · split
          · rename_i hw
            exact hcounted.globalWrite hw
          · rename_i hw
            exact hcounted.globalWrite_error hw
        · exact hcounted
    · exact h

theorem State.canonical.record (h : s.canonical) {core ty src ts detail} : (s.record core ty src ts detail).canonical :=
  h.logEntry

theorem State.canonical.enter (h : s.canonical) {core ts cause info epc late cpseq} :
    (s.enter core ts cause info epc late cpseq).canonical :=
  h.modThread

theorem State.canonical.exactTrap (h : s.canonical) {core ts cause info epc} :
    (s.exactTrap core ts cause info epc).canonical := by
  unfold State.exactTrap
  dsimp only
  split
  · exact h.modThread.endCrew
  · exact h.enter

theorem State.canonical.retire (h : s.canonical) {c f} : (s.retire c f).canonical := h.modThread

theorem State.canonical.waits (h : s.canonical) {c} : (s.waits c).canonical := h.modThread

theorem State.canonical.settle (h : s.canonical) {c a} (ha : Ends a) : (s.settle c a).canonical :=
  match a, ha with
  | .ok _, hs => State.canonical.retire hs
  | .error .hold, _ => h.waits
  | .error (.holdIn _), hf => State.canonical.waits (hf _ h)
  | .error (.trap _ _), _ => h.exactTrap
  | .error (.trapIn _ _ _), hf => State.canonical.exactTrap (hf _ h)
  | .error (.trapNext _ _ _), hs => State.canonical.exactTrap (State.canonical.retire hs)

theorem waitXw_keeps {c x} : Keeps (waitXw c x) := by
  unfold waitXw
  intro s hs
  dsimp only
  split
  · exact hs
  · split
    · exact trivial
    · split
      iterate 2
        · split
          · exact hs
          · exact trivial

theorem State.canonical.unpopped (h : s.canonical) : s.unpopped.canonical := h.congr rfl rfl

/-- What a member of a gang came to. -/
def MemberEnds : Except Stop Flow → Prop
  | .ok _ => True
  | .error e => e.Keeps

section Bodies
variable {x : Pre} {body : Ctx → M Flow} (hbody : ∀ k, Keeps (body k))
include hbody

theorem member_keeps (c : Ctx) : Keeps (do waitXw c x; body c) := waitXw_keeps.bind fun _ => hbody c

theorem State.canonical.issueOne (h : s.canonical) {c} : (s.issueOne c x body).canonical :=
  h.unpopped.settle (member_keeps hbody c _ h.unpopped)

theorem followersRun_canonical (h : s.canonical) {cs} :
    (followersRun x body cs s).2.canonical ∧ ∀ q ∈ (followersRun x body cs s).1, MemberEnds q.2 := by
  induction cs generalizing s with
  | nil => exact ⟨h, fun _ hq => nomatch hq⟩
  | cons c cs ih =>
    have ends := member_keeps (x := x) hbody c { s with pops := [], fetch := some c } (h.congr rfl rfl)
    unfold followersRun
    split
    · rename_i hr
      rw [hr] at ends
      obtain ⟨hs, hq⟩ := ih ends
      exact ⟨hs, List.forall_mem_cons.2 ⟨trivial, hq⟩⟩
    · rename_i hr
      rw [hr] at ends
      obtain ⟨hs, hq⟩ := ih h
      exact ⟨hs, List.forall_mem_cons.2 ⟨ends, hq⟩⟩

theorem gangRun_canonical (h : s.canonical) {cs} :
    (gangRun x body cs s).2.canonical ∧ ∀ q ∈ (gangRun x body cs s).1, MemberEnds q.2 := by
  cases cs with
  | nil => exact ⟨h, fun _ hq => nomatch hq⟩
  | cons c cs =>
    have ends := member_keeps (x := x) hbody c { s with pops := [], fetch := some c } (h.congr rfl rfl)
    simp only [gangRun]
    generalize (do waitXw c x; body c) { s with pops := [], fetch := some c } = r at ends ⊢
    match r, ends with
    | .ok (f, t), ends =>
      obtain ⟨hs, hq⟩ := followersRun_canonical hbody (x := x) ends
      exact ⟨hs, List.forall_mem_cons.2 ⟨trivial, hq⟩⟩
    | .error e, ends =>
      obtain ⟨hs, hq⟩ := followersRun_canonical hbody (x := x) h
      exact ⟨hs, List.forall_mem_cons.2 ⟨ends, hq⟩⟩

theorem State.canonical.issueGang (h : s.canonical) {cs} : (s.issueGang cs x body).canonical := by
  obtain ⟨hdone, hrs⟩ := gangRun_canonical hbody h (x := x) (cs := cs)
  unfold State.issueGang
  generalize gangRun x body cs s = members at hdone hrs ⊢
  obtain ⟨rs, done⟩ := members
  dsimp -zeta only at hdone hrs ⊢
  extract_lets stops
  have hstops : ∀ q ∈ stops, q.2.Keeps := by
    intro q hq
    obtain ⟨⟨c, r⟩, hr, hc⟩ := List.mem_filterMap.1 hq
    cases r with
    | error e =>
      cases hc
      exact hrs _ hr
    | ok f => cases hc
  split
  · refine List.foldlRecOn _ _ h fun s hs q hq => ?_
    have ends := hrs q hq
    split
    · exact hs.settle hs
    · rename_i hr
      rw [hr] at ends
      split
      · exact hs.settle ends
      · exact hs.modThread
    · exact hs.modThread
  · split
    · exact List.foldlRecOn _ _ h fun s hs q hq => hs.settle (hstops q hq)
    · split
      · exact (State.canonical.retire hdone).foldl _ fun _ hs => hs.retire.modThread
      · exact h

theorem issue_lands (h : s.canonical) : Lands (issue x body s) := by
  unfold issue
  split
  · exact trivial
  · split
    · exact h.issueOne hbody
    · exact (h.issueGang hbody).congr rfl rfl

end Bodies

theorem State.canonical.debitSpace (h : s.canonical) {c a} : (s.debitSpace c a).canonical := by
  unfold State.debitSpace
  split
  · exact h
  · exact h.debitClass

theorem State.canonical.debitPort (h : s.canonical) {c p n} : (s.debitPort c p n).canonical := by
  unfold State.debitPort
  split
  · exact h.debitBandwidth
  · exact h

theorem State.canonical.debitAccess (h : s.canonical) {c a p n} : (s.debitAccess c a p n).canonical := h.debitPort.debitSpace

theorem accessFault_keeps {c a e} : (accessFault c a e).Keeps := fun _ hs => hs.walked _

theorem accessTrap_keeps {c a e} : (accessTrap c a e).Keeps := fun _ hs => (hs.walked _).debitSpace

theorem loadMem_keeps {c x a n al} : Keeps (loadMem c x a n al) := by
  intro s h
  unfold loadMem
  split
  · exact accessTrap_keeps
  · rename_i he
    have hacc := h.access he
    split
    · exact trivial
    · split
      · exact fun _ hs => hs.noteHeld
      · extract_lets read
        have hread : ∀ {s}, s.canonical → (read s).1.canonical := fun hs => hs.debitAccess.touch.missed
        split
        · exact hread hacc
        · split
          · exact trivial
          · exact fun _ hs => hs.countWaits.modThread
        · split
          · exact fun _ hs => hs.countStales.debitSpace
          · split
            · exact (hread hacc.countStales).modThread
            · exact hread hacc.countStales

theorem storeMem_keeps {c x a bs al} : Keeps (storeMem c x a bs al) := by
  intro s h
  unfold storeMem
  split
  · exact accessTrap_keeps
  · rename_i he
    split
    · exact trivial
    · split
      · exact fun _ hs => hs.noteHeld
      · exact (h.access he).store.debitAccess.foldDigest.missed

theorem streamNext_keeps {c st write} : Keeps (streamNext c st write) := by
  unfold streamNext
  intro s hs
  dsimp only
  split
  · exact trivial
  · split
    · exact trivial
    · split
      · exact hs
      · split
        · exact trivial
        · split
          iterate 2
            · split
              · exact trivial
              · exact hs

theorem popStream_keeps {c vec k st} : Keeps (popStream c vec k st) := by
  unfold popStream
  refine Keeps.getState_bind fun _ _ => ?_
  dsimp only
  split
  · exact Keeps.pure _
  · exact streamNext_keeps.bind fun _ => loadMem_keeps.bind fun _ => modThr_keeps.bind fun _ =>
      Keeps.bind (modState_keeps fun hs1 => hs1.congr rfl rfl) fun _ => Keeps.pure _

theorem readS_keeps {c n} : Keeps (readS c n) := by
  unfold readS
  intro s hs
  dsimp only
  split
  · exact hs
  · split
    · exact trivial
    · split
      · exact hs
      · exact (Keeps.map popStream_keeps) _ hs

theorem writeS_keeps {c n v} : Keeps (writeS c n v) := by
  unfold writeS
  intro s hs
  dsimp only
  split
  · exact hs
  · split
    · exact trivial
    · split
      · exact hs.modThread
      · exact (streamNext_keeps.bind fun _ => storeMem_keeps.bind fun _ => modThr_keeps) _ hs

theorem addFlags_keeps {c f} : Keeps (addFlags c f) := modThr_keeps

theorem localBlock_keeps {c a n al space align alignInfo} : Keeps (localBlock c a n al space align alignInfo) :=
  trapIf_keeps.bind fun _ => trapIf_keeps.bind fun _ => Keeps.getState_bind fun _ _ => trapIf_keeps.bind fun _ =>
    holdUnless_keeps.bind fun _ => Keeps.pure _

end Ops

end Sys2Proof.Machine

/-!
Proofs: draws, scalar operands, atomics and capability instructions keep the canonical form.
-/
namespace Sys2Proof.Machine
open Sys2Proof

section Atomics
variable {s t : State}

/-- What stops a draw leaves a canonical state. -/
def DrawStop.Canonical : DrawStop → Prop
  | .fault _ _ t => t.canonical
  | _ => True

/-- What a draw comes to is canonical; `state` is where its result holds the state. -/
def Drawn {α : Type} (state : α → State) : Except DrawStop α → Prop
  | .ok a => (state a).canonical
  | .error e => e.Canonical

section Outcomes
variable {α : Type} {state : α → State} {r : Except DrawStop α}

theorem Drawn.ok (h : Drawn state r) {a : α} (hr : r = .ok a) : (state a).canonical := by
  subst hr
  exact h

theorem Drawn.error (h : Drawn state r) {e : DrawStop} (hr : r = .error e) : e.Canonical := by
  subst hr
  exact h

end Outcomes

theorem State.canonical.chunk (h : s.canonical) {d sl index k asked} : Drawn (·.2.2.2) (s.chunk d sl index k asked) := by
  unfold State.chunk
  dsimp only
  split
  · exact h
  · split
    · exact h
    · split
      · exact h.walked _
      · rename_i hr
        split
        · trivial
        · split
          · trivial
          · exact (canonical_ite (h.access hr).debitBandwidth (h.access hr)).touch.congr rfl rfl

theorem State.canonical.extendLanes (h : s.canonical) {d l ys asked lat} :
    Drawn (·.2.2.2) (State.extendLanes d l ys asked lat s) := by
  induction l generalizing ys asked lat s with
  | nil => exact h
  | cons p r ih =>
    unfold State.extendLanes
    dsimp only
    split
    · rename_i he
      exact h.chunk.error he
    · rename_i he
      exact ih (h.chunk.ok he)

theorem State.canonical.debitRounds (h : s.canonical) {d k} : (s.debitRounds d k).canonical := by
  unfold State.debitRounds
  split
  · exact h
  · exact h.modThread.debitClass

theorem State.canonical.extendRounds (h : s.canonical) {d wants fuel ys k} :
    Drawn (·.2) (State.extendRounds d wants fuel ys k s) := by
  induction fuel generalizing ys k s with
  | zero => exact h.debitRounds
  | succ fuel ih =>
    unfold State.extendRounds
    split
    · exact h.debitRounds
    · split
      · rename_i he
        exact State.canonical.debitRounds (h.extendLanes.error he)
      iterate 2 · trivial
      · rename_i he
        exact ih (h.extendLanes.ok he)

theorem State.canonical.extend (h : s.canonical) {d wants ys} : Drawn (·.2) (s.extend d wants ys) := h.extendRounds

theorem State.canonical.payDraws (h : s.canonical) {core n} : (s.payDraws core n).canonical := by
  induction n generalizing s with
  | zero => exact h.noteHeld
  | succ n ih => exact ih h.debitBandwidth

theorem lateNote_keeps {c cause info} : Keeps (lateNote c cause info) := modThr_keeps

theorem roundScalar_keeps {c x r} : Keeps (roundScalar c x r) := by
  unfold roundScalar
  split
  · exact addFlags_keeps.bind fun _ => Keeps.pure _
  · refine Keeps.getState_bind fun s hs => holdUnless_keeps.bind fun _ => ?_
    dsimp only
    split
    · exact fun _ _ _ hs => hs.payDraws.modThread
    · exact hold_keeps
    · rename_i he
      exact (modState_keeps fun _ => hs.extend.error he).bind fun _ => lateNote_keeps.bind fun _ => Keeps.pure _
    · rename_i he
      exact (modState_keeps fun _ => (hs.extend.ok he).modThread).bind fun _ => addFlags_keeps.bind fun _ => Keeps.pure _

theorem readPair_keeps {c n} : Keeps (readPair c n) :=
  readS_keeps.bind fun _ => readS_keeps.bind fun _ => Keeps.pure _

theorem writePair_keeps {c n m e} : Keeps (writePair c n m e) := writeS_keeps.bind fun _ => writeS_keeps

theorem atomic_lands (h : s.canonical) {x a b c d f} : Lands (atomic x a b c d f s) := by
  unfold atomic
  refine issue_lands (fun _ => ?_) h
  refine readS_keeps.bind fun _ => readS_keeps.bind fun _ => readS_keeps.bind fun _ => ?_
  dsimp only
  refine Keeps.getState_bind fun _ hs => ?_
  split
  · exact fun _ _ => accessTrap_keeps
  · rename_i he
    split
    · exact fun _ _ _ hs1 => hs1.noteHeld
    · refine holdUnless_keeps.bind fun _ => Keeps.bind ?_ fun _ => writeS_keeps.bind fun _ => goOn_keeps
      refine modState_keeps fun _ => State.canonical.missed (State.canonical.touch ?_)
      refine State.canonical.debitAccess ?_
      split
      · exact (hs.access he).land.foldDigest
      · exact hs.access he

theorem execAmoadd_lands (h : s.canonical) {x a b c} : Lands (execAmoadd x a b c s) := atomic_lands h

theorem execAmoswp_lands (h : s.canonical) {x a b c} : Lands (execAmoswp x a b c s) := atomic_lands h

theorem execAmocas_lands (h : s.canonical) {x a b c d} : Lands (execAmocas x a b c d s) := atomic_lands h

theorem execAmomin_lands (h : s.canonical) {x a b c} : Lands (execAmomin x a b c s) := atomic_lands h

theorem execAmominn_lands (h : s.canonical) {x a b c} : Lands (execAmominn x a b c s) := atomic_lands h

theorem execAmomax_lands (h : s.canonical) {x a b c} : Lands (execAmomax x a b c s) := atomic_lands h

theorem execAmomaxn_lands (h : s.canonical) {x a b c} : Lands (execAmomaxn x a b c s) := atomic_lands h

theorem execAmoand_lands (h : s.canonical) {x a b c} : Lands (execAmoand x a b c s) := atomic_lands h

theorem execAmoor_lands (h : s.canonical) {x a b c} : Lands (execAmoor x a b c s) := atomic_lands h

theorem execFence_lands (h : s.canonical) {x} : Lands (execFence x s) :=
  issue_lands (fun _ => Keeps.getState_bind fun _ _ => holdUnless_keeps.bind fun _ => goOn_keeps) h

theorem execCapdef_lands (h : s.canonical) {x b c} : Lands (execCapdef x b c s) := by
  unfold execCapdef
  refine issue_lands (fun _ => ?_) h
  refine readS_keeps.bind fun _ => readS_keeps.bind fun _ => ?_
  dsimp only
  refine trapIf_keeps.bind fun _ => trapIf_keeps.bind fun _ => Keeps.getState_bind fun _ hs => ?_
  split
  · exact fun _ _ => accessFault_keeps
  · rename_i he
    split
    · exact trapIf_keeps.bind fun _ => trapIf_keeps.bind fun _ => trapIf_keeps.bind fun _ => trapIf_keeps.bind fun _ =>
        Keeps.bind (modState_keeps fun _ => (hs.access he).congr rfl rfl) fun _ => goOn_keeps
    iterate 2
      · exact trapIf_keeps.bind fun _ => trapIf_keeps.bind fun _ => trapIf_keeps.bind fun _ =>
          Keeps.bind (modState_keeps fun _ => (hs.access he).congr rfl rfl) fun _ => goOn_keeps

theorem execCapq_lands (h : s.canonical) {x a b} : Lands (execCapq x a b s) := by
  unfold execCapq
  refine issue_lands (fun _ => ?_) h
  refine readS_keeps.bind fun _ => Keeps.getState_bind fun _ _ => ?_
  dsimp only
  split
  · exact trap_keeps
  · exact writeS_keeps.bind fun _ => goOn_keeps

end Atomics

end Sys2Proof.Machine

/-!
Proofs: partitions, queues, streams and messages keep the canonical form.
-/
namespace Sys2Proof.Machine
open Sys2Proof

section Queues
variable {s t : State}

theorem presentPart_keeps {k p} : Keeps (presentPart k p) := by
  unfold presentPart
  refine getCore_keeps.bind fun _ => ?_
  split
  · exact Keeps.pure _
  · exact trap_keeps

theorem execPdecl_lands (h : s.canonical) {x a b c} : Lands (execPdecl x a b c s) := by
  unfold execPdecl
  refine issue_lands (fun _ => ?_) h
  refine readS_keeps.bind fun _ => localBlock_keeps.bind fun _ => Keeps.getState_bind fun _ _ => ?_
  dsimp only
  refine trapIf_keeps.bind fun _ => trapIf_keeps.bind fun _ => trapIf_keeps.bind fun _ => trapIf_keeps.bind fun _ =>
    trapIf_keeps.bind fun _ => ?_
  split
  · exact trapIf_keeps.bind fun _ => trapIf_keeps.bind fun _ => modCore_keeps.bind fun _ => goOn_keeps
  · exact modCore_keeps.bind fun _ => goOn_keeps

theorem markPart_lands (h : s.canonical) {x a f} : Lands (markPart x a f s) :=
  issue_lands (fun _ => presentPart_keeps.bind fun _ => (modState_keeps fun hs => hs.modPart).bind fun _ => goOn_keeps) h

theorem execLapw_lands (h : s.canonical) {x a b} : Lands (execLapw x a b s) := by
  unfold execLapw
  refine issue_lands (fun _ => ?_) h
  refine readS_keeps.bind fun _ => ?_
  dsimp only
  refine getCore_keeps.bind fun _ => getThr_keeps.bind fun _ => ?_
  split
  · exact holdUnless_keeps.bind fun _ => goOn_keeps
  · refine presentPart_keeps.bind fun _ => ?_
    split
    · exact goOn_keeps
    · exact fun _ _ _ hs1 => hs1.modThread

theorem execPinfo_lands (h : s.canonical) {x a b c} : Lands (execPinfo x a b c s) := by
  unfold execPinfo
  refine issue_lands (fun _ => ?_) h
  refine readS_keeps.bind fun _ => Keeps.getState_bind fun _ _ => holdUnless_keeps.bind fun _ => trapIf_keeps.bind fun _ => ?_
  dsimp only
  split
  · exact writeS_keeps.bind fun _ => goOn_keeps
  · exact presentPart_keeps.bind fun _ => writeS_keeps.bind fun _ => goOn_keeps

theorem State.canonical.copyLaps (h : s.canonical) {core p g base cells} : (s.copyLaps core p g base cells).canonical := by
  unfold State.copyLaps
  refine State.canonical.foldl h _ fun _ hs => ?_
  split
  · exact hs.writeSram ..
  · exact hs

theorem State.canonical.runPlan (h : s.canonical) {old core p} : (s.runPlan old core p).canonical := by
  unfold State.runPlan
  dsimp only
  split
  · split
    · exact h
    · split
      · exact h.copyLaps.modPart
      · exact h
  · exact h

theorem State.canonical.runPlans (h : s.canonical) {old} : (s.runPlans old).canonical := by
  unfold State.runPlans
  refine State.canonical.foldl h _ fun _ hs => ?_
  split
  refine State.canonical.foldl hs _ fun _ hs1 => ?_
  split
  · exact hs1.runPlan
  · exact hs1

theorem execSlabLand_lands (h : s.canonical) {core p slab} : Lands (execSlabLand core p slab s) := by
  unfold execSlabLand
  split
  · exact h
  · split
    · exact h
    · split
      · exact h.copyLaps.modPart
      · exact h

theorem State.canonical.writeBack (h : s.canonical) {core q} : (s.writeBack core q).canonical := h.land

theorem unbind_keeps {k old} : Keeps (unbind k old) := by
  unfold unbind
  intro s hs
  dsimp only
  split
  · exact hs
  · split
    · exact trivial
    · split
      · exact accessFault_keeps
      · exact hs.writeBack.foldl _ fun _ hs1 => hs1.launch

theorem execQbind_lands (h : s.canonical) {x a b} : Lands (execQbind x a b s) := by
  unfold execQbind
  refine issue_lands (fun _ => ?_) h
  refine Keeps.getState_bind fun _ _ => ?_
  dsimp only
  split
  · exact unbind_keeps.bind fun _ => modThr_keeps.bind fun _ => goOn_keeps
  · refine readS_keeps.bind fun _ => unbind_keeps.bind fun _ => localBlock_keeps.bind fun _ => getCore_keeps.bind fun _ =>
      trapIf_keeps.bind fun _ => ?_
    split
    · exact trapIf_keeps.bind fun _ => trapIf_keeps.bind fun _ => trapIf_keeps.bind fun _ => modThr_keeps.bind fun _ => goOn_keeps
    · exact trapIf_keeps.bind fun _ => trapIf_keeps.bind fun _ => modThr_keeps.bind fun _ => goOn_keeps

theorem boundQueue_keeps {k a} : Keeps (boundQueue k a) := by
  unfold boundQueue
  refine Keeps.getState_bind fun _ _ => ?_
  split
  · exact Keeps.pure _
  · exact trap_keeps

theorem execQadvt_lands (h : s.canonical) {x a b imm} : Lands (execQadvt x a b imm s) := by
  unfold execQadvt
  refine issue_lands (fun _ => ?_) h
  refine readS_keeps.bind fun _ => boundQueue_keeps.bind fun _ => ?_
  dsimp only
  split
  · exact goOn_keeps
  · refine trapIf_keeps.bind fun _ => modThr_keeps.bind fun _ => ?_
    split
    · exact (modState_keeps fun hs => hs.launch).bind fun _ => goOn_keeps
    · exact goOn_keeps

theorem execQadvh_lands (h : s.canonical) {x a b imm} : Lands (execQadvh x a b imm s) := by
  unfold execQadvh
  refine issue_lands (fun _ => ?_) h
  refine readS_keeps.bind fun _ => boundQueue_keeps.bind fun _ => ?_
  dsimp only
  split
  · exact goOn_keeps
  · refine trapIf_keeps.bind fun _ => modThr_keeps.bind fun _ => ?_
    split
    · exact (modState_keeps fun hs => hs.launch).bind fun _ => goOn_keeps
    · exact goOn_keeps

theorem execQcnt_lands (h : s.canonical) {x a b} : Lands (execQcnt x a b s) :=
  issue_lands (fun _ => boundQueue_keeps.bind fun _ => writeS_keeps.bind fun _ => goOn_keeps) h

theorem execQfree_lands (h : s.canonical) {x a b} : Lands (execQfree x a b s) :=
  issue_lands (fun _ => boundQueue_keeps.bind fun _ => writeS_keeps.bind fun _ => goOn_keeps) h

theorem queueWait_lands (h : s.canonical) {x a b imm f} : Lands (queueWait x a b imm f s) :=
  issue_lands (fun _ => readS_keeps.bind fun _ => boundQueue_keeps.bind fun _ => trapIf_keeps.bind fun _ =>
    holdUnless_keeps.bind fun _ => goOn_keeps) h

theorem execQueueUpdateArrive_lands (h : s.canonical) {n} : Lands (execQueueUpdateArrive n s) := by
  unfold execQueueUpdateArrive
  split
  · split
    · split
      · exact h
      · split
        · exact h.landed.modThread
        · exact h
    · exact h
  · exact h

theorem bindStream_lands (h : s.canonical) {vec x a b} : Lands (bindStream vec x a b s) := by
  unfold bindStream
  refine issue_lands (fun _ => ?_) h
  dsimp only
  split
  · exact trap_keeps
  · refine readS_keeps.bind fun _ => localBlock_keeps.bind fun _ => trapIf_keeps.bind fun _ => ?_
    split
    · exact modThr_keeps.bind fun _ => goOn_keeps
    · exact boundQueue_keeps.bind fun _ => modThr_keeps.bind fun _ => goOn_keeps

theorem execSunbind_lands (h : s.canonical) {x a imm} : Lands (execSunbind x a imm s) := by
  unfold execSunbind
  refine issue_lands (fun _ => ?_) h
  refine getThr_keeps.bind fun _ => ?_
  split
  · exact goOn_keeps
  · exact Keeps.getState_bind fun _ _ => holdUnless_keeps.bind fun _ => modThr_keeps.bind fun _ => goOn_keeps

theorem execSpos_lands (h : s.canonical) {x a b c} : Lands (execSpos x a b c s) :=
  issue_lands (fun _ => getThr_keeps.bind fun _ => writeS_keeps.bind fun _ => goOn_keeps) h

theorem State.canonical.replayStep (h : s.canonical) {core ty src ts detail} :
    (s.replayStep core ty src ts detail).canonical := by
  unfold State.replayStep
  dsimp only
  split
  · exact h.setCore
  · exact h.record

theorem State.canonical.stallSend (h : s.canonical) {k} : (s.stallSend k).canonical := by
  unfold State.stallSend
  split
  · exact h
  · exact h.modThread.bumpId

theorem execMsend_lands (h : s.canonical) {x a b imm} : Lands (execMsend x a b imm s) := by
  unfold execMsend
  refine issue_lands (fun _ => ?_) h
  refine readS_keeps.bind fun _ => readS_keeps.bind fun _ => Keeps.getState_bind fun _ hs => trapIf_keeps.bind fun _ => ?_
  dsimp only
  split
  · exact trap_keeps
  · refine trapIf_keeps.bind fun _ => ?_
    split
    · exact (modState_keeps fun hs1 => hs1.launch).bind fun _ => goOn_keeps
    · exact fun _ _ _ hs1 => hs1.stallSend

theorem State.canonical.fillReg (h : s.canonical) {core m} : (s.fillReg core m).canonical := h.modThread.replayStep

theorem State.canonical.moveOverflow (h : s.canonical) {fuel core} : (State.moveOverflow fuel core s).canonical := by
  induction fuel generalizing s with
  | zero => exact h
  | succ fuel ih =>
    unfold State.moveOverflow
    split
    · exact h
    · exact ih h.setCore.fillReg

theorem State.canonical.deliverMsg (h : s.canonical) {dst m} (he : s.deliverMsg dst m = some t) : t.canonical := by
  unfold State.deliverMsg at he
  dsimp only at he
  split at he
  · cases he
    exact h.fillReg.moveOverflow
  · split at he
    · cases he
      exact h.setCore
    · cases he

theorem execMessageArrive_lands (h : s.canonical) {n} : Lands (execMessageArrive n s) := by
  unfold execMessageArrive
  split
  · split
    · split
      · exact h
      · split
        · rename_i he2
          exact (h.deliverMsg he2).landed
        · exact h
    · exact h
  · exact h

theorem State.canonical.drainReg (h : s.canonical) {core ts r} : (s.drainReg core ts r).canonical := h.modThread.moveOverflow

theorem execMrecv_lands (h : s.canonical) {x a imm} : Lands (execMrecv x a imm s) := by
  unfold execMrecv
  refine issue_lands (fun _ => ?_) h
  refine getThr_keeps.bind fun _ => ?_
  dsimp only
  exact holdUnless_keeps.bind fun _ => (modState_keeps fun hs => hs.drainReg).bind fun _ => writeS_keeps.bind fun _ => goOn_keeps

theorem execMpoll_lands (h : s.canonical) {x a} : Lands (execMpoll x a s) :=
  issue_lands (fun _ => getThr_keeps.bind fun _ => writeS_keeps.bind fun _ => goOn_keeps) h

theorem State.canonical.systemDeposit (h : s.canonical) {core w0 w1} : (s.systemDeposit core w0 w1).canonical := h.launch

theorem execMailboxDeposit_lands (h : s.canonical) {n} : Lands (execMailboxDeposit n s) := by
  unfold execMailboxDeposit
  dsimp only
  split
  · exact h.systemDeposit
  · split
    · split
      · split
        · exact h
        · split
          · exact h.landed.setCore.replayStep
          · exact h.setCore
      · exact h
    · exact h

theorem execMbwait_lands (h : s.canonical) {x a imm} : Lands (execMbwait x a imm s) :=
  issue_lands (fun _ => getCore_keeps.bind fun _ => holdUnless_keeps.bind fun _ => writeS_keeps.bind fun _ => goOn_keeps) h

theorem execMbpop_lands (h : s.canonical) {x a} : Lands (execMbpop x a s) := by
  unfold execMbpop
  refine issue_lands (fun _ => ?_) h
  refine getCore_keeps.bind fun _ => ?_
  dsimp only
  split
  · exact hold_keeps
  · exact modCore_keeps.bind fun _ => (modState_keeps fun hs => hs.foldWrites).bind fun _ => writeS_keeps.bind fun _ =>
      writeS_keeps.bind fun _ => goOn_keeps

theorem State.canonical.pushCopy (h : s.canonical) {k words cfet} : (s.pushCopy k words cfet).canonical := h.setCore.bumpId

theorem copyInto_lands (h : s.canonical) {busy x a b} : Lands (copyInto busy x a b s) := by
  unfold copyInto
  refine issue_lands (fun _ => ?_) h
  refine readS_keeps.bind fun _ => localBlock_keeps.bind fun _ => Keeps.getState_bind fun _ _ => ?_
  split
  · exact (modState_keeps fun hs1 => hs1.pushCopy).bind fun _ => writeS_keeps.bind fun _ => goOn_keeps
  · split
    · exact writeS_keeps.bind fun _ => goOn_keeps
    · exact hold_keeps

theorem fetchInto_lands (h : s.canonical) {busy x a b c} : Lands (fetchInto busy x a b c s) := by
  unfold fetchInto
  refine issue_lands (fun _ => ?_) h
  refine readS_keeps.bind fun _ => readS_keeps.bind fun _ => trapIf_keeps.bind fun _ => trapIf_keeps.bind fun _ =>
    Keeps.getState_bind fun _ _ => holdUnless_keeps.bind fun _ => ?_
  dsimp only
  split
  · exact (modState_keeps fun hs1 => hs1.pushCopy).bind fun _ => modCore_keeps.bind fun _ => writeS_keeps.bind fun _ => goOn_keeps
  · split
    · exact writeS_keeps.bind fun _ => goOn_keeps
    · exact hold_keeps

end Queues

end Sys2Proof.Machine

/-!
Proofs: dispatch into the engines keeps the canonical form (R175, R176).
-/
namespace Sys2Proof.Machine
open Sys2Proof

section Dispatch
variable {s t : State}

theorem popAll_keeps {k l} : Keeps (popAll k l) := by
  induction l with
  | nil => exact Keeps.pure _
  | cons n r ih =>
    unfold popAll
    refine getThr_keeps.bind fun _ => ?_
    split
    · exact ih
    · exact popStream_keeps.bind fun _ => ih.bind fun _ => Keeps.pure _

theorem appendAt_keeps {k reg n a} : Keeps (appendAt k reg n a) := by
  unfold appendAt
  intro s hs
  dsimp only
  split
  · exact accessTrap_keeps
  · rename_i he
    split
    · exact fun _ hs1 => hs1.noteHeld
    · exact (hs.access he).debitAccess

theorem appendAll_keeps {k l} : Keeps (appendAll k l) := by
  induction l with
  | nil => exact Keeps.pure _
  | cons n r ih =>
    unfold appendAll
    refine getThr_keeps.bind fun _ => ?_
    split
    · exact ih
    · exact streamNext_keeps.bind fun _ => appendAt_keeps.bind fun _ => modThr_keeps.bind fun _ => ih.bind fun _ => Keeps.pure _

theorem State.canonical.push (h : s.canonical) {k mx d} : (s.push k mx d).canonical := h.setCore.bumpId

theorem State.canonical.debitCmd (h : s.canonical) {k d} : (s.debitCmd k d).canonical := by
  unfold State.debitCmd
  split
  · exact h.debitSpace
  · exact h

theorem dispatch_keeps {k mx reads writes d} : Keeps (dispatch k mx reads writes d) :=
  Keeps.getState_bind fun _ _ => holdUnless_keeps.bind fun _ => popAll_keeps.bind fun _ => appendAll_keeps.bind fun _ =>
    modState_keeps fun hs1 => hs1.push.debitCmd

theorem vcmd_lands (h : s.canonical) {x reads writes d} : Lands (vcmd x reads writes d s) :=
  issue_lands (fun _ => dispatch_keeps.bind fun _ => goOn_keeps) h

theorem vcmdS_lands (h : s.canonical) {x b reads writes d} : Lands (vcmdS x b reads writes d s) :=
  issue_lands (fun _ => readS_keeps.bind fun _ => dispatch_keeps.bind fun _ => goOn_keeps) h

theorem vec3_lands (h : s.canonical) {x e a b c} : Lands (vec3 x e a b c s) := vcmd_lands h

theorem vec3acc_lands (h : s.canonical) {x e a b c} : Lands (vec3acc x e a b c s) := vcmd_lands h

theorem vec2_lands (h : s.canonical) {x e a b imm} : Lands (vec2 x e a b imm s) := vcmd_lands h

theorem vecMask_lands (h : s.canonical) {x e a b c} : Lands (vecMask x e a b c s) := vcmd_lands h

theorem maskOp_lands (h : s.canonical) {x e a b c} : Lands (maskOp x e a b c s) := vcmd_lands h

end Dispatch

end Sys2Proof.Machine

/-!
Proofs: slice regions and the trace buffer keep the canonical form (R126 to R131, R239 to R243).
-/
namespace Sys2Proof.Machine
open Sys2Proof

section Slices
variable {s t : State}

theorem execSldecl_lands (h : s.canonical) {x b c} : Lands (execSldecl x b c s) := by
  unfold execSldecl
  refine issue_lands (fun _ => ?_) h
  refine readS_keeps.bind fun _ => readS_keeps.bind fun _ => Keeps.getState_bind fun _ _ => ?_
  dsimp only
  refine trapIf_keeps.bind fun _ => ?_
  split
  · split
    · exact trap_keeps
    · split
      · exact trapIf_keeps.bind fun _ => trapIf_keeps.bind fun _ => Keeps.bind (modState_keeps fun hs1 => hs1.congr rfl rfl) fun _ =>
          goOn_keeps
      · exact trapIf_keeps.bind fun _ => trapIf_keeps.bind fun _ => trapIf_keeps.bind fun _ =>
          Keeps.bind (modState_keeps fun hs1 => hs1.congr rfl rfl) fun _ => goOn_keeps
  · exact trap_keeps

theorem readV_keeps {k n} : Keeps (readV k n) := by
  unfold readV
  refine Keeps.getState_bind fun _ _ => holdUnless_keeps.bind fun _ => ?_
  split
  · exact Keeps.pure _
  · exact popStream_keeps

theorem contribAddr_keeps {k a n} : Keeps (contribAddr k a n) := by
  unfold contribAddr
  refine trapIf_keeps.bind fun _ => Keeps.getState_bind fun _ _ => ?_
  split
  · exact trap_keeps
  · exact trapIf_keeps.bind fun _ => Keeps.pure _
  · exact trap_keeps

theorem State.canonical.contribute (h : s.canonical) {k a d} : (s.contribute k a d).canonical := h.launch

theorem execRadd_lands (h : s.canonical) {x b c} : Lands (execRadd x b c s) :=
  issue_lands (fun _ => readS_keeps.bind fun _ => readS_keeps.bind fun _ => contribAddr_keeps.bind fun _ =>
    (modState_keeps fun hs => hs.contribute).bind fun _ => goOn_keeps) h

theorem execRaddv_lands (h : s.canonical) {x b c} : Lands (execRaddv x b c s) :=
  issue_lands (fun _ => readS_keeps.bind fun _ => contribAddr_keeps.bind fun _ => readV_keeps.bind fun _ =>
    (modState_keeps fun hs => hs.contribute).bind fun _ => goOn_keeps) h

theorem execAmrg_lands (h : s.canonical) {x a b c d} : Lands (execAmrg x a b c d s) :=
  issue_lands (fun _ => readS_keeps.bind fun _ => readS_keeps.bind fun _ => readS_keeps.bind fun _ =>
    trapIf_keeps.bind fun _ => contribAddr_keeps.bind fun _ => readV_keeps.bind fun _ => (modState_keeps fun hs =>
    hs.contribute).bind fun _ => goOn_keeps) h

theorem State.canonical.contribFails (h : s.canonical) {c} : (s.contribFails c).canonical := by
  unfold State.contribFails
  dsimp only
  split
  · exact h
  · exact h.setThread

theorem State.canonical.putSlice (h : s.canonical) {r} : (s.putSlice r).canonical := h.congr rfl rfl

theorem execSliceContributionArrive_lands (h : s.canonical) {n} : Lands (execSliceContributionArrive n s) := by
  unfold execSliceContributionArrive
  split
  · split
    · split
      · exact h.landed.contribFails
      · extract_lets core d
        split
        · exact h.landed.contribFails
        · split
          · exact h.landed.putSlice
          · split
            · exact h.landed.putSlice
            · split
              · exact h
              · exact h.landed.putSlice.replayStep
    · exact h
  · exact h

theorem State.canonical.releaseSlices (h : s.canonical) {core level} : (s.releaseSlices core level).canonical := by
  unfold State.releaseSlices
  split
  · exact h
  · refine State.canonical.foldl h _ fun _ hs => ?_
    split
    exact hs.putSlice.foldl _ fun _ hs1 => hs1.contribFails

theorem State.canonical.foldRegion (h : s.canonical) {core ts r} : (s.foldRegion core ts r).1.canonical :=
  foldl_fst_canonical h _ fun _ hs => hs.land.foldDigest

theorem execRfold_lands (h : s.canonical) {x b} : Lands (execRfold x b s) := by
  unfold execRfold
  refine issue_lands (fun _ => ?_) h
  refine readS_keeps.bind fun _ => Keeps.getState_bind fun _ hs => ?_
  dsimp only
  split
  · split
    · exact trap_keeps
    · exact trapIf_keeps.bind fun _ => holdUnless_keeps.bind fun _ => (modState_keeps fun _ =>
        hs.foldRegion.putSlice).bind fun _ => addFlags_keeps.bind fun _ => goOn_keeps
  · exact trap_keeps

theorem State.canonical.traceWrite (h : s.canonical) {core off bs} : (s.traceWrite core off bs).canonical := h.setCore

theorem State.canonical.traceDrain (h : s.canonical) {core} : (s.traceDrain core).canonical := by
  unfold State.traceDrain
  dsimp only
  split
  · exact h
  · split
    · rename_i he1
      exact h.setCore.globalWrite he1
    · rename_i he1
      exact h.setCore.globalWrite_error he1

theorem State.canonical.traceFlush (h : s.canonical) {core} : (s.traceFlush core).canonical :=
  h.foldl _ fun _ hs => hs.traceDrain

theorem State.canonical.drainTraces (h : s.canonical) : s.drainTraces.canonical := by
  unfold State.drainTraces
  refine State.canonical.foldl h _ fun _ hs => ?_
  dsimp only
  split
  · exact hs
  · split
    · refine State.canonical.traceDrain ?_
      exact hs.congr rfl rfl
    · exact hs.congr rfl rfl

theorem State.canonical.traceHeader (h : s.canonical) {core} : (s.traceHeader core).canonical := h.traceWrite

theorem State.canonical.streamBytes (h : s.canonical) {core from_ bs} : (s.streamBytes core from_ bs).canonical := by
  unfold State.streamBytes
  dsimp only
  split
  · exact h.traceWrite.traceWrite
  · exact h.traceWrite

theorem State.canonical.streamRecord (h : s.canonical) {core bs} (he : s.streamRecord core bs = some t) : t.canonical := by
  unfold State.streamRecord at he
  extract_lets c bs' at he
  split at he
  · cases he
  · cases he
    exact h.streamBytes.setCore

theorem State.canonical.streamLost (h : s.canonical) {core} : (s.streamLost core).canonical := h.setCore

theorem State.canonical.traceSync (h : s.canonical) {core} : (s.traceSync core).canonical := by
  unfold State.traceSync
  dsimp only
  split
  · exact h
  · split
    · rename_i he
      exact (h.streamRecord he).setCore
    · exact h.streamLost

theorem State.canonical.traceCount (h : s.canonical) {core} : (s.traceCount core).canonical := by
  unfold State.traceCount
  dsimp only
  split
  · exact h.setCore.traceSync
  · exact h.setCore

theorem State.canonical.traceIssue (h : s.canonical) {core ts port addr} : (s.traceIssue core ts port addr).canonical := by
  unfold State.traceIssue
  dsimp only
  split
  · exact h
  · split
    · rename_i he
      exact (h.streamRecord he).modThread.traceCount
    · exact h.streamLost

theorem State.canonical.traceMarker (h : s.canonical) {core ts v} : (s.traceMarker core ts v).canonical := by
  unfold State.traceMarker
  dsimp only
  split
  · exact h
  · split
    · rename_i he
      exact (h.streamRecord he).traceCount
    · exact h.streamLost

theorem State.canonical.imbalance (h : s.canonical) {core bs} : (s.imbalance core bs).canonical := by
  unfold State.imbalance
  dsimp only
  split
  · exact h
  · split
    · exact h.setCore
    · exact h.traceWrite.setCore

theorem State.canonical.setTrctl (h : s.canonical) {core v} : (s.setTrctl core v).canonical := by
  unfold State.setTrctl
  extract_lets c trace w was stopped set
  have hstopped : stopped.canonical := canonical_ite h.traceHeader h
  split
  · exact hstopped.setCore.traceSync
  · exact hstopped.setCore

end Slices

end Sys2Proof.Machine

/-!
Proofs: courses and their ridges keep the canonical form (R113 to R125, R386 to R388).
-/
namespace Sys2Proof.Machine
open Sys2Proof

section Courses
variable {s t : State}

theorem State.canonical.modRidge (h : s.canonical) {core level f} : (s.modRidge core level f).canonical := h.setCore

theorem State.canonical.arrive (h : s.canonical) {core level comm} : (s.arrive core level comm).canonical := h.setCore

theorem ridgeChecks_keeps {k level d} : Keeps (ridgeChecks k level d) := by
  unfold ridgeChecks
  refine Keeps.getState_bind fun _ _ => ?_
  dsimp only
  refine trapIf_keeps.bind fun _ => trapIf_keeps.bind fun _ => ?_
  split
  · exact holdUnless_keeps.bind fun _ => Keeps.pure _
  · exact readS_keeps.bind fun _ => trapIf_keeps.bind fun _ => trapIf_keeps.bind fun _ => holdUnless_keeps.bind fun _ =>
      Keeps.pure _

theorem takeOwed_keeps {k level} : Keeps (takeOwed k level) := by
  unfold takeOwed
  intro s hs
  dsimp only
  split
  · exact hs
  · split
    · exact trivial
    · exact fun _ hs1 => hs1.modRidge

theorem ridgeWait_keeps {k level n a word} {pre : State → State} (hpre : ∀ s : State, s.canonical → (pre s).canonical) :
    Keeps (ridgeWait k level n a word pre) := by
  unfold ridgeWait
  refine Keeps.getState_bind fun s _ => ?_
  dsimp only
  split
  · exact fun _ _ _ hs => (hpre _ hs).modThread
  · exact takeOwed_keeps.bind fun _ => writeS_keeps.bind fun _ => modThr_keeps.bind fun _ => goOn_keeps

theorem State.canonical.ridgeMark (h : s.canonical) {k level comm} : (s.ridgeMark k level comm).canonical :=
  h.arrive.modThread

theorem execRidge.ridgeArrive_keeps {k level d a} : Keeps (execRidge.ridgeArrive k level d a) := by
  unfold execRidge.ridgeArrive
  refine ridgeChecks_keeps.bind fun _ => takeOwed_keeps.bind fun _ => Keeps.getState_bind fun _ _ => ?_
  dsimp only
  exact holdUnless_keeps.bind fun _ => (modState_keeps fun hs => hs.ridgeMark).bind fun _ =>
    getCore_keeps.bind fun _ => ridgeWait_keeps fun _ hs => hs.setCore

theorem execRidge_lands (h : s.canonical) {x a imm d} : Lands (execRidge x a imm d s) := by
  unfold execRidge
  refine issue_lands (fun _ => ?_) h
  dsimp only
  refine getThr_keeps.bind fun _ => ?_
  split
  · exact ridgeWait_keeps fun _ hs => hs
  · exact execRidge.ridgeArrive_keeps

theorem execRidgea_lands (h : s.canonical) {x imm d} : Lands (execRidgea x imm d s) := by
  unfold execRidgea
  refine issue_lands (fun _ => ?_) h
  dsimp only
  exact ridgeChecks_keeps.bind fun _ => Keeps.getState_bind fun _ _ => holdUnless_keeps.bind fun _ =>
    (modState_keeps fun hs1 => hs1.arrive).bind fun _ => goOn_keeps

theorem execRidgew_lands (h : s.canonical) {x a imm} : Lands (execRidgew x a imm s) := by
  unfold execRidgew
  refine issue_lands (fun _ => ?_) h
  dsimp only
  refine getThr_keeps.bind fun _ => Keeps.getState_bind fun _ _ => ?_
  split
  · split <;> exact ridgeWait_keeps fun _ hs => hs
  · exact (modState_keeps fun hs => hs.modThread).bind fun _ => ridgeWait_keeps fun _ hs => hs.modThread

theorem execXtt_lands (h : s.canonical) {x b} : Lands (execXtt x b s) := by
  unfold execXtt
  refine issue_lands (fun _ => ?_) h
  refine readS_keeps.bind fun _ => localBlock_keeps.bind fun _ => ?_
  dsimp only
  exact trapIf_keeps.bind fun _ => Keeps.getState_bind fun _ _ => trapIf_keeps.bind fun _ => (modState_keeps fun hs1 =>
    hs1.modRidge).bind fun _ => goOn_keeps

theorem State.canonical.sendFlits (h : s.canonical) : s.sendFlits.canonical := h.congr rfl rfl

theorem State.canonical.addFlits (h : s.canonical) {l} : (s.addFlits l).canonical := h.congr rfl rfl

theorem State.canonical.collide (h : s.canonical) {core level} : (s.collide core level).canonical := h.raise.modRidge

theorem execExchangeFlitArrive_lands (h : s.canonical) {n} : Lands (execExchangeFlitArrive n s) := by
  unfold execExchangeFlitArrive
  dsimp only
  split
  · exact h
  · split
    · exact h
    · split
      · refine State.canonical.land ?_
        exact h.congr rfl rfl
      · refine State.canonical.foldl ?_ _ fun _ hs => hs.collide
        exact h.congr rfl rfl

theorem State.canonical.oweAll (h : s.canonical) {ms level cause} : (s.oweAll ms level cause).canonical :=
  h.foldl _ fun _ hs => hs.modRidge

theorem State.canonical.freePart (h : s.canonical) {p core} : (s.freePart p core).canonical := h.setCore

theorem State.canonical.fillBoundary (h : s.canonical) {core g} : (s.fillBoundary core g).canonical := by
  unfold State.fillBoundary
  dsimp only
  split
  · exact h
  · refine State.canonical.foldl h _ fun _ hs => ?_
    split
    · exact hs.writeSram ..
    · exact hs

theorem State.canonical.confirmPart (h : s.canonical) {p core} : (s.confirmPart p core).canonical := by
  unfold State.confirmPart
  split
  · exact h
  · split
    · exact h.fillBoundary.modPart
    · exact h.modPart

theorem State.canonical.snapshot (h : s.canonical) {ms p owner} : (s.snapshot ms p owner).canonical := by
  unfold State.snapshot
  split
  · exact h
  · split
    · exact h
    · exact h.foldl _ fun _ hs => hs.writeSram ..

theorem State.canonical.beginRefresh (h : s.canonical) {p level core} : (s.beginRefresh p level core).canonical := by
  unfold State.beginRefresh
  dsimp only
  split
  · exact h
  · exact h.modPart

theorem State.canonical.clearMarks (h : s.canonical) {level p core} : (s.clearMarks level p core).canonical := h.modPart

theorem State.canonical.refreshPart (h : s.canonical) {ms holders level p all any} :
    (s.refreshPart ms holders level p all any).canonical := by
  unfold State.refreshPart
  split
  · exact (h.foldl _ fun _ hs => hs.snapshot).foldl _ fun _ hs => hs.beginRefresh
  · exact (canonical_ite h.oweAll h).foldl _ fun _ hs => hs.modPart

theorem State.canonical.releasePart (h : s.canonical) {ms level p} : (s.releasePart ms level p).canonical := by
  unfold State.releasePart
  extract_lets holders votes first owners agreed fresh confirmed live renew mark
  have hconfirmed : confirmed.canonical := canonical_ite (h.foldl _ fun _ hs => hs.confirmPart) h
  split
  · exact h
  · split
    · exact (h.foldl _ fun _ hs => hs.freePart).oweAll
    · split
      · exact hconfirmed
      · split
        · exact (canonical_ite hconfirmed.oweAll hconfirmed).foldl _ fun _ hs => hs.freePart
        · exact (canonical_ite hconfirmed.oweAll hconfirmed).refreshPart.foldl _ fun _ hs => hs.clearMarks

theorem State.canonical.releaseCore (h : s.canonical) {level sum core} : (s.releaseCore level sum core).canonical :=
  h.setCore

theorem State.canonical.logDigest (h : s.canonical) {core} : (s.logDigest core).canonical := h.record.logEntry

theorem State.canonical.compareDigests (h : s.canonical) {u ms} : (s.compareDigests u ms).canonical := by
  unfold State.compareDigests
  extract_lets +onlyGivenNames off
  clear_value off
  cases off with
  | nil => exact h
  | cons c l =>
    dsimp -zeta only
    extract_lets rc written raised goesOn
    clear_value rc
    have hwritten : written.canonical := by
      unfold written
      split
      · split
        · rename_i hw
          exact h.globalWrite hw
        · rename_i hw
          exact h.globalWrite_error hw
      · exact h
    have hraised : raised.canonical := hwritten.foldl _ fun _ hs => hs.raise
    split
    · exact hraised.congr rfl rfl
    · exact hraised.foldl _ fun _ hs => hs.setCore

theorem State.canonical.domainRelease (h : s.canonical) {u ms} : (s.domainRelease u ms).canonical := by
  unfold State.domainRelease
  extract_lets logged broke
  have hlogged : logged.canonical := canonical_ite (h.foldl _ fun _ hs => hs.logDigest) (canonical_ite h.compareDigests h)
  exact hlogged.foldl _ fun _ hs => (canonical_ite hs.setCore.traceHeader hs.setCore).traceSync

theorem State.canonical.releaseAt (h : s.canonical) {core level extra} : (s.releaseAt core level extra).canonical := by
  unfold State.releaseAt
  extract_lets +onlyGivenNames ms sum₀ sum slices parts flits released
  have hreleased : released.canonical :=
    ((h.releaseSlices.foldl _ fun _ hs => hs.releasePart).foldl _ fun _ hs => hs.releaseCore).addFlits
  split
  · exact hreleased
  · extract_lets whole sub masked traced
    have hmasked : masked.canonical := hreleased.foldl _ fun _ hs => hs.setCore
    have htraced : traced.canonical := by
      unfold traced
      split
      · exact canonical_ite hmasked.imbalance hmasked
      · exact hmasked
    exact (canonical_ite htraced.domainRelease htraced).sendFlits

theorem State.canonical.setComm (h : s.canonical) {c m} : (s.setComm c m).canonical := h.congr rfl rfl

theorem State.canonical.tokenRelease (h : s.canonical) {core} : (s.tokenRelease core).canonical := by
  unfold State.tokenRelease
  extract_lets ms comm m sum rank sent
  have hsent : sent.canonical := canonical_ite h (h.setComm.foldl _ fun _ hs => hs.post)
  split
  · exact hsent.setComm.releaseAt
  · exact hsent

theorem execRidgeRelease_lands (h : s.canonical) {level core} : Lands (execRidgeRelease level core s) := by
  unfold execRidgeRelease
  split
  · exact h
  · split
    · exact h.tokenRelease
    · exact h.releaseAt

end Courses

end Sys2Proof.Machine

/-!
Proofs: the copy engine keeps the canonical form (R177 to R179).
-/
namespace Sys2Proof.Machine
open Sys2Proof

section Copies
variable {s t : State}

theorem State.canonical.copyRead (h : s.canonical) {core sys stop first a n} :
    (s.copyRead core sys stop first a n).2.canonical := by
  unfold State.copyRead
  dsimp only
  split
  · exact h.walked ..
  · rename_i he
    split
    · exact (h.access he).touch
    · exact h.access he
    · split
      · exact (h.access he).countStales.touch
      · exact (h.access he).countStales

/-- Reading and writing the pieces of a copy keeps the canonical form. -/
structure CopyIo.Keeps (io : CopyIo) : Prop where
  rd : ∀ {s : State} {first : Bool} {a : Word} {n : Nat}, s.canonical → (io.rd s first a n).2.canonical
  wr : ∀ {s : State} {a : Word} {bs : List Byte}, s.canonical → (io.wr s a bs).2.canonical

theorem State.canonical.copyWrite (h : s.canonical) {core sys a bs} : (s.copyWrite core sys a bs).2.canonical := by
  unfold State.copyWrite
  split
  · exact h.walked ..
  · rename_i he
    exact (h.access he).land.touch

theorem coreIo_keeps {core sys stop} : (coreIo core sys stop).Keeps := ⟨fun h => h.copyRead, fun h => h.copyWrite⟩

section Pieces
variable {io : CopyIo} (hio : io.Keeps)
include hio

theorem State.canonical.copyReadAll (h : s.canonical) {first l} : (s.copyReadAll io first l).2.canonical := by
  induction l generalizing first s with
  | nil => exact h
  | cons p r ih =>
    unfold State.copyReadAll
    split
    · rename_i he
      exact snd_canonical (hio.rd h) he
    · rename_i he
      have rest := ih (snd_canonical (hio.rd h) he) (first := false)
      split
      iterate 2
        · rename_i hr
          exact snd_canonical rest hr

theorem State.canonical.writePieces (h : s.canonical) {l bs} : (s.writePieces io l bs).2.canonical := by
  induction l generalizing bs s with
  | nil => exact h
  | cons p r ih =>
    unfold State.writePieces
    split
    · rename_i he
      exact snd_canonical (hio.wr h) he
    · rename_i he
      exact ih (snd_canonical (hio.wr h) he)

omit hio in
theorem State.canonical.sourceBytes (h : s.canonical) {was src bs} : (s.sourceBytes was io src bs).2.canonical := by
  unfold State.sourceBytes
  split
  · split
    · exact h
    · exact h.congr rfl rfl
  · exact h

theorem State.canonical.copyBlocks (h : s.canonical) {was fill dst l src done} :
    (s.copyBlocks was io fill dst l src done).2.canonical := by
  induction l generalizing src done s with
  | nil => exact h
  | cons p r ih =>
    unfold State.copyBlocks
    extract_lets +onlyGivenNames blk stop got
    have hgot : got.2.canonical := by
      unfold got
      split
      · exact h
      · exact h.copyReadAll hio
    clear_value got
    split
    iterate 2 · exact hgot
    · rename_i bs t
      have ht : t.canonical := hgot
      have hmixed : (if fill.isNone && src.getLsbD 63 && dst.getLsbD 63 then t.sourceBytes was io src bs else (bs, t)).2.canonical := by
        split
        · exact ht.sourceBytes
        · exact ht
      split
      rename_i hm
      have hm := snd_canonical hmixed hm
      split
      iterate 2
        · rename_i hw
          exact snd_canonical (hio.wr hm) hw
      · rename_i hw
        exact ih (snd_canonical (hio.wr hm) hw)

theorem State.canonical.inflate (h : s.canonical) {dst k i got src} : (s.inflate io dst k i got src).2.canonical := by
  induction k generalizing i got src s with
  | zero => exact h
  | succ k ih =>
    unfold State.inflate
    split
    iterate 2
      · rename_i hh
        exact snd_canonical (h.copyReadAll hio) hh
    · rename_i hh
      have header := snd_canonical (h.copyReadAll hio) hh
      dsimp only
      split
      · exact header
      · split
        iterate 2
          · rename_i hp
            exact snd_canonical (header.copyReadAll hio) hp
        · rename_i hp
          have payload := snd_canonical (header.copyReadAll hio) hp
          split
          · exact payload
          · split
            iterate 2
              · rename_i hw
                exact snd_canonical (payload.writePieces hio) hw
            · rename_i hw
              exact ih (snd_canonical (payload.writePieces hio) hw)

end Pieces

theorem State.canonical.matrixRestore (h : s.canonical) {core bs} : (s.matrixRestore core bs).canonical := by
  unfold State.matrixRestore
  extract_lets +onlyGivenNames mem restored w
  have hrestored : restored.canonical := h.writeOperand _ _
  split
  · exact hrestored
  · exact hrestored.setCore

theorem State.canonical.runCopy (h : s.canonical) {core r} : (s.runCopy core r).2.canonical := by
  unfold State.runCopy
  dsimp only
  split
  · exact h
  · split
    · exact h.copyBlocks coreIo_keeps
    · exact h.inflate coreIo_keeps
    · exact h.copyBlocks coreIo_keeps
    · split
      iterate 3
        · rename_i he
          exact snd_canonical (h.writePieces coreIo_keeps) he
    · split
      · rename_i he
        exact (snd_canonical (h.copyReadAll coreIo_keeps) he).matrixRestore
      iterate 2
        · rename_i he
          exact snd_canonical (h.copyReadAll coreIo_keeps) he

theorem State.canonical.popCopy (h : s.canonical) {core} : (s.popCopy core).canonical := h.setCore

theorem State.canonical.payCopy (h : s.canonical) {core rd wr fuel paid} : (s.payCopy core rd wr fuel paid).2.canonical := by
  induction fuel generalizing paid s with
  | zero => exact h
  | succ fuel ih =>
    unfold State.payCopy
    split
    · exact h
    · exact ih h.debitBandwidth

theorem State.canonical.debitCopy (h : s.canonical) {core r e} : (s.debitCopy core r e).canonical :=
  canonical_ite h h.debitClass

theorem State.canonical.noteWrites (h : s.canonical) {core r e w} : (s.noteWrites core r e w).canonical := by
  unfold State.noteWrites
  dsimp only
  split
  · split
    · exact h.setCore
    · exact h
  · exact h

theorem State.canonical.modCopy (h : s.canonical) {core f} : (s.modCopy core f).canonical := by
  unfold State.modCopy
  dsimp only
  split
  · exact h
  · exact h.setCore

theorem State.canonical.parkCopy (h : s.canonical) {core r ps block} : (s.parkCopy core r ps block).canonical := by
  unfold State.parkCopy
  dsimp only
  split
  · exact h
  · exact h.countWaits.modCopy

theorem execCopyRequestComplete_lands (h : s.canonical) {core} : Lands (execCopyRequestComplete core s) := by
  unfold execCopyRequestComplete
  dsimp only
  split
  · exact h
  · split
    · exact h
    · split
      · exact h.parkCopy
      · rename_i done he
        have hdone : done.canonical := snd_canonical h.runCopy he
        have hpaid : ∀ b, { done with bud := b }.canonical := fun _ => hdone.congr rfl rfl
        split
        · split
          · exact h.modCopy.noteHeld
          · exact (hpaid _).noteWrites.debitCopy.popCopy.launch
        · split
          · exact h.payCopy.modCopy.noteHeld
          · exact (hpaid _).noteWrites.debitCopy.popCopy.launch

theorem State.canonical.loadBreaks (h : s.canonical) {core seg} : (s.loadBreaks core seg).canonical := by
  unfold State.loadBreaks
  dsimp only
  split
  · exact h.setCore
  · split
    · rename_i he
      exact (h.globalBytes_error he).setCore
    · rename_i he
      exact (h.globalBytes he).setCore

theorem State.canonical.fetchBytes (h : s.canonical) {core a} : (s.fetchBytes core a).2.canonical := h.copyReadAll coreIo_keeps

theorem execCfetLand_lands (h : s.canonical) {core} : Lands (execCfetLand core s) := by
  unfold execCfetLand
  dsimp only
  split
  · exact h
  · split
    · exact h
    · split
      · exact h
      · split
        · exact h.noteHeld
        · split
          · rename_i he2
            exact (snd_canonical h.fetchBytes he2).popCopy.setCore
          · exact h
          · rename_i he2
            exact ((snd_canonical h.fetchBytes he2).writeCode ..).debitBandwidth.debitClass.loadBreaks.popCopy.setCore

end Copies

end Sys2Proof.Machine

/-!
Proofs: remote operations, trigger counters and posted buffers keep the canonical form (R93 to R99).
-/
namespace Sys2Proof.Machine
open Sys2Proof

section Remote
variable {s t : State}

theorem State.canonical.launchRemote (h : s.canonical) {core ts ws} : (s.launchRemote core ts ws).canonical := by
  unfold State.launchRemote
  split
  exact h.launch

theorem remoteOp_lands (h : s.canonical) {kind x b} : Lands (remoteOp kind x b s) := by
  unfold remoteOp
  refine issue_lands (fun _ => ?_) h
  refine readS_keeps.bind fun _ => localBlock_keeps.bind fun _ => ?_
  dsimp only
  exact trapIf_keeps.bind fun _ => (modState_keeps fun hs => hs.launchRemote).bind fun _ => goOn_keeps

theorem State.canonical.sentInDrain (h : s.canonical) {core} : (s.sentInDrain core).canonical := by
  unfold State.sentInDrain
  dsimp only
  split
  · split
    · exact h.congr rfl rfl
    · exact h
  · exact h

theorem State.canonical.setCounter (h : s.canonical) {core g v} : (s.setCounter core g v).canonical := by
  unfold State.setCounter
  dsimp only
  split
  · exact h.setCore
  · exact (canonical_ite h.setCore.setCore h.setCore.setCore.sentInDrain).foldl _ fun _ hs => hs.launchRemote

theorem State.canonical.trigger (h : s.canonical) {core ts ws g threshold status} :
    (s.trigger core ts ws g threshold status).canonical := by
  unfold State.trigger
  dsimp only
  split
  · exact h.launchRemote
  · split
    · exact h
    · exact h.setCore

theorem execTrig_lands (h : s.canonical) {x a b c d} : Lands (execTrig x a b c d s) := by
  unfold execTrig
  refine issue_lands (fun _ => ?_) h
  refine readS_keeps.bind fun _ => readS_keeps.bind fun _ => localBlock_keeps.bind fun _ => ?_
  dsimp only
  refine trapIf_keeps.bind fun _ => Keeps.getState_bind fun _ _ => Keeps.bind ?_ fun _ => writeS_keeps.bind fun _ => goOn_keeps
  refine modState_keeps fun hs1 => State.canonical.trigger ?_
  split
  · exact hs1.record
  · exact hs1

theorem countBy_lands (h : s.canonical) {f x a b c} : Lands (countBy f x a b c s) := by
  unfold countBy
  refine issue_lands (fun _ => ?_) h
  refine readS_keeps.bind fun _ => getCore_keeps.bind fun _ => ?_
  dsimp only
  exact (modState_keeps fun hs => hs.setCounter).bind fun _ => writeS_keeps.bind fun _ => goOn_keeps

theorem execHwait_lands (h : s.canonical) {x a b c} : Lands (execHwait x a b c s) :=
  issue_lands (fun _ => readS_keeps.bind fun _ => getCore_keeps.bind fun _ => holdUnless_keeps.bind fun _ =>
    writeS_keeps.bind fun _ => goOn_keeps) h

theorem execCpost_lands (h : s.canonical) {x a b c} : Lands (execCpost x a b c s) := by
  unfold execCpost
  refine issue_lands (fun _ => ?_) h
  refine readS_keeps.bind fun _ => readS_keeps.bind fun _ => trapIf_keeps.bind fun _ => trapIf_keeps.bind fun _ => ?_
  refine trapIf_keeps.bind fun _ => ?_
  refine Keeps.getState_bind ?_
  intro _ _
  split
  · exact writeS_keeps.bind fun _ => goOn_keeps
  · exact Keeps.bind (modState_keeps fun hs => hs.congr rfl rfl) fun _ => writeS_keeps.bind fun _ => goOn_keeps

theorem State.canonical.revoke (h : s.canonical) {i} : (s.revoke i).canonical := h.congr rfl rfl

theorem execCrevoke_lands (h : s.canonical) {x a} : Lands (execCrevoke x a s) := by
  unfold execCrevoke
  refine issue_lands (fun _ => ?_) h
  refine readS_keeps.bind fun _ => Keeps.getState_bind fun _ _ => ?_
  dsimp only
  exact trapIf_keeps.bind fun _ => holdUnless_keeps.bind fun _ => (modState_keeps fun hs1 => hs1.revoke).bind fun _ => goOn_keeps

theorem State.canonical.putRemote (h : s.canonical) {n r} : (s.putRemote n r).canonical := h.congr rfl rfl

theorem State.canonical.dropKept (h : s.canonical) {n k} : (s.dropKept n k).canonical := h.congr rfl rfl

theorem State.canonical.endRemote (h : s.canonical) {n r st v} : (s.endRemote n r st v).canonical := by
  unfold State.endRemote
  dsimp only
  split
  · exact h.dropKept.landed.post
  · exact h.dropKept.putRemote

theorem State.canonical.remoteMessage (h : s.canonical) {f r} : (s.remoteMessage f r).canonical := by
  unfold State.remoteMessage
  dsimp only
  split
  · split
    · exact h.putRemote
    · exact h.endRemote
  · split
    · exact h.endRemote
    · exact h.launch.endRemote

theorem State.canonical.passRemote (h : s.canonical) {f r} : (s.passRemote f r).canonical := by
  unfold State.passRemote
  dsimp only
  split
  · split
    · exact h.putRemote.post
    · exact h.putRemote
  · exact h.putRemote

theorem State.canonical.checkRemote (h : s.canonical) {f r} : (s.checkRemote f r).canonical := by
  unfold State.checkRemote
  split
  · exact h.endRemote
  · split
    · exact h.remoteMessage
    · exact h.passRemote

theorem State.canonical.requestRemote (h : s.canonical) {f r} : (s.requestRemote f r).canonical := by
  unfold State.requestRemote
  split
  · exact h.checkRemote
  · split
    · exact h.endRemote
    · split
      · exact h
      · exact h.putRemote.post

theorem execRemoteRequestArrive_lands (h : s.canonical) {n foreign} : Lands (execRemoteRequestArrive n foreign s) := by
  unfold execRemoteRequestArrive
  dsimp only
  split
  · split
    · exact h
    · exact h.launch.checkRemote
  · split
    · split
      · split
        · exact h
        · split
          · split
            · exact h.remoteMessage
            · exact h
          · split
            · exact h
            · split
              · split
                · exact h.putRemote
                · exact h
              · exact h.requestRemote
      · exact h
    · exact h

theorem State.canonical.readPieces (h : s.canonical) {core ts l} : (s.readPieces core ts l).2.canonical := by
  induction l generalizing s with
  | nil => exact h
  | cons p r ih =>
    unfold State.readPieces
    split
    · exact h.walked _
    · rename_i he
      exact (ih (h.access he)).touch

/-- The state that reading a chunk leaves is canonical. -/
def ChunkRead.Canonical : ChunkRead → Prop
  | .bytes t _ | .wait t | .fault t => t.canonical

theorem State.canonical.readChunk (h : s.canonical) {f r k} : (s.readChunk f r k).Canonical := by
  unfold State.readChunk
  extract_lets ps go
  have hgo : ∀ {s : State}, s.canonical → (go s).Canonical := by
    intro s hs
    unfold go
    split
    iterate 2
      · rename_i he
        exact snd_canonical hs.readPieces he
  split
  · exact hgo h
  · split
    · exact h
    · exact h.countWaits.putRemote
  · split
    · exact h.countStales
    · exact hgo h.countStales

theorem State.canonical.cutShort (h : s.canonical) {n r} : (s.cutShort n r).canonical := by
  unfold State.cutShort
  split
  · exact h.putRemote
  · exact h.endRemote

theorem State.canonical.landChunk (h : s.canonical) {f r k bs} : (s.landChunk f r k bs).canonical := by
  unfold State.landChunk
  dsimp only
  split
  · split
    · rename_i he1
      exact (h.checkedWrite_error he1).endRemote
    · rename_i he1
      split
      · exact (h.checkedWrite he1).setCounter.touchAt.endRemote
      · split
        · exact (h.checkedWrite he1).setCounter.touchAt.cutShort
        · exact (h.checkedWrite he1).setCounter.touchAt.putRemote
  · exact h.endRemote

theorem State.canonical.keep (h : s.canonical) {n k r bs} : (s.keep n k r bs).canonical := by
  unfold State.keep
  dsimp only
  split
  · exact h
  · split
    · exact h.congr rfl rfl
    · split
      · exact h.stick
      · exact h

theorem State.canonical.takeChunk (h : s.canonical) {f r k bs} : (s.takeChunk f r k bs).canonical := by
  unfold State.takeChunk
  split
  · exact h.keep
  · exact h.dropKept.landChunk

theorem State.canonical.moveChunk (h : s.canonical) {f r k} : (s.moveChunk f r k).canonical := by
  have hread := h.readChunk (f := f) (r := r) (k := k)
  unfold State.moveChunk
  split
  · rename_i t he
    rw [he] at hread
    exact hread
  · rename_i t he
    rw [he] at hread
    have ht : t.canonical := hread
    split
    · exact ht.putRemote.post
    · exact ht.cutShort
  · rename_i t bs he
    rw [he] at hread
    have ht : t.canonical := hread
    split
    · exact ht.putRemote.post
    · exact ht.takeChunk

theorem execRstChunkLand_lands (h : s.canonical) {n k data} : Lands (execRstChunkLand n k data s) := by
  unfold execRstChunkLand
  split
  · exact h
  · split
    · exact h
    · split
      · split
        · exact h
        · exact h.takeChunk
      · split
        · exact h
        · split
          · exact h.moveChunk
          · split
            · exact h
            · split
              · exact h.cutShort
              · split
                · exact h.takeChunk
                · exact h

theorem State.canonical.changePosted (h : s.canonical) {r f n} (he : s.changePosted r f = .ok (n, t)) : t.canonical := by
  unfold State.changePosted at he
  split at he
  · cases he
  · split at he
    · cases he
    · rename_i hr
      split at he
      · cases he
      · rename_i hw
        cases he
        exact ((h.globalBytes hr).checkedWrite hw).touchAt

theorem State.canonical.changePosted_error (h : s.canonical) {r f} (he : s.changePosted r f = .error t) : t.canonical := by
  unfold State.changePosted at he
  split at he
  · cases he
    exact h
  · split at he
    · rename_i hr
      cases he
      exact h.globalBytes_error hr
    · rename_i hr
      split at he
      · rename_i hw
        cases he
        exact (h.globalBytes hr).checkedWrite_error hw
      · cases he

theorem execRfaaPerform_lands (h : s.canonical) {n} : Lands (execRfaaPerform n s) := by
  unfold execRfaaPerform
  split
  · exact h
  · split
    · exact h
    · split
      · exact h.keep
      · split
        · exact h.endRemote
        · split
          · rename_i he1
            exact (h.changePosted he1).endRemote
          · rename_i he1
            exact (h.changePosted_error he1).endRemote

theorem execRfenceFlagLand_lands (h : s.canonical) {n} : Lands (execRfenceFlagLand n s) := by
  unfold execRfenceFlagLand
  split
  · exact h
  · split
    · exact h
    · split
      · exact h.keep
      · split
        · exact h.endRemote
        · split
          · rename_i he1
            exact (h.changePosted he1).endRemote
          · rename_i he1
            exact (h.changePosted_error he1).endRemote

theorem State.canonical.deliverWord (h : s.canonical) {f r} : (s.deliverWord f r).canonical := by
  unfold State.deliverWord
  split
  · exact h.landed
  · split
    · exact h
    · split
      · rename_i he
        exact (h.deliverMsg he).landed
      · exact h

theorem execRemoteCompletionArrive_lands (h : s.canonical) {n word} : Lands (execRemoteCompletionArrive n word s) := by
  unfold execRemoteCompletionArrive
  dsimp only
  split
  · exact h
  · split
    · exact h
    · split
      · exact h.deliverWord
      · split
        · exact h
        · exact h.putRemote.deliverWord

theorem State.canonical.failRemotes (h : s.canonical) {peer} : (s.failRemotes peer).canonical := by
  unfold State.failRemotes
  dsimp only
  split
  · exact h
  · refine State.canonical.foldl h _ fun _ hs => ?_
    split
    · split
      · exact hs.endRemote.congr rfl rfl
      · exact hs
    · exact hs

end Remote

end Sys2Proof.Machine

/-!
Proofs: collectives keep the canonical form (R81 to R92).
-/
namespace Sys2Proof.Machine
open Sys2Proof

section Collectives
variable {s t : State}

variable {w : Work}

theorem State.canonical.submitColl (h : s.canonical) {engine ws asid tenant crews task rcd} :
    (s.submitColl engine ws asid tenant crews task rcd).2.canonical := by
  unfold State.submitColl
  dsimp only
  split
  · exact h
  · exact h.congr rfl rfl

theorem holdAsked_keeps {k p bs} : Keeps (holdAsked k p bs) := by
  unfold holdAsked
  exact fun _ _ _ hs1 => hs1.present.modThread

theorem execSt64s_lands (h : s.canonical) {x a b c} : Lands (execSt64s x a b c s) := by
  unfold execSt64s
  refine issue_lands (fun _ => ?_) h
  refine readS_keeps.bind fun _ => readS_keeps.bind fun _ => getThr_keeps.bind fun _ => ?_
  dsimp only
  split
  · exact writeS_keeps.bind fun _ => goOn_keeps
  · exact hold_keeps
  · refine localBlock_keeps.bind fun _ => Keeps.getState_bind fun _ hs => ?_
    split
    · exact writeS_keeps.bind fun _ => goOn_keeps
    · refine holdUnless_keeps.bind fun _ => ?_
      split
      · exact holdAsked_keeps
      · split
        · exact writeS_keeps.bind fun _ => goOn_keeps
        · exact (modState_keeps fun _ => hs.submitColl).bind fun _ => writeS_keeps.bind fun _ => goOn_keeps

theorem collFault_canonical (hw : w.1.canonical) {m addr} : (collFault m addr w).1.canonical := by
  unfold collFault
  dsimp only
  split
  · exact hw
  · exact hw.foldl _ fun _ hs => hs.post

theorem collRead_canonical (hw : w.1.canonical) {m off n} : (collRead m off n w).2.1.canonical := by
  unfold collRead
  split
  split
  · rename_i he
    exact hw.globalBytes he
  · rename_i he
    exact collFault_canonical (hw.globalBytes_error he)

theorem collWrite_canonical (hw : w.1.canonical) {m off bs} : (collWrite m off bs w).1.canonical := by
  unfold collWrite
  dsimp only
  split
  · exact hw
  · split
    · rename_i he
      exact hw.checkedWrite he
    · rename_i he
      exact collFault_canonical (hw.checkedWrite_error he)

theorem collSend_canonical (hw : w.1.canonical) {m dst stage off bs} : (collSend m dst stage off bs w).1.canonical := by
  unfold collSend
  dsimp only
  split
  · exact hw
  · split
    · exact hw
    · split
      · exact hw.queueOn
      · exact hw.post

theorem directUnit_canonical (hw : w.1.canonical) {m n u} : (directUnit m n u w).1.canonical := by
  unfold directUnit
  extract_lets want code sent q
  have hsent : sent.1.canonical := by
    unfold sent
    split
    · exact hw
    · split
      · exact hw
      · exact foldl_fst_canonical hw _ fun _ hw => collSend_canonical hw
  split
  · exact hsent
  · split
    · exact hsent
    · exact collWrite_canonical hsent

theorem unitUp_canonical (hw : w.1.canonical) {m n u} : (unitUp m n u w).1.canonical := by
  unfold unitUp
  dsimp only
  split
  · exact hw
  · split
    · exact hw
    · split
      · exact hw
      · split
        · exact hw
        · exact collSend_canonical hw

theorem unitDown_canonical (hw : w.1.canonical) {m n u} : (unitDown m n u w).1.canonical := by
  unfold unitDown
  dsimp only
  split
  · exact hw
  · split
    · exact hw
    · refine foldl_fst_canonical ?_ _ fun _ hw => collSend_canonical hw
      split
      · exact collWrite_canonical hw
      · exact hw

theorem treeUnit_canonical (hw : w.1.canonical) {m n u} : (treeUnit m n u w).1.canonical := by
  unfold treeUnit
  split
  · exact directUnit_canonical hw
  · exact unitDown_canonical (unitUp_canonical hw)

theorem dataUnit_canonical (hw : w.1.canonical) {m from_ u} : (dataUnit m from_ u w).1.canonical := by
  unfold dataUnit
  dsimp only
  split
  · exact hw
  · split
    · exact collWrite_canonical hw
    · exact hw

theorem collTable_canonical (hw : w.1.canonical) {m} : (collTable m w).2.1.canonical := by
  unfold collTable
  split
  split
  · exact hw
  · split
    · rename_i he
      exact hw.globalBytes he
    · rename_i he
      exact collFault_canonical (hw.globalBytes_error he)

theorem collTell_canonical (hw : w.1.canonical) {m} : (collTell m w).1.canonical := by
  unfold collTell
  dsimp only
  split
  · exact hw
  · exact hw.foldl _ fun _ hs => hs.post

theorem collAdvance_canonical (hw : w.1.canonical) {m} : (collAdvance m w).1.canonical := by
  unfold collAdvance
  dsimp only
  split
  · exact hw
  · refine collTell_canonical ?_
    split
    · exact foldl_fst_canonical hw _ fun _ hw => treeUnit_canonical hw
    · refine foldl_fst_canonical hw _ fun _ hw => ?_
      split
      · exact hw
      · exact dataUnit_canonical hw

theorem collStart_canonical (hw : w.1.canonical) {m tables} : (collStart m tables w).1.canonical := by
  unfold collStart
  dsimp only
  split
  · exact hw
  · split
    · exact foldl_fst_canonical hw _ fun _ hw => collRead_canonical hw
    · refine foldl_fst_canonical hw _ fun _ hw => ?_
      split
      · exact hw
      · exact collSend_canonical (collRead_canonical hw)

theorem State.canonical.modColls (h : s.canonical) {f} : (s.modColls f).canonical := h.congr rfl rfl

theorem State.canonical.putColl (h : s.canonical) {q} : (s.putColl q).canonical := h.modColls

theorem State.canonical.dropColl (h : s.canonical) {q} : (s.dropColl q).canonical := h.congr rfl rfl

theorem execCollectiveRequestTake_lands (h : s.canonical) {e} : Lands (execCollectiveRequestTake e s) := by
  unfold execCollectiveRequestTake
  dsimp only
  split
  · exact h
  · exact h.putColl

theorem collDeliver_canonical (hw : w.1.canonical) {c} : (collDeliver c w).1.canonical := by
  unfold collDeliver
  dsimp only
  split
  · exact hw
  · split
    · exact hw.replayStep
    · exact hw

theorem collDrain_canonical (hw : w.1.canonical) {fuel} : (collDrain fuel w).1.canonical := by
  induction fuel generalizing w with
  | zero => exact hw
  | succ fuel ih =>
    obtain ⟨s, q⟩ := w
    unfold collDrain
    split
    · exact hw
    · exact ih (collDeliver_canonical (show s.canonical from hw))

theorem State.canonical.collGo (h : s.canonical) {q} : (s.collGo q).canonical :=
  (collAdvance_canonical (collDrain_canonical h)).putColl

theorem execCollectiveMatch_lands (h : s.canonical) {c seq peers tables} : Lands (execCollectiveMatch c seq peers tables s) := by
  unfold execCollectiveMatch
  split
  · exact h
  · rename_i q _
    extract_lets +onlyGivenNames m rows early
    have table := collTable_canonical (w := (s, q)) (m := m) h
    split
    · exact h
    · split
      · exact h.putColl
      · generalize collTable m (s, q) = read at table ⊢
        obtain ⟨tbl, w⟩ := read
        dsimp -zeta only
        split
        · exact h
        · refine State.canonical.collGo (collStart_canonical ?_)
          exact table

theorem execCollectiveChunkArrive_lands (h : s.canonical) {c seq rank stage off data} :
    Lands (execCollectiveChunkArrive c seq rank stage off data s) := by
  unfold execCollectiveChunkArrive
  dsimp only
  split
  · exact h
  · split
    · exact h
    · split
      · exact h.collGo
      · split
        · exact h.stick
        · exact h.putColl

theorem execCollectiveFaultNotice_lands (h : s.canonical) {c seq addr} : Lands (execCollectiveFaultNotice c seq addr s) := by
  unfold execCollectiveFaultNotice
  split
  · split
    · exact h.putColl
    · exact h
  · exact h

theorem State.canonical.heedNote (h : s.canonical) {n} : (s.heedNote n).canonical := by
  unfold State.heedNote
  extract_lets planned cut
  have hplanned : planned.canonical := canonical_ite h h.replanPort
  exact canonical_ite hplanned.modColls.failRemotes hplanned.modColls

theorem State.canonical.heedNotes (h : s.canonical) : s.heedNotes.canonical := by
  refine State.canonical.foldl ?_ _ fun _ hs => hs.heedNote
  exact h.congr rfl rfl

theorem State.canonical.endColl (h : s.canonical) {q st w1 extra} : (s.endColl q st w1 extra).canonical := by
  unfold State.endColl
  extract_lets dropped w0 told
  have htold : told.canonical := by
    unfold told
    split
    · split
      · exact canonical_ite h.dropColl.launch h.dropColl
      · exact h.dropColl
    · exact h.dropColl
  split
  · split
    · exact htold.complete
    · exact htold
  · exact htold

theorem execCollectiveComplete_lands (h : s.canonical) {c seq} : Lands (execCollectiveComplete c seq s) := by
  unfold execCollectiveComplete
  split
  · exact h
  · split
    · exact h
    · split
      · exact h.endColl
      · exact h

theorem execRidgeTokenArrive_lands (h : s.canonical) {c rank errors} : Lands (execRidgeTokenArrive c rank errors s) := by
  unfold execRidgeTokenArrive
  dsimp only
  split
  · exact h.setComm
  · exact h

theorem State.canonical.readMap (h : s.canonical) {m} : (s.readMap m).2.canonical := by
  unfold State.readMap
  dsimp only
  split
  · exact h
  · split
    · rename_i he
      exact h.globalBytes_error he
    · rename_i he
      exact h.globalBytes he

theorem execCommEnable_lands (h : s.canonical) {c v} : Lands (execCommEnable c v s) := by
  unfold execCommEnable
  dsimp only
  split
  · exact h
  · split
    iterate 2
      · rename_i he
        exact (snd_canonical h.readMap he).setComm

theorem State.canonical.commWrite (h : s.canonical) {c v} : (s.commWrite c v).canonical := by
  unfold State.commWrite
  dsimp only
  split
  · exact h
  · exact h.setComm

theorem State.canonical.commMap (h : s.canonical) {c v} : (s.commMap c v).canonical := by
  unfold State.commMap
  dsimp only
  split
  · exact h
  · exact h.setComm

end Collectives

end Sys2Proof.Machine

/-!
Proofs: transfers of control and the program loader keep the canonical form (R46 to R48, R278 to R283).
-/
namespace Sys2Proof.Machine
open Sys2Proof

section Loader
variable {s t : State}

theorem loadS_lands (h : s.canonical) {n signed x a b imm} : Lands (loadS n signed x a b imm s) :=
  issue_lands (fun _ => readS_keeps.bind fun _ => loadMem_keeps.bind fun _ => writeS_keeps.bind fun _ => goOn_keeps) h

theorem storeS_lands (h : s.canonical) {n x a b imm} : Lands (storeS n x a b imm s) :=
  issue_lands (fun _ => readS_keeps.bind fun _ => readS_keeps.bind fun _ => storeMem_keeps.bind fun _ => goOn_keeps) h

theorem goTo_keeps {k u} : Keeps (goTo k u) := trapIf_keeps.bind fun _ => Keeps.pure _

theorem callTo_keeps {k u} : Keeps (callTo k u) :=
  trapIf_keeps.bind fun _ => writeS_keeps.bind fun _ => Keeps.pure _

theorem branch_lands (h : s.canonical) {x a b imm p} : Lands (branch x a b imm p s) := by
  unfold branch
  refine issue_lands (fun _ => ?_) h
  refine readS_keeps.bind fun _ => readS_keeps.bind fun _ => ?_
  split
  · exact goTo_keeps
  · exact goOn_keeps

theorem execB_lands (h : s.canonical) {x imm} : Lands (execB x imm s) := issue_lands (fun _ => goTo_keeps) h

theorem execJmp_lands (h : s.canonical) {x imm} : Lands (execJmp x imm s) := issue_lands (fun _ => goTo_keeps) h

theorem execCall_lands (h : s.canonical) {x imm} : Lands (execCall x imm s) := issue_lands (fun _ => callTo_keeps) h

theorem execJr_lands (h : s.canonical) {x a imm} : Lands (execJr x a imm s) :=
  issue_lands (fun _ => readS_keeps.bind fun _ => goTo_keeps) h

theorem execCallr_lands (h : s.canonical) {x a imm} : Lands (execCallr x a imm s) :=
  issue_lands (fun _ => readS_keeps.bind fun _ => callTo_keeps) h

theorem checkTarget_keeps {k u} : Keeps (checkTarget k u) := by
  unfold checkTarget
  refine getCore_keeps.bind fun _ => ?_
  dsimp only
  refine holdUnless_keeps.bind fun _ => ?_
  split
  · exact Keeps.pure _
  · split <;> exact trap_keeps

theorem execJmpf_lands (h : s.canonical) {x a imm} : Lands (execJmpf x a imm s) :=
  issue_lands (fun _ => readS_keeps.bind fun _ => checkTarget_keeps.bind fun _ => goTo_keeps) h

theorem execCallf_lands (h : s.canonical) {x a imm} : Lands (execCallf x a imm s) :=
  issue_lands (fun _ => readS_keeps.bind fun _ => checkTarget_keeps.bind fun _ => callTo_keeps) h

theorem execLoop_lands (h : s.canonical) {x a imm} : Lands (execLoop x a imm s) := by
  unfold execLoop
  refine issue_lands (fun _ => ?_) h
  refine readS_keeps.bind fun _ => ?_
  dsimp only
  refine trapIf_keeps.bind fun _ => ?_
  split
  · exact Keeps.pure _
  · exact modThr_keeps.bind fun _ => goOn_keeps

theorem execTrap_lands (h : s.canonical) {x imm} : Lands (execTrap x imm s) := by
  unfold execTrap
  refine issue_lands (fun _ => ?_) h
  intro s hs
  dsimp only
  exact hs

theorem execEret_lands (h : s.canonical) {x} : Lands (execEret x s) :=
  issue_lands (fun _ => getThr_keeps.bind fun _ => trapIf_keeps.bind fun _ => modThr_keeps.bind fun _ => Keeps.pure _) h

theorem State.canonical.loadBytes (h : s.canonical) {asid a n} : ((loadBytes asid a n).run s).2.canonical := by
  simp only [Machine.loadBytes, StateT.run]
  split
  · rename_i he
    exact h.globalBytes he
  · rename_i he
    exact h.globalBytes_error he

variable {x : Src}

theorem Src.read_keeps {o n} : LoadKeeps (x.read o n) := by
  unfold Src.read
  split
  · exact LoadKeeps.pure _
  · refine (LoadKeeps.lift fun h => h.loadBytes).bind fun _ => ?_
    split
    · exact LoadKeeps.pure _
    · exact LoadKeeps.throw _

theorem Src.num_keeps {o n} : LoadKeeps (x.num o n) := Src.read_keeps.bind fun _ => LoadKeeps.pure _

theorem Src.peek_keeps {o n} : LoadKeeps (x.peek o n) := LoadKeeps.get_bind fun _ _ => LoadKeeps.pure _

theorem readPhdr_keeps {o earlier} : LoadKeeps (readPhdr x o earlier) := by
  unfold readPhdr
  simp only [refuse_bind]
  exact Src.num_keeps.bind fun _ => LoadKeeps.ite (LoadKeeps.pure _) <|
    Src.num_keeps.bind fun _ => LoadKeeps.ite (LoadKeeps.throw _) <|
    Src.num_keeps.bind fun _ => LoadKeeps.ite (LoadKeeps.throw _) <|
    Src.num_keeps.bind fun _ => LoadKeeps.ite (LoadKeeps.throw _) <|
    Src.num_keeps.bind fun _ => (LoadKeeps.ite Src.num_keeps (LoadKeeps.pure _)).bind fun _ => LoadKeeps.pure _

theorem readPhdrs_keeps {n o acc} : LoadKeeps (readPhdrs x n o acc) := by
  induction n generalizing o acc with
  | zero => exact LoadKeeps.pure _
  | succ n ih => exact readPhdr_keeps.bind fun _ => ih

theorem loadSegs_keeps {l} : LoadKeeps (loadSegs x l) := by
  induction l with
  | nil => exact LoadKeeps.pure _
  | cons p r ih =>
    exact ih.bind fun _ => LoadKeeps.ite (Src.peek_keeps.bind fun _ => LoadKeeps.pure _) (LoadKeeps.pure _)

theorem Seg.need_keeps {g : Seg} {o n} : LoadKeeps (g.need x o n) :=
  LoadKeeps.ite (Src.read_keeps.bind fun _ => LoadKeeps.pure _) (LoadKeeps.pure _)

theorem chainAt_keeps {g fuel ch o xis} : LoadKeeps (chainAt x g fuel ch o xis) := by
  induction fuel generalizing ch o xis with
  | zero => exact LoadKeeps.pure _
  | succ fuel ih =>
    unfold chainAt
    refine LoadKeeps.ite (LoadKeeps.pure _) (Seg.need_keeps.bind fun _ => ?_)
    extract_lets w op page
    refine LoadKeeps.ite ?_ (LoadKeeps.ite (LoadKeeps.pure _) ?_)
    · split
      · exact LoadKeeps.pure _
      · exact LoadKeeps.ite (LoadKeeps.pure _) (LoadKeeps.pure _)
    · split
      · exact LoadKeeps.pure _
      · exact LoadKeeps.ite (LoadKeeps.pure _) ih

theorem readTab_keeps {o} : LoadKeeps (readTab x o) :=
  Src.num_keeps.bind fun _ => Src.num_keeps.bind fun _ => LoadKeeps.pure _

theorem symAt_keeps {hdr i} : LoadKeeps (symAt x hdr i) :=
  LoadKeeps.ite (LoadKeeps.pure _) <| readTab_keeps.bind fun _ => LoadKeeps.ite (LoadKeeps.pure _) <|
    Src.num_keeps.bind fun _ => LoadKeeps.ite (LoadKeeps.pure _) (LoadKeeps.pure _)

theorem applyData_keeps {g kind place sa bad} : LoadKeeps (applyData g kind place sa bad) := by
  unfold applyData
  simp only [refuse_bind]
  exact LoadKeeps.ite (LoadKeeps.throw _) (LoadKeeps.pure _)

theorem applyInstr_keeps {g kind place sym sv a bad c} : LoadKeeps (applyInstr x g kind place sym sv a bad c) := by
  unfold applyInstr
  simp only [refuse_bind]
  exact LoadKeeps.ite (LoadKeeps.throw _) <| Src.num_keeps.bind fun _ => LoadKeeps.ite (LoadKeeps.throw _) (LoadKeeps.pure _)

theorem relocTerms_keeps {o sym} : LoadKeeps (relocTerms x o sym) :=
  Src.num_keeps.bind fun _ => Src.num_keeps.bind fun _ => LoadKeeps.pure _

theorem applyRela_keeps {sect symtab target segs o} : LoadKeeps (applyRela x sect symtab target segs o) := by
  unfold applyRela
  simp only [refuse_bind]
  refine Src.num_keeps.bind fun _ => Src.peek_keeps.bind fun _ => Src.peek_keeps.bind fun _ =>
    LoadKeeps.ite (LoadKeeps.throw _) <| Src.num_keeps.bind fun _ => LoadKeeps.ite (LoadKeeps.pure _) <|
    symAt_keeps.bind fun _ => ?_
  split
  · exact LoadKeeps.throw _
  · refine LoadKeeps.ite (LoadKeeps.pure _) (Src.num_keeps.bind fun _ => ?_)
    split
    · exact LoadKeeps.throw _
    · refine LoadKeeps.ite ?_ (LoadKeeps.ite (LoadKeeps.throw _) (chainAt_keeps.bind fun _ => ?_))
      · exact relocTerms_keeps.bind fun _ => applyData_keeps.bind fun _ => LoadKeeps.pure _
      · split
        · exact LoadKeeps.throw _
        · exact relocTerms_keeps.bind fun _ => applyInstr_keeps.bind fun _ => LoadKeeps.pure _

theorem applyAll_keeps {sect symtab target n o segs} : LoadKeeps (applyAll x sect symtab target n o segs) := by
  induction n generalizing o segs with
  | zero => exact LoadKeeps.pure _
  | succ n ih => exact applyRela_keeps.bind fun _ => ih

theorem applySections_keeps {shoff shn n i segs} : LoadKeeps (applySections x shoff shn n i segs) := by
  induction n generalizing i segs with
  | zero => exact LoadKeeps.pure _
  | succ n ih =>
    unfold applySections
    simp only [refuse_bind]
    refine Src.num_keeps.bind fun _ => LoadKeeps.ite (LoadKeeps.throw _) <| LoadKeeps.ite ih <|
      Src.num_keeps.bind fun _ => LoadKeeps.ite (LoadKeeps.throw _) <|
      Src.num_keeps.bind fun _ => LoadKeeps.ite (LoadKeeps.throw _) <| Src.num_keeps.bind fun _ => ?_
    exact LoadKeeps.ite ((LoadKeeps.pure _).bind fun _ => applyAll_keeps.bind fun _ => ih)
      (Src.num_keeps.bind fun _ => applyAll_keeps.bind fun _ => ih)

theorem readRest_keeps {l} : LoadKeeps (readRest x l) := by
  induction l with
  | nil => exact LoadKeeps.pure _
  | cons g r ih => exact Src.read_keeps.bind fun _ => ih

theorem nameIs_keeps {o left l} : LoadKeeps (nameIs x o left l) := by
  induction l generalizing o left with
  | nil => exact LoadKeeps.pure _
  | cons b r ih => exact LoadKeeps.ite (LoadKeeps.pure _) (Src.read_keeps.bind fun _ => LoadKeeps.ite ih (LoadKeeps.pure _))

theorem symbolIn_keeps {tab strs name n i} : LoadKeeps (symbolIn x tab strs name n i) := by
  induction n generalizing i with
  | zero => exact LoadKeeps.pure _
  | succ n ih =>
    exact Src.num_keeps.bind fun _ => Src.num_keeps.bind fun _ => LoadKeeps.ite ih <| Src.num_keeps.bind fun _ =>
      nameIs_keeps.bind fun _ => LoadKeeps.ite (Src.num_keeps.bind fun _ => LoadKeeps.pure _) ih

theorem globalSymbol_keeps {shoff shn name n i} : LoadKeeps (globalSymbol x shoff shn name n i) := by
  induction n generalizing i with
  | zero => exact LoadKeeps.pure _
  | succ n ih =>
    unfold globalSymbol
    dsimp only
    refine Src.num_keeps.bind fun _ => LoadKeeps.ite ih <| Src.num_keeps.bind fun _ => LoadKeeps.ite ih <|
      readTab_keeps.bind fun _ => readTab_keeps.bind fun _ => symbolIn_keeps.bind fun _ => ?_
    split
    · exact LoadKeeps.pure _
    · exact ih

theorem symbolWords_keeps {asid v n} : LoadKeeps (symbolWords asid v n) := by
  unfold symbolWords
  split
  · exact LoadKeeps.pure _
  · refine (LoadKeeps.lift fun h => h.loadBytes).bind fun _ => ?_
    split
    · exact LoadKeeps.pure _
    · exact LoadKeeps.throw _

theorem readHeader_keeps : LoadKeeps (readHeader x) := by
  unfold readHeader
  simp only [refuse_bind]
  exact Src.num_keeps.bind fun _ => LoadKeeps.ite (LoadKeeps.throw _) <|
    Src.num_keeps.bind fun _ => LoadKeeps.ite (LoadKeeps.throw _) <|
    Src.num_keeps.bind fun _ => LoadKeeps.ite (LoadKeeps.throw _) <|
    Src.num_keeps.bind fun _ => LoadKeeps.ite (LoadKeeps.throw _) <|
    Src.num_keeps.bind fun _ => LoadKeeps.ite (LoadKeeps.throw _) <|
    Src.num_keeps.bind fun _ => Src.num_keeps.bind fun _ => LoadKeeps.ite (LoadKeeps.throw _) <|
    Src.num_keeps.bind fun _ => Src.num_keeps.bind fun _ => LoadKeeps.ite (LoadKeeps.throw _) <|
    LoadKeeps.bind (LoadKeeps.ite (LoadKeeps.pure _) Src.num_keeps) fun _ =>
    LoadKeeps.bind (LoadKeeps.ite (LoadKeeps.pure _) Src.num_keeps) fun _ => LoadKeeps.pure _

theorem placeSegs_keeps {asid l} : LoadKeeps (placeSegs asid l) := by
  induction l with
  | nil => exact LoadKeeps.pure _
  | cons g r ih =>
    unfold placeSegs
    dsimp only
    split
    · refine LoadKeeps.get_bind fun s h => ?_
      split
      · rename_i hw
        exact (LoadKeeps.set (h.globalWrite hw)).bind fun _ => ih
      · rename_i hw
        exact (LoadKeeps.set (h.globalWrite_error hw)).bind fun _ => LoadKeeps.throw _
    · exact ih

theorem loadRun_keeps {r} : LoadKeeps (loadRun r) := by
  unfold loadRun
  extract_lets asid x
  refine readHeader_keeps.bind fun _ => readPhdrs_keeps.bind fun _ => loadSegs_keeps.bind fun _ => applySections_keeps.bind fun _ =>
    readRest_keeps.bind fun _ => placeSegs_keeps.bind fun _ => ?_
  extract_lets +onlyGivenNames symbol traced
  have hsymbol : ∀ name, LoadKeeps (symbol name) := fun _ => globalSymbol_keeps
  have htraced : ∀ a, LoadKeeps (traced a) := by
    intro a
    refine symbolWords_keeps.bind fun _ => ?_
    extract_lets +onlyGivenNames broken
    have hbroken : ∀ a, LoadKeeps (broken a) := by
      intro a
      refine symbolWords_keeps.bind fun _ => ?_
      extract_lets +onlyGivenNames replayed
      have hreplayed : ∀ a, LoadKeeps (replayed a) := by
        intro a
        unfold replayed
        extract_lets +onlyGivenNames checked
        have hchecked : ∀ a, LoadKeeps (checked a) := fun _ => (hsymbol _).bind fun _ =>
          LoadKeeps.ite ((LoadKeeps.pure _).bind fun _ => LoadKeeps.pure _) (Src.num_keeps.bind fun _ => LoadKeeps.pure _)
        split
        · exact LoadKeeps.ite ((LoadKeeps.throw _).bind hchecked) (hchecked ())
        · exact hchecked ()
      refine LoadKeeps.ite ((hsymbol _).bind fun _ => ?_) ((LoadKeeps.pure _).bind hreplayed)
      split
      · exact (LoadKeeps.throw _).bind hreplayed
      · exact symbolWords_keeps.bind hreplayed
    exact LoadKeeps.ite ((hsymbol _).bind hbroken) ((LoadKeeps.pure _).bind hbroken)
  exact LoadKeeps.ite ((hsymbol _).bind htraced) ((LoadKeeps.pure _).bind htraced)

theorem State.canonical.loadImage (h : s.canonical) {r} : (s.loadImage r).2.canonical := by
  have loaded := loadRun_keeps (r := r) s h
  unfold State.loadImage
  split
  · rename_i he
    exact snd_canonical loaded he
  · exact h.congr rfl rfl

end Loader

end Sys2Proof.Machine

/-!
Proofs: gangs, threads, crews and the end of tasks keep the canonical form.
-/
namespace Sys2Proof.Machine
open Sys2Proof

section Crews
variable {s t : State}

theorem State.canonical.releaseClaims (h : s.canonical) {core ts} : (s.releaseClaims core ts).canonical := by
  unfold State.releaseClaims
  dsimp only
  split
  · exact h
  · exact h.setCore

theorem State.canonical.haltThread (h : s.canonical) {core ts} : (s.haltThread core ts).canonical :=
  h.withdraw.modThread.releaseClaims

theorem State.canonical.haltGang (h : s.canonical) {core ts} : (s.haltGang core ts).canonical :=
  h.foldl _ fun _ hs => hs.haltThread

theorem State.canonical.splitGang (h : s.canonical) {core ts} : (s.splitGang core ts).canonical :=
  h.foldl _ fun _ hs => hs.modThread

theorem execGang_lands (h : s.canonical) {x imm} : Lands (execGang x imm s) := by
  unfold execGang
  refine issue_lands (fun _ => ?_) h
  refine Keeps.getState_bind fun _ hs => ?_
  dsimp only
  refine trapIf_keeps.bind fun _ => trapIf_keeps.bind fun _ => ?_
  split
  · exact (modState_keeps fun hs1 => hs1.foldl _ (fun _ hs2 => hs2.modThread)).bind fun _ => Keeps.pure _
  · exact fun _ _ _ hs1 => hs1.modThread

theorem execSplit_lands (h : s.canonical) {x} : Lands (execSplit x s) :=
  issue_lands (fun _ => (modState_keeps fun hs => hs.splitGang).bind fun _ => goOn_keeps) h

theorem execThstart_lands (h : s.canonical) {x a b c} : Lands (execThstart x a b c s) := by
  unfold execThstart
  refine issue_lands (fun _ => ?_) h
  refine readS_keeps.bind fun _ => readS_keeps.bind fun _ => Keeps.getState_bind fun _ _ => ?_
  dsimp only
  split
  · exact writeS_keeps.bind fun _ => goOn_keeps
  · split
    · exact writeS_keeps.bind fun _ => goOn_keeps
    · split
      · exact writeS_keeps.bind fun _ => goOn_keeps
      · exact holdUnless_keeps.bind fun _ => (modState_keeps fun hs1 => hs1.modThread.enqueue).bind fun _ =>
          writeS_keeps.bind fun _ => goOn_keeps

theorem execHalt_lands (h : s.canonical) {x} : Lands (execHalt x s) :=
  issue_lands (fun _ => (modState_keeps fun hs => hs.haltGang).bind fun _ => goOn_keeps) h

theorem execThstop_lands (h : s.canonical) {x a} : Lands (execThstop x a s) := by
  unfold execThstop
  refine issue_lands (fun _ => ?_) h
  refine readS_keeps.bind fun _ => trapIf_keeps.bind fun _ => ?_
  dsimp only
  split
  · exact (modState_keeps fun hs => hs.haltGang).bind fun _ => goOn_keeps
  · refine Keeps.getState_bind fun _ _ => trapIf_keeps.bind fun _ => ?_
    split
    · exact goOn_keeps
    · exact (modState_keeps fun hs1 => hs1.modThread).bind fun _ => goOn_keeps

theorem execYield_lands (h : s.canonical) {x} : Lands (execYield x s) := issue_lands (fun _ => goOn_keeps) h

theorem execBrk_lands (h : s.canonical) {x} (imm : Word) : Lands (execBrk x imm s) := issue_lands (fun _ _ hs => hs) h

theorem execTrace_lands (h : s.canonical) {x a} : Lands (execTrace x a s) :=
  issue_lands (fun _ => readS_keeps.bind fun _ => (modState_keeps fun hs => hs.traceMarker).bind fun _ => goOn_keeps) h

theorem execBgtrd_lands (h : s.canonical) {x a imm} : Lands (execBgtrd x a imm s) := by
  unfold execBgtrd
  refine issue_lands (fun _ => ?_) h
  refine getCore_keeps.bind fun _ => getThr_keeps.bind fun _ => Keeps.getState_bind fun _ _ => ?_
  dsimp only
  exact writeS_keeps.bind fun _ => goOn_keeps

theorem loadResident_wf {m : Memory} (h : m.wf = true) {core img} : (loadResident m core img).wf = true :=
  foldl_writeSpan_wf (Laws.clearSpan_wf h _ _) _ _ _

theorem State.canonical.startCrew (h : s.canonical) {r img level base rel} : (s.startCrew r img level base rel).canonical := by
  unfold State.startCrew
  extract_lets +onlyGivenNames core mem cleared started traced broken
  have hcleared : cleared.canonical := h.withMem
    { h.mem with
      sram := Laws.clearSpan_wf h.mem.sram _ _
      operand := Laws.clearSpan_wf h.mem.operand _ _
      code := loadResident_wf h.mem.code }
  have hstarted : started.canonical := hcleared.setCore.enqueue
  split
  · exact hstarted.setTrctl.setCore.foldl _ fun _ hs => hs.loadBreaks
  · exact hstarted

theorem State.canonical.freshBuckets (h : s.canonical) {u} : (s.freshBuckets u).canonical := by
  unfold State.freshBuckets
  refine State.canonical.foldl h _ fun _ hs => ?_
  dsimp only
  split
  · exact hs.congr rfl rfl
  · exact hs

theorem State.canonical.startTask (h : s.canonical) {r img base} : (s.startTask r img base).canonical := by
  refine State.canonical.foldl ?_ _ fun _ hs => hs.startCrew
  exact h.freshBuckets.congr rfl rfl

theorem State.canonical.modTask (h : s.canonical) {id f} : (s.modTask id f).canonical := h.congr rfl rfl

theorem execCrewFinish_lands (h : s.canonical) {core} : Lands (execCrewFinish core s) := by
  unfold execCrewFinish
  dsimp only
  split
  · exact h
  · split
    · exact h
    · exact h.setCore.modTask

theorem State.canonical.revokeAll (h : s.canonical) {task} : (s.revokeAll task).canonical :=
  h.foldl _ fun _ hs => hs.revoke

theorem State.canonical.pruneKept (h : s.canonical) : s.pruneKept.canonical := h.congr rfl rfl

theorem State.canonical.freeDomain (h : s.canonical) {u} : (s.freeDomain u).canonical := by
  unfold State.freeDomain
  extract_lets n inside flushed revoked
  have hrevoked : revoked.canonical := (h.foldl _ fun _ hs => hs.traceFlush).revokeAll
  clear_value revoked
  refine State.canonical.pruneKept ?_
  exact hrevoked.congr rfl rfl

theorem State.canonical.endTask (h : s.canonical) {u r} : (s.endTask u r).canonical := by
  unfold State.endTask
  dsimp only
  split
  · exact h.complete.freeDomain
  · exact h.freeDomain

theorem execTrussReport_lands (h : s.canonical) {core} : Lands (execTrussReport core s) := by
  unfold execTrussReport
  dsimp only
  split
  · exact h
  · split
    · exact h
    · split
      · exact h
      · split
        · exact h.endTask
        · exact h.modTask

theorem State.canonical.endBySoftware (h : s.canonical) {core} : (s.endBySoftware core).canonical := by
  unfold State.endBySoftware
  dsimp only
  split
  · exact h
  · split
    · exact h
    · exact h.withdrawAll.setCore

theorem State.canonical.endColls (h : s.canonical) {p} : (s.endColls p).canonical := h.modColls

theorem State.canonical.endRunning (h : s.canonical) {u} : (s.endRunning u).canonical :=
  (h.modTask.foldl _ (fun _ hs => hs.endBySoftware)).endColls

theorem State.canonical.endSaved (h : s.canonical) {v r} : (s.endSaved v r).canonical := by
  unfold State.endSaved
  extract_lets +onlyGivenNames u ended course o completed
  have hcompleted : completed.canonical := h.endColls.complete
  clear_value completed
  refine State.canonical.pruneKept (State.canonical.revokeAll ?_)
  exact State.canonical_iff.2 ⟨hcompleted.mem, fun w hw => hcompleted.saved w (List.mem_of_mem_filter hw)⟩

end Crews

end Sys2Proof.Machine

/-!
Proofs: the vector engine keeps the canonical form.
-/
namespace Sys2Proof.Machine
open Sys2Proof

section Engines
variable {s t : State}

/-- What the performance of a command comes to is canonical. -/
def Done.Canonical : Done → Prop
  | .ok t | .wait t | .late t _ _ => t.canonical

theorem checkElems_canonical (h : s.canonical) {core write l} : (checkElems core write l s).2.2.canonical := by
  induction l generalizing s with
  | nil => exact h
  | cons e r ih =>
    unfold checkElems
    split
    · exact h.walked _
    · rename_i he
      exact ih (h.access he)

theorem State.canonical.markParked (h : s.canonical) {core mx} : (s.markParked core mx).canonical := h.setCore

theorem State.canonical.markPaid (h : s.canonical) {core mx n} : (s.markPaid core mx n).canonical := h.setCore

theorem State.canonical.payRequests (h : s.canonical) {core l} : (State.payRequests core l s).2.canonical := by
  induction l generalizing s with
  | nil => exact h
  | cons n r ih =>
    unfold State.payRequests
    split
    · exact h
    · exact ih h.debitBandwidth

theorem State.canonical.payElems (h : s.canonical) {core mx d l whole} :
    (s.payElems core mx d l whole).elim State.canonical State.canonical := by
  unfold State.payElems
  dsimp only
  split
  · exact h.payRequests
  · exact h.payRequests.noteHeld.markPaid

theorem State.canonical.missedElems (h : s.canonical) {core d kind l} : (s.missedElems core d kind l).canonical := by
  unfold State.missedElems
  dsimp only
  split
  · exact h.modThread
  · exact h

/-- What a checked load comes to, its values or why it is not made, is canonical. -/
def Loaded {α : Type} : Done ⊕ (α × State) → Prop
  | .inl r => r.Canonical
  | .inr (_, t) => t.canonical

section Outcomes
variable {α : Type} {p : Done ⊕ (α × State)}

theorem Loaded.stopped (h : Loaded p) {r : Done} (hp : p = .inl r) : r.Canonical := by
  subst hp
  exact h

theorem Loaded.values (h : Loaded p) {a : α} (hp : p = .inr (a, t)) : t.canonical := by
  subst hp
  exact h

end Outcomes

theorem State.canonical.loadElems (h : s.canonical) {core mx d es whole} : Loaded (s.loadElems core mx d es whole) := by
  have checked := checkElems_canonical h (core := core) (write := false) (l := es)
  unfold State.loadElems
  generalize checkElems core false es s = c at checked ⊢
  obtain ⟨l, f, s1⟩ := c
  dsimp -zeta only at checked ⊢
  split
  · exact h
  · extract_lets laps
    clear_value laps
    split
    · exact canonical_ite h h.countWaits.markParked
    · exact checked.countStales
    · exact checked
    · have paid := checked.payElems (core := core) (mx := mx) (d := d) (l := l) (whole := whole)
      split
      · rename_i he
        rwa [he] at paid
      · rename_i s2 he
        rw [he] at paid
        replace paid : s2.canonical := paid
        extract_lets noted vals touched
        have hnoted : noted.canonical := by
          unfold noted
          split
          · exact canonical_ite paid.countStales.modThread paid.countStales
          · exact paid
        exact (hnoted.foldl _ fun _ hs => hs.touch).missedElems

theorem State.canonical.foldStore (h : s.canonical) {core d a bs} : (s.foldStore core d a bs).canonical := by
  unfold State.foldStore
  split
  · exact h.foldVector
  · split
    · exact h.modThread
    · exact h

theorem State.canonical.append (h : s.canonical) {core d p bs} : (s.append core d p bs).canonical := h.storeTo.foldStore

theorem State.canonical.finish (h : s.canonical) {core d o} : (s.finish core d o).Canonical :=
  (h.foldl _ fun _ hs => hs.append).modThread

theorem State.canonical.storeElems (h : s.canonical) {core mx d es whole} : (s.storeElems core mx d es whole).Canonical := by
  have checked := checkElems_canonical h (core := core) (write := true) (l := es.map (·.1))
  unfold State.storeElems
  generalize checkElems core true (es.map (·.1)) s = c at checked ⊢
  obtain ⟨l, f, s1⟩ := c
  dsimp -zeta only at checked ⊢
  split
  · exact checked
  · have paid := checked.payElems (core := core) (mx := mx) (d := d) (l := l) (whole := whole)
    split
    · rename_i he
      rwa [he] at paid
    · rename_i s2 he
      rw [he] at paid
      replace paid : s2.canonical := paid
      exact (paid.foldl _ fun _ hs => hs.store.foldStore).missedElems

theorem State.canonical.lateFault (h : s.canonical) {core d cause info} : (s.lateFault core d cause info).canonical :=
  h.setCore.foldOn.modThread

theorem State.canonical.popCmd (h : s.canonical) {core mx} : (s.popCmd core mx).canonical := h.setCore

theorem State.canonical.dropClaims (h : s.canonical) {core} : (s.dropClaims core).canonical := by
  unfold State.dropClaims
  refine State.canonical.foldl h _ fun _ hs => ?_
  dsimp only
  split
  · exact hs.setCore
  · exact hs

theorem State.canonical.wake (h : s.canonical) {core ts} : (s.wake core ts).canonical := by
  unfold State.wake
  dsimp only
  split
  · exact h.modThread.enqueue
  · exact h

theorem State.canonical.ended (h : s.canonical) {core} : (s.ended core).canonical :=
  h.dropClaims.foldl _ fun _ hs => hs.wake

theorem endCmd_canonical {core mx d} {r : Done} (hr : r.Canonical) : (endCmd core mx d r).canonical :=
  match r, hr with
  | .ok _, h => (State.canonical.popCmd h).foldOn.ended
  | .wait _, h => h
  | .late _ _ _, h => (State.canonical.lateFault h).ended

theorem vecAt_lands (h : s.canonical) {x e a b unit imm reads writes} : Lands (vecAt x e a b unit imm reads writes s) :=
  issue_lands (fun _ => readS_keeps.bind fun _ => dispatch_keeps.bind fun _ => goOn_keeps) h

theorem vecStride_lands (h : s.canonical) {x e a b c reads writes} : Lands (vecStride x e a b c reads writes s) :=
  issue_lands (fun _ => readS_keeps.bind fun _ => readS_keeps.bind fun _ => dispatch_keeps.bind fun _ => goOn_keeps) h

theorem execYseed_lands (h : s.canonical) {x a b} : Lands (execYseed x a b s) :=
  issue_lands (fun _ => readS_keeps.bind fun _ => localBlock_keeps.bind fun _ => trapIf_keeps.bind fun _ =>
    dispatch_keeps.bind fun _ => goOn_keeps) h

theorem execYdraw_lands (h : s.canonical) {x a b} : Lands (execYdraw x a b s) :=
  issue_lands (fun _ => Keeps.getState_bind fun _ _ => holdUnless_keeps.bind fun _ => getThr_keeps.bind fun _ =>
    trapIf_keeps.bind fun _ => dispatch_keeps.bind fun _ => modThr_keeps.bind fun _ => goOn_keeps) h

theorem State.canonical.drawStopped (h : s.canonical) {core d} {e : DrawStop} (he : e.Canonical) :
    (s.drawStopped core d e).Canonical :=
  match e, he with
  | .fault _ _ _, he => he
  | .held _, _ => h.payDraws.markPaid
  | .wait, _ => h

theorem State.canonical.resolve (h : s.canonical) {d base rs ys} : Drawn (·.2.2.2) (s.resolve d base rs ys) := by
  unfold State.resolve
  extract_lets +onlyGivenNames wants
  split
  · rename_i he
    exact h.extend.error he
  · rename_i he
    have drawn := h.extend.ok he
    exact drawn

theorem State.canonical.performRound (h : s.canonical) {core d} : (s.performRound core d).Canonical := by
  unfold State.performRound
  dsimp only
  split
  · rename_i he
    exact h.drawStopped (h.resolve.error he)
  · rename_i he
    exact State.canonical.finish (h.resolve.ok he)

theorem State.canonical.decideLanes (h : s.canonical) {d yb l ys} : Drawn (·.2.2.2) (s.decideLanes d yb l ys) := by
  unfold State.decideLanes
  extract_lets +onlyGivenNames wants
  split
  · rename_i he
    exact h.extend.error he
  · rename_i he
    have drawn := h.extend.ok he
    exact drawn

theorem State.canonical.compareLanes (h : s.canonical) {d yb yc l ys} : Drawn (·.2.2.2) (s.compareLanes d yb yc l ys) := by
  unfold State.compareLanes
  extract_lets +onlyGivenNames wants
  split
  · rename_i he
    exact h.extend.error he
  · rename_i he
    have drawn := h.extend.ok he
    exact drawn

theorem State.canonical.convertLanes (h : s.canonical) {d yb l ys} : Drawn (·.2.2) (s.convertLanes d yb l ys) := by
  unfold State.convertLanes
  extract_lets +onlyGivenNames wants
  split
  · rename_i he
    exact h.extend.error he
  · rename_i he
    have drawn := h.extend.ok he
    exact drawn

theorem State.canonical.performLazy (h : s.canonical) {core d} : (s.performLazy core d).Canonical := by
  unfold State.performLazy
  dsimp only
  generalize d.kind = kind
  cases kind with
  | yseed => exact h.setCore
  | ydraw | ymov | ystat => exact h.finish
  | ycmp =>
    dsimp only
    split
    · rename_i he
      exact h.drawStopped (h.decideLanes.error he)
    · rename_i he
      exact State.canonical.finish (h.decideLanes.ok he)
  | ycmpy =>
    dsimp only
    split
    · rename_i he
      exact h.drawStopped (h.compareLanes.error he)
    · rename_i he
      exact State.canonical.finish (h.compareLanes.ok he)
  | ycvt =>
    dsimp only
    split
    · rename_i he
      exact h.drawStopped (h.convertLanes.error he)
    · rename_i he
      exact State.canonical.finish (h.convertLanes.ok he)
  | _ => exact h

theorem State.canonical.performMem (h : s.canonical) {core d} : (s.performMem core d).Canonical := by
  unfold State.performMem
  dsimp only
  generalize d.kind = kind
  cases kind with
  | vld | vlds | vldg | vldt =>
    dsimp only
    split
    · rename_i he
      exact h.loadElems.stopped he
    · rename_i he
      exact (h.loadElems.values he).finish
  | vst | vsts | vstg => exact h.storeElems
  | yst =>
    dsimp only
    split
    · exact h
    · exact h.storeElems
  | yld =>
    dsimp only
    split
    · exact h
    · split
      · rename_i he
        exact h.loadElems.stopped he
      · rename_i he
        split
        · exact h.loadElems.values he
        · exact (h.loadElems.values he).finish
  | _ => exact h

theorem State.canonical.rowSums (h : s.canonical) {core d row} : Drawn (·.2.2) (s.rowSums core d row) := by
  unfold State.rowSums
  extract_lets +onlyGivenNames u dt st count per operand old
  split
  · extract_lets rs
    split
    · rename_i he
      exact h.resolve.error he
    · rename_i he
      have drawn := h.resolve.ok he
      exact drawn
  · exact h

theorem State.canonical.performRow (h : s.canonical) {core d} : (s.performRow core d).Canonical := by
  unfold State.performRow
  extract_lets +onlyGivenNames u k n write regs loaded
  split
  · exact h
  · split
    · exact h
    · exact h
    · split
      · exact h.walked _
      · rename_i he
        have hacc := h.access he
        split
        · exact h
        · split
          · exact h.noteHeld
          · extract_lets row cost put
            have hcost : ∀ {s : State}, s.canonical → (cost s).canonical := fun hs => (canonical_ite hs.debitBandwidth hs).touch
            have hput : ∀ {s : State} {v : Nat}, s.canonical → (put s v).canonical :=
              fun hs => hs.land.foldl _ fun _ hs => hs.foldVector
            split
            · exact (hcost hacc).finish
            · exact hput (hcost hacc)
            · exact (canonical_ite (hput (hcost hacc)) (hcost hacc)).finish
            · split
              · rename_i he
                exact h.drawStopped (hacc.rowSums.error he)
              · rename_i he
                exact (hput (hcost (hacc.rowSums.ok he))).finish

theorem State.canonical.performVector (h : s.canonical) {core d} : (s.performVector core d).Canonical := by
  unfold State.performVector
  generalize d.kind = kind
  cases kind with
  | vld | vst | vlds | vsts | vldg | vstg | vldt | yst | yld => exact h.performMem
  | rowld | rowst | rowadd | rowcas => exact h.performRow
  | flt | trans | cvt | yrnd => exact h.performRound
  | yseed | ydraw | ycmp | ycmpy | ycvt | ymov | ystat => exact h.performLazy
  | _ => exact h.finish

theorem execVectorCommandComplete_lands (h : s.canonical) {core} : Lands (execVectorCommandComplete core s) := by
  unfold execVectorCommandComplete
  split
  · exact h
  · split
    · exact h
    · exact endCmd_canonical h.performVector

end Engines

end Sys2Proof.Machine

/-!
Proofs: the matrix engine and the handover of capabilities keep the canonical form.
-/
namespace Sys2Proof.Machine
open Sys2Proof

section Matrix
variable {s t : State}

theorem matMem_lands (h : s.canonical) {x e transposed a b c} : Lands (matMem x e transposed a b c s) := by
  unfold matMem
  refine issue_lands (fun _ => ?_) h
  refine readS_keeps.bind fun _ => readS_keeps.bind fun _ => ?_
  dsimp only
  split
  · refine Keeps.bind ?_ fun _ => goOn_keeps
    exact fun _ _ _ hs1 => hs1.debitSpace
  · exact dispatch_keeps.bind fun _ => goOn_keeps

theorem matCmd_lands (h : s.canonical) {x d} : Lands (matCmd x d s) :=
  issue_lands (fun _ => dispatch_keeps.bind fun _ => goOn_keeps) h

theorem execOclm_lands (h : s.canonical) {x a b imm} : Lands (execOclm x a b imm s) := by
  unfold execOclm
  refine issue_lands (fun _ => ?_) h
  refine getCore_keeps.bind fun _ => ?_
  dsimp only
  split
  · exact modCore_keeps.bind fun _ => writeS_keeps.bind fun _ => goOn_keeps
  · exact writeS_keeps.bind fun _ => goOn_keeps

theorem execOswap_lands (h : s.canonical) {x a b} : Lands (execOswap x a b s) := by
  unfold execOswap
  refine issue_lands (fun _ => ?_) h
  refine readS_keeps.bind fun _ => trapIf_keeps.bind fun _ => getCore_keeps.bind fun _ => ?_
  dsimp only
  exact dispatch_keeps.bind fun _ => modCore_keeps.bind fun _ => goOn_keeps

theorem execZmovv_lands (h : s.canonical) {x a b c} : Lands (execZmovv x a b c s) :=
  issue_lands (fun _ => readS_keeps.bind fun _ => trapIf_keeps.bind fun _ => dispatch_keeps.bind fun _ => goOn_keeps) h

theorem execMwait_lands (h : s.canonical) {x} : Lands (execMwait x s) := by
  unfold execMwait
  refine issue_lands (fun _ => ?_) h
  refine Keeps.getState_bind fun _ hs => ?_
  split
  · exact fun _ _ _ hs1 => hs1.modThread
  · exact (modState_keeps fun hs1 => hs1.foldWrites).bind fun _ => modThr_keeps.bind fun _ => goOn_keeps

theorem execMstat_lands (h : s.canonical) {x a imm} : Lands (execMstat x a imm s) :=
  issue_lands (fun _ => dispatch_keeps.bind fun _ => goOn_keeps) h

theorem mma_lands (h : s.canonical) {x f ow a b c} : Lands (mma x f ow a b c s) := matCmd_lands h

theorem mmaInt_lands (h : s.canonical) {x f ow a b c d} : Lands (mmaInt x f ow a b c d s) :=
  issue_lands (fun _ => readS_keeps.bind fun _ => trapIf_keeps.bind fun _ => dispatch_keeps.bind fun _ => goOn_keeps) h

theorem mmaScaled_lands (h : s.canonical) {x f ow a b c d} : Lands (mmaScaled x f ow a b c d s) :=
  issue_lands (fun _ => readS_keeps.bind fun _ => dispatch_keeps.bind fun _ => goOn_keeps) h

theorem State.canonical.writeZ (h : s.canonical) {core z lanes} : (s.writeZ core z lanes).canonical := h.writeOperand _ _

/-! ## Performance -/

theorem State.canonical.performOld (h : s.canonical) {core d roleB} : (s.performOld core d roleB).Canonical := by
  unfold State.performOld
  split
  · exact h
  · split
    · exact h
    · split
      · rename_i he
        exact h.loadElems.stopped he
      · rename_i he
        exact ((h.loadElems.values he).writeOperand _ _).setCore

theorem State.canonical.storePieces (h : s.canonical) {core d v} : (s.storePieces core d v).Canonical := by
  have checked := checkElems_canonical h (core := core) (write := true) (l := byAddress (matPieces d))
  unfold State.storePieces
  dsimp only
  split
  · rename_i he
    rwa [he] at checked
  · exact h.storeElems

theorem State.canonical.performOst (h : s.canonical) {core d} : (s.performOst core d).Canonical := by
  unfold State.performOst
  split
  · exact h
  · split
    · exact h
    · exact h.storePieces

theorem State.canonical.performZ (h : s.canonical) {core d} : (s.performZ core d).Canonical := by
  unfold State.performZ
  split
  · exact h
  · split
    · exact h.storePieces
    · split
      · rename_i he
        exact h.loadElems.stopped he
      · rename_i he
        exact (h.loadElems.values he).writeZ

theorem State.canonical.performZmovv (h : s.canonical) {core d} : (s.performZmovv core d).Canonical := by
  unfold State.performZmovv
  split
  · exact h
  · exact h.finish

theorem State.canonical.performMma (h : s.canonical) {core d f ow} : (s.performMma core d f ow).Canonical := by
  unfold State.performMma
  extract_lets +onlyGivenNames c scaled l fl written k counted
  have hcounted : counted.canonical := h.writeZ.modThread.setCore
  clear_value counted
  split
  · exact h
  · split
    · exact h
    · split
      · exact h
      · split
        · exact hcounted
        · exact hcounted

theorem State.canonical.performOswap (h : s.canonical) {core d nth} : (s.performOswap core d nth).Canonical := by
  unfold State.performOswap
  dsimp only
  split
  · exact h
  · split
    · exact h
    · split
      · split
        · exact ((h.writeOperand _ _).writeOperand _ _).setCore.setCore.popCmd.ended
        · exact h.lateFault.ended
      · exact h

theorem State.canonical.performMatrix (h : s.canonical) {core d} : (s.performMatrix core d).Canonical := by
  unfold State.performMatrix
  dsimp only
  generalize d.kind = kind
  cases kind with
  | orel => exact h.setCore
  | old | oldt => exact h.performOld
  | ost => exact h.performOst
  | oswap => exact h.performOswap
  | zclr => exact h.writeZ
  | zst | zld => exact h.performZ
  | zmovv => exact h.performZmovv
  | mstat => exact h.finish
  | mma => exact h.performMma
  | _ => exact h

theorem execMatrixCommandComplete_lands (h : s.canonical) {core} : Lands (execMatrixCommandComplete core s) := by
  unfold execMatrixCommandComplete
  split
  · exact h
  · split
    · exact h
    · exact endCmd_canonical h.performMatrix

theorem execCapx_lands (h : s.canonical) {x b c} : Lands (execCapx x b c s) := by
  unfold execCapx
  refine issue_lands (fun _ => ?_) h
  refine readS_keeps.bind fun _ => readS_keeps.bind fun _ => Keeps.getState_bind fun _ _ => ?_
  dsimp only
  refine trapIf_keeps.bind fun _ => ?_
  split
  · exact trap_keeps
  · refine trapIf_keeps.bind fun _ => ?_
    split
    · exact trap_keeps
    · split
      · exact trap_keeps
      · refine trapIf_keeps.bind fun _ => holdUnless_keeps.bind fun _ => ?_
        split
        · exact Keeps.bind (modState_keeps fun hs1 => hs1.congr rfl rfl) fun _ => goOn_keeps
        · refine Keeps.bind (modState_keeps fun hs1 => State.canonical.launch ?_) fun _ => goOn_keeps
          exact hs1.congr rfl rfl

end Matrix

end Sys2Proof.Machine

/-!
Proofs: switching tasks and the events at boundaries keep the canonical form (R77 to R80, R159 to R161).
-/
namespace Sys2Proof.Machine
open Sys2Proof

section Switch
variable {s t : State}

theorem State.canonical.setPressure (h : s.canonical) {p} : (s.setPressure p).canonical := h.congr rfl rfl

theorem State.canonical.watchPressure (h : s.canonical) : s.watchPressure.canonical := by
  unfold State.watchPressure
  split
  · split
    · exact h
    · exact h.setPressure
  · exact h.setPressure
  · exact h.setPressure
  · exact h

theorem State.canonical.watch (h : s.canonical) : s.watch.canonical := by
  unfold State.watch
  dsimp only
  split
  · exact h
  · refine State.canonical.watchPressure ?_
    exact h.congr rfl rfl

theorem State.canonical.setPhase (h : s.canonical) {id p} : (s.setPhase id p).canonical := h.congr rfl rfl

theorem execSwitchOutTrigger_lands (h : s.canonical) : Lands (execSwitchOutTrigger s) := by
  unfold execSwitchOutTrigger
  dsimp only
  split
  · split
    · exact h
    · split
      · exact h
      · split
        · exact h
        · refine State.canonical.foldl ?_ _ fun _ hs => hs.setCore
          exact h.congr rfl rfl
  · exact h

theorem execSwitchOutDrainPass_lands (h : s.canonical) : Lands (execSwitchOutDrainPass s) := by
  unfold execSwitchOutDrainPass
  dsimp only
  split
  · exact h
  · split
    · exact h.congr rfl rfl
    · exact h.congr rfl rfl

theorem State.canonical.writeContext (h : s.canonical) {asid tenant mib l} : (s.writeContext asid tenant mib l).1.canonical := by
  refine foldl_fst_canonical h l fun {p} piece hp => ?_
  dsimp only
  split
  · exact hp
  · split
    · rename_i he
      exact hp.globalWrite he
    · rename_i he
      exact hp.globalWrite_error he

theorem State.canonical.vacate (h : s.canonical) {u} : (s.vacate u).canonical := h.congr rfl rfl

theorem State.canonical.saveCore (h : s.canonical) (u : Task) (rel : Nat) : (s.saveCore u rel).Canonical :=
  ⟨cutSpan_wf h.mem.sram _ _, cutSpan_wf h.mem.operand _ _, cutSpan_wf h.mem.code _ _⟩

theorem State.canonical.savedOf (h : s.canonical) (w : SwitchOut) (u : Task) : (s.savedOf w u).Canonical := by
  refine ⟨fun m hm => ?_, fun c hc => ?_⟩
  · obtain ⟨span, -, rfl⟩ := List.mem_map.1 hm
    exact cutSpan_wf h.mem.sram _ _
  · obtain ⟨rel, -, rfl⟩ := List.mem_map.1 hc
    exact h.saveCore u rel

theorem State.canonical.switchedOut (h : s.canonical) {w u} : (s.switchedOut w u).canonical := by
  unfold State.switchedOut
  extract_lets flushed v vacated
  have hflushed : flushed.canonical := h.foldl _ fun _ hs => hs.traceFlush
  have hvacated : vacated.canonical := hflushed.vacate
  refine State.canonical_iff.2 ⟨hvacated.mem, fun x hx => ?_⟩
  obtain hx | hx := List.mem_append.1 hx
  · exact hvacated.saved x hx
  · exact List.mem_singleton.1 hx ▸ hflushed.savedOf w u

theorem State.canonical.saveContext (h : s.canonical) {w u} : (s.saveContext w u).1.canonical := by
  refine foldl_fst_canonical h _ fun {p} rel hp => ?_
  obtain ⟨s1, f⟩ := p
  cases f with
  | some c => exact hp
  | none =>
    dsimp only
    have hleft : (if u.carries rel then s1.leaveFrames (u.coreAt rel) true else s1).canonical :=
      canonical_ite (hp.leaveFrames _ _) hp
    split
    · rename_i he
      exact fst_canonical hleft.writeContext he
    · rename_i he
      exact fst_canonical hleft.writeContext he

theorem execSwitchOutComplete_lands (h : s.canonical) : Lands (execSwitchOutComplete s) := by
  unfold execSwitchOutComplete
  dsimp only
  split
  · exact h
  · split
    · exact h
    · split
      · rename_i he1
        exact (fst_canonical h.saveContext he1).congr rfl rfl
      · rename_i he1
        split
        · exact (fst_canonical h.saveContext he1).switchedOut.endSaved
        · exact (fst_canonical h.saveContext he1).switchedOut

theorem State.canonical.unpark (h : s.canonical) {core ts causes} : (s.unpark core ts causes).canonical := by
  unfold State.unpark
  dsimp only
  split
  · exact h.setThread.enqueue.traceSync
  · exact h

theorem State.canonical.unparkAll (h : s.canonical) {core causes} : (s.unparkAll core causes).canonical :=
  h.foldl _ fun _ hs => hs.unpark

theorem State.canonical.restoreCore (h : s.canonical) {base v} : (s.restoreCore base v).canonical := by
  unfold State.restoreCore
  dsimp only
  refine State.canonical.foldl (State.canonical.setCore (h.withMem ?_)) _ fun _ hs => ?_
  · exact { h.mem with
      sram := putSpan_wf h.mem.sram _ _ _
      operand := putSpan_wf h.mem.operand _ _ _
      code := putSpan_wf h.mem.code _ _ _ }
  · split
    · exact hs.enqueue
    · exact hs.unpark

theorem State.canonical.askPreempt (h : s.canonical) {core} : (s.askPreempt core).canonical := h.setCore

theorem State.canonical.restoreTask (h : s.canonical) {v base} : (s.restoreTask v base).canonical := by
  have hfresh := h.freshBuckets (u := { v.task with base := base })
  unfold State.restoreTask
  dsimp only
  refine State.canonical.foldl (State.canonical.foldl ?_ _ fun _ hs => hs.restoreCore) _ fun _ hs => canonical_ite hs.askPreempt hs
  refine State.canonical_iff.2 ⟨{ hfresh.mem with sram := ?_ }, fun w hw => hfresh.saved w (List.mem_of_mem_filter hw)⟩
  exact List.foldlRecOn (motive := fun m => Memory.wf m = true) _ _ hfresh.mem.sram fun _ hm _ _ => putSpan_wf hm _ _ _

theorem State.canonical.loseTask (h : s.canonical) {u code} : (s.loseTask u code).canonical := by
  unfold State.loseTask
  dsimp only
  refine State.canonical.foldl ?_ _ fun _ hs => ?_
  · refine State.canonical.setPhase ?_
    split
    · split
      · exact h.congr rfl rfl
      · exact h
    · exact h
  · split
    · split
      · exact hs
      · exact hs.endCrew
    · exact hs

theorem execPerCorePreemption_lands (h : s.canonical) {core} : Lands (execPerCorePreemption core s) := by
  unfold execPerCorePreemption
  dsimp only
  split
  · split
    · exact h
    · split
      · exact h.setCore
      · exact h.askPreempt
  · split
    · exact h
    · split
      · exact h
      · split
        · rename_i he2
          exact (fst_canonical (h.leaveFrames ..).writeContext he2).setCore
        · rename_i he2
          refine State.canonical.setCore ?_
          exact (fst_canonical (h.leaveFrames ..).writeContext he2).congr rfl rfl
  · exact h

theorem execPreemptionRelease_lands (h : s.canonical) {core} : Lands (execPreemptionRelease core s) := by
  unfold execPreemptionRelease
  dsimp only
  split
  · split
    · refine State.canonical.unparkAll (State.canonical.setCore ?_)
      exact h.congr rfl rfl
    · exact h
  · exact h

theorem execContextCopyFault_lands (h : s.canonical) {core mapped} : Lands (execContextCopyFault core mapped s) := by
  unfold execContextCopyFault
  dsimp only
  split
  · split
    · exact h.congr rfl rfl
    · exact h.loseTask
  · split
    · split
      · exact h
      · split
        · exact h.setCore
        · exact h.loseTask
    · exact h

theorem State.canonical.stopPeers (h : s.canonical) {core ts} : (s.stopPeers core ts).canonical := by
  unfold State.stopPeers
  dsimp only
  split
  · exact h
  · refine State.canonical.foldl h _ fun _ hs => ?_
    split
    · exact hs
    · exact hs.modThread

theorem State.canonical.interrupt (h : s.canonical) {core ts cause info late cpseq} :
    (s.interrupt core ts cause info late cpseq).canonical := by
  unfold State.interrupt
  extract_lets recorded
  have hrecorded : recorded.canonical := canonical_ite h.record h
  exact hrecorded.stopPeers.enter

theorem State.canonical.modDue (h : s.canonical) {core ts f} : (s.modDue core ts f).canonical := h.modThread

theorem State.canonical.takeLost (h : s.canonical) {core ts} (he : s.takeLost core ts = some t) : t.canonical := by
  unfold State.takeLost at he
  split at he
  · split at he
    · cases he
      exact h.modDue.interrupt
    · cases he
  · cases he

theorem State.canonical.takeLate (h : s.canonical) {core ts} (he : s.takeLate core ts = some t) : t.canonical := by
  unfold State.takeLate at he
  split at he
  · split at he
    · cases he
      exact h.modDue.interrupt
    · cases he
  · cases he

theorem State.canonical.takeStale (h : s.canonical) {core ts} (he : s.takeStale core ts = some t) : t.canonical := by
  unfold State.takeStale at he
  split at he
  · split at he
    · cases he
      exact h.modDue.interrupt
    · cases he
  · cases he

theorem State.canonical.takeFlag (h : s.canonical) {core ts asked cause f} (he : s.takeFlag core ts asked cause f = some t) :
    t.canonical := by
  unfold State.takeFlag at he
  split at he
  · cases he
    exact h.modDue.interrupt
  · cases he

theorem State.canonical.takeReissue (h : s.canonical) {core ts} (he : s.takeReissue core ts = some t) : t.canonical := by
  unfold State.takeReissue at he
  split at he
  · split at he
    · cases he
      exact h.modDue.interrupt
    · cases he
  · cases he

theorem State.canonical.takeMiss (h : s.canonical) {core ts} (he : s.takeMiss core ts = some t) : t.canonical := by
  unfold State.takeMiss at he
  dsimp only at he
  split at he
  · cases he
    split
    · exact h.interrupt.modThread
    · exact h.interrupt
  · cases he

theorem or_canonical {a b : Option State} (ha : a = some t → t.canonical) (hb : b = some t → t.canonical) (he : a.or b = some t) :
    t.canonical :=
  match a, he with
  | some _, he => ha he
  | none, he => hb he

theorem getD_canonical (h : s.canonical) {a : Option State} (ha : ∀ {t : State}, a = some t → t.canonical) :
    (a.getD s).canonical := by
  cases a with
  | some t => exact ha rfl
  | none => exact h

theorem State.canonical.dueTrap (h : s.canonical) {core ts} (he : s.dueTrap core ts = some t) : t.canonical := by
  unfold State.dueTrap at he
  dsimp only at he
  split at he
  · cases he
  · refine or_canonical h.takeLost (or_canonical h.takeLate (or_canonical h.takeStale ?_)) he
    refine or_canonical h.takeFlag (or_canonical h.takeFlag (or_canonical h.takeFlag ?_))
    refine or_canonical h.takeFlag (or_canonical h.takeFlag ?_)
    exact or_canonical h.takeReissue h.takeMiss

theorem State.canonical.reissueFault (h : s.canonical) {core ts a e} : (s.reissueFault core ts a e).canonical :=
  (h.walked ..).modDue

theorem State.canonical.reissueStores (h : s.canonical) {core ts m l} : (State.reissueStores core ts m l s).canonical := by
  induction l generalizing s with
  | nil => exact h
  | cons e r ih =>
    unfold State.reissueStores
    split
    · exact h.reissueFault
    · rename_i he
      exact ih (h.access he).store

theorem State.canonical.reissue (h : s.canonical) {core ts m} (he : s.reissue core ts m = some t) : t.canonical := by
  unfold State.reissue at he
  dsimp only at he
  split at he
  · split at he
    · cases he
      exact h
    · cases he
  · split at he
    · cases he
    · split at he
      · split at he
        · cases he
          exact h.reissueFault
        · rename_i hr1
          cases he
          exact h.access hr1
      · cases he
        exact h

theorem State.canonical.missGoes (h : s.canonical) {core ts m} : (s.missGoes core ts m).1.canonical := by
  unfold State.missGoes
  split
  · split
    · exact h
    · exact h.reissueStores.modDue
  · split
    · rename_i he
      exact h.reissue he
    · exact h

theorem State.canonical.leave (h : s.canonical) {core ts} : (s.leave core ts).canonical := h.modThread.traceSync

theorem State.canonical.park (h : s.canonical) {core ts} : (s.park core ts).canonical := h.modThread

theorem State.canonical.handler (h : s.canonical) {core ts} : (s.handler core ts).canonical := by
  unfold State.handler
  dsimp only
  split
  · exact h.endCrew
  · split
    · split
      · exact h.setThread
      · exact h.endCrew
    · exact h.endCrew
  · split
    · split
      · exact h.leave
      · split
        · exact h.missGoes.modDue.leave
        · exact h.missGoes
    · split
      · exact h.leave
      · exact h.park

theorem execLateFault_lands (h : s.canonical) {core ts} : Lands (execLateFault core ts s) := by
  unfold execLateFault
  dsimp only
  split
  · exact getD_canonical h h.takeLate
  · exact h

theorem execScopeMiss_lands (h : s.canonical) {core ts} : Lands (execScopeMiss core ts s) := by
  unfold execScopeMiss
  dsimp only
  split
  · exact getD_canonical h h.dueTrap
  · exact h

theorem State.canonical.loseMember (h : s.canonical) {core} : (s.loseMember core).canonical := by
  unfold State.loseMember
  refine State.canonical.foldl h _ fun _ hs => ?_
  dsimp only
  split
  · exact hs
  · exact hs.foldl _ fun _ hs1 => hs1.modThread

theorem State.canonical.strike (h : s.canonical) {core code} : (s.strike core code).canonical := by
  unfold State.strike
  split
  · exact h.loseTask
  · split
    · split
      · exact h
      · exact h.loseMember.endCrew
    · exact h

theorem execMachineCheck_lands (h : s.canonical) {core code} : Lands (execMachineCheck core code s) := by
  unfold execMachineCheck
  split
  · exact h.strike
  · exact h

theorem execGangMemberLost_lands (h : s.canonical) {core} : Lands (execGangMemberLost core s) := by
  unfold execGangMemberLost
  refine State.canonical.foldl h _ fun a hs => ?_
  dsimp only
  split
  · exact getD_canonical hs hs.takeLost
  · exact hs

end Switch

end Sys2Proof.Machine

/-!
Proofs: the scheduler and the register space keep the canonical form.
-/
namespace Sys2Proof.Machine
open Sys2Proof

section Scheduler
variable {s t : State}

theorem execSchedulerIntake_lands (h : s.canonical) : Lands (execSchedulerIntake s) := by
  unfold execSchedulerIntake
  split
  · exact h
  · split
    · exact h.logError.complete
    · exact h.setPhase

theorem State.canonical.takeTokens (h : s.canonical) {r} : (s.takeTokens r).canonical :=
  (h.foldl _ (fun _ hs => hs.setEdge)).foldl _ fun _ hs => hs.setEdge

theorem State.canonical.handOn (h : s.canonical) {r} : (s.handOn r).canonical := h.freeSlot.putRec

theorem State.canonical.startCollective (h : s.canonical) {r} : (s.startCollective r).canonical := by
  unfold State.startCollective
  dsimp only
  split
  · rename_i he
    exact (h.globalBytes_error he).complete
  · rename_i he
    split
    · exact (h.globalBytes he).submitColl.complete
    · exact (h.globalBytes he).submitColl.handOn

theorem State.canonical.startCopy (h : s.canonical) {r} : (s.startCopy r).canonical := by
  unfold State.startCopy
  dsimp only
  split
  · rename_i he
    exact (h.globalBytes_error he).complete
  · rename_i he
    refine State.canonical.handOn ?_
    exact (h.globalBytes he).congr rfl rfl

theorem State.canonical.startRec (h : s.canonical) {r} : (s.startRec r).canonical := by
  unfold State.startRec
  dsimp only
  split
  · exact h.putRec
  · split
    · exact h.takeTokens.putRec
    · split
      · exact h.takeTokens.putRec.startCollective
      · exact h.takeTokens.putRec.startCopy
      · exact h.takeTokens.putRec.complete

theorem execSchedulerStart_lands (h : s.canonical) : Lands (execSchedulerStart s) := by
  unfold execSchedulerStart
  split
  · exact h
  · exact h.startRec

theorem sysIo_keeps {asid dst limit} : (sysIo asid dst limit).Keeps where
  rd h := by
    unfold sysIo
    dsimp only
    split
    · rename_i he
      exact h.globalBytes he
    · rename_i he
      exact h.globalBytes_error he
  wr h := by
    unfold sysIo
    dsimp -zeta only
    extract_lets past
    clear_value past
    split
    · exact h
    · split
      · rename_i he
        exact h.checkedWrite he
      · rename_i he
        exact h.checkedWrite_error he

theorem State.canonical.sysCopy (h : s.canonical) {asid ws limit} : (s.sysCopy asid ws limit).2.canonical := by
  unfold State.sysCopy
  extract_lets src dst len io kind out
  have hout : out.2.canonical := by
    unfold out
    clear_value kind
    split
    · exact h.copyBlocks sysIo_keeps
    · exact h.inflate sysIo_keeps
    · exact h.copyBlocks sysIo_keeps
  clear_value out
  split
  · exact h
  · split
    · exact h
    · split
      · exact h
      · split
        · exact hout
        · exact hout

theorem State.canonical.endSysCopy (h : s.canonical) {r ws e extra} : (s.endSysCopy r ws e extra).canonical := h.complete

theorem execSystemCopyComplete_lands (h : s.canonical) : Lands (execSystemCopyComplete s) := by
  unfold execSystemCopyComplete
  dsimp only
  split
  · exact h
  · split
    · exact h.congr rfl rfl
    · refine State.canonical.endSysCopy (State.canonical.sysCopy ?_)
      exact h.congr rfl rfl

theorem State.canonical.cutCopy (h : s.canonical) {r c} : (s.cutCopy r c).canonical := by
  unfold State.cutCopy
  dsimp only
  split
  iterate 2
    · split
      iterate 2
        · refine State.canonical.endSysCopy (State.canonical.sysCopy ?_)
          exact h.congr rfl rfl

theorem execImageLoadComplete_lands (h : s.canonical) : Lands (execImageLoadComplete s) := by
  unfold execImageLoadComplete
  dsimp only
  split
  · exact h
  · split
    · rename_i he1
      exact (snd_canonical h.loadImage he1).complete
    · rename_i he1
      refine State.canonical.setPhase ?_
      exact (snd_canonical h.loadImage he1).congr rfl rfl

theorem execPlacement_lands (h : s.canonical) : Lands (execPlacement s) := by
  unfold execPlacement
  split
  · exact h
  · split
    · exact h
    · split
      · exact h.restoreTask.handOn
      · exact h.startTask.handOn
      · exact h

theorem State.canonical.endRec (h : s.canonical) {r} : (s.endRec r).canonical := by
  unfold State.endRec
  split
  · exact h.complete
  · exact h.complete
  iterate 3
    · split
      · exact h.endSaved
      · split
        · exact h.modTask
        · exact h.complete
  · split
    · exact h.endRunning
    · exact h.cutCopy
    · exact h.endColls

theorem execSchendWrite_lands (h : s.canonical) {v} : Lands (execSchendWrite v s) := h.foldl _ fun _ hs => hs.endRec

theorem execDbggoWrite_lands (h : s.canonical) {v} : Lands (execDbggoWrite v s) := by
  unfold execDbggoWrite
  refine State.canonical.foldl h _ fun _ hs => ?_
  dsimp only
  split
  · exact hs
  · split
    · exact hs
    · split
      · exact (hs.foldl _ (fun _ hs1 => hs1.unparkAll)).modTask
      · exact hs.foldl _ fun _ hs1 => hs1.unparkAll

theorem State.canonical.portWrite (h : s.canonical) {p off v} : (s.portWrite p off v).canonical := by
  unfold State.portWrite
  dsimp only
  split
  · exact h.hlpctlWrite
  · split
    · exact h.setPort
    · exact h

theorem State.canonical.commCtl (h : s.canonical) {c v} : Lands (s.commCtl c v) := by
  unfold State.commCtl
  split
  · exact execCommEnable_lands h
  · split
    · exact h.setComm.modColls
    · exact h.commWrite

theorem State.canonical.xlinvRegister (h : s.canonical) {v} : (s.xlinvRegister v).canonical := h.xlinvWrite

theorem State.canonical.lowWrite (h : s.canonical) {off v} : Lands (s.lowWrite off v) := by
  unfold State.lowWrite
  refine lands_ite (h.congr rfl rfl) (lands_ite ?_ (lands_ite (h.congr rfl rfl) (lands_ite (h.congr rfl rfl) ?_)))
  · exact h.congr rfl rfl
  refine lands_ite (execSchendWrite_lands h) (lands_ite (execDbggoWrite_lands h) ?_)
  refine lands_ite (execDevnumWrite_lands h) (lands_ite ?_ h)
  exact h.congr rfl rfl

theorem State.canonical.monitorWrite (h : s.canonical) {off v} : Lands (s.monitorWrite off v) := by
  unfold State.monitorWrite
  dsimp only
  split
  · exact h.congr rfl rfl
  · split
    · exact h.congr rfl rfl
    · exact h

theorem execRegisterWrite_lands (h : s.canonical) {off v} : Lands (execRegisterWrite off v s) := by
  unfold execRegisterWrite
  refine lands_ite h.lowWrite (lands_ite h.monitorWrite (lands_ite h.portWrite ?_))
  refine lands_ite (lands_ite h.setPort h) (lands_ite (lands_ite h.setSub h) ?_)
  refine lands_ite (lands_ite ?_ h) (lands_ite (lands_ite (h.congr rfl rfl) (lands_ite (h.congr rfl rfl) h)) ?_)
  · exact h.setEdge
  refine lands_ite (lands_ite (h.congr rfl rfl) h) (lands_ite (lands_ite h.commCtl (lands_ite h.commMap h)) ?_)
  refine lands_ite (h.congr rfl rfl) (lands_ite h.xlinvRegister (lands_ite ?_ h))
  exact h.congr rfl rfl

theorem State.canonical.thermalStop (h : s.canonical) : s.thermalStop.canonical := by
  refine State.canonical.foldl ?_ _ fun _ hs => hs.loseTask
  exact h.congr rfl rfl

theorem execMonitorUpdate_lands (h : s.canonical) {r} : Lands (execMonitorUpdate r s) := by
  unfold execMonitorUpdate
  dsimp only
  split
  · refine State.canonical.thermalStop ?_
    exact h.congr rfl rfl
  · exact h.congr rfl rfl

end Scheduler

end Sys2Proof.Machine

/-!
Proofs: scalar instructions and control registers keep the canonical form.
-/
namespace Sys2Proof.Machine
open Sys2Proof

section Scalar
variable {s t : State}

theorem alu_lands (h : s.canonical) {x a b c f} : Lands (alu x a b c f s) :=
  issue_lands (fun _ => readS_keeps.bind fun _ => readS_keeps.bind fun _ => writeS_keeps.bind fun _ => goOn_keeps) h

theorem aluImm_lands (h : s.canonical) {x a b f} : Lands (aluImm x a b f s) :=
  issue_lands (fun _ => readS_keeps.bind fun _ => writeS_keeps.bind fun _ => goOn_keeps) h

theorem aluTrap_lands (h : s.canonical) {x a b c big f} : Lands (aluTrap x a b c big f s) :=
  issue_lands (fun _ => readS_keeps.bind fun _ => readS_keeps.bind fun _ => trapIf_keeps.bind fun _ =>
    writeS_keeps.bind fun _ => goOn_keeps) h

theorem aluDiv_lands (h : s.canonical) {x a b c f} : Lands (aluDiv x a b c f s) :=
  issue_lands (fun _ => readS_keeps.bind fun _ => readS_keeps.bind fun _ => addFlags_keeps.bind fun _ =>
    writeS_keeps.bind fun _ => goOn_keeps) h

theorem fpArith_lands (h : s.canonical) {x a b c op} : Lands (fpArith x a b c op s) := by
  unfold fpArith
  refine issue_lands (fun _ => ?_) h
  dsimp only
  refine readS_keeps.bind fun _ => readS_keeps.bind fun _ => ?_
  split
  · refine readS_keeps.bind fun _ => roundScalar_keeps.bind fun _ => ?_
    split
    · exact writeS_keeps.bind fun _ => goOn_keeps
    · exact goOn_keeps
  · refine Keeps.bind (Keeps.pure _) fun _ => roundScalar_keeps.bind fun _ => ?_
    split
    · exact writeS_keeps.bind fun _ => goOn_keeps
    · exact goOn_keeps

theorem fpMinMax_lands (h : s.canonical) {x a b c max} : Lands (fpMinMax x a b c max s) := by
  unfold fpMinMax
  refine issue_lands (fun _ => ?_) h
  dsimp only
  exact readS_keeps.bind fun _ => readS_keeps.bind fun _ => addFlags_keeps.bind fun _ => writeS_keeps.bind fun _ => goOn_keeps

theorem fpCmp_lands (h : s.canonical) {x a b c rel} : Lands (fpCmp x a b c rel s) := by
  unfold fpCmp
  refine issue_lands (fun _ => ?_) h
  dsimp only
  exact readS_keeps.bind fun _ => readS_keeps.bind fun _ => addFlags_keeps.bind fun _ => writeS_keeps.bind fun _ => goOn_keeps

theorem fpCvt_lands (h : s.canonical) {conv x a b st dt} : Lands (fpCvt conv x a b st dt s) := by
  unfold fpCvt
  refine issue_lands (fun _ => ?_) h
  refine readS_keeps.bind fun _ => roundScalar_keeps.bind fun _ => ?_
  split
  · exact writeS_keeps.bind fun _ => goOn_keeps
  · exact goOn_keeps

theorem execLi_lands (h : s.canonical) {x a imm} : Lands (execLi x a imm s) :=
  issue_lands (fun _ => writeS_keeps.bind fun _ => goOn_keeps) h

theorem execSel_lands (h : s.canonical) {x a b c d} : Lands (execSel x a b c d s) :=
  issue_lands (fun _ => readS_keeps.bind fun _ => readS_keeps.bind fun _ => readS_keeps.bind fun _ =>
    writeS_keeps.bind fun _ => goOn_keeps) h

theorem execPcaddr_lands (h : s.canonical) {x a imm} : Lands (execPcaddr x a imm s) :=
  issue_lands (fun _ => writeS_keeps.bind fun _ => goOn_keeps) h

theorem execBsadd_lands (h : s.canonical) {x a b c} : Lands (execBsadd x a b c s) := by
  unfold execBsadd
  refine issue_lands (fun _ => ?_) h
  refine readPair_keeps.bind fun _ => readPair_keeps.bind fun _ => ?_
  dsimp only
  exact addFlags_keeps.bind fun _ => writePair_keeps.bind fun _ => goOn_keeps

theorem execBscvt_lands (h : s.canonical) {x a b} : Lands (execBscvt x a b s) := by
  unfold execBscvt
  refine issue_lands (fun _ => ?_) h
  refine readPair_keeps.bind fun _ => ?_
  dsimp only
  exact addFlags_keeps.bind fun _ => writeS_keeps.bind fun _ => goOn_keeps

theorem execNop_lands (h : s.canonical) {x} : Lands (execNop x s) := issue_lands (fun _ => goOn_keeps) h

theorem execIll_lands (h : s.canonical) {x} (imm : Word) : Lands (execIll x imm s) := issue_lands (fun _ => trap_keeps) h

theorem State.canonical.setCsr (h : s.canonical) {k n v} : (s.setCsr k n v).canonical := by
  have hthread : ∀ {f : Thread → Thread}, (s.modThread k.core k.ts f).canonical := h.modThread
  have hcore : ∀ {c : Core}, (s.setCore k.core c).canonical := h.setCore
  unfold State.setCsr
  refine canonical_ite hcore (canonical_ite hthread (canonical_ite hthread (canonical_ite hthread ?_)))
  refine canonical_ite hthread (canonical_ite hthread (canonical_ite hthread ?_))
  exact canonical_ite hcore (canonical_ite hcore (canonical_ite h.setTrctl h))

theorem execCsrd_lands (h : s.canonical) {x a imm} : Lands (execCsrd x a imm s) :=
  issue_lands (fun _ => trapIf_keeps.bind fun _ => Keeps.getState_bind fun _ _ => holdUnless_keeps.bind fun _ =>
    writeS_keeps.bind fun _ => goOn_keeps) h

theorem execCswr_lands (h : s.canonical) {x a imm} : Lands (execCswr x a imm s) :=
  issue_lands (fun _ => readS_keeps.bind fun _ => trapIf_keeps.bind fun _ => Keeps.getState_bind fun _ _ =>
    holdUnless_keeps.bind fun _ => (modState_keeps fun hs1 => hs1.setCsr).bind fun _ => goOn_keeps) h

end Scalar

end Sys2Proof.Machine

/-!
Proofs: a step of the device keeps the canonical form (R100, R107).
-/
namespace Sys2Proof.Machine
open Sys2Proof

section Step
variable {s t : State}

theorem exec_cpost {x a b c} : exec (.cpost x a b c) s = execCpost x a b c s := rfl

/-- Every row of the table keeps the canonical form: one arm for each constructor, by the lemma about what it executes. -/
theorem exec_lands (h : s.canonical) (i : Instr) : Lands (exec i s) := by
  cases i with
  | powerOnReset => exact execPowerOnReset_lands h
  | bootFetchRetry => exact execBootFetchRetry_lands h
  | bootImageReceived => exact execBootImageReceived_lands h
  | dieRelease => exact execDieRelease_lands h
  | bootgoWrite | powerlimWrite | droopHoldEnd | energyDeferExpiry | arbiterAgeLimit | xlstatClear => exact h.congr rfl rfl
  | attestationRequest => exact execAttestationRequest_lands h
  | measurementExtend => exact execMeasurementExtend_lands h
  | securityVersionRaise => exact execSecurityVersionRaise_lands h
  | devnumWrite => exact execDevnumWrite_lands h
  | portEnable | portDisable | portRestart => exact h.hlpctlWrite
  | trainingStepComplete => exact h.trainStep
  | trainingStepTimeout => exact h.trainFail
  | identityReportReceive => exact h.identityReport
  | identityChallenge => exact execIdentityChallenge_lands h
  | flitReceive => exact h.flitArrives
  | flitAckReceive | creditGrant => exact h.setPort
  | flitResend => exact h.resend
  | laneLoss => exact execLaneLoss_lands h
  | rateFallback => exact execRateFallback_lands h
  | errorThreshold => exact execErrorThreshold_lands h
  | linkDown => exact execLinkDown_lands h
  | monitorUpdate => exact execMonitorUpdate_lands h
  | hostApertureAccess => exact execHostApertureAccess_lands h
  | hostSubmit => exact execHostSubmit_lands h
  | submissionDecide => exact h.decideSubmission
  | schedulerIntake => exact execSchedulerIntake_lands h
  | schedulerStart => exact execSchedulerStart_lands h
  | systemCopyComplete => exact execSystemCopyComplete_lands h
  | imageLoadComplete => exact execImageLoadComplete_lands h
  | placement => exact execPlacement_lands h
  | crewFinish => exact execCrewFinish_lands h
  | trussReport => exact execTrussReport_lands h
  | switchOutTrigger => exact execSwitchOutTrigger_lands h
  | switchOutDrainPass => exact execSwitchOutDrainPass_lands h
  | switchOutComplete => exact execSwitchOutComplete_lands h
  | schendWrite => exact execSchendWrite_lands h
  | dbggoWrite => exact execDbggoWrite_lands h
  | edgectlWrite => exact h.setEdge
  | budgetBoundary => exact execBudgetBoundary_lands h
  | accessAtHome => exact execAccessAtHome_lands h
  | translationWalkComplete => exact execTranslationWalkComplete_lands h
  | xlinvAll | xlinvAsid | xlinvPage | xlinvNone => exact h.xlinvWrite
  | xlinvComplete => exact execXlinvComplete_lands h
  | commEnable => exact execCommEnable_lands h
  | commDisable => exact h.setComm.modColls
  | collectiveRequestTake => exact execCollectiveRequestTake_lands h
  | collectiveMatch => exact execCollectiveMatch_lands h
  | collectiveChunkArrive => exact execCollectiveChunkArrive_lands h
  | collectiveFaultNotice => exact execCollectiveFaultNotice_lands h
  | collectiveComplete => exact execCollectiveComplete_lands h
  | remoteRequestArrive => exact execRemoteRequestArrive_lands h
  | rstChunkLand => exact execRstChunkLand_lands h
  | rfaaPerform => exact execRfaaPerform_lands h
  | rfenceFlagLand => exact execRfenceFlagLand_lands h
  | remoteCompletionArrive => exact execRemoteCompletionArrive_lands h
  | ridgeRelease => exact execRidgeRelease_lands h
  | exchangeFlitArrive => exact execExchangeFlitArrive_lands h
  | exchangeWindowClose => exact h.setCore
  | slabLand => exact execSlabLand_lands h
  | sliceContributionArrive => exact execSliceContributionArrive_lands h
  | messageArrive => exact execMessageArrive_lands h
  | mailboxDeposit => exact execMailboxDeposit_lands h
  | queueUpdateArrive => exact execQueueUpdateArrive_lands h
  | copyRequestComplete => exact execCopyRequestComplete_lands h
  | cfetLand => exact execCfetLand_lands h
  | lateFault => exact execLateFault_lands h
  | scopeMiss => exact execScopeMiss_lands h
  | perCorePreemption => exact execPerCorePreemption_lands h
  | preemptionRelease => exact execPreemptionRelease_lands h
  | machineCheck => exact execMachineCheck_lands h
  | gangMemberLost => exact execGangMemberLost_lands h
  | contextCopyFault => exact execContextCopyFault_lands h
  | registerWrite => exact execRegisterWrite_lands h
  | vectorCommandComplete => exact execVectorCommandComplete_lands h
  | matrixCommandComplete => exact execMatrixCommandComplete_lands h
  | ridgeTokenArrive => exact execRidgeTokenArrive_lands h
  | ill _ imm => exact execIll_lands h imm
  | nop => exact execNop_lands h
  | add | sub | and | or | xor | shl | shr | sar | mul | mulh | mulhn | cmpeq | cmpne | cmplt | cmpltn | cmple |
    cmplen | min | minn | max | maxn => exact alu_lands h
  | addv | subv => exact aluTrap_lands h
  | div | divn | rem | remn => exact aluDiv_lands h
  | addi | andi | ori | xori | shli | shri | sari | clz | ctz | popc | sext | zext => exact aluImm_lands h
  | li => exact execLi_lands h
  | sel => exact execSel_lands h
  | ldb | ldbn | ldh | ldhn | ldw | ldwn | ldd => exact loadS_lands h
  | stb | sth | stw | std => exact storeS_lands h
  | beq | bne | blt | bge | bltn | bgen | beqz | bnez => exact branch_lands h
  | b => exact execB_lands h
  | jmp => exact execJmp_lands h
  | call => exact execCall_lands h
  | jr => exact execJr_lands h
  | callr => exact execCallr_lands h
  | jmpf => exact execJmpf_lands h
  | callf => exact execCallf_lands h
  | loop => exact execLoop_lands h
  | csrd => exact execCsrd_lands h
  | cswr => exact execCswr_lands h
  | trap => exact execTrap_lands h
  | eret => exact execEret_lands h
  | pcaddr => exact execPcaddr_lands h
  | fadd | fsub | fmul | fma | fdiv | fsqrt => exact fpArith_lands h
  | fmin | fmax => exact fpMinMax_lands h
  | fcmpeq | fcmplt | fcmple => exact fpCmp_lands h
  | fcvti | fcvtin | fcvtf | fcvtfn | fcvt => exact fpCvt_lands h
  | bsadd => exact execBsadd_lands h
  | bscvt => exact execBscvt_lands h
  | vld | vst | yst | yld => exact vecAt_lands h
  | vlds | vsts | vldt => exact vecStride_lands h
  | vldg | vstg | vrowld | vrowst | vrowadd | vrowcas | vbcast | vins | kmov => exact vcmdS_lands h
  | st64s => exact execSt64s_lands h
  | amoadd => exact execAmoadd_lands h
  | amoswp => exact execAmoswp_lands h
  | amocas => exact execAmocas_lands h
  | amomin => exact execAmomin_lands h
  | amominn => exact execAmominn_lands h
  | amomax => exact execAmomax_lands h
  | amomaxn => exact execAmomaxn_lands h
  | amoand => exact execAmoand_lands h
  | amoor => exact execAmoor_lands h
  | fence => exact execFence_lands h
  | qbind => exact execQbind_lands h
  | qadvh => exact execQadvh_lands h
  | qadvt => exact execQadvt_lands h
  | qcnt => exact execQcnt_lands h
  | qfree => exact execQfree_lands h
  | qwaitf | qwaite => exact queueWait_lands h
  | sbind | sbinds => exact bindStream_lands h
  | sunbind => exact execSunbind_lands h
  | spos => exact execSpos_lands h
  | capdef => exact execCapdef_lands h
  | capx => exact execCapx_lands h
  | capq => exact execCapq_lands h
  | msend => exact execMsend_lands h
  | mrecv => exact execMrecv_lands h
  | mpoll => exact execMpoll_lands h
  | mbwait => exact execMbwait_lands h
  | mbpop => exact execMbpop_lands h
  | copy | copyb => exact copyInto_lands h
  | cfet | cfetb => exact fetchInto_lands h
  | gang => exact execGang_lands h
  | split => exact execSplit_lands h
  | thstart => exact execThstart_lands h
  | thstop => exact execThstop_lands h
  | yield => exact execYield_lands h
  | halt => exact execHalt_lands h
  | brk _ imm => exact execBrk_lands h imm
  | trace => exact execTrace_lands h
  | bgtrd => exact execBgtrd_lands h
  | vadd | vaddSat | vsub | vsubSat | vmul | vmulh | vmulhn | vaddw | vaddwh | vand | vor | vxor | vshl | vshr | vsar |
    vmin | vminn | vmax | vmaxn | vsel | vfadd | vfsub | vfmul | vfmin | vfmax | vfdiv | vpack | vperm | vzip | vziph |
    vunzip | vunzipo | vtrn | vtrn2 => exact vec3_lands h
  | vmad | vdot | vfma | vfnma => exact vec3acc_lands h
  | vshli | vshri | vsari | vabs | vfabs | vfneg | vfsqrt | vfrcp | vfrsq | vcvt | vunpk | vunpkh | vslideup |
    vslidedn | vscan | vscanx | vred | vredw | vredmax | vredmaxn | vfred | vfredmax | vexp2 | vlog2 | vtanh | vsinpi |
    vcospi => exact vec2_lands h
  | vcmpeq | vcmpne | vcmplt | vcmpltn | vcmple | vcmplen | vfcmpeq | vfcmplt | vfcmple => exact vecMask_lands h
  | vextr | vlane | kpopc | kfirst | kmovs | ycmp | ycmpy | yrnd | ycvt | ymov | ystat => exact vcmd_lands h
  | kand | kor | knot => exact maskOp_lands h
  | yseed => exact execYseed_lands h
  | ydraw => exact execYdraw_lands h
  | oclm => exact execOclm_lands h
  | orel | zclr => exact matCmd_lands h
  | old | oldb | oldt | oldtb | ost | zst | zld => exact matMem_lands h
  | oswap => exact execOswap_lands h
  | zmovv => exact execZmovv_lands h
  | mwait => exact execMwait_lands h
  | mstat => exact execMstat_lands h
  | mmaBf | mmaBfOw | mmaHf | mmaHfOw | mmaF32 | mmaF32Ow | mmaE4 | mmaE4Ow | mmaE5 | mmaE5Ow | mmaE45 | mmaE45Ow => exact mma_lands h
  | mmaI8 | mmaI8Ow | mmaI4 | mmaI4Ow => exact mmaInt_lands h
  | mmaQ8 | mmaQ8Ow | mmaQ4q8 | mmaQ4q8Ow | mmaQ4 | mmaQ4Ow => exact mmaScaled_lands h
  | pdecl => exact execPdecl_lands h
  | pfree | lapx => exact markPart_lands h
  | pinfo => exact execPinfo_lands h
  | lapw => exact execLapw_lands h
  | ridge => exact execRidge_lands h
  | ridgea => exact execRidgea_lands h
  | ridgew => exact execRidgew_lands h
  | xtt => exact execXtt_lands h
  | sldecl => exact execSldecl_lands h
  | radd => exact execRadd_lands h
  | raddv => exact execRaddv_lands h
  | amrg => exact execAmrg_lands h
  | rfold => exact execRfold_lands h
  | rst | rfaa | rfence => exact remoteOp_lands h
  | trig => exact execTrig_lands h
  | hcnt | hcnts => exact countBy_lands h
  | hwait => exact execHwait_lands h
  | cpost =>
    rw [exec_cpost]
    exact execCpost_lands h
  | crevoke => exact execCrevoke_lands h

theorem exec_canonical (h : s.canonical) {i : Instr} (he : exec i s = .next t) : t.canonical := by
  have lands := exec_lands h i
  rwa [he] at lands

theorem State.canonical.noteBreak (h : s.canonical) {core} : (s.noteBreak core).canonical := h.setCore

theorem State.canonical.charge (h : s.canonical) {r broke k} : (s.charge r broke k).canonical := by
  unfold State.charge
  extract_lets noted debited
  have hnoted : noted.canonical := canonical_ite h.noteBreak h
  have hdebited : debited.canonical := by
    unfold debited
    split
    · exact hnoted.debitClass
    · exact hnoted
  exact hdebited.traceIssue

theorem State.canonical.afterIssue (h : s.canonical) {old : State} {i : Instr} : (old.afterIssue s i).canonical := by
  unfold State.afterIssue
  dsimp only
  split
  · exact h.foldl _ fun _ hs => hs.charge
  · exact h

theorem State.canonical.dropAsk (h : s.canonical) {who} : (s.dropAsk who).canonical := by
  unfold State.dropAsk
  dsimp only
  split
  · exact h.congr rfl rfl
  · exact h

theorem State.canonical.putAsk (h : s.canonical) {a} : (s.putAsk a).canonical := h.congr rfl rfl

theorem State.canonical.arbitrate (h : s.canonical) (ht : t.canonical) {who core wait}
    (hwait : ∀ {s : State}, s.canonical → (wait s).canonical) : (s.arbitrate who core t wait).canonical := by
  unfold State.arbitrate
  dsimp only
  split
  · exact ht.dropAsk
  · exact hwait h.putAsk

theorem State.canonical.settleOverflow (h : s.canonical) : s.settleOverflow.canonical :=
  h.foldl _ fun _ hs => canonical_ite hs hs.moveOverflow

theorem State.canonical.runLinks (h : s.canonical) : s.runLinks.canonical :=
  (canonical_ite h h.heedNotes).pump.unstick.releaseCredits

theorem State.canonical.tick (h : s.canonical) : s.tick.canonical := by
  unfold State.tick
  refine State.canonical.runLinks (State.canonical.settleOverflow (State.canonical.drainTraces ?_))
  refine State.canonical.sendFlits (State.canonical.runPlans (State.canonical.watch ?_))
  exact h.congr rfl rfl

theorem State.canonical.waitsThere (h : s.canonical) {core ts} : (s.waitsThere core ts).canonical :=
  h.foldl _ fun _ hs => hs.modThread

theorem State.canonical.noteIssue (h : s.canonical) {core ts} : (s.noteIssue core ts).canonical :=
  h.foldl _ fun _ hs => hs.modThread

/-! ## Turns -/

/-- What a thread does at its turn starts from a canonical state. -/
def Turn.Canonical : Turn → Prop
  | .idle t | .settled t | .run _ t => t.canonical

theorem State.canonical.fetchTurn (h : s.canonical) {core ts} : (s.fetchTurn core ts).Canonical := by
  unfold State.fetchTurn
  dsimp only
  split
  · exact h.haltGang
  · split
    · exact h.stopPeers.exactTrap
    · exact (h.foldl _ fun _ hs => hs.clearHeld).congr rfl rfl

theorem State.canonical.turnOf (h : s.canonical) {core ts} : (s.turnOf core ts).Canonical := by
  unfold State.turnOf
  dsimp only
  split
  · exact h
  · split
    · exact h.handler
    · split
      · rename_i he
        exact h.dueTrap he
      · split
        · exact h.haltThread
        · split
          · exact h
          · split
            · exact h
            · split
              · exact h.foldl _ fun _ hs => hs.noteHeld
              · exact h.fetchTurn

theorem State.canonical.runStep (h : s.canonical) {core ts i} : Lands (s.runStep core ts i) := by
  unfold State.runStep
  split
  · rename_i he
    exact (h.arbitrate (exec_canonical h he) fun hs => hs.waitsThere).afterIssue
  · trivial
  · trivial

theorem State.canonical.eventStep (h : s.canonical) {e} : Lands (s.eventStep e) := by
  unfold State.eventStep
  split
  · rename_i he _
    exact h.arbitrate (exec_canonical h he) fun hs => hs
  · exact exec_lands h e

theorem State.canonical.agendaStep (h : s.canonical) {e r} : Lands (s.agendaStep e r) := by
  unfold State.agendaStep
  extract_lets taken
  have htaken : taken.canonical := h.congr rfl rfl
  exact lands_ite (exec_lands htaken e) htaken

theorem State.canonical.tryTurn (h : s.canonical) {core ts res} (he : s.tryTurn core ts = some res) : Lands res := by
  have turn := h.turnOf (core := core) (ts := ts)
  unfold State.tryTurn at he
  generalize s.turnOf core ts = w at turn he
  cases w with
  | idle t => cases he
  | settled t =>
    cases he
    exact (State.canonical.noteIssue turn).dropAsk
  | run i u =>
    have ran := State.canonical.runStep turn (core := core) (ts := ts) (i := i)
    dsimp only at he
    split at he
    · rename_i hr
      rw [hr] at ran
      split at he
      · cases he
        exact State.canonical.noteIssue ran
      · cases he
    · cases he
      exact ran

theorem State.canonical.waitTurn (h : s.canonical) {core ts} : Lands (s.waitTurn core ts) := by
  have turn := h.turnOf (core := core) (ts := ts)
  unfold State.waitTurn
  generalize s.turnOf core ts = w at turn ⊢
  cases w with
  | idle t => exact State.canonical.dropAsk turn
  | settled t => exact State.canonical.dropAsk turn
  | run i u => exact State.canonical.runStep turn

theorem State.canonical.threadStep (h : s.canonical) {core ts r} : Lands (s.threadStep core ts r) := by
  unfold State.threadStep
  extract_lets queued
  have hqueued : queued.canonical := h.congr rfl rfl
  clear_value queued
  split
  · rename_i he
    obtain ⟨u, -, hu⟩ := List.exists_of_findSome?_eq_some he
    exact hqueued.tryTurn hu
  · exact hqueued.waitTurn

/-! ## Steps -/

theorem State.canonical.threadsFirst (h : s.canonical) : Lands s.threadsFirst := by
  unfold State.threadsFirst
  split
  · exact h.threadStep
  · split
    · exact h.eventStep
    · exact h

theorem State.canonical.act (h : s.canonical) : Lands s.act := by
  unfold State.act
  split
  · exact h.agendaStep
  · extract_lets cleared
    have hcleared : cleared.canonical := h.congr rfl rfl
    clear_value cleared
    split
    · exact hcleared.threadsFirst
    · split
      · exact hcleared.eventStep
      · exact hcleared.threadsFirst

theorem State.canonical.step (h : s.canonical) (ht : Sys2Proof.Machine.step s = .next t) : t.canonical := by
  have acted := h.act
  unfold Sys2Proof.Machine.step at ht
  split at ht
  · rename_i he
    cases ht
    rw [he] at acted
    exact State.canonical.tick acted
  · cases ht
  · cases ht

end Step

end Sys2Proof.Machine

namespace Sys2Proof.Proofs
open Sys2Proof Sys2Proof.Machine

/-- Settles O60: what the step does, an event or a thread's turn, lands in a canonical state, and so does the time that passes. -/
theorem stepKeepsCanonical : Obligations.StepKeepsCanonical := fun _ _ h ht => h.step ht

end Sys2Proof.Proofs

/-!
Proofs: arrivals at ridges and waits for their releases (R114, R115, R119, R386, R387).
-/
namespace Sys2Proof.Proofs
open Sys2Proof Sys2Proof.Machine

/-! ## The ridge states of a core -/

section RidgeStates
variable (c : Core) (r : RidgeSt) {l n : Nat}

theorem setRidge_eq (l : Nat) : ∃ v, c.setRidge l r = { c with ridge := v } := by
  unfold Core.setRidge
  split
  · exact ⟨_, rfl⟩
  · exact ⟨c.ridge, rfl⟩

theorem ridgeAt_setRidge_same (h : l < 7) : (c.setRidge l r).ridgeAt l = r := by
  simp [Core.setRidge, Core.ridgeAt, h]

theorem ridgeAt_setRidge_other (h : n ≠ l) : (c.setRidge l r).ridgeAt n = c.ridgeAt n := by
  unfold Core.setRidge
  split
  · simp [Core.ridgeAt, List.getD_eq_getElem?_getD, Vector.getElem?_set_ne _ h.symm]
  · rfl

theorem setRidge_thr (l : Nat) : (c.setRidge l r).thr = c.thr := by
  obtain ⟨_, h⟩ := setRidge_eq c r l
  rw [h]

theorem ridgeAt_congr {c d : Core} (h : c.ridge = d.ridge) (l : Nat) : c.ridgeAt l = d.ridgeAt l := by
  rw [Core.ridgeAt, h, Core.ridgeAt]

end RidgeStates

section RidgeFrames
variable (s : State) (k : Ctx) (c d l : Nat) (ts : Fin 4)

theorem core_modThread (f : Thread → Thread) :
    (s.modThread c ts f).core c = { s.core c with thr := (s.core c).thr.set ts (f (s.thread c ts)) } :=
  Laws.State.core_setThread ..

@[simp] theorem ridgeAt_modThread (f : Thread → Thread) : ((s.modThread c ts f).core d).ridgeAt l = (s.core d).ridgeAt l := by
  by_cases h : d = c
  · subst h
    exact ridgeAt_congr (by rw [core_modThread]) l
  · rw [Laws.State.core_modThread_other _ _ _ _ _ h]

@[simp] theorem ridgeAt_retire (f : Flow) : ((s.retire k f).core d).ridgeAt l = (s.core d).ridgeAt l := ridgeAt_modThread ..

@[simp] theorem ridgeAt_waits : ((s.waits k).core d).ridgeAt l = (s.core d).ridgeAt l := ridgeAt_modThread ..

theorem core_modRidge (f : RidgeSt → RidgeSt) :
    (s.modRidge c l f).core c = (s.core c).setRidge l (f ((s.core c).ridgeAt l)) := Laws.State.core_setCore ..

variable {l} in
theorem ridgeAt_modRidge_same (f : RidgeSt → RidgeSt) (h : l < 7) :
    ((s.modRidge c l f).core c).ridgeAt l = f ((s.core c).ridgeAt l) := by
  rw [core_modRidge, ridgeAt_setRidge_same _ _ h]

@[simp] theorem thread_modRidge (f : RidgeSt → RidgeSt) : (s.modRidge c l f).thread d ts = s.thread d ts := by
  by_cases h : d = c
  · subst h
    rw [State.modRidge, Laws.State.thread_setCore, setRidge_thr, State.thread]
  · exact Laws.State.thread_setCore_other _ _ _ _ _ h

end RidgeFrames

/-! ## A core arrives (R115) -/

section Arrivals
variable (s : State) (k : Ctx) (comm : Nat) {l : Nat}

@[simp] theorem thread_arrive (c d l : Nat) (ts : Fin 4) : (s.arrive c l comm).thread d ts = s.thread d ts := by
  by_cases h : d = c
  · subst h
    rw [State.arrive, Laws.State.thread_setCore, setRidge_thr, State.thread]
  · exact Laws.State.thread_setCore_other _ _ _ _ _ h

/-- The ridge state that an arrival leaves. -/
def arrived (s : State) (r : RidgeSt) (comm : Nat) : RidgeSt :=
  { r with arrivals := r.arrivals + 1, at_ := s.cycle, order := s.fab.nextId, comm := comm }

theorem ridgeAt_arrive (c : Nat) (h : l < 7) :
    ((s.arrive c l comm).core c).ridgeAt l = arrived s ((s.core c).ridgeAt l) comm := by
  rw [State.arrive, Laws.State.core_setCore, ridgeAt_setRidge_same _ _ h]
  rfl

end Arrivals

/-! ## The wait on a release (R115, R119, R387) -/

section Waiting
variable {s : State} {k : Ctx} {a : SReg} {l n : Nat} {word : Option Word} {pre : State → State}

/-- No window of a release is open. -/
def Closed (r : RidgeSt) (n : Nat) : Prop := ∀ w ∈ r.windows, w.release ≠ n

theorem windows_any_eq_false {r : RidgeSt} {n : Nat} (h : Closed r n) : (r.windows.any (·.release == n)) = false := by
  simpa [Closed] using h

/-- The thread waits on a release. -/
def waitsOn (k : Ctx) (l n : Nat) (s : State) : State := s.modThread k.core k.ts fun t => { t with rwait := some (l, n) }

theorem ridgeWait_unreleased (h : ((s.core k.core).ridgeAt l).released < n) :
    ridgeWait k l n a word pre s = .error (.holdIn fun s => waitsOn k l n (pre s)) := by
  unfold ridgeWait
  rw [Laws.getState_bind]
  simp only [h, decide_true, Bool.true_or, if_true]
  rfl

/-- The status word of a level, or its course before any release (R119, R387). -/
def wordOf (s : State) (k : Ctx) (l : Nat) (word : Option Word) : Word :=
  if ((s.core k.core).ridgeAt l).released = 0 then BitVec.ofNat 64 (((s.core k.core).course.toList.getD l 0).toNat % 2 ^ 32)
  else word.getD ((s.core k.core).ridgeAt l).status

theorem wordOf_none (s : State) (k : Ctx) (l : Fin 7) : wordOf s k l.val none =
    if ((s.core k.core).ridgeAt l.val).released = 0 then BitVec.ofNat 64 (((s.core k.core).course[l]).toNat % 2 ^ 32)
    else ((s.core k.core).ridgeAt l.val).status := by
  simp [wordOf]

/-- The thread without its mark for a release. -/
def unmark (k : Ctx) (l n : Nat) (t : Thread) : Thread :=
  { t with marks := t.marks.filter fun m => !(m.level == l && m.release == n && m.addr == k.addr) }

/-- A release that has come and has no window open: the causes owed come first. -/
theorem ridgeWait_released (h : n ≤ ((s.core k.core).ridgeAt l).released) (hw : Closed ((s.core k.core).ridgeAt l) n) :
    ridgeWait k l n a word pre s = (do
      takeOwed k l
      writeS k a (wordOf s k l word)
      modThr k (unmark k l n)
      goOn : M Flow) s := by
  unfold ridgeWait
  rw [Laws.getState_bind]
  simp only [windows_any_eq_false hw, decide_eq_false (not_lt.2 h), Bool.or_self, Bool.false_eq_true, if_false,
    wordOf, beq_iff_eq]
  rfl

theorem takeOwed_bind_none {α : Type} {g : Unit → M α} (h : ((s.core k.core).ridgeAt l).owed = []) :
    (takeOwed k l >>= g) s = g () s := by
  refine Laws.M.bind_ok ?_
  simp [takeOwed, h]

theorem ridgeWait_done (h : n ≤ ((s.core k.core).ridgeAt l).released) (hw : Closed ((s.core k.core).ridgeAt l) n)
    (ho : ((s.core k.core).ridgeAt l).owed = []) (ha : s.plain k a) :
    ridgeWait k l n a word pre s =
      .ok (.next, s.modThread k.core k.ts fun t => unmark k l n (t.setS a (wordOf s k l word))) := by
  rw [ridgeWait_released h hw, takeOwed_bind_none ho, Laws.writeS_bind ha, Laws.modThr_bind]
  by_cases h0 : a = 0
  · subst h0
    simp only [if_true, Laws.setS_zero]
    rfl
  · rw [if_neg h0, Laws.State.modThread_modThread]
    rfl

variable {e : Owed} {z : List Owed}

/-- The first cause owed, when no thread is named for it, is taken by the thread that waits. -/
theorem takeOwed_first (ho : ((s.core k.core).ridgeAt l).owed = e :: z) (ht : e.taker = none) :
    takeOwed k l s = .error (if ((s.core k.core).ridgeAt l).windows.any (·.release == e.release) then .hold
      else .trapIn (fun s => s.modRidge k.core l fun r => r.took e k.ts) e.cause 0) := by
  have takes : e.takes (s.core k.core) k.ts = true := by simp [Owed.takes, ht]
  unfold takeOwed
  simp only [ho, List.find?_cons, takes]
  split <;> rfl

theorem ridgeWait_held (h : n ≤ ((s.core k.core).ridgeAt l).released) (hw : Closed ((s.core k.core).ridgeAt l) n)
    (ho : ((s.core k.core).ridgeAt l).owed = e :: z) (ht : e.taker = none)
    (he : ∃ w ∈ ((s.core k.core).ridgeAt l).windows, w.release = e.release) : ridgeWait k l n a word pre s = .error .hold := by
  rw [ridgeWait_released h hw, Laws.M.bind_error (takeOwed_first ho ht), if_pos (by simpa using he)]

theorem ridgeWait_traps (h : n ≤ ((s.core k.core).ridgeAt l).released) (hw : Closed ((s.core k.core).ridgeAt l) n)
    (ho : ((s.core k.core).ridgeAt l).owed = e :: z) (ht : e.taker = none)
    (he : Closed ((s.core k.core).ridgeAt l) e.release) : ridgeWait k l n a word pre s =
      .error (.trapIn (fun s => s.modRidge k.core l fun r => r.took e k.ts) e.cause 0) := by
  rw [ridgeWait_released h hw, Laws.M.bind_error (takeOwed_first ho ht), if_neg (by simp [windows_any_eq_false he])]

end Waiting

/-! ## Arrivals (R114, R115, R386) -/

theorem level_toNat {l : Nat} (h : l < 7) : (BitVec.ofNat 64 l).toNat = l := by
  rw [BitVec.toNat_ofNat]
  omega

section Arriving
variable {s : State} {k : Ctx} {x : Pre} {a : SReg} {q : Machine.Task} {imm : Word} {l : Nat} {d : Fin 16}

theorem ridgeChecks_refuse (hq : s.taskOf k.core = some q) (h6 : l ≠ 6)
    (h : q.level < l ∨ ((s.core k.core).domEff.getLsbD l = false ∧ (s.core k.core).dommask.getLsbD l = false)) :
    ridgeChecks k l d s = .error (.trap 0x90 0) := by
  unfold ridgeChecks
  rw [Laws.getState_bind]
  simp only [hq]
  rw [Laws.trapIf_bind]
  by_cases hl : q.level < l
  · rw [if_pos (by simp [hl, h6])]
  · obtain ⟨he, hm⟩ := h.resolve_left hl
    rw [if_neg (by simp [hl]), Laws.trapIf_bind, if_pos (by simp [he, hm])]

theorem ridgeChecks_bind_pass {α : Type} {g : Nat → M α} (hq : s.taskOf k.core = some q) (h6 : l ≠ 6) (hl : l ≤ q.level)
    (he : (s.core k.core).domEff.getLsbD l = true) : (ridgeChecks k l d >>= g) s = g 0 s := by
  refine Laws.M.bind_ok ?_
  unfold ridgeChecks
  rw [Laws.getState_bind]
  simp only [hq]
  rw [Laws.trapIf_bind, if_neg (by simp [hl]), Laws.trapIf_bind, if_neg (by simp [he]), if_pos (by simp [h6]),
    Laws.holdUnless_bind, if_pos he]
  rfl

theorem pending_of_lt {r : RidgeSt} (h : r.released < r.arrivals) : r.pending = true := decide_eq_true h

theorem pending_of_eq {r : RidgeSt} (h : r.released = r.arrivals) : r.pending = false := decide_eq_false (by omega)

/-- An arrival below level 6 whose checks pass and that owes no cause: it waits for the release of an earlier one. -/
theorem ridgeArrive_eq (hq : s.taskOf k.core = some q) (h6 : l ≠ 6) (hl : l ≤ q.level)
    (he : (s.core k.core).domEff.getLsbD l = true) (ho : ((s.core k.core).ridgeAt l).owed = []) :
    execRidge.ridgeArrive k l d a s = if ((s.core k.core).ridgeAt l).pending then .error .hold
      else ridgeWait k l (((s.core k.core).ridgeAt l).arrivals + 1) a none
        (fun t => t.setCore k.core ((s.ridgeMark k l 0).core k.core)) (s.ridgeMark k l 0) := by
  unfold execRidge.ridgeArrive
  rw [ridgeChecks_bind_pass hq h6 hl he, takeOwed_bind_none ho, Laws.getState_bind, Laws.holdUnless_bind]
  cases ((s.core k.core).ridgeAt l).pending with
  | true => rfl
  | false => rfl

/-- The ridge state of the core at issue. -/
def ridgeOf (s : State) (k : Ctx) (l : Nat) : RidgeSt := (s.core k.core).ridgeAt l

/-- The thread without the status word of an earlier release. -/
def wordless (k : Ctx) (s : State) : State := s.modThread k.core k.ts fun t => { t with rword := none }

theorem ridgeAt_wordless (s : State) : ((wordless k s.unpopped).core k.core).ridgeAt l = ridgeOf s k l := ridgeAt_modThread ..

theorem own_wordless (s : State) : (wordless k s.unpopped).own k = { s.own k with rword := none } :=
  Laws.State.thread_modThread ..

theorem plain_wordless (h : s.plain k a) : (wordless k s.unpopped).plain k a := by
  have busy : (wordless k s.unpopped).scalarBusy k a.val = s.scalarBusy k a.val := by
    rw [State.scalarBusy, wordless, core_modThread]
    rfl
  refine h.imp_right fun ⟨idle, unbound⟩ => ⟨busy.trans idle, ?_⟩
  rw [own_wordless]
  exact unbound

theorem wordOf_wordless (s : State) (word : Option Word) : wordOf (wordless k s.unpopped) k l word = wordOf s k l word := by
  unfold wordOf
  rw [ridgeAt_wordless, wordless, core_modThread]
  rfl

section Threads
variable {n : Nat} {w : Word}

theorem own_waitsOn_waits (s : State) : ((waitsOn k l n s).waits k).own k =
    { s.own k with rwait := some (l, n), run := .waiting } := by
  rw [State.own, State.waits, waitsOn, Laws.State.modThread_modThread, Laws.State.thread_modThread]
  rfl

/-- A thread that waits on a release stays at its instruction, with its registers. -/
theorem waits_own (s : State) : (((waitsOn k l n s).waits k).own k).run = .waiting ∧
    (((waitsOn k l n s).waits k).own k).pc = (s.own k).pc ∧ (((waitsOn k l n s).waits k).own k).s = (s.own k).s := by
  rw [own_waitsOn_waits]
  exact ⟨rfl, rfl, rfl⟩

theorem own_setCore_core (s u : State) : (s.setCore k.core (u.core k.core)).own k = u.own k := Laws.State.thread_setCore ..

theorem own_ridgeMark (s : State) (comm : Nat) : (s.ridgeMark k l comm).own k =
    { s.own k with marks := ⟨l, (ridgeOf s k l).arrivals + 1, k.addr, none⟩ :: (s.own k).marks } := by
  rw [State.own, State.ridgeMark, Laws.State.thread_modThread, thread_arrive]
  rfl

theorem retire_marks (t : Thread) (addr next : BitVec 16) : (t.retire addr next .next).marks = t.marks := by
  unfold Thread.retire Thread.follow Thread.loopNext
  repeat' split
  all_goals rfl

theorem own_unmarked_s (ha : a ≠ 0) :
    (((s.modThread k.core k.ts fun t => unmark k l n (t.setS a w)).retire k .next).own k).s[a] = w := by
  rw [own_retire_s, State.own, Laws.State.thread_modThread, unmark, Thread.setS, if_neg ha]
  exact Vector.getElem_set_self ..

theorem own_unmarked_pc (s : State) : (((s.modThread k.core k.ts fun t => unmark k l n (t.setS a w)).retire k .next).own k).pc =
    ((s.own k).loopNext k.next).pc := by
  rw [own_retire_pc]
  refine loopNext_pc_congr ?_ _
  rw [State.own, Laws.State.thread_modThread, unmark, Thread.setS]
  split <;> rfl

end Threads

section Issued
variable (hi : s.Issues k x) (hn : imm.toNat = l)
include hi hn

theorem ridgea_eq : exec (.ridgea x imm d) s = .next (s.unpopped.settle k ((do
    let comm ← ridgeChecks k l d
    let s ← getState
    holdUnless (!((s.core k.core).ridgeAt l).pending)
    modState fun s => s.arrive k.core l comm
    goOn : M Flow) s.unpopped)) := by
  subst hn
  exact Laws.issue_issues hi _

/-- A `RIDGE` that has left no mark arrives. -/
theorem ridge_unmarked (hm : (s.own k).markAt l k.addr = none) :
    exec (.ridge x a imm d) s = .next (s.unpopped.settle k (execRidge.ridgeArrive k l d a s.unpopped)) := by
  subst hn
  change execRidge x a imm d s = _
  unfold execRidge
  rw [Laws.issue_issues hi, Laws.getThr_bind, Laws.State.own_unpopped]
  simp only [hm]

/-- A `RIDGE` that has left its mark waits on the mark's release. -/
theorem ridge_marked {m : Mark} (hm : (s.own k).markAt l k.addr = some m) :
    exec (.ridge x a imm d) s = .next (s.unpopped.settle k (ridgeWait k l m.release a m.word id s.unpopped)) := by
  subst hn
  change execRidge x a imm d s = _
  unfold execRidge
  rw [Laws.issue_issues hi, Laws.getThr_bind, Laws.State.own_unpopped]
  simp only [hm]

/-- A `RIDGEW` that does not wait yet waits on the last arrival's release. -/
theorem ridgew_eq (hw : (s.own k).rwait = none) : exec (.ridgew x a imm) s =
    .next (s.unpopped.settle k (ridgeWait k l (ridgeOf s k l).arrivals a none (wordless k) (wordless k s.unpopped))) := by
  subst hn
  change execRidgew x a imm s = _
  unfold execRidgew
  rw [Laws.issue_issues hi, Laws.getThr_bind, Laws.State.own_unpopped, Laws.getState_bind]
  simp only [hw]
  rfl

section Refused
variable (hq : s.taskOf k.core = some q) (h6 : l ≠ 6)
  (h : q.level < l ∨ ((s.core k.core).domEff.getLsbD l = false ∧ (s.core k.core).dommask.getLsbD l = false))
include hq h6 h

theorem ridgea_refused : exec (.ridgea x imm d) s = .next (s.traps k 0x90 0) := by
  rw [ridgea_eq hi hn, Laws.M.bind_error (ridgeChecks_refuse (s := s.unpopped) hq h6 h)]
  rfl

theorem ridge_refused (hm : (s.own k).markAt l k.addr = none) : exec (.ridge x a imm d) s = .next (s.traps k 0x90 0) := by
  rw [ridge_unmarked hi hn hm]
  unfold execRidge.ridgeArrive
  rw [Laws.M.bind_error (ridgeChecks_refuse (s := s.unpopped) hq h6 h)]
  rfl

end Refused

section Admitted
variable (hq : s.taskOf k.core = some q) (h6 : l ≠ 6) (hl : l ≤ q.level) (he : (s.core k.core).domEff.getLsbD l = true)
include hq h6 hl he

theorem ridgea_held (hr : (ridgeOf s k l).released < (ridgeOf s k l).arrivals) :
    exec (.ridgea x imm d) s = .next (s.held k) := by
  have pending : ((s.unpopped.core k.core).ridgeAt l).pending = true := pending_of_lt hr
  rw [ridgea_eq hi hn, ridgeChecks_bind_pass (s := s.unpopped) hq h6 hl he, Laws.getState_bind, Laws.holdUnless_bind,
    if_neg (by rw [pending]; decide)]
  rfl

/-- A `RIDGEA` without an earlier arrival that is unreleased arrives and goes on. -/
theorem ridgea_arrives (hr : (ridgeOf s k l).released = (ridgeOf s k l).arrivals) :
    exec (.ridgea x imm d) s = .next ((s.unpopped.arrive k.core l 0).retire k .next) := by
  have released : ((s.unpopped.core k.core).ridgeAt l).pending = false := pending_of_eq hr
  rw [ridgea_eq hi hn, ridgeChecks_bind_pass (s := s.unpopped) hq h6 hl he, Laws.getState_bind, Laws.holdUnless_bind,
    if_pos (by rw [released]; rfl), Laws.modState_bind]
  rfl

theorem ridgea_spec (h7 : l < 7) (hr : (ridgeOf s k l).released = (ridgeOf s k l).arrivals) :
    ∃ t, exec (.ridgea x imm d) s = .next t ∧ ridgeOf t k l = arrived s (ridgeOf s k l) 0 ∧
      (t.own k).pc = ((s.own k).loopNext k.next).pc ∧ (t.own k).s = (s.own k).s ∧ t.mem = s.mem := by
  have thread : (s.unpopped.arrive k.core l 0).own k = s.own k := thread_arrive ..
  refine ⟨_, ridgea_arrives hi hn hq h6 hl he hr, ?_, ?_, ?_, rfl⟩
  · rw [ridgeOf, ridgeAt_retire, ridgeAt_arrive _ _ _ h7]
    rfl
  · rw [own_retire_pc, thread]
  · rw [own_retire_s, thread]

variable (hm : (s.own k).markAt l k.addr = none) (ho : (ridgeOf s k l).owed = [])
include hm ho

theorem ridge_held (hr : (ridgeOf s k l).released < (ridgeOf s k l).arrivals) :
    exec (.ridge x a imm d) s = .next (s.held k) := by
  have pending : ((s.unpopped.core k.core).ridgeAt l).pending = true := pending_of_lt hr
  rw [ridge_unmarked hi hn hm, ridgeArrive_eq (s := s.unpopped) hq h6 hl he ho, if_pos pending]
  rfl

/-- A `RIDGE` without an earlier arrival that is unreleased arrives, leaves its mark and waits. -/
theorem ridge_arrives (h7 : l < 7) (hr : (ridgeOf s k l).released = (ridgeOf s k l).arrivals) :
    exec (.ridge x a imm d) s = .next ((waitsOn k l ((ridgeOf s k l).arrivals + 1)
      (s.unpopped.setCore k.core ((s.unpopped.ridgeMark k l 0).core k.core))).waits k) := by
  have released : ((s.unpopped.core k.core).ridgeAt l).pending = false := pending_of_eq hr
  have unreleased : (((s.unpopped.ridgeMark k l 0).core k.core).ridgeAt l).released < (ridgeOf s k l).arrivals + 1 := by
    rw [State.ridgeMark, ridgeAt_modThread, ridgeAt_arrive _ _ _ h7]
    exact Nat.lt_succ_of_le hr.le
  rw [ridge_unmarked hi hn hm, ridgeArrive_eq (s := s.unpopped) hq h6 hl he ho, if_neg (by rw [released]; decide)]
  exact congrArg (fun r => Host.Outcome.next (s.unpopped.settle k r)) (ridgeWait_unreleased unreleased)

theorem ridge_spec (h7 : l < 7) (hr : (ridgeOf s k l).released = (ridgeOf s k l).arrivals) :
    ∃ t, exec (.ridge x a imm d) s = .next t ∧ ridgeOf t k l = arrived s (ridgeOf s k l) 0 ∧
      t.own k = { s.own k with
        marks := ⟨l, (ridgeOf s k l).arrivals + 1, k.addr, none⟩ :: (s.own k).marks
        rwait := some (l, (ridgeOf s k l).arrivals + 1), run := .waiting } ∧ t.mem = s.mem := by
  refine ⟨_, ridge_arrives hi hn hq h6 hl he hm ho h7 hr, ?_, ?_, rfl⟩
  · rw [ridgeOf, ridgeAt_waits, waitsOn, ridgeAt_modThread, Laws.State.core_setCore, State.ridgeMark, ridgeAt_modThread,
      ridgeAt_arrive _ _ _ h7]
    rfl
  · rw [own_waitsOn_waits, own_setCore_core, own_ridgeMark]
    rfl

end Admitted

/-! ## A marked `RIDGE` (R115, R386, R387) -/

section Marked
variable {m : Nat} {v : Option Word} (hm : (s.own k).markAt l k.addr = some ⟨l, m, k.addr, v⟩)
include hm

theorem ridge_waits (hr : (ridgeOf s k l).released < m) :
    ∃ t, exec (.ridge x a imm d) s = .next t ∧ (t.own k).run = .waiting ∧ (t.own k).pc = (s.own k).pc ∧
      (t.own k).s = (s.own k).s := by
  refine ⟨(waitsOn k l m s.unpopped).waits k, ?_, waits_own s.unpopped⟩
  rw [ridge_marked hi hn hm, ridgeWait_unreleased (s := s.unpopped) hr]
  rfl

/-- A marked `RIDGE` whose release has come gives its status word, takes its mark away and goes on. -/
theorem ridge_done (ha : s.plain k a) (ho : (ridgeOf s k l).owed = []) (hr : m ≤ (ridgeOf s k l).released)
    (hw : Closed (ridgeOf s k l) m) : exec (.ridge x a imm d) s =
      .next ((s.unpopped.modThread k.core k.ts fun t => unmark k l m (t.setS a (wordOf s k l v))).retire k .next) := by
  rw [ridge_marked hi hn hm, ridgeWait_done (s := s.unpopped) hr hw ho ha]
  rfl

theorem ridge_gives (ha : s.plain k a) (ho : (ridgeOf s k l).owed = []) (hr : m ≤ (ridgeOf s k l).released)
    (hw : Closed (ridgeOf s k l) m) (h0 : 0 < (ridgeOf s k l).released) : ∃ t, exec (.ridge x a imm d) s = .next t ∧
      (a ≠ 0 → (t.own k).s[a] = v.getD (ridgeOf s k l).status) ∧ ⟨l, m, k.addr, v⟩ ∉ (t.own k).marks ∧ t.mem = s.mem ∧
      (t.own k).pc = ((s.own k).loopNext k.next).pc := by
  have word : wordOf s k l v = v.getD (ridgeOf s k l).status := if_neg h0.ne'
  refine ⟨_, ridge_done hi hn hm ha ho hr hw, fun hz => ?_, ?_, rfl, ?_⟩
  · rw [own_unmarked_s hz, word]
  · rw [State.own, State.retire, Laws.State.modThread_modThread, Laws.State.thread_modThread, retire_marks]
    simp [unmark]
  · exact own_unmarked_pc s.unpopped

end Marked

/-! ## `RIDGEW` (R115, R119, R387) -/

section Unmarked
variable (hrw : (s.own k).rwait = none)
include hrw

theorem ridgew_waits (hr : (ridgeOf s k l).released < (ridgeOf s k l).arrivals) :
    ∃ t, exec (.ridgew x a imm) s = .next t ∧ (t.own k).run = .waiting ∧ (t.own k).pc = (s.own k).pc ∧
      (t.own k).s = (s.own k).s := by
  refine ⟨(waitsOn k l (ridgeOf s k l).arrivals (wordless k s.unpopped)).waits k, ?_, ?_⟩
  · rw [ridgew_eq hi hn hrw, ridgeWait_unreleased (by rwa [ridgeAt_wordless])]
    rfl
  · simpa only [own_wordless] using waits_own (k := k) (l := l) (n := (ridgeOf s k l).arrivals) (wordless k s.unpopped)

variable (hr : (ridgeOf s k l).released = (ridgeOf s k l).arrivals) (hw : Closed (ridgeOf s k l) (ridgeOf s k l).arrivals)
include hr hw

/-- The last arrival of a core is released, with no window open: the status word, or the course before any release. -/
theorem ridgew_gives (ha : s.plain k a) (ho : (ridgeOf s k l).owed = []) : ∃ t, exec (.ridgew x a imm) s = .next t ∧
      (a ≠ 0 → (t.own k).s[a] = wordOf s k l none) ∧ t.mem = s.mem ∧ (t.own k).pc = ((s.own k).loopNext k.next).pc := by
  refine ⟨((wordless k s.unpopped).modThread k.core k.ts fun t => unmark k l (ridgeOf s k l).arrivals
      (t.setS a (wordOf s k l none))).retire k .next, ?_, own_unmarked_s, rfl, ?_⟩
  · rw [ridgew_eq hi hn hrw, ridgeWait_done (by rw [ridgeAt_wordless]; exact hr.ge) (by rwa [ridgeAt_wordless])
      (by rwa [ridgeAt_wordless]) (plain_wordless ha), wordOf_wordless]
    rfl
  · rw [own_unmarked_pc]
    exact loopNext_pc_congr (by rw [own_wordless]) _

variable {e : Owed} {z : List Owed} (ho : (ridgeOf s k l).owed = e :: z) (ht : e.taker = none)
include ho ht

theorem ridgew_held (he : ∃ w ∈ (ridgeOf s k l).windows, w.release = e.release) :
    exec (.ridgew x a imm) s = .next (s.held k) := by
  rw [ridgew_eq hi hn hrw, ridgeWait_held (by rw [ridgeAt_wordless]; exact hr.ge) (by rwa [ridgeAt_wordless])
    (by rwa [ridgeAt_wordless]) ht (by rwa [ridgeAt_wordless])]
  rfl

theorem ridgew_traps (he : Closed (ridgeOf s k l) e.release) : exec (.ridgew x a imm) s =
    .next ((s.unpopped.modRidge k.core l fun r => r.took e k.ts).exactTrap k.core k.ts e.cause 0 k.addr) := by
  rw [ridgew_eq hi hn hrw, ridgeWait_traps (by rw [ridgeAt_wordless]; exact hr.ge) (by rwa [ridgeAt_wordless])
    (by rwa [ridgeAt_wordless]) ht (by rwa [ridgeAt_wordless])]
  rfl

/-- The first cause that the release has left to the core is taken as an exact trap, and the others of its release are the
thread's. -/
theorem ridgew_takes (h7 : l < 7) (he : Closed (ridgeOf s k l) e.release) : ∃ t, exec (.ridgew x a imm) s = .next t ∧
    ((s.own k).inh = false → (t.own k).cause = e.cause ∧ (t.own k).pc = 0x0020 ∧ (t.own k).epc = k.addr ∧
      (ridgeOf t k l).owed = z.map fun p => if p.release = e.release then { p with taker := some k.ts } else p) := by
  refine ⟨_, ridgew_traps hi hn hrw hr hw ho ht he, fun hinh => ?_⟩
  have enters : (s.unpopped.modRidge k.core l fun r => r.took e k.ts).exactTrap k.core k.ts e.cause 0 k.addr =
      (s.unpopped.modRidge k.core l fun r => r.took e k.ts).enter k.core k.ts e.cause 0 k.addr false 0 := by
    unfold State.exactTrap
    dsimp only
    rw [thread_modRidge, if_neg (by rw [Laws.State.unpopped_thread]; exact Bool.eq_false_iff.1 hinh)]
  have owed : (ridgeOf s.unpopped k l).owed = e :: z := ho
  rw [enters, State.enter, State.own, Laws.State.thread_modThread]
  refine ⟨rfl, rfl, rfl, ?_⟩
  rw [ridgeOf, ridgeAt_modThread, ridgeAt_modRidge_same _ _ _ h7, ← ridgeOf, RidgeSt.took, owed, List.erase_cons_head]
  simp only [beq_iff_eq]

end Unmarked

end Issued

end Arriving

/-- Settles O43: an arrival by its checks and the release before it, a wait by whether its release has come and what it owes. -/
theorem ridgeResults : Obligations.RidgeResults := by
  refine ⟨fun s k x a l q hi _ _ hq hm => ?_, fun s k x a l m v hi ha _ => ?_⟩
  · have h7 : l.val < 7 := by omega
    have h6 : l.val ≠ 6 := l.isLt.ne
    have hn := level_toNat h7
    refine ⟨fun h => ⟨ridgea_refused hi hn hq h6 h, ridge_refused hi hn hq h6 h hm⟩, fun hl he => ⟨fun hr =>
      ⟨ridgea_held hi hn hq h6 hl he hr, fun ho => ridge_held hi hn hq h6 hl he hm ho hr⟩, fun hr => ?_, fun hr ho => ?_⟩⟩
    · obtain ⟨t, ht, ridge, rest⟩ := ridgea_spec hi hn hq h6 hl he h7 hr
      rw [ridgeOf] at ridge
      exact ⟨t, ht, by rw [ridge]; rfl, by rw [ridge]; rfl, by rw [ridge]; rfl, rest⟩
    · obtain ⟨t, ht, ridge, own, mem⟩ := ridge_spec hi hn hq h6 hl he hm ho h7 hr
      rw [ridgeOf] at ridge
      refine ⟨t, ht, by rw [ridge]; rfl, by rw [ridge]; rfl, ?_⟩
      rw [own]
      exact ⟨rfl, rfl, rfl, rfl, rfl, mem⟩
  · have hn := level_toNat l.isLt
    refine ⟨fun hm ho => ⟨ridge_waits hi hn hm, ridge_gives hi hn hm ha ho⟩,
      fun hw ho => ⟨ridgew_waits hi hn hw, fun hr hc => ?_⟩,
      fun e z hw ho ht hr hc => ⟨ridgew_held hi hn hw hr hc ho ht, ridgew_takes hi hn hw hr hc ho ht l.isLt⟩⟩
    rw [← wordOf_none]
    exact ridgew_gives hi hn hw hr hc ha ho

end Sys2Proof.Proofs

/-!
Proofs: exchange timetables, flits and windows (R121 to R125, R388).
-/
namespace Sys2Proof.Proofs
open Sys2Proof Sys2Proof.Machine

/-! ## Timetables (R121, R122, R388) -/

section TimeTables
variable {s : State} {k : Ctx} {x : Pre} {b : SReg}

/-- The header of the timetable at the local address in a register, as the thread sees it. -/
def tableHead (s : State) (k : Ctx) (b : SReg) : Nat :=
  leNat (s.seenBytes k.core k.ts (.sram (padKey k.core + (s.sreg k b).toNat)) 8)

/-- The count of entries in the header. -/
def tableCount (s : State) (k : Ctx) (b : SReg) : Nat := tableHead s k b % 2 ^ 11

/-- The entry words after the header. -/
def tableWords (s : State) (k : Ctx) (b : SReg) : List Nat :=
  (List.range (tableCount s k b)).map fun i => leNat
    (((s.seenBytes k.core k.ts (.sram (padKey k.core + (s.sreg k b).toNat + 8)) (8 * tableCount s k b)).drop (8 * i)).take 8)

/-- The level in the header. -/
def tableLevel (s : State) (k : Ctx) (b : SReg) : Nat := tableHead s k b / 2 ^ 29 % 8

/-- The timetable that the header and the entries make: none without an entry. -/
def tableOf (s : State) (k : Ctx) (b : SReg) : Option TimeTable :=
  if tableCount s k b == 0 then none
  else some ⟨tableHead s k b / 2 ^ 44 % 2 ^ 20, (untilEnd (tableWords s k b)).map readEntry⟩

/-- The entries are too many, or reach over the end of the scratchpad below its reserved range. -/
def tableLong (s : State) (k : Ctx) (b : SReg) : Prop :=
  1024 < tableCount s k b ∨ 0x3C000 < (s.sreg k b).toNat + 8 + 8 * tableCount s k b

/-- A well-formed timetable is of a level below 6. -/
theorem tableLevel_lt (h : s.badTimetable k.core (tableHead s k b) (tableWords s k b) = false) : tableLevel s k b < 7 := by
  have level : fieldOf (tableHead s k b) 31 29 = tableLevel s k b := fieldOf_eq ..
  simp only [State.badTimetable, level, Bool.or_eq_false_iff, decide_eq_false_iff_not] at h
  omega

/-- The timetable of the header and the entries installed. -/
def installed (s : State) (k : Ctx) (b : SReg) : State :=
  s.unpopped.modRidge k.core (tableLevel s k b) fun r => { r with table := tableOf s k b }

theorem installed_table (h : s.badTimetable k.core (tableHead s k b) (tableWords s k b) = false) :
    (((installed s k b).core k.core).ridgeAt (tableLevel s k b)).table = tableOf s k b := by
  rw [installed, ridgeAt_modRidge_same _ _ _ (tableLevel_lt h)]

theorem own_installed : (installed s k b).own k = s.own k := thread_modRidge ..

variable (hi : s.Issues k x) (hb : s.plain k b) (hp : (s.sreg k b).toNat < 0x3C000) (hal : (s.sreg k b).toNat % 8 = 0)
  (hacq : s.acquiring k.core k.ts = false)
include hi hb hp hal hacq

/-- What an `XTT` comes to. -/
theorem xtt_eq : exec (.xtt x b) s = .next (s.unpopped.settle k (
    if 1024 < tableCount s k b || decide (0x3C000 < (s.sreg k b).toNat + 8 + 8 * tableCount s k b) then .error (.trap 0x91 0)
    else if s.badTimetable k.core (tableHead s k b) (tableWords s k b) then .error (.trap 0x91 0)
    else .ok (.next, installed s k b))) := by
  have count (h : Nat) : fieldOf h 10 0 = h % 2 ^ 11 := by simp [fieldOf_eq]
  have level (h : Nat) : fieldOf h 31 29 = h / 2 ^ 29 % 8 := fieldOf_eq ..
  have window (h : Nat) : fieldOf h 63 44 = h / 2 ^ 44 % 2 ^ 20 := fieldOf_eq ..
  change execXtt x b s = _
  unfold execXtt
  rw [Laws.issue_issues hi, Laws.readS_bind (s := s.unpopped) hb, Laws.State.sreg_unpopped,
    localBlock_bind (s := s.unpopped) (by omega) hal hacq]
  simp only [count, level, window]
  rw [Laws.trapIf_bind, Laws.getState_bind, Laws.trapIf_bind]
  rfl

theorem xtt_long (h : tableLong s k b) : exec (.xtt x b) s = .next (s.traps k 0x91 0) := by
  rw [xtt_eq hi hb hp hal hacq, if_pos (by simpa [tableLong] using h)]
  rfl

variable (hl : ¬tableLong s k b)
include hl

theorem xtt_malformed (h : s.badTimetable k.core (tableHead s k b) (tableWords s k b) = true) :
    exec (.xtt x b) s = .next (s.traps k 0x91 0) := by
  rw [xtt_eq hi hb hp hal hacq, if_neg (by simpa [tableLong] using hl), if_pos h]
  rfl

theorem xtt_installs (h : s.badTimetable k.core (tableHead s k b) (tableWords s k b) = false) : exec (.xtt x b) s =
    .next ((installed s k b).retire k .next) := by
  rw [xtt_eq hi hb hp hal hacq, if_neg (by simpa [tableLong] using hl), if_neg (by rw [h]; decide)]
  rfl

theorem xtt_spec (h : s.badTimetable k.core (tableHead s k b) (tableWords s k b) = false) :
    ∃ t, exec (.xtt x b) s = .next t ∧
      (tableCount s k b = 0 → ((t.core k.core).ridgeAt (tableLevel s k b)).table = none) ∧
      (tableCount s k b ≠ 0 → ∃ z, ((t.core k.core).ridgeAt (tableLevel s k b)).table = some z ∧
        z.window = tableHead s k b / 2 ^ 44 % 2 ^ 20 ∧ z.entries.length = (untilEnd (tableWords s k b)).length) ∧
      (t.own k).s = (s.own k).s ∧ t.mem = s.mem := by
  refine ⟨_, xtt_installs hi hb hp hal hacq hl h, ?_, ?_, by rw [own_retire_s, own_installed], rfl⟩
  · intro h0
    rw [ridgeAt_retire, installed_table h, tableOf, if_pos (beq_iff_eq.2 h0)]
  · intro h0
    rw [ridgeAt_retire, installed_table h, tableOf, if_neg (by simpa using h0)]
    exact ⟨_, rfl, rfl, List.length_map _⟩

end TimeTables

/-! ## Windows close (R123) -/

/-- A window has ended at a core: its last cycle has come, and no flit for a cycle of it is under way. -/
def windowEnded (s : State) (core : Nat) (w : Window) : Bool :=
  decide (w.stop ≤ s.cycle) && !s.fab.flits.any fun f => f.dst == core && decide (f.at_ < w.stop)

theorem windowEnded_iff (s : State) (core : Nat) (w : Window) : windowEnded s core w = true ↔
    w.stop ≤ s.cycle ∧ ∀ f ∈ s.fab.flits, f.dst = core → w.stop ≤ f.at_ := by
  simp [windowEnded]

theorem exchangeWindowClose_spec (s : State) (core : Fin 4096) : ∃ t, exec (.exchangeWindowClose core) s = .next t ∧
    t.mem = s.mem ∧ ∀ (l : Fin 7) (w : Window), w ∈ ((t.core core).ridge[l]).windows ↔ w ∈ ((s.core core).ridge[l]).windows ∧
      ¬(w.stop ≤ s.cycle ∧ ∀ f ∈ s.fab.flits, f.dst = core.val → w.stop ≤ f.at_) := by
  refine ⟨s.setCore core { s.core core with ridge := (s.core core).ridge.map fun r =>
    { r with windows := r.windows.filter fun w => !windowEnded s core w } }, rfl, rfl, fun l w => ?_⟩
  rw [Laws.State.core_setCore, ← windowEnded_iff]
  simp

/-! ## Flits arrive (R123, R124) -/

section Marks
variable (s : State) (core : Nat) (p : Fin 8) (f : Part → Part)

@[simp] theorem modPart_mem : (s.modPart core p f).mem = s.mem := by
  unfold State.modPart
  dsimp only
  split <;> rfl

@[simp] theorem modPart_fab : (s.modPart core p f).fab = s.fab := by
  unfold State.modPart
  dsimp only
  split <;> rfl

/-- The marks that a write leaves on partitions (R146) are of their cores alone. -/
theorem markDirty_mem_fab (off n : Nat) : ((s.markDirty core off n).mem, (s.markDirty core off n).fab) = (s.mem, s.fab) := by
  refine foldl_view (fun s : State => (s.mem, s.fab)) _ (fun u q => ?_) _ s
  obtain ⟨i, p, g⟩ := q
  dsimp only
  split
  · split
    · rfl
    · rw [modPart_mem, modPart_fab]
  · rfl

theorem land_sram (a : Nat) (bs : List Byte) : ((s.land (.sram a) bs).mem, (s.land (.sram a) bs).fab) =
    ({ s.mem with sram := writeSpan s.mem.sram a bs }, s.fab) := by
  unfold State.land
  dsimp only
  split
  · exact markDirty_mem_fab ..
  · rfl

end Marks

section Collisions
variable (s : State) (core : Nat) {l n : Nat}

theorem collide_mem_fab (l : Nat) : ((s.collide core l).mem, (s.collide core l).fab) = (s.mem, s.fab) := rfl

theorem ridgeAt_raise_coll (bits : BitVec 16) (cause : BitVec 8) :
    (((s.raise core bits cause).core core).ridgeAt l).coll = ((s.core core).ridgeAt l).coll := by
  rw [State.raise, Laws.State.core_setCore]
  simp only [Core.ridgeAt, List.getD_eq_getElem?_getD, Vector.toList_map, List.getElem?_map]
  cases (s.core core).ridge.toList[l]? <;> rfl

theorem collide_coll_same (h : l < 7) : (((s.collide core l).core core).ridgeAt l).coll = true := by
  rw [State.collide, ridgeAt_modRidge_same _ _ _ h]

variable {s core} in
/-- A collision marked stays marked. -/
theorem collide_coll_kept (h : ((s.core core).ridgeAt l).coll = true) :
    (((s.collide core n).core core).ridgeAt l).coll = true := by
  by_cases hn : l = n
  · subst hn
    by_cases h7 : l < 7
    · exact collide_coll_same s core h7
    · rw [State.collide, core_modRidge, Core.setRidge, dif_neg h7, ridgeAt_raise_coll, h]
  · rw [State.collide, core_modRidge, ridgeAt_setRidge_other _ _ hn, ridgeAt_raise_coll, h]

theorem collides_coll {ls : List Nat} (hl : l ∈ ls) (h : l < 7) :
    (((ls.foldl (fun s l => s.collide core l) s).core core).ridgeAt l).coll = true := by
  suffices kept : ∀ (ls : List Nat) (s : State), l ∈ ls ∨ ((s.core core).ridgeAt l).coll = true →
      (((ls.foldl (fun s l => s.collide core l) s).core core).ridgeAt l).coll = true from kept ls s (.inl hl)
  intro ls
  induction ls with
  | nil => exact fun s hs => hs.resolve_left List.not_mem_nil
  | cons n ls ih =>
    refine fun s hs => ih _ ?_
    obtain hl | hc := hs
    · obtain rfl | hl := List.mem_cons.1 hl
      · exact .inr (collide_coll_same s core h)
      · exact .inl hl
    · exact .inr (collide_coll_kept hc)

end Collisions

section Flits
variable {s : State} {f : XFlit}

/-- Two flits meet: they reach one receiver in one cycle. -/
def meets (f g : XFlit) : Bool := g.dst == f.dst && g.at_ == f.at_

/-- The state without the flits that meet one. -/
def withoutMet (s : State) (f : XFlit) : State :=
  { s with fab := { s.fab with flits := s.fab.flits.filter fun g => !meets f g } }

/-- The state after the flits that meet one have collided. -/
def collided (s : State) (f : XFlit) : State :=
  (((s.fab.flits.filter (meets f)).map (·.level)).eraseDups).foldl (fun s l => s.collide f.dst l) (withoutMet s f)

theorem mem_withoutMet {g : XFlit} (h : g ∈ (withoutMet s f).fab.flits) : ¬(g.dst = f.dst ∧ g.at_ = f.at_) := by
  rintro ⟨hd, ha⟩
  simpa [meets, hd, ha] using (List.mem_filter.1 h).2

theorem ne_of_mem_withoutMet {g : XFlit} (h : g ∈ (withoutMet s f).fab.flits) : g ≠ f := by
  rintro rfl
  exact mem_withoutMet h ⟨rfl, rfl⟩

theorem collided_mem_fab (s : State) (f : XFlit) : ((collided s f).mem, (collided s f).fab) = (s.mem, (withoutMet s f).fab) :=
  foldl_view (fun s : State => (s.mem, s.fab)) _ (fun s l => collide_mem_fab s f.dst l) _ (withoutMet s f)

theorem collided_coll (hf : f ∈ s.fab.flits) (h : f.level < 7) : (((collided s f).core f.dst).ridgeAt f.level).coll = true := by
  refine collides_coll _ _ (List.mem_eraseDups.2 (List.mem_map.2 ⟨f, List.mem_filter.2 ⟨hf, ?_⟩, rfl⟩)) h
  simp [meets]

variable (hf : s.fab.flits.find? (·.id == f.id) = some f)
include hf

theorem exchangeFlitArrive_early (h : s.cycle < f.at_) : exec (.exchangeFlitArrive f.id) s = .next s := by
  change execExchangeFlitArrive f.id s = _
  simp only [execExchangeFlitArrive, hf, h, if_true]

variable (h : f.at_ ≤ s.cycle)
include h

theorem exchangeFlitArrive_lands {u : Nat} {bs : List Byte} (ha : s.fab.flits.filter (meets f) = [f])
    (hu : (s.core f.dst).receiveUnit f.at_ = some u) (hd : f.data = some bs) :
    exec (.exchangeFlitArrive f.id) s = .next ((withoutMet s f).land (.sram (padKey f.dst + 16 * u)) bs) := by
  have alone : ((s.fab.flits.filter fun g => g.dst == f.dst && g.at_ == f.at_).length != 1) = false := by
    change ((s.fab.flits.filter (meets f)).length != 1) = false
    rw [ha]
    rfl
  change execExchangeFlitArrive f.id s = _
  simp only [execExchangeFlitArrive, hf, if_neg (not_lt.2 h), alone, hu, hd]
  rfl

/-- Flits that meet, and a flit that finds no receive unit, are discarded with a collision. -/
theorem exchangeFlitArrive_collides
    (hc : (s.fab.flits.filter (meets f)).length ≠ 1 ∨ (s.core f.dst).receiveUnit f.at_ = none) :
    exec (.exchangeFlitArrive f.id) s = .next (collided s f) := by
  change execExchangeFlitArrive f.id s = _
  simp only [execExchangeFlitArrive, hf, if_neg (not_lt.2 h)]
  split
  · rename_i hl hu
    obtain hm | hn := hc
    · exact absurd (bne_iff_ne.2 hm) (Bool.eq_false_iff.1 hl)
    · rw [hn] at hu
      cases hu
  · rfl

theorem exchangeFlitArrive_collision
    (hc : (s.fab.flits.filter (meets f)).length ≠ 1 ∨ (s.core f.dst).receiveUnit f.at_ = none) :
    ∃ t, exec (.exchangeFlitArrive f.id) s = .next t ∧ t.mem = s.mem ∧
      (f.level < 7 → ((t.core f.dst).ridgeAt f.level).coll = true) ∧ t.fab = (withoutMet s f).fab := by
  obtain ⟨mem, fab⟩ := Prod.mk.inj (collided_mem_fab s f)
  exact ⟨_, exchangeFlitArrive_collides hf h hc, mem, collided_coll (List.mem_of_find?_eq_some hf), fab⟩

/-- A flit alone in its cycle at an open receive unit lands its bytes there and nowhere else. -/
theorem exchangeFlitArrive_writes {u : Nat} {bs : List Byte} (hwf : s.mem.sram.wf = true)
    (ha : s.fab.flits.filter (meets f) = [f]) (hu : (s.core f.dst).receiveUnit f.at_ = some u) (hd : f.data = some bs)
    (hn : bs.length = 16) : ∃ t, exec (.exchangeFlitArrive f.id) s = .next t ∧
      (∀ j, j < 16 → readByte t.mem.sram (padKey f.dst + 16 * u + j) = bs.getD j 0) ∧
      (∀ g, g < padKey f.dst + 16 * u ∨ padKey f.dst + 16 * u + 16 ≤ g → readByte t.mem.sram g = readByte s.mem.sram g) ∧
      ∀ g ∈ t.fab.flits, g ≠ f := by
  obtain ⟨mem, fab⟩ := Prod.mk.inj (land_sram (withoutMet s f) (padKey f.dst + 16 * u) bs)
  refine ⟨_, exchangeFlitArrive_lands hf h ha hu hd, fun j hj => ?_, fun g hg => ?_, fun g hg => ?_⟩
  · have inside : j < bs.length := by omega
    rw [mem, List.getD_eq_getElem _ _ inside]
    exact Laws.readByte_writeSpan_same hwf inside
  · rw [mem]
    exact Laws.readByte_writeSpan_other hwf (by rwa [hn])
  · rw [fab] at hg
    exact ne_of_mem_withoutMet hg

end Flits

/-- Two flits of one list that meet are not alone there. -/
theorem meets_length {l : List XFlit} {f g : XFlit} (hf : f ∈ l) (hg : g ∈ l) (hne : g ≠ f) (hd : g.dst = f.dst)
    (ha : g.at_ = f.at_) : (l.filter (meets f)).length ≠ 1 := by
  intro h1
  obtain ⟨e, he⟩ := List.length_eq_one_iff.1 h1
  have only (z : XFlit) (hz : z ∈ l) (hm : meets f z = true) : z = e := by
    simpa [he] using List.mem_filter.2 ⟨hz, hm⟩
  exact hne ((only g hg (by simp [meets, hd, ha])).trans (only f hf (by simp [meets])).symm)

/-- Settles O45: a timetable by its checks, a flit by what it meets and finds, a window by its cycles and flits. -/
theorem exchangeResults : Obligations.ExchangeResults := by
  refine ⟨fun s k x b hi hb hp hal hacq => ⟨xtt_long hi hb hp hal hacq, fun hn he => ?_, fun hn he => ?_⟩,
    fun s f hf _ hwf => ⟨exchangeFlitArrive_early hf, fun h ha => ⟨fun u bs hu _ hd hlen =>
      exchangeFlitArrive_writes hf h hwf ha hu hd hlen, fun hu => ?_⟩, fun h hg => ?_⟩, exchangeWindowClose_spec⟩
  · exact xtt_malformed hi hb hp hal hacq (not_or.2 ⟨not_lt.2 hn, not_lt.2 he⟩)
  · exact xtt_spec hi hb hp hal hacq (not_or.2 ⟨not_lt.2 hn, not_lt.2 he⟩)
  · obtain ⟨t, ht, mem, coll, fab⟩ := exchangeFlitArrive_collision hf h (.inr hu)
    exact ⟨t, ht, mem, coll, fun g hg => ne_of_mem_withoutMet (fab ▸ hg)⟩
  · obtain ⟨g, hg, hne, hd, ha⟩ := hg
    obtain ⟨t, ht, mem, coll, fab⟩ :=
      exchangeFlitArrive_collision hf h (.inl (meets_length (List.mem_of_find?_eq_some hf) hg hne hd ha))
    exact ⟨t, ht, mem, coll, fun g hg => mem_withoutMet (fab ▸ hg)⟩

end Sys2Proof.Proofs

/-!
Proofs: releases of ridges and ridge tokens (R91, R116 to R118).
-/
namespace Sys2Proof.Proofs
open Sys2Proof Sys2Proof.Machine

/-! ## What a core counts at its ridges -/

/-- The courses of a core, and by level the arrivals made and released. -/
def counts (c : Core) : Vector (BitVec 48) 7 × Vector (Nat × Nat) 7 :=
  (c.course, c.ridge.map fun r => (r.arrivals, r.released))

section Counts
variable {c d : Core} {l : Nat}

theorem counts_iff : counts c = counts d ↔ c.course = d.course ∧ ∀ (l : Nat) (_ : l < 7),
    (c.ridgeAt l).arrivals = (d.ridgeAt l).arrivals ∧ (c.ridgeAt l).released = (d.ridgeAt l).released := by
  simp only [counts, Prod.mk.injEq, and_congr_right_iff]
  refine fun _ => ⟨fun h l hl => ?_, fun h => Vector.ext fun l hl => ?_⟩
  · have at_ := congrArg (fun v : Vector (Nat × Nat) 7 => v[l]) h
    simpa [Core.ridgeAt, hl] using at_
  · simpa [Core.ridgeAt, hl] using h l hl

/-- A ridge state with the same arrivals made and released counts the same. -/
theorem counts_setRidge {r : RidgeSt} (ha : r.arrivals = (c.ridgeAt l).arrivals) (hr : r.released = (c.ridgeAt l).released) :
    counts (c.setRidge l r) = counts c := by
  refine counts_iff.2 ⟨?_, fun n hn => ?_⟩
  · obtain ⟨_, h⟩ := setRidge_eq c r l
    rw [h]
  · by_cases h : n = l
    · subst h
      rw [ridgeAt_setRidge_same _ _ hn]
      exact ⟨ha, hr⟩
    · rw [ridgeAt_setRidge_other _ _ h]
      exact ⟨rfl, rfl⟩

end Counts

/-! ## Traces change nothing that is under way (R240 to R243) -/

section Traces
variable (s : State) (c : Nat)

theorem streamBytes_fab (from_ : Nat) (bs : List Byte) : (s.streamBytes c from_ bs).fab = s.fab := by
  unfold State.streamBytes
  dsimp only
  split <;> rfl

variable {s c} in
theorem streamRecord_fab {t : State} {bs : List Byte} (h : s.streamRecord c bs = some t) : t.fab = s.fab := by
  unfold State.streamRecord at h
  dsimp only at h
  obtain ⟨-, h⟩ := Option.ite_none_left_eq_some.1 h
  cases h
  exact streamBytes_fab ..

theorem traceSync_fab : (s.traceSync c).fab = s.fab := by
  unfold State.traceSync
  dsimp only
  split
  · rfl
  · split
    · rename_i h
      exact (Laws.State.setCore_fab ..).trans (streamRecord_fab h)
    · rfl

end Traces

/-! ## Steps that change no count of a ridge -/

/-- The communicators, and what every core counts at its ridges, stand as they were. -/
structure KeepsCounts (s t : State) : Prop where
  comms : t.fab.comms = s.fab.comms
  cores : ∀ c, counts (t.core c) = counts (s.core c)

namespace KeepsCounts
variable {s t u : State}

theorem refl (s : State) : KeepsCounts s s := ⟨rfl, fun _ => rfl⟩

theorem trans (h : KeepsCounts s t) (g : KeepsCounts t u) : KeepsCounts s u :=
  ⟨g.comms.trans h.comms, fun c => (g.cores c).trans (h.cores c)⟩

theorem foldl {α : Type} {f : State → α → State} (h : ∀ s a, KeepsCounts s (f s a)) (l : List α) (s : State) :
    KeepsCounts s (l.foldl f s) := by
  induction l generalizing s with
  | nil => exact .refl s
  | cons a l ih => exact (h s a).trans (ih _)

theorem ite {p : Prop} [Decidable p] (ht : KeepsCounts s t) (hu : KeepsCounts s u) : KeepsCounts s (if p then t else u) := by
  split
  · exact ht
  · exact hu

theorem setCore (s : State) {c : Nat} {v : Core} (hv : counts v = counts (s.core c)) : KeepsCounts s (s.setCore c v) := by
  refine ⟨rfl, fun d => ?_⟩
  by_cases hd : d = c
  · rw [hd, Laws.State.core_setCore, hv]
  · rw [Laws.State.core_setCore_other _ _ _ _ hd]

theorem withThr (s : State) (c : Nat) (v : Vector Thread 4) : KeepsCounts s (s.setCore c { s.core c with thr := v }) :=
  .setCore s rfl

theorem ofGlobal (h : OnlyGlobal s t) : KeepsCounts s t := by
  obtain ⟨_, _, rfl⟩ := h
  exact ⟨rfl, fun _ => rfl⟩

/-! ### Causes and partitions (R134, R144 to R146, R387) -/

theorem modRidge (s : State) (c l : Nat) {f : RidgeSt → RidgeSt}
    (hf : ∀ r, (f r).arrivals = r.arrivals ∧ (f r).released = r.released) : KeepsCounts s (s.modRidge c l f) :=
  .setCore s (counts_setRidge (hf _).1 (hf _).2)

theorem oweAll (s : State) (ms : List Nat) (l : Nat) (cause : BitVec 8) : KeepsCounts s (s.oweAll ms l cause) := by
  refine .foldl (fun s c => .modRidge s c l fun r => ?_) ms s
  unfold RidgeSt.owe
  dsimp only
  split <;> exact ⟨rfl, rfl⟩

theorem modPart (s : State) (c : Nat) (p : Fin 8) (f : Part → Part) : KeepsCounts s (s.modPart c p f) := by
  unfold State.modPart
  dsimp only
  split
  · exact .setCore s rfl
  · exact .refl s

theorem freePart (s : State) (p : Fin 8) (c : Nat) : KeepsCounts s (s.freePart p c) := .setCore s rfl

theorem writeSram (s : State) (a : Nat) (bs : List Byte) : KeepsCounts s (s.writeSram a bs) := ⟨rfl, fun _ => rfl⟩

theorem fillBoundary (s : State) (c : Nat) (g : Geom) : KeepsCounts s (s.fillBoundary c g) := by
  unfold State.fillBoundary
  dsimp only
  exact .ite (.refl s) (.foldl (fun s _ => .ite (.writeSram s ..) (.refl s)) _ s)

theorem confirmPart (s : State) (p : Fin 8) (c : Nat) : KeepsCounts s (s.confirmPart p c) := by
  unfold State.confirmPart
  split
  · exact .refl s
  · split
    · exact (KeepsCounts.fillBoundary ..).trans (.modPart ..)
    · exact .modPart ..

theorem snapshot (s : State) (ms : List Nat) (p : Fin 8) (c : Nat) : KeepsCounts s (s.snapshot ms p c) := by
  unfold State.snapshot
  split
  · exact .refl s
  · split
    · exact .refl s
    · exact .foldl (fun s _ => .writeSram s ..) _ s

theorem beginRefresh (s : State) (p : Fin 8) (l c : Nat) : KeepsCounts s (s.beginRefresh p l c) := by
  unfold State.beginRefresh
  dsimp only
  split
  · exact .refl s
  · exact .modPart ..

theorem refreshPart (s : State) (ms holders : List Nat) (l : Nat) (p : Fin 8) (all any : Bool) :
    KeepsCounts s (s.refreshPart ms holders l p all any) := by
  unfold State.refreshPart
  exact .ite ((KeepsCounts.foldl (fun s c => .snapshot s ..) _ s).trans (.foldl (fun s c => .beginRefresh s ..) _ _))
    ((KeepsCounts.ite (.oweAll ..) (.refl s)).trans (.foldl (fun s c => .modPart s ..) _ _))

theorem releasePart (s : State) (ms : List Nat) (l : Nat) (p : Fin 8) : KeepsCounts s (s.releasePart ms l p) := by
  unfold State.releasePart
  extract_lets holders votes first owners agreed fresh confirmed live renew mark
  have hconfirmed : KeepsCounts s confirmed := .ite (.foldl (fun s c => .confirmPart s p c) _ s) (.refl s)
  have owed (u : State) (b : Bool) (cause : BitVec 8) : KeepsCounts u (if b then u.oweAll ms l cause else u) :=
    .ite (.oweAll ..) (.refl u)
  have freed (u : State) : KeepsCounts u (holders.foldl (fun s c => s.freePart p c) u) := .foldl (fun s c => .freePart s p c) _ u
  refine .ite (.refl s) (.ite ((freed s).trans (.oweAll ..)) (.ite hconfirmed (hconfirmed.trans (.ite ?_ ?_))))
  · exact (owed ..).trans (freed _)
  · exact ((owed ..).trans (.refreshPart ..)).trans (.foldl (fun s c => .modPart s ..) _ _)

/-! ### Slices and flits (R123, R129) -/

theorem contribFails (s : State) (c : Contrib) : KeepsCounts s (s.contribFails c) := by
  unfold State.contribFails
  dsimp only
  exact .ite (.refl s) (.withThr ..)

theorem releaseSlices (s : State) (c l : Nat) : KeepsCounts s (s.releaseSlices c l) := by
  unfold State.releaseSlices
  split
  · exact .refl s
  · refine .foldl (fun s r => ?_) _ s
    dsimp only
    have put : KeepsCounts s (s.putSlice r.release.1) := ⟨rfl, fun _ => rfl⟩
    exact put.trans (.foldl contribFails _ _)

theorem addFlits (s : State) (l : List XFlit) : KeepsCounts s (s.addFlits l) := ⟨rfl, fun _ => rfl⟩

theorem sendFlits (s : State) : KeepsCounts s s.sendFlits := ⟨rfl, fun _ => rfl⟩

/-! ### Traces, logs and digests (R240 to R248) -/

theorem traceWrite (s : State) (c off : Nat) (bs : List Byte) : KeepsCounts s (s.traceWrite c off bs) := .setCore s rfl

theorem traceSync (s : State) (c : Nat) : KeepsCounts s (s.traceSync c) := by
  refine ⟨congrArg Fabric.comms (traceSync_fab s c), fun d => ?_⟩
  have same : counts (untraced ((s.traceSync c).core d)) = counts (untraced (s.core d)) :=
    congrArg counts ((OnlyTraces.traceSync s c).2.2 d)
  exact same

theorem imbalance (s : State) (c : Nat) (bs : List Byte) : KeepsCounts s (s.imbalance c bs) := by
  unfold State.imbalance
  dsimp only
  exact .ite (.refl s) (.ite (.setCore s rfl) ((KeepsCounts.traceWrite ..).trans (.setCore _ rfl)))

theorem logDigest (s : State) (c : Nat) : KeepsCounts s (s.logDigest c) :=
  .ofGlobal ((logEntry_onlyGlobal ..).trans (logEntry_onlyGlobal ..))

theorem raise (s : State) (c : Nat) (bits : BitVec 16) (cause : BitVec 8) : KeepsCounts s (s.raise c bits cause) := by
  refine .setCore s ?_
  simp [counts, Function.comp_def]

theorem compareDigests (s : State) (t : Machine.Task) (ms : List Nat) : KeepsCounts s (s.compareDigests t ms) := by
  unfold State.compareDigests
  extract_lets +onlyGivenNames off
  clear_value off
  cases off with
  | nil => exact .refl s
  | cons c l =>
    dsimp -zeta only
    extract_lets rc recorded raised goesOn
    clear_value rc
    have hrecorded : KeepsCounts s recorded := by
      unfold recorded
      split
      · split
        · rename_i h
          exact .ofGlobal (globalWrite_ok_onlyGlobal h)
        · rename_i h
          exact .ofGlobal (globalWrite_error_onlyGlobal h)
      · exact .refl s
    have hraised : KeepsCounts s raised := hrecorded.trans (.foldl (fun s _ => .raise s ..) _ _)
    exact .ite ⟨hraised.comms, hraised.cores⟩ (hraised.trans (.foldl (fun s _ => .withThr s ..) _ _))

theorem domainRelease (s : State) (t : Machine.Task) (ms : List Nat) : KeepsCounts s (s.domainRelease t ms) := by
  unfold State.domainRelease
  extract_lets logged broke
  have hlogged : KeepsCounts s logged := .ite (.foldl logDigest ms s) (.ite (.compareDigests ..) (.refl s))
  refine hlogged.trans (.foldl (fun s c => ?_) ms _)
  extract_lets k ended headed
  have hended : KeepsCounts s ended := .setCore s rfl
  exact (KeepsCounts.ite (hended.trans (.traceWrite ..)) hended).trans (.traceSync ..)

end KeepsCounts

/-! ## One member is released (R116 to R119) -/

section Releasing
variable (s : State) {l : Nat} (sum : RidgeSum) {c d : Nat}

/-- What a member counts after a release at a level: its arrivals are released, and its course counts on. -/
def Released (l : Nat) (hl : l < 7) (c d : Core) : Prop :=
  (d.ridgeAt l).released = (c.ridgeAt l).arrivals ∧ (d.ridgeAt l).arrivals = (c.ridgeAt l).arrivals ∧
    d.course[l] = c.course[l] + 1

/-- A release rests on what a member counts alone. -/
theorem Released.congr {hl : l < 7} {c d e f : Core} (h : Released l hl c d) (hc : counts c = counts e)
    (hd : counts f = counts d) :
    Released l hl e f := by
  obtain ⟨released, arrivals, course⟩ := h
  obtain ⟨hcourse, hridge⟩ := counts_iff.1 hc
  obtain ⟨hcourse', hridge'⟩ := counts_iff.1 hd
  refine ⟨?_, ?_, ?_⟩
  · rw [(hridge' l hl).2, released, (hridge l hl).1]
  · rw [(hridge' l hl).1, arrivals, (hridge l hl).1]
  · rw [hcourse', course, hcourse]

theorem releaseCore_other (h : d ≠ c) : (s.releaseCore l sum c).core d = s.core d := Laws.State.core_setCore_other _ _ _ _ h

theorem releaseCore_comms : (s.releaseCore l sum c).fab.comms = s.fab.comms := rfl

theorem owe_arrivals (r : RidgeSt) (cause : BitVec 8) : (r.owe cause).arrivals = r.arrivals := by
  unfold RidgeSt.owe
  dsimp only
  split <;> rfl

theorem releaseCore_released (hl : l < 7) : Released l hl (s.core c) ((s.releaseCore l sum c).core c) := by
  unfold State.releaseCore
  extract_lets k r course word owed waiting windows given changed
  have arrivals : owed.arrivals = r.arrivals := by
    unfold owed
    split
    · exact owe_arrivals ..
    · rfl
  rw [Laws.State.core_setCore, Released, ridgeAt_setRidge_same _ _ hl]
  refine ⟨arrivals, arrivals, ?_⟩
  obtain ⟨_, h⟩ := setRidge_eq changed given l
  rw [h]
  simp [changed, course, k, hl]

/-- A release releases every member, once. -/
theorem foldl_releaseCore_released (hl : l < 7) {ms : List Nat} (hms : ms.Nodup) (hc : c ∈ ms) :
    Released l hl (s.core c) ((ms.foldl (fun s c => s.releaseCore l sum c) s).core c) := by
  obtain ⟨u, hu, he⟩ := foldl_at State.core (f := fun s c => s.releaseCore l sum c)
    (fun s a b hb => releaseCore_other s sum hb) hms hc s
  rw [he, ← hu]
  exact releaseCore_released u sum hl

end Releasing

/-! ## The release of a sub-domain (R116, R117) -/

section SubDomains
variable (s : State) (core l : Nat)

theorem members_nodup : (s.members core l).Nodup := by
  refine List.Nodup.filter _ ?_
  unfold State.subDomain
  split
  · exact List.nodup_nil
  · have shift (k : Nat) : Function.Injective (k + ·) := fun _ _ h => Nat.add_left_cancel h
    exact .map (shift _) (.filter _ (.map (shift _) List.nodup_range))

/-- Around the release of its members, a release changes no count. -/
theorem releaseAt_members (extra : BitVec 16 × Word) : ∃ u sum, KeepsCounts s u ∧
    KeepsCounts ((s.members core l).foldl (fun s c => s.releaseCore l sum c) u) (s.releaseAt core l extra) := by
  unfold State.releaseAt
  extract_lets +onlyGivenNames ms sum₀ sum sliced parts flits released
  have before : KeepsCounts s parts := (KeepsCounts.releaseSlices ..).trans (.foldl (fun s p => .releasePart s ..) _ _)
  have flown : KeepsCounts (ms.foldl (fun s c => s.releaseCore l sum c) parts) released := .addFlits ..
  refine ⟨parts, sum, before, ?_⟩
  split
  · exact flown
  · extract_lets whole sub masked traced
    have hmasked : KeepsCounts released masked := .foldl (fun s c => .setCore s (by unfold Core.maskTakes; split <;> rfl)) _ _
    have htraced : KeepsCounts masked traced := by
      unfold traced
      split
      · exact .ite (.imbalance ..) (.refl _)
      · exact .refl _
    exact ((flown.trans (hmasked.trans htraced)).trans (.ite (.domainRelease ..) (.refl _))).trans (.sendFlits _)

end SubDomains

section Releases
variable {s : State} {core : Nat} {l : Nat}

theorem releaseAt_comms (extra : BitVec 16 × Word) : (s.releaseAt core l extra).fab.comms = s.fab.comms := by
  obtain ⟨u, sum, before, after⟩ := releaseAt_members s core l extra
  have released : ((s.members core l).foldl (fun s c => s.releaseCore l sum c) u).fab.comms = u.fab.comms :=
    foldl_view (fun s : State => s.fab.comms) _ (fun s _ => releaseCore_comms s sum) _ u
  exact after.comms.trans (released.trans before.comms)

theorem releaseAt_released (extra : BitVec 16 × Word) (hl : l < 7) {c : Nat} (hc : c ∈ s.members core l) :
    Released l hl (s.core c) ((s.releaseAt core l extra).core c) := by
  obtain ⟨u, sum, before, after⟩ := releaseAt_members s core l extra
  exact (foldl_releaseCore_released u sum hl (members_nodup s core l) hc).congr (before.cores c) (after.cores c)

/-- Who belongs to a sub-domain rests on the cores and the scheduler's tasks alone. -/
theorem members_congr {t : State} (hc : t.cores = s.cores) (hs : t.sched = s.sched) : t.members core l = s.members core l := by
  have core_eq (c : Nat) : t.core c = s.core c := congrArg (fun z => tblGet z c Core.reset) hc
  unfold State.members State.subDomain State.taskOf State.relOf
  simp only [core_eq, hs]

variable {lev : Fin 8} {c : Fin 4096}

theorem ridgeRelease_waits (h : s.ridgeReady c lev.val = false) : exec (.ridgeRelease lev c) s = .next s := by
  change execRidgeRelease lev c s = _
  simp [execRidgeRelease, h]

theorem ridgeRelease_releases (h : s.ridgeReady c lev.val = true) (h0 : lev.val ≠ 0) (h6 : lev.val < 6) :
    exec (.ridgeRelease lev c) s = .next (s.releaseAt c lev.val (0, 0)) := by
  change execRidgeRelease lev c s = _
  simp [execRidgeRelease, h, h0, h6.ne, (h6.trans (by decide : 6 < 7)).ne]

theorem ridgeRelease_tokens (h : s.ridgeReady c 6 = true) : exec (.ridgeRelease 6 c) s = .next (s.tokenRelease c) := by
  change execRidgeRelease 6 c s = _
  simp [execRidgeRelease, h]

end Releases

/-! ## Tokens of level 6 (R116, R118) -/

section Tokens
variable {s : State} {core : Nat} {m : Comm} {comm : Nat} {sum : RidgeSum}

theorem post_ports_only (s : State) (dev : BitVec 16) (vc : Fin 8) (msg : OutMsg) :
    ∃ p, s.post dev vc msg = { s with ports := p } := by
  unfold State.post
  split
  · exact ⟨_, rfl⟩
  · exact ⟨s.ports, rfl⟩

/-- Messages to several devices change the ports alone. -/
theorem posts_ports_only {α : Type} (dst : α → BitVec 16) (vc : Fin 8) (msg : α → OutMsg) (l : List α) (s : State) :
    ∃ p, l.foldl (fun s a => s.post (dst a) vc (msg a)) s = { s with ports := p } := by
  induction l generalizing s with
  | nil => exact ⟨s.ports, rfl⟩
  | cons a l ih =>
    obtain ⟨p, hp⟩ := post_ports_only s (dst a) vc (msg a)
    obtain ⟨q, hq⟩ := ih { s with ports := p }
    exact ⟨q, by rw [List.foldl_cons, hp, hq]⟩

/-- This device's token of a communicator. -/
def tokenTo (m : Comm) (comm : Nat) (sum : RidgeSum) (r : Nat) : OutMsg :=
  .token (m.ranks.getD r 0).toNat comm (fieldOf m.ctl.toNat 43 32) sum.errors sum.digest

/-- The device's token goes to every other rank, once. -/
def tokensSent (s : State) (m : Comm) (comm : Nat) (sum : RidgeSum) : State :=
  if m.sent then s
  else m.others.foldl (fun s r => s.post (m.ranks.getD r 0) 1 (tokenTo m comm sum r)) (s.setComm comm { m with sent := true })

/-- The communicator after a release has used up a token of each rank. -/
def usedUp (m : Comm) : Comm := { m with sent := false, tokens := m.tokens.map fun (r, l) => (r, l.drop 1) }

theorem tokensSent_once (h : m.sent = true) : tokensSent s m comm sum = s := if_pos h

theorem tokensSent_ports_only (h : m.sent = false) :
    ∃ p, tokensSent s m comm sum = { s.setComm comm { m with sent := true } with ports := p } := by
  obtain ⟨p, hp⟩ := posts_ports_only (fun r => m.ranks.getD r 0) 1 (tokenTo m comm sum) m.others
    (s.setComm comm { m with sent := true })
  exact ⟨p, (if_neg (by rw [h]; decide)).trans hp⟩

theorem tokensSent_keeps : (tokensSent s m comm sum).cores = s.cores ∧ (tokensSent s m comm sum).sched = s.sched ∧
    (tokensSent s m comm sum).mem = s.mem := by
  cases h : m.sent with
  | true => rw [tokensSent_once h]; exact ⟨rfl, rfl, rfl⟩
  | false =>
    obtain ⟨p, hp⟩ := tokensSent_ports_only (s := s) (comm := comm) (sum := sum) h
    rw [hp]
    exact ⟨rfl, rfl, rfl⟩

theorem tokensSent_comm (hm : tblGet s.fab.comms comm {} = m) :
    tblGet (tokensSent s m comm sum).fab.comms comm {} = { m with sent := true } := by
  cases h : m.sent with
  | true => rw [tokensSent_once h, hm, ← h]
  | false =>
    obtain ⟨p, hp⟩ := tokensSent_ports_only (s := s) (comm := comm) (sum := sum) h
    rw [hp]
    exact Laws.tblGet_tblSet_same ..

/-- To a single other rank the token waits for the port that leads to its device. -/
theorem tokensSent_queues {r p : Nat} (h : m.sent = false) (hr : m.others = [r]) (hp : s.wayTo (m.ranks.getD r 0) = some p) :
    ∃ q, ((tokensSent s m comm sum).port p).outq = (s.port p).outq ++ [q] ∧ q.vc = 1 ∧ q.msg = tokenTo m comm sum r := by
  have way : (s.setComm comm { m with sent := true }).wayTo (m.ranks.getD r 0) = some p := hp
  refine ⟨{ vc := 1, flits := (tokenTo m comm sum r).flits, msg := tokenTo m comm sum r }, ?_, rfl, rfl⟩
  rw [tokensSent, if_neg (by rw [h]; decide), hr, List.foldl_cons, List.foldl_nil, State.post, way]
  exact congrArg LinkPort.outq (port_setPort_same ..)

/-- With members whose arrival is unreleased, the first of them names the communicator. -/
theorem tokenRelease_eq {d : Nat} (hd : (s.members core 6).find? (fun c => ((s.core c).ridgeAt 6).pending) = some d)
    (hc : ((s.core d).ridgeAt 6).comm = comm) (hm : tblGet s.fab.comms comm {} = m) :
    ∃ extra, s.tokenRelease core = if m.others.all fun r => !(tblGet m.tokens r []).isEmpty
      then ((tokensSent s m comm (s.ridgeSum (s.members core 6) 6)).setComm comm (usedUp m)).releaseAt core 6 extra
      else tokensSent s m comm (s.ridgeSum (s.members core 6) 6) := by
  subst hc hm
  unfold State.tokenRelease
  simp only [hd]
  exact ⟨_, rfl⟩

theorem ridgeTokenArrive_ignored {c : Fin 4096} {rank : Nat} {e : RidgeToken}
    (h : (tblGet s.fab.comms c.val {}).ctl.getLsbD 0 = false ∨ rank ∉ (tblGet s.fab.comms c.val {}).others ∨ s.vcHeld 1 = true) :
    exec (.ridgeTokenArrive c rank e) s = .next s := by
  change execRidgeTokenArrive c rank e s = _
  refine if_neg fun hand => ?_
  simp only [Bool.and_eq_true, List.contains_iff_mem, Bool.not_eq_true'] at hand
  obtain ⟨⟨on, other⟩, free⟩ := hand
  obtain h | h | h := h
  · exact Bool.eq_false_iff.1 h on
  · exact h other
  · exact Bool.eq_false_iff.1 free h

theorem ridgeTokenArrive_queues {c : Fin 4096} {rank : Nat} {e : BitVec 16} {d : Word}
    (h1 : (tblGet s.fab.comms c.val {}).ctl.getLsbD 0 = true) (h2 : rank ∈ (tblGet s.fab.comms c.val {}).others)
    (h3 : s.vcHeld 1 = false) : ∃ t, exec (.ridgeTokenArrive c rank ⟨e, d⟩) s = .next t ∧
      tblGet (tblGet t.fab.comms c.val {}).tokens rank [] = tblGet (tblGet s.fab.comms c.val {}).tokens rank [] ++ [(e, d)] ∧
      t.mem = s.mem ∧ t.cores = s.cores := by
  refine ⟨_, if_pos (by rw [h1, List.contains_iff_mem.2 h2, h3]; rfl), ?_, rfl, rfl⟩
  rw [State.setComm, Laws.tblGet_tblSet_same, Laws.tblGet_tblSet_same]

end Tokens

/-- Settles O44: a release by whether its members are ready, at level 6 by the tokens that have come, and a token by its queue. -/
theorem ridgeReleases : Obligations.RidgeReleases := by
  refine ⟨fun s l core h => ridgeRelease_waits h, fun s l core h0 h => ?_, fun s core d h hd => ?_,
    fun s c rank e d => ⟨ridgeTokenArrive_ignored, ridgeTokenArrive_queues⟩⟩
  · exact ⟨_, ridgeRelease_releases h (Fin.val_ne_of_ne h0) l.isLt,
      fun c hc => releaseAt_released _ (l.isLt.trans (by decide)) hc⟩
  · obtain ⟨extra, ht⟩ := tokenRelease_eq hd rfl rfl
    extract_lets comm m sum
    obtain ⟨cores, sched, mem⟩ := tokensSent_keeps (s := s) (m := m) (comm := comm) (sum := sum)
    refine ⟨_, ridgeRelease_tokens h, fun hmissing => ?_, fun hall => ?_⟩
    · obtain ⟨r, hr, he⟩ := hmissing
      have absent : ¬(!(tblGet m.tokens r []).isEmpty) = true := by rw [he]; decide
      rw [ht, if_neg fun hall => absent (List.all_eq_true.1 hall r hr)]
      exact ⟨cores, mem, tokensSent_comm rfl, fun hs => by rw [tokensSent_once hs],
        fun r p hs ho hw => tokensSent_queues hs ho hw⟩
    · have come : (m.others.all fun r => !(tblGet m.tokens r []).isEmpty) = true :=
        List.all_eq_true.2 fun r hr => by simpa using hall r hr
      have used (t : State) : tblGet (((t.setComm comm (usedUp m)).releaseAt core 6 extra).fab.comms) comm {} = usedUp m := by
        rw [releaseAt_comms]
        exact Laws.tblGet_tblSet_same ..
      rw [ht, if_pos come, used]
      refine ⟨rfl, fun r _ => tblGet_map (List.drop 1) m.tokens r [], fun c hc => ?_⟩
      have core_eq : ((tokensSent s m comm sum).setComm comm (usedUp m)).core c = s.core c :=
        congrArg (fun z => tblGet z c Core.reset) cores
      have released := releaseAt_released (s := (tokensSent s m comm sum).setComm comm (usedUp m)) extra (by decide : 6 < 7)
        ((members_congr (s := s) cores sched).symm ▸ hc)
      rwa [core_eq] at released

end Sys2Proof.Proofs

/-!
Proofs: partition declarations, marks, waits and landing slabs (R133, R134, R144, R145, R148, R381 to R385).
-/
namespace Sys2Proof.Proofs
open Sys2Proof Sys2Proof.Machine

/-! ## The partitions of a core -/

section Present
variable {s : State} {k : Ctx} {n : Fin 8} {p : Part} {α : Type} {g : Part → M α}

theorem presentPart_bind (h : (s.core k.core).parts[n] = some p) : (presentPart k n >>= g) s = g p s := by
  refine Laws.M.bind_ok ?_
  unfold presentPart
  rw [Laws.getCore_bind]
  simp only [h]
  rfl

theorem presentPart_bind_absent (h : (s.core k.core).parts[n] = none) :
    (presentPart k n >>= g) s = .error (.trap 0x82 0) := by
  refine Laws.M.bind_error ?_
  unfold presentPart
  rw [Laws.getCore_bind]
  simp only [h]
  rfl

theorem modPart_present {c : Nat} (h : (s.core c).parts[n] = some p) (f : Part → Part) :
    s.modPart c n f = s.setCore c { s.core c with parts := (s.core c).parts.set n (some (f p)) } := by
  simp only [State.modPart, h]

theorem parts_modPart {c : Nat} (h : (s.core c).parts[n] = some p) (f : Part → Part) :
    ((s.modPart c n f).core c).parts[n] = some (f p) := by
  rw [modPart_present h, Laws.State.core_setCore]
  exact Vector.getElem_set_self ..

end Present

section Retired
variable (u : State) (k : Ctx) (f : Flow)

theorem parts_retire : ((u.retire k f).core k.core).parts = (u.core k.core).parts := by
  rw [State.retire, core_modThread]

theorem staleCounts_retire : ((u.retire k f).core k.core).staleCounts = (u.core k.core).staleCounts := by
  rw [State.retire, core_modThread]

theorem waitCounts_retire : ((u.retire k f).core k.core).waitCounts = (u.core k.core).waitCounts := by
  rw [State.retire, core_modThread]

end Retired

/-! ## `PDECL` (R133 to R138, R381) -/

section Declarations

/-- The words of the descriptor at the local address in a register, as the thread sees them. -/
def partWords (s : State) (k : Ctx) (b : SReg) : List Word :=
  wordsOf64 16 (s.seenBytes k.core k.ts (.sram (padKey k.core + (s.sreg k b).toNat)) 128)

/-- The split points of a descriptor, from its table as the thread sees it. -/
def splitPoints (s : State) (k : Ctx) (ws : List Word) : List (BitVec 32) :=
  let tbl := s.seenBytes k.core k.ts (.sram (padKey k.core + pdField ws 4 17 0)) (4 * pdPoints ws)
  (List.range (pdPoints ws)).map fun i => BitVec.ofNat 32 (leNat ((tbl.drop (4 * i)).take 4))

/-- The level is in effect at the core and within its task's. -/
abbrev Reaches (s : State) (k : Ctx) (q : Machine.Task) (c : Fin 8) : Prop :=
  (s.core k.core).domEff.getLsbD c.val = true ∧ c.val ≤ q.level

/-- The split table ends below the reserved range (R135). -/
abbrev TableFits (ws : List Word) : Prop := pdPoints ws = 0 ∨ pdField ws 4 17 0 + 4 * pdPoints ws ≤ 0x3C000

/-- The split points rise, every owner is a crewed core of the sub-domain, and no core has too many sub-slabs (R136, R142). -/
abbrev Sound (s : State) (k : Ctx) (c : Fin 8) (ws : List Word) (ds : List Dim) : Prop :=
  ds.all Dim.rising = true ∧ s.ownersCrewed k.core c.val ws ds = true ∧ pdTooMany ws ds = false

/-- What the own block of a core breaks: the depths of R138 before the placement of R137. -/
def blockFault (s : State) (core : Nat) (ws : List Word) (own : List Dim) : Option (BitVec 8 × Word) :=
  if (badDepth own).isSome then some (0x81, BitVec.ofNat 64 ((badDepth own).getD 0))
  else if s.badPlacement core ⟨ws, own⟩ then some (0x87, 0)
  else none

/-- The trap of a `PDECL`, by the order of its checks (R133, R381). -/
def declFault (s : State) (k : Ctx) (q : Machine.Task) (a c : Fin 8) (ws : List Word) : Option (BitVec 8 × Word) :=
  let ds := pdDims ws (splitPoints s k ws)
  if ¬Reaches s k q c then some (0x02, 0)
  else if (s.core k.core).parts[a].isSome then some (0x82, 0)
  else if pdBadFields ws then some (0x80, 0)
  else if ¬TableFits ws then some (0x80, 0)
  else if ¬Sound s k c ws ds then some (0x80, 0)
  else (ownDims ws ds (s.relOf k.core)).bind (blockFault s k.core ws)

/-- The partition that a `PDECL` declares. -/
def declPart (s : State) (k : Ctx) (c : Fin 8) (ws : List Word) : Part :=
  { level := c.val, desc := ws, splits := splitPoints s k ws, hash := pdHash ws (splitPoints s k ws),
    plan := ((lapPlan ws (pdDims ws (splitPoints s k ws))).filter fun m => m.1 == s.relOf k.core).map (·.2) }

theorem declPart_hash (s : State) (k : Ctx) (c : Fin 8) (ws : List Word) :
    (declPart s k c ws).hash = pdHash ws (splitPoints s k ws) := rfl

/-- The core with a partition declared, its two counters 0. -/
def declare (r : Core) (a : Fin 8) (p : Part) : Core :=
  { r with
    parts := r.parts.set a (some p)
    staleCounts := r.staleCounts.set a 0
    waitCounts := r.waitCounts.set a 0 }

/-- The state in which a `PDECL` has declared its partition. -/
def declared (s : State) (k : Ctx) (a c : Fin 8) (ws : List Word) : State :=
  s.unpopped.setCore k.core (declare (s.core k.core) a (declPart s k c ws))

variable {s : State} {k : Ctx} {x : Pre} {a c : Fin 8} {b : SReg} {q : Machine.Task}

/-- An empty table is not read (R136). -/
theorem splitPoints_eq (s : State) (k : Ctx) (ws : List Word) : (List.range (pdPoints ws)).map (fun i =>
    BitVec.ofNat 32 (leNat (((if (pdPoints ws == 0) = true then [] else
      s.seenBytes k.core k.ts (.sram (padKey k.core + pdField ws 4 17 0)) (4 * pdPoints ws)).drop (4 * i)).take 4))) =
    splitPoints s k ws := by
  unfold splitPoints
  by_cases h : pdPoints ws = 0
  · simp [h]
  · rw [if_neg (by simpa using h)]

/-- A body that begins with a check settles as the check's trap, or as its rest does. -/
theorem settle_trapIf {P : Prop} [Decidable P] {chk : Bool} {cause : BitVec 8} {info : Word} {g : Unit → M Flow}
    {z : Option (BitVec 8 × Word)} {t : State} (hp : chk = true ↔ P)
    (hg : ¬P → s.unpopped.settle k (g () s.unpopped) = z.elim t fun f => s.traps k f.1 f.2) :
    s.unpopped.settle k ((trapIf chk cause info >>= g) s.unpopped) =
      (if P then some (cause, info) else z).elim t fun f => s.traps k f.1 f.2 := by
  rw [Laws.trapIf_bind]
  by_cases h : P
  · rw [if_pos (hp.2 h), if_pos h]
    rfl
  · rw [if_neg (mt hp.1 h), if_neg h]
    exact hg h

theorem unsound_iff : ∀ rising crewed many : Bool,
    (!rising || !crewed || many) = true ↔ ¬(rising = true ∧ crewed = true ∧ many = false) := by
  decide

section Outcome
variable (hi : s.Issues k x) (hb : s.plain k b) (hq : s.taskOf k.core = some q)
  (hroom : (s.sreg k b).toNat + 128 ≤ 0x3C000) (hal : (s.sreg k b).toNat % 16 = 0) (hacq : s.acquiring k.core k.ts = false)
include hi hb hq hroom hal hacq

/-- What a `PDECL` comes to. -/
theorem pdecl_eq : exec (.pdecl x a b c) s = .next ((declFault s k q a c (partWords s k b)).elim
    ((declared s k a c (partWords s k b)).retire k .next) fun f => s.traps k f.1 f.2) := by
  have task : s.unpopped.taskOf k.core = some q := hq
  change execPdecl x a b c s = _
  unfold execPdecl
  rw [Laws.issue_issues hi, Laws.readS_bind (s := s.unpopped) hb, Laws.State.sreg_unpopped,
    localBlock_bind (s := s.unpopped) hroom hal hacq, Laws.getState_bind]
  have words : wordsOf64 16 (s.unpopped.seenBytes k.core k.ts (.sram (padKey k.core + (s.sreg k b).toNat)) 128) =
    partWords s k b := rfl
  have points (ws : List Word) : _ = splitPoints s k ws := splitPoints_eq s.unpopped k ws
  have rel : s.unpopped.relOf k.core = s.relOf k.core := rfl
  simp only [task, Laws.State.unpopped_core, words, points, rel]
  congr 1
  refine settle_trapIf (by simp [imp_iff_not_or]) fun _ => settle_trapIf Iff.rfl fun _ => settle_trapIf Iff.rfl fun _ =>
    settle_trapIf (by simp [not_or]) fun _ => settle_trapIf (unsound_iff _ _ _) fun _ => ?_
  cases ownDims (partWords s k b) (pdDims (partWords s k b) (splitPoints s k (partWords s k b))) (s.relOf k.core) with
  | none => rfl
  | some own => exact settle_trapIf Iff.rfl fun _ => settle_trapIf Iff.rfl fun _ => rfl

theorem pdecl_traps {cause : BitVec 8} {info : Word} (h : declFault s k q a c (partWords s k b) = some (cause, info)) :
    exec (.pdecl x a b c) s = .next (s.traps k cause info) := by
  rw [pdecl_eq hi hb hq hroom hal hacq, h]
  rfl

theorem pdecl_declares (h : declFault s k q a c (partWords s k b) = none) :
    exec (.pdecl x a b c) s = .next ((declared s k a c (partWords s k b)).retire k .next) := by
  rw [pdecl_eq hi hb hq hroom hal hacq, h]
  rfl

end Outcome

section Faults
variable {ws : List Word} {own : List Dim} {e : Nat}

theorem declFault_unreached (h : ¬Reaches s k q c) : declFault s k q a c ws = some (0x02, 0) := if_pos h

theorem blockFault_depth (h : badDepth own = some e) : blockFault s k.core ws own = some (0x81, BitVec.ofNat 64 e) := by
  simp [blockFault, h]

theorem blockFault_placement (hd : badDepth own = none) (h : s.badPlacement k.core ⟨ws, own⟩ = true) :
    blockFault s k.core ws own = some (0x87, 0) := by
  simp [blockFault, hd, h]

theorem blockFault_none (hd : badDepth own = none) (h : s.badPlacement k.core ⟨ws, own⟩ = false) :
    blockFault s k.core ws own = none := by
  simp [blockFault, hd, h]

variable (hr : Reaches s k q c)
include hr

theorem declFault_used {p : Part} (h : (s.core k.core).parts[a] = some p) : declFault s k q a c ws = some (0x82, 0) := by
  rw [declFault, if_neg (not_not.2 hr), if_pos (by rw [h]; rfl)]

variable (hp : (s.core k.core).parts[a] = none)
include hp

theorem declFault_fields (h : pdBadFields ws = true) : declFault s k q a c ws = some (0x80, 0) := by
  rw [declFault, if_neg (not_not.2 hr), if_neg (by simp [hp]), if_pos h]

variable (hw : pdBadFields ws = false)
include hw

theorem declFault_unsound (h : ¬TableFits ws ∨ ¬Sound s k c ws (pdDims ws (splitPoints s k ws))) :
    declFault s k q a c ws = some (0x80, 0) := by
  rw [declFault, if_neg (not_not.2 hr), if_neg (by simp [hp]), if_neg (by simp [hw])]
  by_cases hf : TableFits ws
  · rw [if_neg (not_not.2 hf), if_pos (h.resolve_left (not_not.2 hf))]
  · rw [if_pos hf]

/-- A descriptor of sound fields and points breaks at most what its core's own block breaks. -/
theorem declFault_block (hf : TableFits ws) (hs : Sound s k c ws (pdDims ws (splitPoints s k ws))) :
    declFault s k q a c ws =
      (ownDims ws (pdDims ws (splitPoints s k ws)) (s.relOf k.core)).bind (blockFault s k.core ws) := by
  rw [declFault, if_neg (not_not.2 hr), if_neg (by simp [hp]), if_neg (by simp [hw]), if_neg (not_not.2 hf),
    if_neg (not_not.2 hs)]

variable (hf : TableFits ws) (hs : Sound s k c ws (pdDims ws (splitPoints s k ws)))
include hf hs

theorem declFault_own (ho : ownDims ws (pdDims ws (splitPoints s k ws)) (s.relOf k.core) = some own) :
    declFault s k q a c ws = blockFault s k.core ws own := by
  rw [declFault_block hr hp hw hf hs, ho]
  rfl

theorem declFault_none (h : ∀ own, ownDims ws (pdDims ws (splitPoints s k ws)) (s.relOf k.core) = some own →
    badDepth own = none ∧ s.badPlacement k.core ⟨ws, own⟩ = false) : declFault s k q a c ws = none := by
  rw [declFault_block hr hp hw hf hs, Option.bind_eq_none_iff]
  intro own ho
  obtain ⟨hd, hb⟩ := h own ho
  exact blockFault_none hd hb

end Faults

/-- What a declaration leaves: the partition, not confirmed, its counters 0, and nothing else of the core's partitions. -/
theorem declared_spec (s : State) (k : Ctx) (a c : Fin 8) (ws : List Word) :
    let t := (declared s k a c ws).retire k .next
    (t.core k.core).parts[a] = some (declPart s k c ws) ∧
      (t.core k.core).staleCounts[a] = 0 ∧ (t.core k.core).waitCounts[a] = 0 ∧
      (∀ n : Fin 8, n ≠ a → (t.core k.core).parts[n] = (s.core k.core).parts[n]) ∧
      (t.own k).s = (s.own k).s ∧ t.mem = s.mem := by
  have core : (declared s k a c ws).core k.core = declare (s.core k.core) a (declPart s k c ws) := Laws.State.core_setCore ..
  dsimp only
  rw [parts_retire, staleCounts_retire, waitCounts_retire, core]
  refine ⟨Vector.getElem_set_self .., Vector.getElem_set_self .., Vector.getElem_set_self .., fun n hn => ?_, ?_, rfl⟩
  · exact Vector.getElem_set_ne a.isLt n.isLt (Fin.val_ne_of_ne hn.symm)
  · rw [own_retire_s, State.own, declared, Laws.State.thread_setCore]
    rfl

end Declarations

/-! ## Marks (R134, R144, R382, R383) -/

section Marks
variable {s : State} {k : Ctx} {x : Pre} {n : Fin 8} {f : Part → Part} {p : Part}

theorem markPart_absent (hi : s.Issues k x) (h : (s.core k.core).parts[n] = none) :
    markPart x n f s = .next (s.traps k 0x82 0) :=
  Laws.issue_traps hi (presentPart_bind_absent (s := s.unpopped) h)

theorem markPart_marks (hi : s.Issues k x) (h : (s.core k.core).parts[n] = some p) :
    ∃ t z, markPart x n f s = .next t ∧ (t.core k.core).parts[n] = some z ∧ z = f p ∧ t.mem = s.mem := by
  have present : (s.unpopped.core k.core).parts[n] = some p := h
  refine ⟨(s.unpopped.modPart k.core n f).retire k .next, f p, issue_done hi ?_, ?_, rfl, ?_⟩
  · rw [presentPart_bind present, Laws.modState_bind]
    rfl
  · rw [parts_retire, parts_modPart present]
  · rw [modPart_present present]
    rfl

theorem pfree_marks (hi : s.Issues k x) (h : (s.core k.core).parts[n] = some p) : ∃ t z, exec (.pfree x n) s = .next t ∧
    (t.core k.core).parts[n] = some z ∧ z = { p with freeMark := true } ∧ t.mem = s.mem :=
  markPart_marks hi h

theorem lapx_marks (hi : s.Issues k x) (h : (s.core k.core).parts[n] = some p) : ∃ t z, exec (.lapx x n) s = .next t ∧
    (t.core k.core).parts[n] = some z ∧ z = { p with refreshMark := true } ∧ t.mem = s.mem :=
  markPart_marks hi h

end Marks

/-! ## `LAPW` (R148, R384) -/

section LapWaits
variable {s : State} {k : Ctx} {x : Pre} {n : Fin 8} {b : SReg} {p : Part} {r : RidgeSt} {mask : BitVec 26} {j : Nat}

/-- An arrival of the core with the partition marked for refresh is not yet released. -/
abbrev Coming (r : RidgeSt) (p : Part) : Prop := r.released < r.arrivals ∧ p.sentRefresh = true

theorem lapTarget_eq_some (h : Coming r p ∨ p.flight &&& mask ≠ 0) :
    p.lapTarget r mask = some (if Coming r p then r.arrivals else r.released) := by
  by_cases hc : Coming r p
  · rw [Part.lapTarget, if_pos (by simpa using hc), if_pos hc]
  · rw [Part.lapTarget, if_neg (by simpa using hc), if_pos (by simpa using h.resolve_left hc), if_neg hc]

theorem lapTarget_eq_none (hc : ¬Coming r p) (hf : ¬p.flight &&& mask ≠ 0) : p.lapTarget r mask = none := by
  rw [Part.lapTarget, if_neg (by simpa using hc), if_neg (by simpa using hf)]

theorem lapDone_iff {c : Core} (h : c.parts[n] = some p) : c.lapDone n j mask = true ↔
    j < (c.ridgeAt p.level).released ∨ (j = (c.ridgeAt p.level).released ∧ p.flight &&& mask = 0) := by
  simp [Core.lapDone, h, Core.ridgeAt]

/-- The thread waits for the refresh of release `j`. -/
def lapWaits (s : State) (k : Ctx) (j : Nat) : State :=
  (s.unpopped.modThread k.core k.ts fun t => { t with lapFor := some j }).waits k

theorem lapWaits_spec (s : State) (k : Ctx) (j : Nat) : ((lapWaits s k j).own k).run = .waiting ∧
    ((lapWaits s k j).own k).lapFor = some j ∧ ((lapWaits s k j).own k).pc = (s.own k).pc ∧
    ((lapWaits s k j).own k).s = (s.own k).s ∧ (lapWaits s k j).mem = s.mem := by
  rw [lapWaits, State.waits, Laws.State.modThread_modThread, State.own, Laws.State.thread_modThread]
  exact ⟨rfl, rfl, rfl, rfl, rfl⟩

/-- An instruction that changes nothing retires. -/
theorem retire_unpopped (s : State) (k : Ctx) (f : Flow) : s.unpopped.retire k f = s.retires k f id := by
  rw [State.retires, State.retire, State.retire, Laws.State.modThread_modThread]
  rfl

variable (hi : s.Issues k x) (hb : s.plain k b)
include hi hb

theorem lapw_again (hl : (s.own k).lapFor = some j) : exec (.lapw x n b) s =
    .next (if (s.core k.core).lapDone n j ((s.sreg k b).setWidth 26) then s.retires k .next id else s.held k) := by
  have lapFor : (s.unpopped.own k).lapFor = some j := hl
  change execLapw x n b s = _
  unfold execLapw
  rw [Laws.issue_issues hi, Laws.readS_bind (s := s.unpopped) hb, Laws.getCore_bind, Laws.getThr_bind]
  simp only [lapFor]
  rw [Laws.holdUnless_bind, Laws.State.sreg_unpopped, Laws.State.unpopped_core]
  split
  · exact congrArg Host.Outcome.next (retire_unpopped s k .next)
  · rfl

section Again
variable (hp : (s.core k.core).parts[n] = some p) (hl : (s.own k).lapFor = some j)
include hp hl

theorem lapw_held (h : (ridgeOf s k p.level).released < j ∨
    ((ridgeOf s k p.level).released = j ∧ p.flight &&& (s.sreg k b).setWidth 26 ≠ 0)) :
    exec (.lapw x n b) s = .next (s.held k) := by
  rw [lapw_again hi hb hl, if_neg]
  rw [lapDone_iff hp, ← ridgeOf]
  rintro (past | ⟨here, landed⟩)
  · omega
  · exact (h.resolve_left (by omega)).2 landed

theorem lapw_over (h : j < (ridgeOf s k p.level).released ∨
    ((ridgeOf s k p.level).released = j ∧ ¬p.flight &&& (s.sreg k b).setWidth 26 ≠ 0)) :
    exec (.lapw x n b) s = .next (s.retires k .next id) := by
  rw [lapw_again hi hb hl, if_pos]
  rw [lapDone_iff hp, ← ridgeOf]
  exact h.imp_right fun ⟨here, landed⟩ => ⟨here.symm, not_not.1 landed⟩

end Again

section First
variable (hl : (s.own k).lapFor = none)
include hl

theorem lapw_absent (h : (s.core k.core).parts[n] = none) : exec (.lapw x n b) s = .next (s.traps k 0x82 0) := by
  have lapFor : (s.unpopped.own k).lapFor = none := hl
  refine Laws.issue_traps hi ?_
  rw [Laws.readS_bind (s := s.unpopped) hb, Laws.getCore_bind, Laws.getThr_bind]
  simp only [lapFor]
  exact presentPart_bind_absent (s := s.unpopped) h

theorem lapw_first (h : (s.core k.core).parts[n] = some p) : exec (.lapw x n b) s =
    .next ((p.lapTarget (ridgeOf s k p.level) ((s.sreg k b).setWidth 26)).elim
      (s.retires k .next id) (lapWaits s k)) := by
  have lapFor : (s.unpopped.own k).lapFor = none := hl
  change execLapw x n b s = _
  unfold execLapw
  rw [Laws.issue_issues hi, Laws.readS_bind (s := s.unpopped) hb, Laws.getCore_bind, Laws.getThr_bind]
  simp only [lapFor]
  rw [presentPart_bind (s := s.unpopped) h, Laws.State.sreg_unpopped, Laws.State.unpopped_core, ← Core.ridgeAt,
    ← ridgeOf]
  cases p.lapTarget (ridgeOf s k p.level) ((s.sreg k b).setWidth 26) with
  | none => exact congrArg Host.Outcome.next (retire_unpopped s k .next)
  | some j => rfl

variable (hp : (s.core k.core).parts[n] = some p)
include hp

theorem lapw_satisfied (hc : ¬Coming (ridgeOf s k p.level) p) (hf : ¬p.flight &&& (s.sreg k b).setWidth 26 ≠ 0) :
    exec (.lapw x n b) s = .next (s.retires k .next id) := by
  rw [lapw_first hi hb hl hp, lapTarget_eq_none hc hf]
  rfl

theorem lapw_waits (h : Coming (ridgeOf s k p.level) p ∨ p.flight &&& (s.sreg k b).setWidth 26 ≠ 0) :
    ∃ t, exec (.lapw x n b) s = .next t ∧ (t.own k).run = .waiting ∧
      (t.own k).lapFor = some (if Coming (ridgeOf s k p.level) p then (ridgeOf s k p.level).arrivals
        else (ridgeOf s k p.level).released) ∧
      (t.own k).pc = (s.own k).pc ∧ (t.own k).s = (s.own k).s ∧ t.mem = s.mem := by
  refine ⟨_, ?_, lapWaits_spec s k _⟩
  rw [lapw_first hi hb hl hp, lapTarget_eq_some h]
  rfl

end First

end LapWaits

/-! ## `PINFO` (R148, R385) -/

section Items
variable {s : State} {k : Ctx} {x : Pre} {n : Fin 8} {a b : SReg} {p : Part} {m : Word}

/-- The value of an item of a partition number: item 8 also of an absent one. -/
def itemOf (s : State) (k : Ctx) (n : Fin 8) (m : Word) : Option Word :=
  if m = 8 then some (partState (s.core k.core).parts[n])
  else (s.core k.core).parts[n].map fun p =>
    p.info (s.relOf k.core) m.toNat (s.core k.core).staleCounts[n] (s.core k.core).waitCounts[n]

theorem itemOf_eight : itemOf s k n 8 = some (partState (s.core k.core).parts[n]) := if_pos rfl

theorem ne_eight (h : m.toNat < 8) : m ≠ 8 := by
  rintro rfl
  exact absurd h (by decide)

theorem itemOf_absent (h : (s.core k.core).parts[n] = none) (hm : m.toNat < 8) : itemOf s k n m = none := by
  rw [itemOf, if_neg (ne_eight hm), h]
  rfl

theorem itemOf_present (h : (s.core k.core).parts[n] = some p) (hm : m.toNat < 8) : itemOf s k n m =
    some (p.info (s.relOf k.core) m.toNat (s.core k.core).staleCounts[n] (s.core k.core).waitCounts[n]) := by
  rw [itemOf, if_neg (ne_eight hm), h]
  rfl

/-- A body that writes a register and goes on settles as the instruction that does so retires. -/
theorem settle_writes {v : Word} (hi : s.Issues k x) (ha : s.plain k a) :
    s.unpopped.settle k ((do writeS k a v; goOn : M Flow) s.unpopped) = s.retires k .next (·.setS a v) := by
  have writes := Laws.issue_writes (body := fun k => do writeS k a v; goOn) hi ha rfl
  rw [Laws.issue_issues hi] at writes
  exact Host.Outcome.next.inj writes

variable (hi : s.Issues k x) (hb : s.plain k b)
include hi hb

theorem pinfo_held (h : s.idleV k = false) : exec (.pinfo x a n b) s = .next (s.held k) := by
  refine Laws.issue_held hi ?_
  rw [Laws.readS_bind (s := s.unpopped) hb, Laws.getState_bind, Laws.holdUnless_bind]
  exact if_neg (Bool.eq_false_iff.1 h)

theorem pinfo_idle (ha : s.plain k a) (h : s.idleV k = true) : exec (.pinfo x a n b) s =
    .next (if 8 < (s.sreg k b).toNat then s.traps k 0x02 0 else
      (itemOf s k n (s.sreg k b)).elim (s.traps k 0x82 0) fun v => s.retires k .next (·.setS a v)) := by
  have idle : s.unpopped.idleV k = true := h
  have parts : (s.unpopped.core k.core).parts[n] = (s.core k.core).parts[n] := rfl
  change execPinfo x a n b s = _
  unfold execPinfo
  rw [Laws.issue_issues hi, Laws.readS_bind (s := s.unpopped) hb, Laws.getState_bind, Laws.holdUnless_bind, if_pos idle,
    Laws.trapIf_bind, Laws.State.sreg_unpopped]
  simp only [decide_eq_true_eq]
  split
  · rfl
  · split
    · rename_i h8
      rw [itemOf, if_pos h8, parts]
      exact congrArg _ (settle_writes hi ha)
    · rename_i h8
      rw [itemOf, if_neg h8]
      cases hp : (s.core k.core).parts[n] with
      | none => rw [presentPart_bind_absent (parts.trans hp)]; rfl
      | some p =>
        rw [presentPart_bind (parts.trans hp)]
        exact congrArg _ (settle_writes hi ha)

variable (ha : s.plain k a) (h : s.idleV k = true)
include ha h

theorem pinfo_refuses (hm : 8 < (s.sreg k b).toNat) : exec (.pinfo x a n b) s = .next (s.traps k 0x02 0) := by
  rw [pinfo_idle hi hb ha h, if_pos hm]

theorem pinfo_absent (hp : (s.core k.core).parts[n] = none) (hm : (s.sreg k b).toNat < 8) :
    exec (.pinfo x a n b) s = .next (s.traps k 0x82 0) := by
  rw [pinfo_idle hi hb ha h, if_neg (by omega), itemOf_absent hp hm]
  rfl

theorem pinfo_present (hp : (s.core k.core).parts[n] = some p) (hm : (s.sreg k b).toNat < 8) :
    exec (.pinfo x a n b) s = .next (s.retires k .next (·.setS a
      (p.info (s.relOf k.core) (s.sreg k b).toNat (s.core k.core).staleCounts[n] (s.core k.core).waitCounts[n]))) := by
  rw [pinfo_idle hi hb ha h, if_neg (by omega), itemOf_present hp hm]
  rfl

theorem pinfo_eight {v : Option Part} (hp : (s.core k.core).parts[n] = v) (hm : s.sreg k b = 8) :
    exec (.pinfo x a n b) s = .next (s.retires k .next (·.setS a (partState v))) := by
  rw [pinfo_idle hi hb ha h, hm, if_neg (by decide), itemOf_eight, hp]
  rfl

theorem pinfo_eight_absent (hp : (s.core k.core).parts[n] = none) (hm : s.sreg k b = 8) :
    exec (.pinfo x a n b) s = .next (s.retires k .next (·.setS a 0)) := by
  rw [pinfo_eight hi hb ha h hp hm]
  rfl

theorem pinfo_masks (hp : (s.core k.core).parts[n] = some p) (hm : s.sreg k b = 4) (hc : p.confirmed = true) :
    exec (.pinfo x a n b) s = .next (s.retires k .next (·.setS a
      (BitVec.ofNat 64 (p.flight.toNat * 2 ^ 32 + p.stale.toNat)))) := by
  have item (rel : Nat) (stales waits : BitVec 48) : p.info rel 4 stales waits =
    BitVec.ofNat 64 (p.flight.toNat * 2 ^ 32 + p.stale.toNat) := if_pos hc
  have four : (s.sreg k b).toNat = 4 := by rw [hm]; rfl
  rw [pinfo_present hi hb ha h hp (by omega), four, item]

end Items

/-! ## Slabs land (R143, R145) -/

section Slabs
variable {s : State} {core : Nat} {n : Fin 8} {p : Part} {q : Machine.Task} {g : Geom}

/-- Copying lap cells changes scratchpad bytes alone. -/
theorem copyLaps_keeps (s : State) (core : Nat) (n : Fin 8) (g : Geom) (base : Nat) (cells : List Nat) :
    (s.copyLaps core n g base cells).cores = s.cores ∧ (s.copyLaps core n g base cells).mem.phys = s.mem.phys := by
  refine Prod.mk.inj (foldl_view (fun s : State => (s.cores, s.mem.phys)) _ (fun s c => ?_) cells s)
  cases g.source c with
  | none => rfl
  | some o => rfl

theorem copyLaps_core (base : Nat) (cells : List Nat) : (s.copyLaps core n g base cells).core core = s.core core :=
  congrArg (fun z => tblGet z core Core.reset) (copyLaps_keeps s core n g base cells).1

theorem getLsbD_clearSlab (m : BitVec 26) (i j : Fin 26) :
    (m &&& ~~~((1 : BitVec 26) <<< i.val)).getLsbD j.val = (m.getLsbD j.val && j != i) := by
  have slab : ((1 : BitVec 26) <<< i.val).getLsbD j.val = (j == i) := by
    change (BitVec.twoPow 26 i.val).getLsbD j.val = _
    rw [BitVec.getLsbD_twoPow, decide_eq_true i.isLt, Bool.true_and, Bool.eq_iff_iff, beq_iff_eq,
      decide_eq_true_iff, Fin.ext_iff, eq_comm]
  rw [BitVec.getLsbD_and, BitVec.getLsbD_not, slab, decide_eq_true j.isLt, Bool.true_and, bne]

/-- The partition with a slab no longer in flight. -/
def landed (slab : Fin 26) (p : Part) : Part := { p with flight := p.flight &&& ~~~((1 : BitVec 26) <<< slab.val) }

variable {c : Fin 4096} {slab : Fin 26} (hp : (s.core c).parts[n] = some p)
include hp

theorem slabLand_early (h : p.flight.getLsbD slab.val = false ∨ p.clock < p.landsAt slab.val) :
    exec (.slabLand c n slab) s = .next s := by
  change execSlabLand c n slab s = _
  simp only [execSlabLand, hp]
  exact if_pos (by simpa using h)

theorem slabLand_lands (hq : s.taskOf c = some q) (hg : p.geom (s.relOf c) = some g)
    (hf : p.flight.getLsbD slab.val = true) (hl : p.landsAt slab.val ≤ p.clock) : exec (.slabLand c n slab) s =
      .next ((s.copyLaps c n g q.base (g.slabCells slab.val)).modPart c n (landed slab)) := by
  change execSlabLand c n slab s = _
  simp only [execSlabLand, hp, hq, hg]
  exact if_neg (by simp [hf, hl])

theorem slabLand_spec (hq : s.taskOf c = some q) (hg : p.geom (s.relOf c) = some g)
    (hf : p.flight.getLsbD slab.val = true) (hl : p.landsAt slab.val ≤ p.clock) : ∃ t z,
      exec (.slabLand c n slab) s = .next t ∧ (t.core c).parts[n] = some z ∧
      (∀ j : Fin 26, z.flight.getLsbD j.val = (p.flight.getLsbD j.val && j != slab)) ∧ z.stale = p.stale ∧
      t.mem.phys = s.mem.phys := by
  have present : ((s.copyLaps c n g q.base (g.slabCells slab.val)).core c).parts[n] = some p := by rw [copyLaps_core, hp]
  refine ⟨_, landed slab p, slabLand_lands hp hq hg hf hl, parts_modPart present _, getLsbD_clearSlab _ _, rfl, ?_⟩
  rw [modPart_present present]
  exact (copyLaps_keeps ..).2

end Slabs

/-- Settles O42: a declaration by its first failing check, the other instructions by the partition of their number, and a slab
by whether its plan has run to its last flit. -/
theorem partitionResults : Obligations.PartitionResults := by
  refine ⟨fun s k x a b c q hi hb hq _ hroom hal hacq => ?_, fun s k x a n b hi ha hb => ?_,
    fun s core n slab p q g hp hq hg =>
      ⟨fun h => slabLand_early hp (.inl h), fun h => slabLand_early hp (.inr h), slabLand_spec hp hq hg⟩⟩
  · have traps {cause : BitVec 8} {info : Word} := pdecl_traps (c := c) (a := a) (cause := cause) (info := info)
      hi hb hq hroom hal hacq
    refine ⟨fun h => traps (declFault_unreached h), fun hr p hp => traps (declFault_used hr hp),
      fun hr hp hw => traps (declFault_fields hr hp hw), fun hr hp hw => ⟨fun h => traps (declFault_unsound hr hp hw h),
        fun own e hf hs ho hd => traps ((declFault_own hr hp hw hf hs ho).trans (blockFault_depth hd)),
        fun own hf hs ho hd h => traps ((declFault_own hr hp hw hf hs ho).trans (blockFault_placement hd h)),
        fun hf hs hgood => ?_⟩⟩
    obtain ⟨part, stale, waits, others, regs, mem⟩ := declared_spec s k a c (partWords s k b)
    exact ⟨_, _, pdecl_declares hi hb hq hroom hal hacq (declFault_none hr hp hw hf hs hgood), part, rfl, rfl, rfl, rfl,
      declPart_hash .., stale, waits, others, regs, mem⟩
  · exact ⟨fun hp => ⟨markPart_absent hi hp, markPart_absent hi hp, fun hl => lapw_absent hi hb hl hp,
        fun hm hv => pinfo_absent hi hb ha hv hp hm, fun hm hv => pinfo_eight_absent hi hb ha hv hp hm⟩,
      fun hm hv => pinfo_refuses hi hb ha hv hm, pinfo_held hi hb, fun p hp => ⟨pfree_marks hi hp, lapx_marks hi hp,
        ⟨fun hl => lapw_satisfied hi hb hl hp, fun hl => lapw_waits hi hb hl hp,
          fun j hl => ⟨lapw_held hi hb hp hl, lapw_over hi hb hp hl⟩⟩,
        fun hm hv => pinfo_present hi hb ha hv hp hm, fun hm hv => pinfo_eight hi hb ha hv hp hm,
        fun hm hv => pinfo_masks hi hb ha hv hp hm⟩⟩

end Sys2Proof.Proofs

/-!
Proofs: a step of the device in which a thread set issues (R55, R72, R167, R243).
-/
namespace Sys2Proof.Proofs
open Sys2Proof Sys2Proof.Machine

section Steps
variable {s t : State} {core : Nat} {ts us : Fin 4} {i : Instr} {next : BitVec 16} {ws : List Half} {r : List (Nat × Fin 4)}

theorem threadsFirst_turn (hq : s.runq = (core, us) :: r) : s.threadsFirst = s.threadStep core us r := by
  rw [State.threadsFirst, hq]

/-- With no entry in the agenda and no flit due, an even step is a thread set's turn. -/
theorem act_threads (hagenda : s.agenda = []) (hturn : s.turn % 2 = 0) (hflit : s.dueFlit = none) :
    s.act = State.threadsFirst { s with fetch := none, touched := [] } := by
  have first : (s.turn % 2 == 0 && s.dueFlit.isNone) = true := by rw [hturn, hflit]; rfl
  unfold State.act
  split
  next e l he => exact absurd (he.symm.trans hagenda) (List.cons_ne_nil e l)
  next => exact if_pos first

theorem step_of_act {u : State} (h : s.act = .next u) : step s = .next u.tick := by
  rw [step, h]

/-- A thread set outside a gang that no event, hold or handler keeps from issuing, at a well-formed instruction. -/
structure MayIssue (s : State) (core : Nat) (ts : Fin 4) (i : Instr) (next : BitVec 16) (ws : List Half) : Prop where
  live : (s.thread core ts).live = true
  alone : (s.thread core ts).alone = true
  outside : (s.thread core ts).inh = false
  onward : (s.thread core ts).pc ≠ exitAddress
  wanted : ((s.thread core ts).stopReq && !(s.thread core ts).phand) = false
  eventless : s.dueTrap core ts = none
  unheld : s.dueHolds core ts = false
  steady : s.droopHolds core = false
  powered : s.energyHeld core = false
  fetched : s.fetchAt core false (s.thread core ts).pc = .instr i next ws

/-- The state in which the instruction of a thread set is executed: the holds of its core are over and the latch is set. -/
def issuing (s : State) (core : Nat) (ts : Fin 4) (next : BitVec 16) (ws : List Half) : State :=
  { s.clearHeld core with fetch := some ⟨core, ts, (s.thread core ts).pc, next, ws, none⟩ }

theorem issueCores_alone (h : (s.thread core ts).alone = true) : s.issueCores core ts = [core] := if_pos h

theorem fetchTurn_runs (h : MayIssue s core ts i next ws) : s.fetchTurn core ts = .run i (issuing s core ts next ws) := by
  have stays : (!(s.thread core ts).inh && (s.thread core ts).pc == exitAddress) = false := by simp [h.onward]
  rw [State.fetchTurn]
  rw [if_neg (ne_true_of_eq_false stays), h.outside, h.fetched, issueCores_alone h.alone]
  rfl

theorem turnOf_runs (h : MayIssue s core ts i next ws) : s.turnOf core ts = .run i (issuing s core ts next ws) := by
  have ready : s.gangReady core ts = true := by simp [State.gangReady, h.alone]
  have wanted := h.wanted
  rw [State.turnOf]
  simp only [h.live, h.outside, h.eventless, h.alone, h.unheld, h.steady, ready, h.powered, Bool.not_true, Bool.false_and,
    Bool.false_eq_true, if_false, Bool.not_false, Bool.and_true, Bool.or_self, wanted, Bool.true_and]
  exact fetchTurn_runs h

/-- An instruction whose accesses no arbiter puts behind another is executed, charged and recorded. -/
theorem runStep_executes {u : State} (he : exec i u = .next t)
    (ha : t.touched = [] ∨ u.outranked u.wants (u.newAsk (core, ts.val) core t.touched) = false) :
    u.runStep core ts i = .next (u.afterIssue (t.dropAsk (core, ts.val)) i) := by
  have passes : (t.touched.isEmpty || !u.outranked u.wants (u.newAsk (core, ts.val) core t.touched)) = true := by
    rcases ha with ha | ha <;> simp [ha]
  rw [State.runStep, he]
  simp only [State.arbitrate, passes, if_true]

theorem tryTurn_acts {u : State} (h : s.turnOf core ts = .run i u) (hr : u.runStep core ts i = .next t)
    (ha : u.hasActed t core ts = true) : s.tryTurn core ts = some (.next (t.noteIssue core ts)) := by
  rw [State.tryTurn, h]
  dsimp only
  rw [hr]
  exact if_pos ha

/-- The state in which the thread sets of a core are tried: the one whose turn it is has gone to the end of the order. -/
def turned (s : State) (core : Nat) (us : Fin 4) (r : List (Nat × Fin 4)) : State :=
  { s with runq := if (s.thread core us).live then r ++ [(core, us)] else r }

theorem threadStep_first {res : Res}
    (h : ((turned s core us r).byAge core).findSome? (fun u => (turned s core us r).tryTurn core u) = some res) :
    s.threadStep core us r = res := by
  rw [turned] at h
  rw [State.threadStep, h]

end Steps

/-- Settles O4: the turn is the thread set's, it fetches the instruction, and no arbiter holds back what the instruction does. -/
theorem stepRunsDecoded : Obligations.StepRunsDecoded := by
  intro s core ts us r pre l i next ws t t0 s0 s1 z hagenda hturn hflit hq hage hpre live alone outside onward wanted eventless
    unheld steady powered fetched he ha acted
  have may : MayIssue s0 core ts i next ws :=
    ⟨live, alone, outside, onward, wanted, eventless, unheld, steady, powered, fetched⟩
  have turn : s0.tryTurn core ts = some (.next (z.noteIssue core ts)) :=
    tryTurn_acts (turnOf_runs may) (runStep_executes he ha) acted
  refine step_of_act ?_
  rw [act_threads hagenda hturn hflit, threadsFirst_turn (s := { s with fetch := none, touched := [] }) hq]
  refine threadStep_first ?_
  change (s.byAge core).findSome? (fun u => s0.tryTurn core u) = _
  rw [hage, List.findSome?_append, List.findSome?_eq_none_iff.2 hpre, List.findSome?_cons, turn]
  rfl

end Sys2Proof.Proofs

/-!
Proofs: the counts, waits and advances of queues (R174, R305, R306).
-/
namespace Sys2Proof.Proofs
open Sys2Proof Sys2Proof.Machine

/-! ## What an instruction that retires leaves alone -/

section Retiring
variable {s : State} {k : Ctx}

/-- Retirement sets where the thread goes on, its loop, its waits and its count of instructions, and nothing else. -/
theorem follow_eq (t : Thread) (addr next : BitVec 16) (f : Flow) :
    t.follow addr next f = { t with pc := (t.follow addr next f).pc, loop := (t.follow addr next f).loop } := by
  unfold Thread.follow Thread.loopNext
  repeat' split
  all_goals rfl

theorem own_retire (f : Flow) : (s.retire k f).own k = (s.own k).retire k.addr k.next f := by
  rw [State.own, State.retire, Laws.State.thread_modThread]
  rfl

theorem own_retire_q (f : Flow) : ((s.retire k f).own k).q = (s.own k).q := by
  rw [own_retire, Thread.retire, follow_eq]

theorem own_launch (core : Nat) (ts : Fin 4) (w : FlyKind) : (s.launch core ts w).own k = s.own k := rfl

end Retiring

/-! ## Handles -/

section Queues
variable {s : State} {k : Ctx} {x : Pre} {a b : SReg} {h : QReg} {imm : Word} {q : QCopy}

theorem boundQueue_bind {α : Type} {g : QCopy → M α} (hq : s.queue k h = some q) : (boundQueue k h >>= g) s = g q s := by
  refine Laws.M.bind_ok ?_
  rw [boundQueue, Laws.getState_bind, hq]
  rfl

theorem boundQueue_unbound {α : Type} {g : QCopy → M α} (hq : s.queue k h = none) :
    (boundQueue k h >>= g) s = .error (.trap 0x03 0) := by
  refine Laws.M.bind_error ?_
  rw [boundQueue, Laws.getState_bind, hq]
  rfl

theorem queue_unpopped : s.unpopped.queue k h = s.queue k h := rfl

/-! ## `QCNT` and `QFREE` (R306) -/

/-- A count of a queue read into a register: `QCNT` and `QFREE`. -/
def queueRead (f : QCopy → BitVec 32) (x : Pre) (a : SReg) (h : QReg) (s : State) : Res :=
  issue x (fun k => do
    let q ← boundQueue k h
    writeS k a ((f q).setWidth 64)
    goOn) s

theorem exec_qcnt : exec (.qcnt x a h) s = queueRead (·.filled) x a h s := rfl
theorem exec_qfree : exec (.qfree x a h) s = queueRead (·.free) x a h s := rfl

theorem queueRead_reads (f : QCopy → BitVec 32) (hi : s.Issues k x) (ha : s.plain k a) (hq : s.queue k h = some q) :
    queueRead f x a h s = .next (s.retires k .next (·.setS a ((f q).setWidth 64))) :=
  Laws.issue_writes hi ha (boundQueue_bind (s := s.unpopped) hq)

theorem queueRead_unbound (f : QCopy → BitVec 32) (hi : s.Issues k x) (hq : s.queue k h = none) :
    queueRead f x a h s = .next (s.traps k 0x03 0) :=
  Laws.issue_traps hi (boundQueue_unbound (s := s.unpopped) hq)

/-! ## `QWAITF` and `QWAITE` (R306) -/

theorem exec_qwaitf : exec (.qwaitf x h b imm) s = queueWait x h b imm (·.filled) s := rfl
theorem exec_qwaite : exec (.qwaite x h b imm) s = queueWait x h b imm (·.free) s := rfl

theorem queueWait_unbound (f : QCopy → BitVec 32) (hi : s.Issues k x) (hb : s.plain k b) (hq : s.queue k h = none) :
    queueWait x h b imm f s = .next (s.traps k 0x03 0) := by
  refine Laws.issue_traps hi ?_
  rw [Laws.readS_bind (s := s.unpopped) hb]
  exact boundQueue_unbound (s := s.unpopped) hq

theorem queueWait_beyond (f : QCopy → BitVec 32) (hi : s.Issues k x) (hb : s.plain k b) (hq : s.queue k h = some q)
    (hn : q.nslot < (s.sreg k b + imm).toNat) : queueWait x h b imm f s = .next (s.traps k 0x03 0) := by
  refine Laws.issue_traps hi ?_
  rw [Laws.readS_bind (s := s.unpopped) hb, boundQueue_bind (s := s.unpopped) hq,
    Laws.State.sreg_unpopped, Laws.trapIf_bind,
    if_pos (decide_eq_true hn)]

theorem queueWait_waits (f : QCopy → BitVec 32) (hi : s.Issues k x) (hb : s.plain k b) (hq : s.queue k h = some q)
    (hn : (s.sreg k b + imm).toNat ≤ q.nslot) (hf : (f q).toNat < (s.sreg k b + imm).toNat) :
    queueWait x h b imm f s = .next (s.held k) := by
  refine Laws.issue_held hi ?_
  rw [Laws.readS_bind (s := s.unpopped) hb, boundQueue_bind (s := s.unpopped) hq,
    Laws.State.sreg_unpopped, Laws.trapIf_bind, if_neg (ne_true_of_eq_false (decide_eq_false (not_lt.2 hn))),
    Laws.holdUnless_bind, if_neg (ne_true_of_eq_false (decide_eq_false (not_le.2 hf)))]

theorem queueWait_ends (f : QCopy → BitVec 32) (hi : s.Issues k x) (hb : s.plain k b) (hq : s.queue k h = some q)
    (hn : (s.sreg k b + imm).toNat ≤ q.nslot) (hf : (s.sreg k b + imm).toNat ≤ (f q).toNat) :
    queueWait x h b imm f s = .next (s.retires k .next id) := by
  refine Laws.issue_retires_same hi ?_
  rw [Laws.readS_bind (s := s.unpopped) hb, boundQueue_bind (s := s.unpopped) hq,
    Laws.State.sreg_unpopped, Laws.trapIf_bind, if_neg (ne_true_of_eq_false (decide_eq_false (not_lt.2 hn))),
    Laws.holdUnless_bind, if_pos (decide_eq_true hf)]
  rfl

/-! ## `QADVT` and `QADVH` (R305) -/

/-- An advance of one end of a queue: what it takes from, how the copy moves, the role that tells the other end, and the update that
this role sends. -/
structure Advance where
  left : QCopy → BitVec 32
  moved : QCopy → BitVec 32 → QCopy
  tells : Fin 4
  filled : Bool
  count : QCopy → BitVec 32

/-- The producer's advance. -/
def tailAdvance : Advance := ⟨(·.free), QCopy.advanceTail, 1, true, (·.tail)⟩
/-- The consumer's advance. -/
def headAdvance : Advance := ⟨(·.filled), QCopy.advanceHead, 2, false, (·.head)⟩

/-- `QADVT` and `QADVH` by the end that they advance. -/
def queueAdvance (v : Advance) (x : Pre) (h : QReg) (b : SReg) (imm : Word) (s : State) : Res :=
  issue x (fun k => do
    let n ← readS k b
    let q ← boundQueue k h
    let c := n + imm
    if c = 0 then goOn
    else do
      trapIf ((v.left q).toNat < c.toNat) 0x03
      modThr k fun t => t.setQ h (some (v.moved q (c.setWidth 32)))
      if q.role == v.tells then
        modState fun s => s.launch k.core k.ts (.qupd (s.peerCore k.core q) q.pdesc v.filled (c.setWidth 32) (v.count q))
      goOn) s

theorem exec_qadvt : exec (.qadvt x h b imm) s = queueAdvance tailAdvance x h b imm s := rfl
theorem exec_qadvh : exec (.qadvh x h b imm) s = queueAdvance headAdvance x h b imm s := rfl

variable (v : Advance)

theorem queueAdvance_unbound (hi : s.Issues k x) (hb : s.plain k b) (hq : s.queue k h = none) :
    queueAdvance v x h b imm s = .next (s.traps k 0x03 0) := by
  refine Laws.issue_traps hi ?_
  rw [Laws.readS_bind (s := s.unpopped) hb]
  exact boundQueue_unbound (s := s.unpopped) hq

theorem queueAdvance_zero (hi : s.Issues k x) (hb : s.plain k b) (hq : s.queue k h = some q) (hn : s.sreg k b + imm = 0) :
    queueAdvance v x h b imm s = .next (s.retires k .next id) := by
  refine Laws.issue_retires_same hi ?_
  rw [Laws.readS_bind (s := s.unpopped) hb, boundQueue_bind (s := s.unpopped) hq]
  exact congrFun (if_pos hn) _

theorem queueAdvance_beyond (hi : s.Issues k x) (hb : s.plain k b) (hq : s.queue k h = some q)
    (hn : (v.left q).toNat < (s.sreg k b + imm).toNat) : queueAdvance v x h b imm s = .next (s.traps k 0x03 0) := by
  have positive : s.sreg k b + imm ≠ 0 := fun h0 => by simp [h0] at hn
  refine Laws.issue_traps hi ?_
  rw [Laws.readS_bind (s := s.unpopped) hb, boundQueue_bind (s := s.unpopped) hq]
  refine (congrFun (if_neg positive) _).trans ?_
  rw [Laws.trapIf_bind]
  exact if_pos (decide_eq_true hn)

/-- The state after an advance by `m`, before the instruction retires. -/
def advanced (s : State) (k : Ctx) (h : QReg) (q : QCopy) (m : BitVec 32) : State :=
  let t := s.modThread k.core k.ts (·.setQ h (some (v.moved q m)))
  if q.role = v.tells then t.launch k.core k.ts (.qupd (s.peerCore k.core q) q.pdesc v.filled m (v.count q)) else t

theorem peerCore_modThread (f : Thread → Thread) : (s.modThread k.core k.ts f).peerCore k.core q = s.peerCore k.core q := by
  have task : (s.modThread k.core k.ts f).taskOf k.core = s.taskOf k.core := by
    rw [State.taskOf, State.modThread, Laws.State.core_setThread]
    rfl
  rw [State.peerCore, task]
  rfl

theorem queueAdvance_advances (hi : s.Issues k x) (hb : s.plain k b) (hq : s.queue k h = some q) (hn : s.sreg k b + imm ≠ 0)
    (hl : (s.sreg k b + imm).toNat ≤ (v.left q).toNat) : queueAdvance v x h b imm s =
      .next ((advanced v s.unpopped k h q ((s.sreg k b + imm).setWidth 32)).retire k .next) := by
  refine issue_done hi ?_
  rw [Laws.readS_bind (s := s.unpopped) hb, boundQueue_bind (s := s.unpopped) hq]
  refine (congrFun (if_neg hn) _).trans ?_
  rw [Laws.trapIf_bind]
  refine (if_neg (ne_true_of_eq_false (decide_eq_false (not_lt.2 hl)))).trans ?_
  rw [Laws.modThr_bind, advanced]
  by_cases role : q.role = v.tells
  · simp only [role, beq_self_eq_true, if_true, Laws.modState_bind, peerCore_modThread]
    rfl
  · simp only [role, if_false, beq_iff_eq]
    rfl

/-- An advance moves its end of the queue and tells the other end when that is another core's. -/
theorem queueAdvance_spec {m : BitVec 32} (hi : s.Issues k x) (hb : s.plain k b) (hq : s.queue k h = some q)
    (hm : m = (s.sreg k b + imm).setWidth 32) (hn : s.sreg k b + imm ≠ 0)
    (hl : (s.sreg k b + imm).toNat ≤ (v.left q).toNat) : ∃ t, queueAdvance v x h b imm s = .next t ∧
      t.queue k h = some (v.moved q m) ∧ t.mem = s.mem ∧ (t.own k).s = (s.own k).s ∧
      (q.role ≠ v.tells → t.fab = s.fab) ∧
      (q.role = v.tells → ∃ f, t.fab.fly = s.fab.fly ++ [f] ∧
        f.what = .qupd (s.peerCore k.core q) q.pdesc v.filled m (v.count q)) := by
  have own : (advanced v s.unpopped k h q m).own k = (s.own k).setQ h (some (v.moved q m)) := by
    rw [advanced]
    split
    · exact (own_launch ..).trans (Laws.State.thread_modThread ..)
    · exact Laws.State.thread_modThread ..
  refine ⟨_, queueAdvance_advances v hi hb hq hn hl, ?_⟩
  rw [← hm]
  refine ⟨?_, ?_, ?_, fun role => ?_, fun role => ?_⟩
  · change (((advanced v s.unpopped k h q m).retire k .next).own k).q[h] = _
    simp only [own_retire_q, own, Thread.setQ, Fin.getElem_fin, Vector.getElem_set_self]
  · rw [State.retire, Laws.State.modThread_mem, advanced]
    split <;> rfl
  · rw [own_retire_s, own]
    rfl
  · rw [advanced, if_neg role]
    rfl
  · rw [advanced, if_pos role]
    exact ⟨_, rfl, rfl⟩

end Queues

/-- Settles O26: by whether the handle is bound, and a bound one by what its queue has left. -/
theorem queueResults : Obligations.QueueResults := by
  intro s k x a h b imm hi ha hb
  refine ⟨fun hq => ⟨queueRead_unbound _ hi hq, queueRead_unbound _ hi hq, queueAdvance_unbound tailAdvance hi hb hq,
    queueAdvance_unbound headAdvance hi hb hq, queueWait_unbound _ hi hb hq, queueWait_unbound _ hi hb hq⟩, fun q hq => ?_⟩
  have zero {n : Word} (h0 : n.toNat = 0) : n = 0 := BitVec.eq_of_toNat_eq h0
  have positive {n : Word} (h0 : 0 < n.toNat) : n ≠ 0 := fun he => by simp [he] at h0
  have low (n : Word) : BitVec.ofNat 32 n.toNat = n.setWidth 32 := BitVec.eq_of_toNat_eq (by simp)
  refine ⟨queueRead_reads _ hi ha hq, queueRead_reads _ hi ha hq, fun hf hn => queueWait_ends _ hi hb hq hn hf,
    fun hf hn => queueWait_waits _ hi hb hq hn hf, fun hf hn => queueWait_ends _ hi hb hq hn hf,
    fun hf hn => queueWait_waits _ hi hb hq hn hf,
    fun hn => ⟨queueWait_beyond _ hi hb hq hn, queueWait_beyond _ hi hb hq hn⟩,
    fun h0 => ⟨queueAdvance_zero tailAdvance hi hb hq (zero h0), queueAdvance_zero headAdvance hi hb hq (zero h0)⟩,
    queueAdvance_beyond tailAdvance hi hb hq, queueAdvance_beyond headAdvance hi hb hq, fun h0 hl => ?_, fun h0 hl => ?_⟩
  · obtain ⟨t, ht, hz, mem, regs, alone, tells⟩ := queueAdvance_spec tailAdvance hi hb hq (low _) (positive h0) hl
    refine ⟨t, _, ht, hz, rfl, rfl, rfl, mem, regs, fun role => ⟨?_, alone role⟩, fun role => ⟨?_, tells role⟩⟩
    · exact if_neg (by simpa using role)
    · exact if_pos (by simpa using role)
  · obtain ⟨t, ht, hz, mem, regs, alone, tells⟩ := queueAdvance_spec headAdvance hi hb hq (low _) (positive h0) hl
    refine ⟨t, _, ht, hz, rfl, rfl, rfl, mem, regs, fun role => ⟨?_, alone role⟩, fun role => ⟨?_, tells role⟩⟩
    · exact if_neg (by simpa using role)
    · exact if_pos (by simpa using role)

end Sys2Proof.Proofs

/-!
Proofs: `CSRD` and `CSWR` (R169, R285).
-/
namespace Sys2Proof.Proofs
open Sys2Proof Sys2Proof.Machine

section ControlRegisters
variable {s : State} {k : Ctx} {x : Pre} {a : SReg} {n w : Word} {u : Thread → Thread}

/-- The flags wait for the engine commands of the thread, every other register is at hand (R285). -/
def csrReady (s : State) (k : Ctx) (n : Word) : Bool := n != 0x040 || (s.idleV k && s.idleM k)

theorem csrd_refused (hi : s.Issues k x) (hr : csrRefused k n.toNat none = true) :
    exec (.csrd x a n) s = .next (s.traps k 0x02 n) := by
  refine Laws.issue_traps hi ?_
  rw [Laws.trapIf_bind, if_pos hr]

theorem csrd_held (hi : s.Issues k x) (hr : csrRefused k n.toNat none = false) (hw : csrReady s k n = false) :
    exec (.csrd x a n) s = .next (s.held k) := by
  refine Laws.issue_held hi ?_
  rw [Laws.trapIf_bind, if_neg (by simp [hr]), Laws.getState_bind, Laws.holdUnless_bind]
  exact if_neg (ne_true_of_eq_false hw)

theorem csrd_reads (hi : s.Issues k x) (ha : s.plain k a) (hr : csrRefused k n.toNat none = false) (hw : csrReady s k n = true) :
    exec (.csrd x a n) s = .next (s.retires k .next (·.setS a (s.csr k n.toNat))) := by
  refine Laws.issue_writes hi ha ?_
  rw [Laws.trapIf_bind, if_neg (by simp [hr]), Laws.getState_bind, Laws.holdUnless_bind]
  exact if_pos hw

theorem cswr_refused (hi : s.Issues k x) (ha : s.plain k a) (hr : csrRefused k n.toNat (some (s.sreg k a)) = true) :
    exec (.cswr x a n) s = .next (s.traps k 0x02 n) := by
  refine Laws.issue_traps hi ?_
  rw [Laws.readS_bind (s := s.unpopped) ha, Laws.trapIf_bind]
  exact if_pos hr

theorem cswr_held (hi : s.Issues k x) (ha : s.plain k a) (hr : csrRefused k n.toNat (some (s.sreg k a)) = false)
    (hw : csrReady s k n = false) : exec (.cswr x a n) s = .next (s.held k) := by
  refine Laws.issue_held hi ?_
  rw [Laws.readS_bind (s := s.unpopped) ha, Laws.trapIf_bind, Laws.State.sreg_unpopped, if_neg (by simp [hr]),
    Laws.getState_bind, Laws.holdUnless_bind]
  exact if_neg (ne_true_of_eq_false hw)

/-- A write of a register of the thread changes the thread as the register's field says. -/
theorem cswr_sets (hi : s.Issues k x) (ha : s.plain k a) (hr : csrRefused k n.toNat (some (s.sreg k a)) = false)
    (hw : csrReady s k n = true) (hu : s.unpopped.setCsr k n.toNat (s.sreg k a) = s.unpopped.modThread k.core k.ts u) :
    exec (.cswr x a n) s = .next (s.retires k .next u) := by
  refine Laws.issue_retires hi ?_
  rw [Laws.readS_bind (s := s.unpopped) ha, Laws.trapIf_bind, Laws.State.sreg_unpopped, if_neg (by simp [hr]),
    Laws.getState_bind, Laws.holdUnless_bind]
  refine (if_pos hw).trans ?_
  rw [Laws.modState_bind, hu]
  rfl

/-- A write of a read-only register leaves it. -/
theorem cswr_keeps (hi : s.Issues k x) (ha : s.plain k a) (hr : csrRefused k n.toNat (some (s.sreg k a)) = false)
    (hw : csrReady s k n = true) (hu : s.unpopped.setCsr k n.toNat (s.sreg k a) = s.unpopped) :
    exec (.cswr x a n) s = .next (s.retires k .next id) := by
  refine Laws.issue_retires_same hi ?_
  rw [Laws.readS_bind (s := s.unpopped) ha, Laws.trapIf_bind, Laws.State.sreg_unpopped, if_neg (by simp [hr]),
    Laws.getState_bind, Laws.holdUnless_bind]
  refine (if_pos hw).trans ?_
  rw [Laws.modState_bind, hu]
  rfl

theorem csrReady_of_ne (h : n ≠ 0x040) : csrReady s k n = true := by
  rw [csrReady, bne_iff_ne.2 h, Bool.true_or]

theorem csrReady_flags : csrReady s k 0x040 = (s.idleV k && s.idleM k) := rfl

/-- The numbers of R169. -/
def csrNumbers : List Nat :=
  [0x000, 0x001, 0x002, 0x003, 0x011, 0x012, 0x013, 0x014, 0x015, 0x016, 0x020, 0x030, 0x031, 0x032, 0x033, 0x040, 0x041, 0x042,
    0x043, 0x044, 0x050, 0x060, 0x061, 0x062, 0x063, 0x064, 0x065, 0x066, 0x067, 0x070, 0x080, 0x081, 0x090, 0x091, 0x092]

theorem csrFields_unassigned {m : Nat} (h : m ∉ csrNumbers) : csrFields m = none := by
  simp only [csrNumbers, List.mem_cons, List.not_mem_nil, or_false, not_or] at h
  unfold csrFields
  repeat rw [if_neg (by simp only [Bool.or_eq_true, Bool.and_eq_true, beq_iff_eq, decide_eq_true_eq]; omega)]

theorem csrRefused_unassigned {m : Nat} (h : m ∉ csrNumbers) (v : Option Word) : csrRefused k m v = true := by
  rw [csrRefused, csrFields_unassigned h]

/-- A write of bits that the register's fields cover is accepted, and for a register of segment 0 from there. -/
theorem csrRefused_write {m i : Nat} (hm : csrFields m = some (2 ^ i - 1)) (hk : csrResident m = false ∨ k.resident = true)
    (hw : w.toNat < 2 ^ i) : csrRefused k m (some w) = false := by
  have bits : w.toNat &&& (2 ^ i - 1) = w.toNat := by rw [Nat.and_two_pow_sub_one_eq_mod, Nat.mod_eq_of_lt hw]
  rw [csrRefused, hm]
  rcases hk with hk | hk <;> simp [hk, bits]

/-- A write of a bit outside the register's fields is refused. -/
theorem csrRefused_reserved {m i : Nat} (hm : csrFields m = some (2 ^ i - 1)) (hw : 2 ^ i ≤ w.toNat) :
    csrRefused k m (some w) = true := by
  have bits : w.toNat &&& (2 ^ i - 1) ≠ w.toNat := by
    rw [Nat.and_two_pow_sub_one_eq_mod]
    have := Nat.mod_lt w.toNat (Nat.two_pow_pos i)
    omega
  rw [csrRefused, hm]
  exact Bool.or_eq_true_iff.2 (.inr (bne_iff_ne.2 bits))

theorem not_resident_iff : k.resident = false ↔ 0x1000 ≤ k.addr.toNat := by
  rw [Ctx.resident, segOf, beq_eq_false_iff_ne]
  omega

theorem resident_iff : k.resident = true ↔ k.addr.toNat < 0x1000 := by
  rw [Ctx.resident, segOf, beq_iff_eq]
  omega

/-- A write of a register of segment 0 from elsewhere is refused. -/
theorem csrRefused_resident {m : Nat} (hm : csrResident m = true) (hk : 0x1000 ≤ k.addr.toNat) :
    csrRefused k m (some w) = true := by
  unfold csrRefused
  split
  · rfl
  · simp [hm, not_resident_iff.2 hk]

end ControlRegisters

/-- Settles O37: reads by the register's number, writes by what refuses them first. -/
theorem controlRegisters : Obligations.ControlRegisters := by
  intro s k x a hi ha
  refine ⟨fun n w hn hw => ?_, fun hw => csrd_held hi (n := 0x040) rfl hw, fun n hn => ?_, fun hv => ?_, fun hv => ?_,
    fun hv hw => ?_, fun hv hw => ?_, fun n hn hk => ?_, fun hk hv => ?_, fun hv n hn => ?_⟩
  · have ready : csrReady s k n = true := by
      by_cases h : n = 0x040
      · subst h
        exact hw rfl
      · exact csrReady_of_ne h
    have value : csrRefused k n.toNat none = false ∧ s.csr k n.toNat = w := by
      simp only [List.mem_cons, Prod.mk.injEq, List.not_mem_nil, or_false] at hn
      rcases hn with h | h | h | h | h | h | h | h | h | h | h | h | h <;> (obtain ⟨rfl, rfl⟩ := h; exact ⟨rfl, rfl⟩)
    rw [csrd_reads hi ha value.1 ready, value.2]
  · exact ⟨csrd_refused hi (csrRefused_unassigned hn _), cswr_refused hi ha (csrRefused_unassigned hn _)⟩
  · exact cswr_sets hi ha (csrRefused_write (i := 48) rfl (.inl rfl) hv) rfl rfl
  · exact cswr_refused hi ha (csrRefused_reserved (i := 48) rfl hv)
  · exact cswr_sets hi ha (csrRefused_write (i := 6) rfl (.inl rfl) hv) hw rfl
  · exact cswr_held hi ha (csrRefused_write (i := 6) rfl (.inl rfl) hv) hw
  · refine cswr_refused hi ha (csrRefused_resident ?_ hk)
    simp only [List.mem_cons, List.not_mem_nil, or_false] at hn
    rcases hn with rfl | rfl | rfl | rfl | rfl | rfl <;> rfl
  · exact cswr_sets hi ha (csrRefused_write (i := 16) rfl (.inr (resident_iff.2 hk)) hv) rfl rfl
  · have kept : (∃ i, 12 ≤ i ∧ csrFields n.toNat = some (2 ^ i - 1)) ∧ csrResident n.toNat = false ∧ n ≠ 0x040 ∧
        s.unpopped.setCsr k n.toNat (s.sreg k a) = s.unpopped := by
      simp only [List.mem_cons, List.not_mem_nil, or_false] at hn
      rcases hn with rfl | rfl | rfl | rfl | rfl | rfl | rfl
      · exact ⟨⟨12, by decide, rfl⟩, rfl, by decide, rfl⟩
      · exact ⟨⟨12, by decide, rfl⟩, rfl, by decide, rfl⟩
      · exact ⟨⟨16, by decide, rfl⟩, rfl, by decide, rfl⟩
      · exact ⟨⟨64, by decide, rfl⟩, rfl, by decide, rfl⟩
      · exact ⟨⟨48, by decide, rfl⟩, rfl, by decide, rfl⟩
      · exact ⟨⟨48, by decide, rfl⟩, rfl, by decide, rfl⟩
      · exact ⟨⟨48, by decide, rfl⟩, rfl, by decide, rfl⟩
    obtain ⟨⟨i, hi12, hf⟩, hres, hne, hset⟩ := kept
    exact cswr_keeps hi ha (csrRefused_write hf (.inl hres) (hv.trans_le (Nat.pow_le_pow_right (by decide) hi12)))
      (csrReady_of_ne hne) hset

end Sys2Proof.Proofs

/-!
Proofs: a line word that a matrix load or store refuses (R72, R75, R354).
-/
namespace Sys2Proof.Proofs
open Sys2Proof Sys2Proof.Machine

section Refusing
variable {s : State} {k : Ctx} {x : Pre} {b c : SReg} {tr : Bool}

/-- A matrix load or store whose line word has a reserved bit is an access that has issued: it debits its class, then it traps. -/
theorem matMem_refuses (e : EKind) (n : Nat) (hi : s.Issues k x) (hb : s.plain k b) (hc : s.plain k c)
    (hl : badLineWord tr (s.sreg k c) = true) : matMem x e tr n b c s =
      .next ((s.unpopped.debitSpace k (s.sreg k b)).exactTrap k.core k.ts 0x02 0 k.addr) := by
  rw [matMem, Laws.issue_issues hi, Laws.readS_bind (s := s.unpopped) hb, Laws.readS_bind (s := s.unpopped) hc,
    Laws.State.sreg_unpopped, Laws.State.sreg_unpopped, if_pos hl]
  rfl

end Refusing

/-- Thread set 0 of core 0 issues at 0x1000. -/
def oldIssue : Ctx := ⟨0, 0, 0x1000, 0x1002, [], none⟩

/-- A thread set that runs, with a reserved bit of a line word in `s5`. -/
def oldThread : Thread := { Thread.reset with run := .running, pc := 0x1000, s := Thread.reset.s.set 5 0x400000000 }

/-- The thread set on a die whose coefficient for accesses of local space is 1. -/
def oldState : State :=
  { State.reset with
    cores := [(0, { Core.reset with thr := Core.reset.thr.set 0 oldThread })]
    fetch := some oldIssue
    bud := { State.reset.bud with ecoef := [(2, 1)] } }

theorem oldState_issues : oldState.Issues oldIssue {} := ⟨rfl, by decide, rfl, rfl⟩

theorem oldState_plain (n : SReg) : oldState.plain oldIssue n := by
  revert n
  unfold State.plain
  decide

/-- `OLD` with a reserved bit in its line word debits its class (R72), which the state after a trap alone does not show. -/
theorem old_debits : exec (.old {} 0 4 5) oldState ≠ .next (oldState.traps oldIssue 0x02 0) := by
  have refused : exec (.old {} 0 4 5) oldState =
      .next ((oldState.unpopped.debitSpace oldIssue 0).exactTrap 0 0 0x02 0 0x1000) :=
    matMem_refuses (tr := false) _ 0 oldState_issues (oldState_plain 4) (oldState_plain 5) (by decide)
  intro h
  have same := congrArg (fun t : State => tblGet t.bud.residue 0 0) (Host.Outcome.next.inj (refused.symm.trans h))
  simp only [State.traps, Laws.State.exactTrap_bud] at same
  exact absurd same (by decide)

/-- Refutes O28: `OLD` with a reserved bit in its line word has issued as an access, so that it debits its class beside the trap. -/
theorem not_engineAccepts : ¬ Obligations.EngineAccepts := by
  intro h
  have unbound : oldState.unbound oldIssue [] [] := ⟨fun _ hn => absurd hn List.not_mem_nil, fun _ hr => absurd hr List.not_mem_nil⟩
  have bad : ¬ Claims.line false (oldState.sreg oldIssue 5) := by
    unfold Claims.line
    decide
  obtain ⟨trap, -⟩ := h oldState oldIssue (.old {} 0 4 5) _ rfl oldState_issues (oldState_plain 4) (oldState_plain 5) unbound
  exact old_debits (trap bad)

end Sys2Proof.Proofs

/-!
Proofs: messages, the mailbox and updates of queues (R170 to R172, R174, R304, R316 to R318).
-/
namespace Sys2Proof.Proofs
open Sys2Proof Sys2Proof.Machine

/-! ## Instructions that lead elsewhere before they write registers -/

/-- A step that keeps what the operands of a thread set rest on: its scalar registers, its streams and its core's commands; and every
memory. -/
structure KeepsOperands (k : Ctx) (s t : State) : Prop where
  regs : (t.own k).s = (s.own k).s
  streams : (t.own k).ss = (s.own k).ss
  vq : (t.core k.core).vq = (s.core k.core).vq
  mq : (t.core k.core).mq = (s.core k.core).mq
  mem : t.mem = s.mem

namespace KeepsOperands
variable {k : Ctx} {s t u : State} {n : SReg}

theorem refl (s : State) : KeepsOperands k s s := ⟨rfl, rfl, rfl, rfl, rfl⟩

theorem trans (h : KeepsOperands k s t) (g : KeepsOperands k t u) : KeepsOperands k s u :=
  ⟨g.regs.trans h.regs, g.streams.trans h.streams, g.vq.trans h.vq, g.mq.trans h.mq, g.mem.trans h.mem⟩

theorem modThread (s : State) {ts : Fin 4} {f : Thread → Thread} (hs : ∀ t, (f t).s = t.s) (hss : ∀ t, (f t).ss = t.ss) :
    KeepsOperands k s (s.modThread k.core ts f) := by
  have thread : ((s.modThread k.core ts f).own k).s = (s.own k).s ∧ ((s.modThread k.core ts f).own k).ss = (s.own k).ss := by
    by_cases h : k.ts = ts
    · subst h
      rw [State.own, Laws.State.thread_modThread]
      exact ⟨hs _, hss _⟩
    · rw [State.own, Laws.State.thread_modThread_other _ _ _ _ _ _ (.inr h)]
      exact ⟨rfl, rfl⟩
  refine ⟨thread.1, thread.2, ?_, ?_, rfl⟩
  · rw [State.modThread, Laws.State.core_setThread]
  · rw [State.modThread, Laws.State.core_setThread]

theorem setCore (s : State) {c : Core} (ht : c.thr = (s.core k.core).thr) (hv : c.vq = (s.core k.core).vq)
    (hm : c.mq = (s.core k.core).mq) : KeepsOperands k s (s.setCore k.core c) := by
  have thread : (s.setCore k.core c).own k = s.own k := by
    rw [State.own, Laws.State.thread_setCore, ht]
    rfl
  have core := Laws.State.core_setCore s k.core c
  exact ⟨congrArg Thread.s thread, congrArg Thread.ss thread, (congrArg Core.vq core).trans hv, (congrArg Core.mq core).trans hm, rfl⟩

theorem foldWrites (s : State) (ws : List (Word × List Byte)) : KeepsOperands k s (s.foldWrites k.core k.ts ws) := by
  unfold State.foldWrites
  split
  · exact .refl s
  · split <;> exact .modThread s (fun _ => rfl) (fun _ => rfl)

theorem stream_congr {t u : Thread} (h : t.ss = u.ss) : t.stream false n = u.stream false n := by
  unfold Thread.stream
  simp only [Bool.false_eq_true, if_false, h]

theorem plain (h : KeepsOperands k s t) (hn : s.plain k n) : t.plain k n := by
  unfold State.plain State.scalarBusy at hn ⊢
  dsimp only at hn ⊢
  rwa [stream_congr h.streams, h.vq, h.mq]

end KeepsOperands

section Writing
variable {s u : State} {k : Ctx} {x : Pre} {a b : SReg} {v w : Word} {body : Ctx → M Flow}

/-- The state after an instruction that has led to `u` writes two registers and retires. -/
def wroteBoth (u : State) (k : Ctx) (a b : SReg) (v w : Word) : State :=
  (u.modThread k.core k.ts fun t => (t.setS a v).setS b w).retire k .next

theorem setS_ss (t : Thread) (a : SReg) (v : Word) : (t.setS a v).ss = t.ss := by
  unfold Thread.setS
  split <;> rfl

theorem plain_setS (hb : u.plain k b) : (u.modThread k.core k.ts (·.setS a v)).plain k b := by
  have streams : ((u.modThread k.core k.ts (·.setS a v)).own k).ss = (u.own k).ss := by
    rw [State.own, Laws.State.thread_modThread]
    exact setS_ss ..
  unfold State.plain State.scalarBusy at hb ⊢
  rw [KeepsOperands.stream_congr streams, State.modThread, Laws.State.core_setThread]
  exact hb

theorem issue_wroteBoth (h : s.Issues k x) (ha : u.plain k a) (hb : u.plain k b)
    (hbody : body k s.unpopped = (do writeS k a v; writeS k b w; goOn : M Flow) u) :
    issue x body s = .next (wroteBoth u k a b v w) := by
  rw [Laws.writeS_bind ha] at hbody
  by_cases h0 : a = 0
  · subst h0
    rw [issue_wrote h hb (hbody.trans (by rw [if_pos rfl]))]
    simp only [wrote, wroteBoth, Laws.setS_zero]
  · rw [issue_wrote h (plain_setS hb) (hbody.trans (by rw [if_neg h0]))]
    rw [wrote, Laws.State.modThread_modThread]
    rfl

theorem own_wroteBoth_s : ((wroteBoth u k a b v w).own k).s = (((u.own k).setS a v).setS b w).s := by
  rw [wroteBoth, own_retire_s, State.own, Laws.State.thread_modThread]
  rfl

theorem setS_same (t : Thread) (h : a ≠ 0) : (t.setS a v).s[a] = v := by
  rw [Thread.setS, if_neg h]
  exact Vector.getElem_set_self ..

theorem setS_other (t : Thread) (h : b ≠ a) : (t.setS a v).s[b] = t.s[b] := by
  unfold Thread.setS
  split
  · rfl
  · exact Vector.getElem_set_ne a.isLt b.isLt fun he => h (Fin.ext he).symm

theorem own_retire_m (f : Flow) : ((s.retire k f).own k).m = (s.own k).m := by
  rw [own_retire, Thread.retire, follow_eq]

theorem own_wrote_m : ((wrote u k a v).own k).m = (u.own k).m := by
  rw [wrote, own_retire_m, State.own, Laws.State.thread_modThread, Thread.setS]
  split <;> rfl

theorem core_modThread_overflow {core : Nat} (ts : Fin 4) (f : Thread → Thread) :
    ((s.modThread core ts f).core core).overflow = (s.core core).overflow := by
  rw [State.modThread, Laws.State.core_setThread]

theorem core_modThread_mailbox {core : Nat} (ts : Fin 4) (f : Thread → Thread) :
    ((s.modThread core ts f).core core).mailbox = (s.core core).mailbox := by
  rw [State.modThread, Laws.State.core_setThread]

end Writing

/-! ## `MSEND` (R171, R316) -/

section Sending
variable {s : State} {k : Ctx} {x : Pre} {a b : SReg} {imm : Word} {q : Machine.Task}

/-- The thread set that a target word names. -/
def msgThread (w : Nat) : Fin 4 := ⟨w % 4, Nat.mod_lt _ (by decide)⟩
/-- The message register that an immediate names. -/
def msgReg (imm : Word) : Fin 16 := ⟨imm.toNat % 16, Nat.mod_lt _ (by decide)⟩

theorem clampFin_four (w : Nat) : clampFin 4 (w % 4) (by decide) = msgThread w := Fin.ext (Nat.mod_mod w 4)
theorem clampFin_sixteen : clampFin 16 (imm.toNat % 16) (by decide) = msgReg imm := Fin.ext (Nat.mod_mod imm.toNat 16)

/-- The word names a thread set of the task (R316). -/
structure Addresses (w : Nat) (q : Machine.Task) : Prop where
  word : w < 2 ^ 14
  crew : w / 4 < q.crews
  thread : w % 4 < q.threads

theorem reserved_iff (w : Word) : fieldOf w.toNat 63 14 ≠ 0 ↔ 2 ^ 14 ≤ w.toNat := by
  have := w.isLt
  rw [fieldOf_eq, Nat.mod_eq_of_lt (by omega)]
  omega

theorem msend_traps (hi : s.Issues k x) (ha : s.plain k a) (hb : s.plain k b) (hq : s.taskOf k.core = some q)
    (hw : ¬Addresses (s.sreg k b).toNat q) : exec (.msend x a b imm) s = .next (s.traps k 0x02 0) := by
  refine Laws.issue_traps hi ?_
  rw [Laws.readS_bind (s := s.unpopped) ha, Laws.readS_bind (s := s.unpopped) hb, Laws.getState_bind, Laws.State.sreg_unpopped,
    Laws.State.sreg_unpopped, Laws.trapIf_bind]
  by_cases word : 2 ^ 14 ≤ (s.sreg k b).toNat
  · exact if_pos (by simpa using (reserved_iff _).2 word)
  · have task : s.unpopped.taskOf k.core = some q := hq
    rw [if_neg (by simpa using mt (reserved_iff _).1 word), task]
    dsimp only
    rw [Laws.trapIf_bind]
    refine if_pos ?_
    rw [Task.carries, Task.allotted, Bool.or_eq_true, Bool.not_eq_true', Bool.not_eq_true', decide_eq_false_iff_not,
      decide_eq_false_iff_not]
    by_contra h
    push Not at h
    exact hw ⟨by omega, h.1, h.2⟩

/-- What `MSEND` to a thread set of the task comes to, by the room at the target. -/
theorem msend_addressed (hi : s.Issues k x) (ha : s.plain k a) (hb : s.plain k b) (hq : s.taskOf k.core = some q)
    (hw : Addresses (s.sreg k b).toNat q) : exec (.msend x a b imm) s = .next
      (if s.messageRoom (q.base + (s.sreg k b).toNat / 4) (msgThread (s.sreg k b).toNat) (msgReg imm) then
        (s.unpopped.launch k.core k.ts (.msg (q.base + (s.sreg k b).toNat / 4)
          ⟨msgThread (s.sreg k b).toNat, msgReg imm, s.sreg k a, s.relOf k.core⟩)).retire k .next
      else (s.unpopped.stallSend k).waits k) := by
  have task : s.unpopped.taskOf k.core = some q := hq
  have accepted : (!q.carries ((s.sreg k b).toNat / 4) || !q.allotted ((s.sreg k b).toNat % 4)) = false := by
    rw [Task.carries, Task.allotted, decide_eq_true hw.crew, decide_eq_true hw.thread]
    rfl
  have word : (fieldOf (s.sreg k b).toNat 63 14 != 0) = false := by
    rw [bne_eq_false_iff_eq, ← not_ne_iff, reserved_iff]
    exact not_le.2 hw.word
  change issue x _ s = _
  rw [Laws.issue_issues hi, Laws.readS_bind (s := s.unpopped) ha, Laws.readS_bind (s := s.unpopped) hb, Laws.getState_bind,
    Laws.State.sreg_unpopped, Laws.State.sreg_unpopped, Laws.trapIf_bind, word, if_neg Bool.false_ne_true, task]
  dsimp only
  rw [Laws.trapIf_bind, accepted, if_neg Bool.false_ne_true]
  by_cases room : s.messageRoom (q.base + (s.sreg k b).toNat / 4) (msgThread (s.sreg k b).toNat) (msgReg imm) = true
  · rw [if_pos room]
    exact (congrArg (fun b : M Machine.Flow => Host.Outcome.next (s.unpopped.settle k (b s.unpopped))) (if_pos room)).trans rfl
  · rw [if_neg room]
    exact (congrArg (fun b : M Machine.Flow => Host.Outcome.next (s.unpopped.settle k (b s.unpopped))) (if_neg room)).trans rfl

theorem msend_sends (hi : s.Issues k x) (ha : s.plain k a) (hb : s.plain k b) (hq : s.taskOf k.core = some q)
    (hw : Addresses (s.sreg k b).toNat q)
    (hr : s.messageRoom (q.base + (s.sreg k b).toNat / 4) (msgThread (s.sreg k b).toNat) (msgReg imm) = true) :
    ∃ t f, exec (.msend x a b imm) s = .next t ∧ t.fab.fly = s.fab.fly ++ [f] ∧ f.core = k.core ∧ f.ts = k.ts ∧
      (∃ m, f.what = .msg (q.base + (s.sreg k b).toNat / 4) m ∧ m.ts.val = (s.sreg k b).toNat % 4 ∧
        m.reg.val = imm.toNat % 16 ∧ m.val = s.sreg k a) ∧
      (t.own k).s = (s.own k).s ∧ t.mem = s.mem ∧ (t.own k).pc = ((s.own k).loopNext k.next).pc :=
  ⟨_, _, (msend_addressed hi ha hb hq hw).trans (congrArg _ (if_pos hr)), rfl, rfl, rfl, ⟨_, rfl, rfl, rfl, rfl⟩, own_retire_s _, rfl,
    own_retire_pc ..⟩

theorem own_bumpId : s.bumpId.own k = s.own k := rfl

theorem own_stallSend : (s.stallSend k).own k = { s.own k with sending := some ((s.own k).sending.getD s.fab.nextId) } := by
  cases h : (s.thread k.core k.ts).sending with
  | some n =>
    have sending : (s.own k).sending = some n := h
    have same : s.stallSend k = s := by rw [State.stallSend, h]
    rw [same, sending, Option.getD_some]
    exact sending ▸ rfl
  | none =>
    have sending : (s.own k).sending = none := h
    have begins : s.stallSend k = (s.modThread k.core k.ts fun t => { t with sending := some s.fab.nextId }).bumpId := by
      rw [State.stallSend, h]
    rw [begins, own_bumpId, sending]
    exact Laws.State.thread_modThread ..

theorem stallSend_fly : (s.stallSend k).fab.fly = s.fab.fly ∧ (s.stallSend k).mem = s.mem := by
  unfold State.stallSend
  split <;> exact ⟨rfl, rfl⟩

theorem own_waits : (s.waits k).own k = { s.own k with run := .waiting } := Laws.State.thread_modThread ..

theorem msend_stalls (hi : s.Issues k x) (ha : s.plain k a) (hb : s.plain k b) (hq : s.taskOf k.core = some q)
    (hw : Addresses (s.sreg k b).toNat q)
    (hr : s.messageRoom (q.base + (s.sreg k b).toNat / 4) (msgThread (s.sreg k b).toNat) (msgReg imm) = false) :
    ∃ t, exec (.msend x a b imm) s = .next t ∧ (t.own k).run = .waiting ∧ (t.own k).pc = (s.own k).pc ∧
      (t.own k).s = (s.own k).s ∧ (t.own k).sending = some ((s.own k).sending.getD s.fab.nextId) ∧
      t.fab.fly = s.fab.fly ∧ t.mem = s.mem := by
  refine ⟨_, (msend_addressed hi ha hb hq hw).trans (congrArg _ (if_neg (ne_true_of_eq_false hr))), ?_⟩
  rw [own_waits, own_stallSend]
  exact ⟨rfl, rfl, rfl, rfl, (stallSend_fly (s := s.unpopped)).1, (stallSend_fly (s := s.unpopped)).2⟩

/-- The message that something under way is for a core. -/
def msgAhead (dst : Nat) (f : Fly) : Option Msg :=
  match f.what with
  | .msg d m => if d == dst then some m else none
  | _ => none

/-- The registers and the count of overflow entries of a core that are taken once every message under way to it is there. -/
def claimed (s : State) (dst : Nat) : List (Fin 4 × Fin 16) × Nat :=
  (s.fab.fly.filterMap (msgAhead dst)).foldl (s.core dst).claim ([], (s.core dst).overflow.length)

theorem messageRoom_eq {dst : Nat} {u : Fin 4} {r : Fin 16} : s.messageRoom dst u r =
    (!(((s.thread dst u).m[r]).full || (claimed s dst).1.contains (u, r)) || decide ((claimed s dst).2 < 16)) := rfl

/-- With no message under way to a core, room is an empty register or a place in its overflow buffer (R171). -/
theorem messageRoom_alone {dst : Nat} {u : Fin 4} {r : Fin 16} (h : ∀ f ∈ s.fab.fly, ∀ m, f.what ≠ .msg dst m) :
    s.messageRoom dst u r = true ↔ ((s.thread dst u).m[r]).full = false ∨ (s.core dst).overflow.length < 16 := by
  have ahead : s.fab.fly.filterMap (msgAhead dst) = [] := by
    refine List.filterMap_eq_nil_iff.2 fun f hf => ?_
    unfold msgAhead
    split
    next d m hm => exact if_neg fun hd => h f hf m (by rw [hm, beq_iff_eq.1 hd])
    next => rfl
  rw [messageRoom_eq, claimed, ahead, List.foldl_nil, List.contains_nil, Bool.or_false, Bool.or_eq_true, Bool.not_eq_true',
    decide_eq_true_eq]

end Sending

/-! ## Overflow entries that move into their registers (R171) -/

section Moving
variable {s : State} {core : Nat} {ts : Fin 4} {reg : Fin 16} {m : Msg}

/-- The first element that satisfies a predicate is the first that satisfies a stronger one, when it satisfies that too. -/
theorem find?_of_imp {α : Type} {p q : α → Bool} {l : List α} {b : α} (hpq : ∀ a, p a = true → q a = true)
    (h : l.find? q = some b) (hb : p b = true) : l.find? p = some b := by
  obtain ⟨-, as, bs, rfl, has⟩ := List.find?_eq_some_iff_append.1 h
  refine List.find?_eq_some_iff_append.2 ⟨hb, as, bs, rfl, fun a ha => ?_⟩
  have := has a ha
  by_contra hc
  simp [hpq a (by simpa using hc)] at this

/-- An element that does not satisfy a predicate is taken out: the first that does stays the first. -/
theorem find?_erase {α : Type} [DecidableEq α] {p : α → Bool} {b : α} (hb : p b = false) (l : List α) :
    (l.erase b).find? p = l.find? p := by
  induction l with
  | nil => rfl
  | cons a l ih =>
    by_cases h : a = b
    · subst h
      rw [List.erase_cons_head, List.find?_cons, hb]
    · rw [List.erase_cons_tail (by simpa using h), List.find?_cons, List.find?_cons, ih]

/-- The message is for a register of a thread set. -/
def Msg.isFor (ts : Fin 4) (reg : Fin 16) (m : Msg) : Bool := m.ts == ts && m.reg == reg

theorem isFor_iff : Msg.isFor ts reg m = true ↔ m.ts = ts ∧ m.reg = reg := by
  rw [Msg.isFor, Bool.and_eq_true, beq_iff_eq, beq_iff_eq]

/-- The register that a message is for is full. -/
def regFull (s : State) (core : Nat) (m : Msg) : Bool := ((s.thread core m.ts).m[m.reg]).full

theorem movable_unlogged (h : Unlogged s core) : s.movable core = (s.core core).overflow.find? fun m => !regFull s core m := by
  unfold State.movable
  simp only [h.replayDue, Bool.and_true]
  rfl

/-- The state after an overflow entry has moved into its register. -/
def movedIn (s : State) (core : Nat) (m : Msg) : State :=
  (s.setCore core { s.core core with overflow := (s.core core).overflow.erase m }).modThread core m.ts fun t => t.fill m.reg m.val

theorem movedIn_unlogged (h : Unlogged s core) (m : Msg) : Unlogged (movedIn s core m) core :=
  Unlogged.modThread (Unlogged.setCore h (d := { s.core core with overflow := (s.core core).overflow.erase m }) rfl) m.ts _

theorem movedIn_overflow : ((movedIn s core m).core core).overflow = (s.core core).overflow.erase m := by
  rw [movedIn, core_modThread_overflow, Laws.State.core_setCore]

theorem thread_movedIn_same : (movedIn s core m).thread core m.ts = (s.thread core m.ts).fill m.reg m.val := by
  rw [movedIn, Laws.State.thread_modThread, Laws.State.thread_setCore]
  rfl

theorem thread_movedIn_other (h : ts ≠ m.ts) : (movedIn s core m).thread core ts = s.thread core ts := by
  rw [movedIn, Laws.State.thread_modThread_other _ _ _ _ _ _ (.inr h), Laws.State.thread_setCore]
  rfl

theorem movedIn_fills : ((movedIn s core m).thread core m.ts).m[m.reg] = ⟨m.val, true⟩ := by
  rw [thread_movedIn_same]
  exact fill_same ..

theorem movedIn_keeps (h : Msg.isFor ts reg m = false) :
    ((movedIn s core m).thread core ts).m[reg] = ((s.thread core ts).m[reg]) := by
  by_cases hts : ts = m.ts
  · subst hts
    rw [thread_movedIn_same]
    exact fill_other _ (fun hr => ne_true_of_eq_false h (isFor_iff.2 ⟨rfl, hr⟩)) _
  · rw [thread_movedIn_other hts]

theorem regFull_movedIn : regFull (movedIn s core m) core m = true := by rw [regFull, movedIn_fills]

theorem regFull_congr {o : Msg} (h : Msg.isFor m.ts m.reg o = true) : regFull s core o = regFull s core m := by
  obtain ⟨hts, hreg⟩ := isFor_iff.1 h
  simp only [regFull, hts, hreg]

theorem moveOverflow_moves (fuel : Nat) (h : Unlogged s core) (hm : s.movable core = some m) :
    State.moveOverflow (fuel + 1) core s = State.moveOverflow fuel core (movedIn s core m) := by
  have calm : Unlogged (s.setCore core { s.core core with overflow := (s.core core).overflow.erase m }) core := h.setCore rfl
  rw [State.moveOverflow, hm]
  dsimp only
  rw [calm.fillReg]
  rfl

theorem moveOverflow_rests (fuel : Nat) (hm : s.movable core = none) : State.moveOverflow fuel core s = s := by
  cases fuel with
  | zero => rfl
  | succ fuel => rw [State.moveOverflow, hm]

theorem movedIn_keepsOperands {k : Ctx} (s : State) (m : Msg) : KeepsOperands k s (movedIn s k.core m) :=
  (KeepsOperands.setCore s (c := { s.core k.core with overflow := (s.core k.core).overflow.erase m }) rfl rfl rfl).trans
    (.modThread _ (f := fun t => t.fill m.reg m.val) (fun _ => rfl) fun _ => rfl)

theorem moveOverflow_keepsOperands {k : Ctx} (fuel : Nat) (h : Unlogged s k.core) :
    KeepsOperands k s (State.moveOverflow fuel k.core s) := by
  induction fuel generalizing s with
  | zero => exact .refl s
  | succ fuel ih =>
    cases hm : s.movable k.core with
    | none => rw [moveOverflow_rests _ hm]; exact .refl s
    | some m =>
      rw [moveOverflow_moves fuel h hm]
      exact (movedIn_keepsOperands s m).trans (ih (movedIn_unlogged h m))

/-- An empty register takes in the oldest overflow entry for it. -/
theorem moveOverflow_fills (fuel : Nat) (h : Unlogged s core) (hlen : (s.core core).overflow.length < fuel)
    (hempty : ((s.thread core ts).m[reg]).full = false) (hfirst : (s.core core).overflow.find? (Msg.isFor ts reg) = some m) :
    ((State.moveOverflow fuel core s).thread core ts).m[reg] = ⟨m.val, true⟩ := by
  induction fuel generalizing s with
  | zero => exact absurd hlen (Nat.not_lt_zero _)
  | succ fuel ih =>
    have free (o : Msg) (ho : Msg.isFor ts reg o = true) : (!regFull s core o) = true := by
      obtain ⟨rfl, rfl⟩ := isFor_iff.1 ho
      rw [regFull, hempty]
      rfl
    cases hm : s.movable core with
    | none =>
      rw [movable_unlogged h, List.find?_eq_none] at hm
      exact absurd (free m (List.find?_some hfirst)) (hm m (List.mem_of_find?_eq_some hfirst))
    | some o =>
      rw [moveOverflow_moves fuel h hm]
      rw [movable_unlogged h] at hm
      cases ho : Msg.isFor ts reg o with
      | true =>
        obtain rfl : o = m := Option.some.inj ((find?_of_imp free hm ho).symm.trans hfirst)
        obtain ⟨rfl, rfl⟩ := isFor_iff.1 ho
        rw [(moveOverflow_keeps fuel (movedIn_unlogged h o) (by rw [movedIn_fills])).1, movedIn_fills]
      | false =>
        refine ih (movedIn_unlogged h o) ?_ ?_ ?_
        · have := List.length_pos_of_mem (List.mem_of_find?_eq_some hm)
          rw [movedIn_overflow, List.length_erase_of_mem (List.mem_of_find?_eq_some hm)]
          omega
        · rw [movedIn_keeps ho]
          exact hempty
        · rw [movedIn_overflow, find?_erase ho]
          exact hfirst

/-- A register for which no overflow entry waits stays as it is. -/
theorem moveOverflow_spares (fuel : Nat) (h : Unlogged s core) (hnone : (s.core core).overflow.find? (Msg.isFor ts reg) = none) :
    ((State.moveOverflow fuel core s).thread core ts).m[reg] = ((s.thread core ts).m[reg]) := by
  induction fuel generalizing s with
  | zero => rfl
  | succ fuel ih =>
    cases hm : s.movable core with
    | none => rw [moveOverflow_rests _ hm]
    | some o =>
      rw [moveOverflow_moves fuel h hm]
      rw [movable_unlogged h] at hm
      have other : Msg.isFor ts reg o = false :=
        Bool.not_eq_true _ ▸ List.find?_eq_none.1 hnone o (List.mem_of_find?_eq_some hm)
      rw [ih (movedIn_unlogged h o) (by rw [movedIn_overflow, find?_erase other]; exact hnone), movedIn_keeps other]

end Moving

/-! ## `MRECV` and `MPOLL` (R171, R317) -/

section Receiving
variable {s : State} {k : Ctx} {x : Pre} {a : SReg} {imm : Word} {r : Fin 16} {m : Msg}

/-- The state with a message register emptied. -/
def emptied (s : State) (k : Ctx) (r : Fin 16) : State :=
  s.modThread k.core k.ts fun t => { t with m := t.m.set r ⟨t.m[r].val, false⟩ }

theorem emptied_unlogged (h : Unlogged s k.core) : Unlogged (emptied s k r) k.core :=
  Unlogged.modThread h k.ts _

theorem emptied_reg : (((emptied s k r).thread k.core k.ts).m[r]).full = false := by
  rw [emptied, Laws.State.thread_modThread]
  exact congrArg MReg.full (Vector.getElem_set_self ..)

theorem emptied_overflow : ((emptied s k r).core k.core).overflow = (s.core k.core).overflow := core_modThread_overflow ..

theorem emptied_keepsOperands : KeepsOperands k s (emptied s k r) := .modThread s (fun _ => rfl) fun _ => rfl

theorem drainReg_eq : s.drainReg k.core k.ts r = State.moveOverflow 17 k.core (emptied s k r) := rfl

/-- When every register that a message waits for is full, the emptied one is the only one that an entry moves into. -/
theorem regFull_emptied (hfull : regFull s k.core m = true) : regFull (emptied s k r) k.core m = !Msg.isFor k.ts r m := by
  cases h : Msg.isFor k.ts r m with
  | true =>
    obtain ⟨hts, rfl⟩ := isFor_iff.1 h
    rw [regFull, hts, emptied_reg]
    rfl
  | false =>
    refine Eq.trans ?_ hfull
    rw [regFull, regFull, emptied]
    by_cases hts : m.ts = k.ts
    · have other : m.reg ≠ r := fun hr => ne_true_of_eq_false h (isFor_iff.2 ⟨hts, hr⟩)
      rw [hts, Laws.State.thread_modThread]
      exact congrArg MReg.full (Vector.getElem_set_ne r.isLt m.reg.isLt fun he => other (Fin.ext he).symm)
    · rw [Laws.State.thread_modThread_other _ _ _ _ _ _ (.inr hts)]

theorem movable_emptied (h : Unlogged s k.core) (hfull : ∀ m ∈ (s.core k.core).overflow, regFull s k.core m = true) :
    (emptied s k r).movable k.core = (s.core k.core).overflow.find? (Msg.isFor k.ts r) := by
  rw [movable_unlogged (emptied_unlogged h), emptied_overflow]
  refine List.find?_congr fun m hm => ?_
  rw [regFull_emptied (hfull m hm), Bool.not_not]

theorem drainReg_first (h : Unlogged s k.core) (hfull : ∀ m ∈ (s.core k.core).overflow, regFull s k.core m = true)
    (hm : (s.core k.core).overflow.find? (Msg.isFor k.ts r) = some m) :
    ((s.drainReg k.core k.ts r).core k.core).overflow = (s.core k.core).overflow.erase m := by
  have calm := emptied_unlogged (r := r) h
  have moves := (movable_emptied (r := r) h hfull).trans hm
  obtain ⟨hts, hreg⟩ := isFor_iff.1 (List.find?_some hm)
  have rests : (movedIn (emptied s k r) k.core m).movable k.core = none := by
    rw [movable_unlogged (movedIn_unlogged calm m), List.find?_eq_none]
    intro o ho
    rw [movedIn_overflow, emptied_overflow] at ho
    refine ne_true_of_eq_false ((Bool.not_eq_false' _).mpr ?_)
    cases same : Msg.isFor m.ts m.reg o with
    | true => exact (regFull_congr same).trans regFull_movedIn
    | false =>
      have other : Msg.isFor o.ts o.reg m = false := by
        rw [← Bool.not_eq_true, isFor_iff] at same ⊢
        exact fun hc => same ⟨hc.1.symm, hc.2.symm⟩
      rw [regFull, movedIn_keeps other]
      have spared : Msg.isFor k.ts r o = false := by rw [← hts, ← hreg, same]
      have full := regFull_emptied (r := r) (hfull o (List.mem_of_mem_erase ho))
      rwa [spared] at full
  rw [drainReg_eq, moveOverflow_moves 16 calm moves, moveOverflow_rests 16 rests, movedIn_overflow, emptied_overflow]

theorem drainReg_none (h : Unlogged s k.core) (hfull : ∀ m ∈ (s.core k.core).overflow, regFull s k.core m = true)
    (hm : (s.core k.core).overflow.find? (Msg.isFor k.ts r) = none) :
    ((s.drainReg k.core k.ts r).core k.core).overflow = (s.core k.core).overflow := by
  rw [drainReg_eq, moveOverflow_rests 17 ((movable_emptied h hfull).trans hm), emptied_overflow]

theorem drainReg_keepsOperands (h : Unlogged s k.core) : KeepsOperands k s (s.drainReg k.core k.ts r) :=
  emptied_keepsOperands.trans (moveOverflow_keepsOperands 17 (emptied_unlogged h))

/-- The register that an instruction names by its number. -/
theorem msgReg_ofNat : msgReg (BitVec.ofNat 64 r.val) = r := by
  have := r.isLt
  refine Fin.ext ?_
  change (BitVec.ofNat 64 r.val).toNat % 16 = r.val
  rw [BitVec.toNat_ofNat]
  omega

theorem mrecv_held (hi : s.Issues k x) (hf : ((s.own k).m[msgReg imm]).full = false) :
    exec (.mrecv x a imm) s = .next (s.held k) := by
  refine Laws.issue_held hi ?_
  rw [Laws.getThr_bind, Laws.holdUnless_bind]
  exact if_neg (ne_true_of_eq_false hf)

theorem mrecv_receives (hi : s.Issues k x) (ha : s.plain k a) (h : Unlogged s k.core)
    (hf : ((s.own k).m[msgReg imm]).full = true) : exec (.mrecv x a imm) s =
      .next (wrote (s.unpopped.drainReg k.core k.ts (msgReg imm)) k a ((s.own k).m[msgReg imm]).val) := by
  refine issue_wrote hi ((drainReg_keepsOperands (s := s.unpopped) h).plain ha) ?_
  rw [Laws.getThr_bind, Laws.holdUnless_bind]
  refine (if_pos hf).trans ?_
  rw [Laws.modState_bind]
  rfl

theorem wrote_overflow {u : State} {v : Word} : ((wrote u k a v).core k.core).overflow = (u.core k.core).overflow := by
  rw [wrote, State.retire, Laws.State.modThread_modThread, core_modThread_overflow]

end Receiving

/-! ## `MPOLL` (R317) -/

section Polling
variable {s : State} {k : Ctx} {x : Pre} {a : SReg}

/-- Bits summed by their places are the bits of the sum. -/
theorem testBit_sum (n : Nat) (p : Fin n → Bool) :
    (List.finRange n).foldl (fun z i => z + boolNat (p i) * 2 ^ i.val) 0 < 2 ^ n ∧ ∀ j,
      ((List.finRange n).foldl (fun z i => z + boolNat (p i) * 2 ^ i.val) 0).testBit j = if h : j < n then p ⟨j, h⟩ else false := by
  induction n with
  | zero => exact ⟨Nat.one_pos, fun j => by simp⟩
  | succ n ih =>
    obtain ⟨low, bits⟩ := ih fun i => p i.castSucc
    have split : (List.finRange (n + 1)).foldl (fun z i => z + boolNat (p i) * 2 ^ i.val) 0 =
        2 ^ n * boolNat (p (Fin.last n)) +
          (List.finRange n).foldl (fun z i => z + boolNat (p i.castSucc) * 2 ^ i.val) 0 := by
      rw [List.finRange_succ_last, List.foldl_append, List.foldl_map, List.foldl_cons, List.foldl_nil, Nat.add_comm, Nat.mul_comm]
      rfl
    have top : boolNat (p (Fin.last n)) ≤ 1 := by
      unfold boolNat
      split <;> omega
    rw [split]
    refine ⟨?_, fun j => ?_⟩
    · have := Nat.mul_le_mul_left (2 ^ n) top
      rw [Nat.pow_succ]
      omega
    · rw [Nat.testBit_two_pow_mul_add _ low, bits]
      rcases Nat.lt_trichotomy j n with h | rfl | h
      · rw [if_pos h, dif_pos h, dif_pos (by omega)]
        rfl
      · rw [if_neg (lt_irrefl _), Nat.sub_self, dif_pos (Nat.lt_succ_self _)]
        change (boolNat (p (Fin.last j))).testBit 0 = p (Fin.last j)
        cases p (Fin.last j) <;> rfl
      · rw [if_neg (by omega), dif_neg (by omega)]
        refine Nat.testBit_lt_two_pow (lt_of_le_of_lt top ?_)
        exact Nat.one_lt_two_pow (by omega)

theorem fullBits_getLsbD (t : Thread) (j : Nat) : (fullBits t).getLsbD j = if h : j < 16 then (t.m[j]).full else false := by
  rw [fullBits, BitVec.getLsbD_ofNat, (testBit_sum 16 fun r => (t.m[r]).full).2]
  split
  next h => rw [decide_eq_true (by omega), Bool.true_and]; rfl
  next => rw [Bool.and_false]

theorem mpoll_reads (hi : s.Issues k x) (ha : s.plain k a) :
    exec (.mpoll x a) s = .next (s.retires k .next (·.setS a (fullBits (s.own k)))) := Laws.issue_writes hi ha rfl

end Polling

/-! ## Messages that arrive (R170, R171) -/

section Arriving
variable {s : State} {f : Fly} {dst : Nat} {m : Msg}

/-- An earlier message of the sender to the register is in the overflow buffer. -/
def Earlier (s : State) (dst : Nat) (m : Msg) : Prop := ∃ o ∈ (s.core dst).overflow, o.ts = m.ts ∧ o.reg = m.reg ∧ o.src = m.src

theorem messageArrive_delivers (hf : s.fab.fly.find? (·.id == f.id) = some f) (hw : f.what = .msg dst m)
    (hs : s.behindStores f = false) (hm : s.behindMessage f dst m = false) : exec (.messageArrive f.id) s =
      .next (((s.deliverMsg dst m).map fun t => t.landed f.id).getD s) := by
  change execMessageArrive f.id s = _
  rw [execMessageArrive, hf]
  dsimp only
  rw [hw]
  dsimp only
  rw [hs, hm, Bool.or_self, if_neg Bool.false_ne_true]
  cases s.deliverMsg dst m <;> rfl

/-- A message to a full register, or behind an earlier one of its sender, goes to the overflow buffer while there is room. -/
theorem deliverMsg_later (h : ((s.thread dst m.ts).m[m.reg]).full = true ∨ Earlier s dst m) : s.deliverMsg dst m =
    if (s.core dst).overflow.length < 16 then
      some (s.setCore dst { s.core dst with overflow := (s.core dst).overflow ++ [m] }) else none := by
  have later : (!(((s.core dst).thr[m.ts]).m[m.reg]).full &&
      !((s.core dst).overflow.any fun o => o.ts == m.ts && o.reg == m.reg && o.src == m.src)) = false := by
    rcases h with h | ⟨o, ho, hts, hreg, hsrc⟩
    · have full : (((s.core dst).thr[m.ts]).m[m.reg]).full = true := h
      rw [full]
      rfl
    · rw [List.any_eq_true.2 ⟨o, ho, by simp [hts, hreg, hsrc]⟩, Bool.not_true, Bool.and_false]
  rw [State.deliverMsg]
  dsimp only
  rw [later, Bool.false_and, if_neg Bool.false_ne_true]

end Arriving

/-! ## `MBWAIT` and `MBPOP` (R172, R318) -/

section Mailbox
variable {s : State} {k : Ctx} {x : Pre} {a : SReg} {n w0 w1 : Word} {r : List (Word × Word)}

theorem mbwait_reads (hi : s.Issues k x) (ha : s.plain k a) (hn : n.toNat ≤ (s.core k.core).mailbox.length) :
    exec (.mbwait x a n) s = .next (s.retires k .next (·.setS a (BitVec.ofNat 64 (s.core k.core).mailbox.length))) := by
  refine Laws.issue_writes hi ha ?_
  rw [Laws.getCore_bind, Laws.holdUnless_bind]
  exact if_pos (decide_eq_true hn)

theorem mbwait_held (hi : s.Issues k x) (hn : (s.core k.core).mailbox.length < n.toNat) :
    exec (.mbwait x a n) s = .next (s.held k) := by
  refine Laws.issue_held hi ?_
  rw [Laws.getCore_bind, Laws.holdUnless_bind]
  exact if_neg (ne_true_of_eq_false (decide_eq_false (not_le.2 hn)))

theorem mbpop_held (hi : s.Issues k x) (hl : (s.core k.core).mailbox = []) : exec (.mbpop x a) s = .next (s.held k) := by
  have empty : (s.unpopped.core k.core).mailbox = [] := hl
  refine Laws.issue_held hi ?_
  rw [Laws.getCore_bind, empty]
  rfl

/-- The writes of a copy whose completion entry is taken (R163). -/
def foldedBy (c : Core) (w : Word × Word) : List (Word × List Byte) :=
  match c.unfolded.find? fun e => e.1 == w with
  | some (_, l) => l
  | none => []

/-- The state with the oldest entry of the mailbox taken, and its copy's writes in the digest. -/
def entryTaken (s : State) (k : Ctx) (w : Word × Word) (r : List (Word × Word)) : State :=
  (s.setCore k.core { s.core k.core with
    mailbox := r, unfolded := (s.core k.core).unfolded.eraseP fun e => e.1 == w }).foldWrites k.core k.ts
      (foldedBy (s.core k.core) w)

theorem entryTaken_keepsOperands (w : Word × Word) : KeepsOperands k s (entryTaken s k w r) :=
  (KeepsOperands.setCore s (c := { s.core k.core with
    mailbox := r, unfolded := (s.core k.core).unfolded.eraseP fun e => e.1 == w }) rfl rfl rfl).trans (.foldWrites ..)

theorem foldWrites_mailbox (s : State) (ws : List (Word × List Byte)) :
    ((s.foldWrites k.core k.ts ws).core k.core).mailbox = (s.core k.core).mailbox := by
  unfold State.foldWrites
  split
  · rfl
  · split <;> exact core_modThread_mailbox ..

theorem entryTaken_mailbox (w : Word × Word) : ((entryTaken s k w r).core k.core).mailbox = r := by
  rw [entryTaken, foldWrites_mailbox, Laws.State.core_setCore]

theorem mbpop_pops (hi : s.Issues k x) (ha : s.plain k a) (hb : s.plain k (pairHigh a))
    (hl : (s.core k.core).mailbox = (w0, w1) :: r) : exec (.mbpop x a) s =
      .next (wroteBoth (entryTaken s.unpopped k (w0, w1) r) k a (pairHigh a) w0 w1) := by
  have kept := entryTaken_keepsOperands (s := s.unpopped) (k := k) (r := r) (w0, w1)
  have entry : (s.unpopped.core k.core).mailbox = (w0, w1) :: r := hl
  refine issue_wroteBoth hi (kept.plain ha) (kept.plain hb) ?_
  rw [Laws.getCore_bind, entry]
  rfl

theorem wroteBoth_mailbox {u : State} {b : SReg} {v w : Word} :
    ((wroteBoth u k a b v w).core k.core).mailbox = (u.core k.core).mailbox := by
  rw [wroteBoth, State.retire, Laws.State.modThread_modThread, core_modThread_mailbox]

theorem pairHigh_ne : a ≠ pairHigh a := by
  revert a
  decide

theorem mbpop_spec (hi : s.Issues k x) (ha : s.plain k a) (hb : s.plain k (pairHigh a))
    (hl : (s.core k.core).mailbox = (w0, w1) :: r) : ∃ t, exec (.mbpop x a) s = .next t ∧ (t.core k.core).mailbox = r ∧
      (a ≠ 0 → (t.own k).s[a] = w0) ∧ (pairHigh a ≠ 0 → (t.own k).s[pairHigh a] = w1) ∧
      (∀ n : SReg, n ≠ a → n ≠ pairHigh a → (t.own k).s[n] = (s.own k).s[n]) ∧ t.mem = s.mem := by
  have kept := entryTaken_keepsOperands (s := s.unpopped) (k := k) (r := r) (w0, w1)
  refine ⟨_, mbpop_pops hi ha hb hl, wroteBoth_mailbox.trans (entryTaken_mailbox _), fun h => ?_, fun h => ?_, fun n h h' => ?_,
    kept.mem⟩
  · rw [own_wroteBoth_s, setS_other _ pairHigh_ne, setS_same _ h]
  · rw [own_wroteBoth_s, setS_same _ h]
  · rw [own_wroteBoth_s, setS_other _ h', setS_other _ h, kept.regs]
    rfl

end Mailbox

/-! ## Deposits (R172, R318) -/

section Depositing
variable {s : State} {f : Fly} {dst : Nat} {w0 w1 : Word} {e : Bool}

/-- A deposit whose turn has come. -/
structure MayDeposit (s : State) (f : Fly) (dst : Nat) (w0 w1 : Word) (e : Bool) : Prop where
  under : s.fab.fly.find? (·.id == f.id) = some f
  what : f.what = .deposit dst w0 w1 e
  stores : s.behindStores f = false
  order : s.behindDeposit f dst = false
  calm : Unlogged s dst

/-- The core with one more entry in its mailbox. -/
def deposited (s : State) (f : Fly) (dst : Nat) (w0 w1 : Word) : Core :=
  { s.core dst with
    mailbox := (s.core dst).mailbox ++ [(w0, w1)], deposits := (s.core dst).deposits + 1,
    mbHeld := decide (64 ≤ (s.core dst).mailbox.length + 1) && s.moreDeposits dst f.id }

theorem mailboxDeposit_arrives (h : MayDeposit s f dst w0 w1 e) : exec (.mailboxDeposit (.sent f.id)) s = .next
    (if (s.core dst).mailbox.length < 64 then (s.landed f.id).setCore dst (deposited s f dst w0 w1)
      else s.setCore dst { s.core dst with mbHeld := true }) := by
  have calm : Unlogged ((s.landed f.id).setCore dst (deposited s f dst w0 w1)) dst := Unlogged.setCore (s := s.landed f.id) h.calm rfl
  change execMailboxDeposit (.sent f.id) s = _
  rw [execMailboxDeposit]
  dsimp only
  rw [h.under]
  dsimp only
  rw [h.what]
  dsimp only
  rw [h.stores, h.order, h.calm.replayDue, Bool.not_true, Bool.or_self, Bool.or_self, if_neg Bool.false_ne_true]
  by_cases room : (s.core dst).mailbox.length < 64
  · rw [if_pos room, if_pos room]
    exact congrArg _ (calm.replayStep ..)
  · rw [if_neg room, if_neg room]

theorem moreDeposits_iff (n : Nat) : s.moreDeposits dst n = true ↔
    ∃ g ∈ s.fab.fly, g.id ≠ n ∧ ∃ u v b, g.what = .deposit dst u v b := by
  unfold State.moreDeposits
  rw [List.any_eq_true]
  refine exists_congr fun g => and_congr_right fun _ => ?_
  rw [Bool.and_eq_true, bne_iff_ne]
  refine and_congr_right fun _ => ?_
  cases hg : g.what <;> simp

theorem deposited_held (hroom : (s.core dst).mailbox.length < 64) : (deposited s f dst w0 w1).mbHeld = true ↔
    (s.core dst).mailbox.length = 63 ∧ ∃ g ∈ s.fab.fly, g.id ≠ f.id ∧ ∃ u v b, g.what = .deposit dst u v b := by
  rw [← moreDeposits_iff, deposited, Bool.and_eq_true, decide_eq_true_eq]
  exact and_congr_left fun _ => by omega

/-- An entry of the control cores carries the tag 0xFFFF. -/
theorem systemTag (w : Word) : w ||| 0xFFFF000000000000 = BitVec.ofNat 64 (0xFFFF * 2 ^ 48 + w.toNat % 2 ^ 48) := by
  have tag : (0xFFFF000000000000 : Word) = BitVec.ofNat 64 (0xFFFF * 2 ^ 48) := rfl
  refine BitVec.eq_of_getLsbD_eq fun i hi => ?_
  rw [BitVec.getLsbD_or, tag, BitVec.getLsbD_ofNat, BitVec.getLsbD_ofNat, decide_eq_true hi, Bool.true_and, Bool.true_and,
    Nat.mul_comm, Nat.testBit_two_pow_mul_add _ (Nat.mod_lt _ (Nat.two_pow_pos 48)), Nat.testBit_two_pow_mul, Nat.testBit_mod_two_pow]
  by_cases low : i < 48
  · rw [if_pos low, decide_eq_false (by omega), Bool.false_and, Bool.or_false, decide_eq_true low, Bool.true_and]
    rfl
  · have ones : (0xFFFF : Nat).testBit (i - 48) = true := by
      have : (0xFFFF : Nat) = 2 ^ 16 - 1 := rfl
      rw [this, Nat.testBit_two_pow_sub_one, decide_eq_true (by omega)]
    rw [if_neg low, ones, decide_eq_true (by omega), Bool.true_and, Bool.or_true]

theorem mailboxDeposit_system (core : Fin 4096) : ∃ t f, exec (.mailboxDeposit (.system core w0 w1)) s = .next t ∧
    t.fab.fly = s.fab.fly ++ [f] ∧ t.mem = s.mem ∧
    f.what = .deposit core (BitVec.ofNat 64 (0xFFFF * 2 ^ 48 + w0.toNat % 2 ^ 48)) w1 true :=
  ⟨_, _, rfl, rfl, rfl, by rw [← systemTag]⟩

end Depositing

/-! ## Updates of queues (R174, R304) -/

section Updating
variable {s : State} {f : Fly} {dst p : Nat} {filled : Bool} {n carried : BitVec 32} {u : Fin 4} {r : QReg} {q : QCopy}

/-- An update whose turn has come. -/
structure MayUpdate (s : State) (f : Fly) (dst p : Nat) (filled : Bool) (n carried : BitVec 32) : Prop where
  under : s.fab.fly.find? (·.id == f.id) = some f
  what : f.what = .qupd dst p filled n carried
  stores : s.behindStores f = false

theorem queueUpdateArrive_bound (h : MayUpdate s f dst p filled n carried) (hb : (s.core dst).binder p = some (u, r, q)) :
    exec (.queueUpdateArrive f.id) s =
      .next ((s.landed f.id).modThread dst u fun t => t.setQ r (some (q.update filled n carried))) := by
  change execQueueUpdateArrive f.id s = _
  rw [execQueueUpdateArrive, h.under]
  dsimp only
  rw [h.what]
  dsimp only
  rw [h.stores, if_neg Bool.false_ne_true, hb]

theorem queueUpdateArrive_unbound (h : MayUpdate s f dst p filled n carried) (hb : (s.core dst).binder p = none) :
    exec (.queueUpdateArrive f.id) s = .next s := by
  change execQueueUpdateArrive f.id s = _
  rw [execQueueUpdateArrive, h.under]
  dsimp only
  rw [h.what]
  dsimp only
  rw [h.stores, if_neg Bool.false_ne_true, hb]

theorem binder_none (h : ∀ (u : Fin 4) (r : QReg) (q : QCopy), ((s.core dst).thr[u]).q[r] = some q → q.addr ≠ p) :
    (s.core dst).binder p = none := by
  unfold Core.binder
  refine List.findSome?_eq_none_iff.2 fun u _ => List.findSome?_eq_none_iff.2 fun r _ => ?_
  split
  next q hq => exact if_neg (by simpa using h u r q hq)
  next => rfl

/-- Held updates that take their turn change `filled`, `seq` and what is held alone. -/
theorem drain_keeps (fuel : Nat) (q : QCopy) :
    (q.drain fuel).head = q.head ∧ (q.drain fuel).tail = q.tail ∧ (q.drain fuel).free = q.free := by
  induction fuel generalizing q with
  | zero => exact ⟨rfl, rfl, rfl⟩
  | succ fuel ih =>
    rw [QCopy.drain]
    split
    · exact ih _
    · exact ⟨rfl, rfl, rfl⟩

theorem update_keeps : (q.update filled n carried).head = q.head ∧ (q.update filled n carried).tail = q.tail ∧
    (filled = true → (q.update filled n carried).free = q.free) := by
  cases filled with
  | false => exact ⟨rfl, rfl, fun h => absurd h Bool.false_ne_true⟩
  | true =>
    cases hq : q.seqord with
    | false => simp [QCopy.update, hq]
    | true =>
      have waits : q.update true n carried = QCopy.drain (q.held.length + 2) { q with held := q.held ++ [(carried, n)] } := by
        simp [QCopy.update, hq]
      obtain ⟨head, tail, free⟩ := drain_keeps (q.held.length + 2) { q with held := q.held ++ [(carried, n)] }
      rw [waits]
      exact ⟨head, tail, fun _ => free⟩

theorem update_unordered (hq : q.seqord = false) : (q.update true n carried).filled = q.filled + n := by
  simp [QCopy.update, hq]

/-- An update of an ordered queue that no other waits for is taken in its turn, and held when it comes before it. -/
theorem update_ordered (hq : q.seqord = true) (hh : q.held = []) : q.update true n carried =
    if BitVec.slt 0 (carried - q.seq) then { q with held := [(carried, n)] }
    else { q with filled := q.filled + n, seq := q.seq + n, held := [] } := by
  have one : q.update true n carried = QCopy.drain 2 { q with held := [(carried, n)] } := by
    simp [QCopy.update, hq, hh]
  rw [one, QCopy.drain]
  cases hs : BitVec.slt 0 (carried - q.seq) with
  | true => simp only [List.find?_cons, hs, Bool.not_true, List.find?_nil, if_true]
  | false =>
    simp only [List.find?_cons, hs, Bool.not_false, List.erase_cons_head, QCopy.drain, List.find?_nil, Bool.false_eq_true, if_false]

end Updating

/-! ## The settled obligation -/

section Settling
variable {s : State} {k : Ctx} {x : Pre} {a : SReg} {r : Fin 16} {f : Fly} {dst p : Nat} {m : Msg} {filled : Bool}
  {n carried : BitVec 32} {u : Fin 4} {h : QReg} {q : QCopy}

/-- A full register is read; the oldest overflow entry for it moves in, and when no other register is empty nothing else moves. -/
theorem mrecv_spec (hi : s.Issues k x) (ha : s.plain k a) (hcalm : Unlogged s k.core) (hf : ((s.own k).m[r]).full = true)
    (hlen : (s.core k.core).overflow.length ≤ 16) : ∃ t, exec (.mrecv x a (BitVec.ofNat 64 r.val)) s = .next t ∧
      (a ≠ 0 → (t.own k).s[a] = ((s.own k).m[r]).val) ∧ t.mem = s.mem ∧
      (∀ m, (s.core k.core).overflow.find? (Msg.isFor k.ts r) = some m → (t.own k).m[r] = ⟨m.val, true⟩ ∧
        ((∀ m ∈ (s.core k.core).overflow, regFull s k.core m = true) →
          (t.core k.core).overflow = (s.core k.core).overflow.erase m)) ∧
      ((s.core k.core).overflow.find? (Msg.isFor k.ts r) = none → ((t.own k).m[r]).full = false ∧
        ((∀ m ∈ (s.core k.core).overflow, regFull s k.core m = true) →
          (t.core k.core).overflow = (s.core k.core).overflow)) := by
  have receives := mrecv_receives (imm := BitVec.ofNat 64 r.val) hi ha hcalm (by simpa only [msgReg_ofNat] using hf)
  simp only [msgReg_ofNat] at receives
  have calm : Unlogged (emptied s.unpopped k r) k.core := emptied_unlogged (s := s.unpopped) hcalm
  refine ⟨_, receives, own_wrote, (drainReg_keepsOperands (s := s.unpopped) hcalm).mem, fun m hm => ⟨?_, fun hfull => ?_⟩,
    fun hnone => ⟨?_, fun hfull => ?_⟩⟩
  · rw [own_wrote_m, drainReg_eq]
    refine moveOverflow_fills 17 calm ?_ emptied_reg ?_
    · rw [emptied_overflow]
      exact Nat.lt_succ_of_le hlen
    · rw [emptied_overflow]
      exact hm
  · rw [wrote_overflow]
    exact drainReg_first (s := s.unpopped) hcalm hfull hm
  · rw [own_wrote_m, drainReg_eq]
    refine (congrArg MReg.full (moveOverflow_spares 17 calm ?_)).trans emptied_reg
    rw [emptied_overflow]
    exact hnone
  · rw [wrote_overflow]
    exact drainReg_none (s := s.unpopped) hcalm hfull hnone

theorem messageArrive_fills (hf : s.fab.fly.find? (·.id == f.id) = some f) (hw : f.what = .msg dst m)
    (hs : s.behindStores f = false) (hm : s.behindMessage f dst m = false) (hcalm : Unlogged s dst)
    (hr : ((s.thread dst m.ts).m[m.reg]).full = false) (he : ¬Earlier s dst m) : ∃ t, exec (.messageArrive f.id) s = .next t ∧
      (t.thread dst m.ts).m[m.reg] = ⟨m.val, true⟩ ∧ t.mem = s.mem ∧ t.fab.fly = s.fab.fly.filter (·.id != f.id) := by
  obtain ⟨t, ht, reg, fab, mem⟩ := deliverMsg_fills hcalm hr fun o ho hts hreg hsrc => he ⟨o, ho, hts, hreg, hsrc⟩
  refine ⟨t.landed f.id, (messageArrive_delivers hf hw hs hm).trans (by rw [ht]; rfl), reg, mem, ?_⟩
  rw [State.landed, fab]

theorem messageArrive_buffers (hf : s.fab.fly.find? (·.id == f.id) = some f) (hw : f.what = .msg dst m)
    (hs : s.behindStores f = false) (hm : s.behindMessage f dst m = false)
    (hl : ((s.thread dst m.ts).m[m.reg]).full = true ∨ Earlier s dst m) (hroom : (s.core dst).overflow.length < 16) :
    ∃ t, exec (.messageArrive f.id) s = .next t ∧ (t.core dst).overflow = (s.core dst).overflow ++ [m] ∧
      (t.thread dst m.ts).m = (s.thread dst m.ts).m ∧ t.fab.fly = s.fab.fly.filter (·.id != f.id) := by
  refine ⟨_, (messageArrive_delivers hf hw hs hm).trans (by rw [deliverMsg_later hl, if_pos hroom]), ?_, ?_, rfl⟩
  · exact congrArg Core.overflow (Laws.State.core_setCore s dst _)
  · exact congrArg Thread.m (Laws.State.thread_setCore s dst m.ts _)

theorem messageArrive_waits (hf : s.fab.fly.find? (·.id == f.id) = some f) (hw : f.what = .msg dst m)
    (hs : s.behindStores f = false) (hm : s.behindMessage f dst m = false)
    (hl : ((s.thread dst m.ts).m[m.reg]).full = true ∨ Earlier s dst m) (hroom : 16 ≤ (s.core dst).overflow.length) :
    exec (.messageArrive f.id) s = .next s := by
  rw [messageArrive_delivers hf hw hs hm, deliverMsg_later hl, if_neg (not_lt.2 hroom)]
  rfl

theorem queueUpdateArrive_spec (hu : MayUpdate s f dst p filled n carried) (hb : (s.core dst).binder p = some (u, h, q)) :
    ∃ t, exec (.queueUpdateArrive f.id) s = .next t ∧ (t.thread dst u).q[h] = some (q.update filled n carried) ∧ t.mem = s.mem ∧
      t.fab.fly = s.fab.fly.filter (·.id != f.id) := by
  refine ⟨_, queueUpdateArrive_bound hu hb, ?_, rfl, rfl⟩
  rw [Laws.State.thread_modThread]
  exact Vector.getElem_set_self ..

end Settling

/-- Settles O38: `MSEND` by its target and the room there, arrivals by the register, the buffer and the mailbox that they find, and
an update by the handle that binds its descriptor. -/
theorem messageResults : Obligations.MessageResults := by
  refine ⟨⟨fun s k x a b imm q hi ha hb hq => ?_, fun s dst u r h => messageRoom_alone h, fun s k x a r hi ha => ?_,
    fun s f dst m hf hw hs hm hcalm => ⟨fun hr he => messageArrive_fills hf hw hs hm hcalm hr he,
      fun hl hroom => messageArrive_buffers hf hw hs hm hl hroom, fun hl hroom => messageArrive_waits hf hw hs hm hl hroom⟩⟩,
    fun s k x a n hi ha hb => ⟨mbwait_reads hi ha, mbwait_held hi, mbpop_held hi, fun w0 w1 r hl => mbpop_spec hi ha hb hl⟩,
    fun s f dst w0 w1 e hf hw hs ho hcalm => ?_, fun s core w0 w1 => mailboxDeposit_system core,
    fun s f dst p filled n carried hf hw hs => ?_⟩
  · simp only [clampFin_four, clampFin_sixteen]
    refine ⟨fun hbad => msend_traps hi ha hb hq fun hw => ?_, fun h1 h2 h3 => msend_stalls hi ha hb hq ⟨h1, h2, h3⟩,
      fun h1 h2 h3 => msend_sends hi ha hb hq ⟨h1, h2, h3⟩⟩
    have := hw.word
    have := hw.crew
    have := hw.thread
    omega
  · refine ⟨⟨_, mpoll_reads hi ha, fun j => ?_, fun j hj => ?_⟩, fun hf => ?_, fun hf hcalm hlen => ?_⟩
    · rw [fullBits_getLsbD, dif_pos j.isLt]
      rfl
    · rw [fullBits_getLsbD, dif_neg (not_lt.2 hj)]
    · exact mrecv_held hi (by simpa only [msgReg_ofNat] using hf)
    · obtain ⟨t, ht, reg, mem, first, none_⟩ := mrecv_spec hi ha hcalm hf hlen
      refine ⟨t, ht, reg, mem, ?_⟩
      dsimp only
      split
      next m hm => exact first m hm
      next hm => exact none_ hm
  · have may : MayDeposit s f dst w0 w1 e := ⟨hf, hw, hs, ho, hcalm⟩
    refine ⟨fun hroom => ⟨_, (mailboxDeposit_arrives may).trans (congrArg _ (if_pos hroom)), ?_, ?_, rfl, ?_, rfl⟩, fun hfull =>
      (mailboxDeposit_arrives may).trans (congrArg _ (if_neg (not_lt.2 hfull)))⟩
    · rw [Laws.State.core_setCore]
      rfl
    · rw [Laws.State.core_setCore]
      rfl
    · rw [Laws.State.core_setCore]
      exact deposited_held hroom
  · have may : MayUpdate s f dst p filled n carried := ⟨hf, hw, hs⟩
    refine ⟨fun hnone => queueUpdateArrive_unbound may (binder_none hnone), fun u r q hb => ?_⟩
    obtain ⟨t, ht, hz, mem, fly⟩ := queueUpdateArrive_spec may hb
    obtain ⟨head, tail, free⟩ := update_keeps (q := q) (filled := filled) (n := n) (carried := carried)
    refine ⟨t, _, ht, hz, mem, fly, head, tail, fun hfree => ?_, fun hfill => ⟨free hfill, fun hq => ?_, fun hq hh => ⟨?_, ?_⟩⟩⟩
    · subst hfree
      exact ⟨rfl, rfl⟩
    · subst hfill
      exact update_unordered hq
    · subst hfill
      rintro rfl
      rw [update_ordered hq hh, if_neg (by simp)]
      exact ⟨rfl, rfl, rfl⟩
    · subst hfill
      intro hbefore
      rw [update_ordered hq hh, if_pos hbefore]
      exact ⟨rfl, rfl, rfl⟩

end Sys2Proof.Proofs

/-!
Proofs: copy requests and segment fetches at issue (R177, R179, R319, R320).
-/
namespace Sys2Proof.Proofs
open Sys2Proof Sys2Proof.Machine

section Issuing
variable {s u : State} {k : Ctx} {x : Pre} {a b c : SReg} {busy : Bool}

theorem own_wrote_pc {v : Word} : ((wrote u k a v).own k).pc = ((u.own k).loopNext k.next).pc := by
  rw [wrote, own_retire_pc]
  refine loopNext_pc_congr ?_ _
  rw [State.own, Laws.State.thread_modThread, Thread.setS]
  split <;> rfl

theorem wrote_core {v : Word} : ((wrote u k a v).core k.core).copyq = (u.core k.core).copyq ∧
    ((wrote u k a v).core k.core).segValid = (u.core k.core).segValid := by
  rw [wrote, State.retire, Laws.State.modThread_modThread, State.modThread, Laws.State.core_setThread]
  exact ⟨rfl, rfl⟩

/-! ## Requests in the copy queue -/

variable {words : List Word} {cfet : Option (Fin 16 × Word)}

/-- The request that an instruction puts into the copy queue. -/
def requestOf (s : State) (k : Ctx) (words : List Word) (cfet : Option (Fin 16 × Word)) : CopyReq :=
  ⟨s.fab.nextId, k.ts, k.resident, words, cfet, [], 0⟩

theorem pushCopy_keepsOperands : KeepsOperands k s (s.pushCopy k words cfet) := by
  obtain ⟨regs, streams, vq, mq, mem⟩ := KeepsOperands.setCore s
    (c := { s.core k.core with copyq := (s.core k.core).copyq ++ [requestOf s k words cfet] }) rfl rfl rfl
  exact ⟨regs, streams, vq, mq, mem⟩

theorem core_pushCopy : (s.pushCopy k words cfet).core k.core =
    { s.core k.core with copyq := (s.core k.core).copyq ++ [requestOf s k words cfet] } := Laws.State.core_setCore ..

theorem own_pushCopy : (s.pushCopy k words cfet).own k = s.own k := Laws.State.thread_setCore ..

/-! ## `COPY` and `COPYB` (R319) -/

theorem exec_copy : exec (.copy x a b) s = copyInto false x a b s := rfl
theorem exec_copyb : exec (.copyb x a b) s = copyInto true x a b s := rfl

theorem copyInto_pushes (hi : s.Issues k x) (ha : s.plain k a) (hb : s.plain k b) (hr : Readable s k b)
    (hl : s.copyLoad k.core < 8) :
    copyInto busy x a b s = .next (wrote (s.unpopped.pushCopy k (descOf s k b) none) k a 0) := by
  refine issue_wrote hi (pushCopy_keepsOperands.plain (s := s.unpopped) ha) ?_
  rw [Laws.readS_bind (s := s.unpopped) hb, Laws.State.sreg_unpopped, readDesc_bind hr, Laws.getState_bind]
  exact congrFun (if_pos hl) s.unpopped

theorem copyInto_held (hi : s.Issues k x) (hb : s.plain k b) (hr : Readable s k b) (hl : 8 ≤ s.copyLoad k.core) :
    copyInto false x a b s = .next (s.held k) := by
  refine Laws.issue_held hi ?_
  rw [Laws.readS_bind (s := s.unpopped) hb, Laws.State.sreg_unpopped, readDesc_bind hr, Laws.getState_bind]
  exact congrFun ((if_neg (not_lt.2 hl)).trans (if_neg Bool.false_ne_true)) s.unpopped

theorem copyInto_busy (hi : s.Issues k x) (ha : s.plain k a) (hb : s.plain k b) (hr : Readable s k b)
    (hl : 8 ≤ s.copyLoad k.core) : copyInto true x a b s = .next (s.retires k .next (·.setS a 1)) := by
  refine Laws.issue_writes hi ha ?_
  rw [Laws.readS_bind (s := s.unpopped) hb, Laws.State.sreg_unpopped, readDesc_bind hr, Laws.getState_bind]
  exact congrFun ((if_neg (not_lt.2 hl)).trans (if_pos rfl)) s.unpopped

theorem copyInto_spec (busy : Bool) (hi : s.Issues k x) (ha : s.plain k a) (hb : s.plain k b) (hr : Readable s k b)
    (hl : s.copyLoad k.core < 8) : ∃ t r, copyInto busy x a b s = .next t ∧
      (t.core k.core).copyq = (s.core k.core).copyq ++ [r] ∧ r.ts = k.ts ∧ r.cfet = none ∧ r.words = descOf s k b ∧
      (a ≠ 0 → (t.own k).s[a] = 0) ∧ t.mem = s.mem ∧ (t.own k).pc = ((s.own k).loopNext k.next).pc := by
  refine ⟨_, requestOf s.unpopped k (descOf s k b) none, copyInto_pushes hi ha hb hr hl, ?_, rfl, rfl, rfl, own_wrote, rfl, ?_⟩
  · rw [wrote_core.1, core_pushCopy]
    rfl
  · rw [own_wrote_pc, own_pushCopy]
    rfl

/-! ## `CFET` and `CFETB` (R320) -/

theorem exec_cfet : exec (.cfet x a b c) s = fetchInto false x a b c s := rfl
theorem exec_cfetb : exec (.cfetb x a b c) s = fetchInto true x a b c s := rfl

/-- The operands of a segment fetch name a segment and a place in global space (R320). -/
def segmentNamed (g w : Word) : Prop := g ≠ 0 ∧ g.toNat ≤ 15 ∧ w.getLsbD 63 = true

theorem segmentNamed_iff (g w : Word) : (g = 0 || 15 < g.toNat || !w.getLsbD 63) = false ↔ segmentNamed g w := by
  simp [segmentNamed, and_assoc]

theorem fetchInto_unnamed (hi : s.Issues k x) (hb : s.plain k b) (hc : s.plain k c)
    (hn : ¬segmentNamed (s.sreg k b) (s.sreg k c)) : fetchInto busy x a b c s = .next (s.traps k 0x02 0) := by
  refine Laws.issue_traps hi ?_
  rw [Laws.readS_bind (s := s.unpopped) hb, Laws.readS_bind (s := s.unpopped) hc, Laws.State.sreg_unpopped,
    Laws.State.sreg_unpopped, Laws.trapIf_bind, if_pos]
  rwa [← segmentNamed_iff, Bool.not_eq_false] at hn

theorem fetchInto_misaligned (hi : s.Issues k x) (hb : s.plain k b) (hc : s.plain k c)
    (hn : segmentNamed (s.sreg k b) (s.sreg k c)) (hal : (s.sreg k c).toNat % 64 ≠ 0) :
    fetchInto busy x a b c s = .next (s.traps k 0x60 (s.sreg k c)) := by
  refine Laws.issue_traps hi ?_
  rw [Laws.readS_bind (s := s.unpopped) hb, Laws.readS_bind (s := s.unpopped) hc, Laws.State.sreg_unpopped,
    Laws.State.sreg_unpopped, Laws.trapIf_bind, (segmentNamed_iff ..).2 hn, if_neg Bool.false_ne_true, Laws.trapIf_bind,
    if_pos (bne_iff_ne.2 hal)]

/-- A fetch of a named segment from an aligned place, behind no acquire command. -/
structure Fetchable (s : State) (k : Ctx) (b c : SReg) : Prop where
  named : segmentNamed (s.sreg k b) (s.sreg k c)
  aligned : (s.sreg k c).toNat % 64 = 0
  free : s.acquiring k.core k.ts = false

/-- The segment that a register names. -/
def segNamed (g : Word) : Fin 16 := ⟨g.toNat % 16, Nat.mod_lt _ (by decide)⟩

/-- The state with a segment fetch in the copy queue and its segment invalid (R179). -/
def fetchBegun (s : State) (k : Ctx) (g : Fin 16) (w : Word) : State :=
  let t := s.pushCopy k [] (some (g, w))
  t.setCore k.core ((t.core k.core).beginFetch g)

theorem fetchBegun_keepsOperands {g : Fin 16} {w : Word} : KeepsOperands k s (fetchBegun s k g w) :=
  pushCopy_keepsOperands.trans (.setCore _ rfl rfl rfl)

theorem fetchOperands_bind {f : Word → Word → State → M Machine.Flow} (hb : s.plain k b) (hc : s.plain k c)
    (hf : Fetchable s k b c) :
    (do let g ← readS k b
        let p ← readS k c
        trapIf (g = 0 || 15 < g.toNat || !p.getLsbD 63) 0x02
        trapIf (p.toNat % 64 != 0) 0x60 p
        let s ← getState
        holdUnless (!s.acquiring k.core k.ts)
        f g p s : M Machine.Flow) s.unpopped = f (s.sreg k b) (s.sreg k c) s.unpopped s.unpopped := by
  have free : (!s.unpopped.acquiring k.core k.ts) = true := (Bool.not_eq_true' _).mpr hf.free
  rw [Laws.readS_bind (s := s.unpopped) hb, Laws.readS_bind (s := s.unpopped) hc, Laws.State.sreg_unpopped,
    Laws.State.sreg_unpopped, Laws.trapIf_bind, (segmentNamed_iff ..).2 hf.named, if_neg Bool.false_ne_true, Laws.trapIf_bind,
    if_neg (by simp [hf.aligned]), Laws.getState_bind, Laws.holdUnless_bind, if_pos free]

theorem fetchInto_begins (hi : s.Issues k x) (ha : s.plain k a) (hb : s.plain k b) (hc : s.plain k c) (hf : Fetchable s k b c)
    (hl : s.copyLoad k.core < 8) : fetchInto busy x a b c s =
      .next (wrote (fetchBegun s.unpopped k (segNamed (s.sreg k b)) (s.sreg k c)) k a 0) := by
  refine issue_wrote hi (fetchBegun_keepsOperands.plain (s := s.unpopped) ha) ((fetchOperands_bind hb hc hf).trans ?_)
  exact congrFun (if_pos hl) s.unpopped

theorem fetchInto_held (hi : s.Issues k x) (hb : s.plain k b) (hc : s.plain k c) (hf : Fetchable s k b c)
    (hl : 8 ≤ s.copyLoad k.core) : fetchInto false x a b c s = .next (s.held k) := by
  refine Laws.issue_held hi ((fetchOperands_bind hb hc hf).trans ?_)
  exact congrFun ((if_neg (not_lt.2 hl)).trans (if_neg Bool.false_ne_true)) s.unpopped

theorem fetchInto_busy (hi : s.Issues k x) (ha : s.plain k a) (hb : s.plain k b) (hc : s.plain k c) (hf : Fetchable s k b c)
    (hl : 8 ≤ s.copyLoad k.core) : fetchInto true x a b c s = .next (s.retires k .next (·.setS a 1)) := by
  refine Laws.issue_writes hi ha ((fetchOperands_bind hb hc hf).trans ?_)
  exact congrFun ((if_neg (not_lt.2 hl)).trans (if_pos rfl)) s.unpopped

theorem core_fetchBegun {g : Fin 16} {w : Word} : (fetchBegun s k g w).core k.core =
    Core.beginFetch { s.core k.core with copyq := (s.core k.core).copyq ++ [requestOf s k [] (some (g, w))] } g := by
  rw [fetchBegun, Laws.State.core_setCore, core_pushCopy]

/-- The valid bit of a segment being fetched is 0. -/
theorem beginFetch_invalid (c : Core) (g : Fin 16) : (c.beginFetch g).segValid.getLsbD g.val = false := by
  have g16 := g.isLt
  rw [Core.beginFetch, BitVec.getLsbD_and, BitVec.getLsbD_not, BitVec.getLsbD_shiftLeft]
  simp [g16]

theorem fetchInto_spec (busy : Bool) (hi : s.Issues k x) (ha : s.plain k a) (hb : s.plain k b) (hc : s.plain k c)
    (hf : Fetchable s k b c) (hl : s.copyLoad k.core < 8) : ∃ t r, fetchInto busy x a b c s = .next t ∧
      (t.core k.core).copyq = (s.core k.core).copyq ++ [r] ∧ (∃ n, r.cfet = some (n, s.sreg k c) ∧ n.val = (s.sreg k b).toNat) ∧
      (t.core k.core).segValid.getLsbD (s.sreg k b).toNat = false ∧ (a ≠ 0 → (t.own k).s[a] = 0) ∧ t.mem = s.mem := by
  have number : (segNamed (s.sreg k b)).val = (s.sreg k b).toNat := Nat.mod_eq_of_lt (Nat.lt_succ_of_le hf.named.2.1)
  refine ⟨_, requestOf s.unpopped k [] (some (segNamed (s.sreg k b), s.sreg k c)), fetchInto_begins hi ha hb hc hf hl, ?_,
    ⟨_, rfl, number⟩, ?_, own_wrote, rfl⟩
  · rw [wrote_core.1, core_fetchBegun]
    rfl
  · rw [wrote_core.2, core_fetchBegun, ← number]
    exact beginFetch_invalid ..

end Issuing
end Sys2Proof.Proofs

/-!
Proofs: copies and segment fetches performed (R177, R179, R163).
-/
namespace Sys2Proof.Proofs
open Sys2Proof Sys2Proof.Machine

/-! ## Accesses of the core's own scratchpad (R101) -/

section OwnPad
variable {s : State} {core : Nat} {a : Word} {n : Nat} {sys : Bool}

/-- An access of a core to its own scratchpad. -/
def ownAccess (core off : Nat) : Access := ⟨.pad core off, .sram (padKey core + off), 0⟩

theorem place_low (h : a.toNat < 0x3C000) : s.place core a sys = .ok (.pad core a.toNat) := by
  have inside : a.toNat < 0x40000 := by omega
  have unreserved : ¬(sysReserved ≤ a.toNat ∧ (!sys) = true) := fun ⟨h1, _⟩ => absurd h1 (by rw [sysReserved]; omega)
  cases ht : s.taskOf core with
  | none => simp only [State.place, ht, if_pos inside, if_neg unreserved]
  | some q => simp only [State.place, ht, if_pos inside, if_neg unreserved]

theorem homeScope_own (off : Nat) (l : Loc) : State.homeScope core (.pad core off) l = 0 := by
  rw [State.homeScope, commonScope, if_pos (beq_self_eq_true core)]

theorem access_own_read (hn : 0 < n) (h : a.toNat + n ≤ 0x3C000) :
    s.access core a n 1 false sys = .ok (ownAccess core a.toNat, s) := by
  have tail : a.toNat + n ≤ 0x40000 := by omega
  simp [State.access, Nat.mod_one, place_low (s := s) (core := core) (sys := sys) (show a.toNat < 0x3C000 by omega), tail,
    State.locate, homeScope_own, ownAccess]

theorem partsOf_none (h : ∀ p : Fin 8, (s.core core).parts[p] = none) : s.partsOf core = [] := by
  simp [State.partsOf, h]

theorem access_own_write (hn : 0 < n) (h : a.toNat + n ≤ 0x3C000) (hparts : ∀ p : Fin 8, (s.core core).parts[p] = none)
    (hmay : s.mayStore (s.taskNo core) (s.relOf core) (s.asidOf core) (s.absAddr core (.pad core a.toNat)) n = true) :
    s.access core a n 1 true sys = .ok (ownAccess core a.toNat, s) := by
  have tail : a.toNat + n ≤ 0x40000 := by omega
  have bare : s.lapProtected core a.toNat n = false := by rw [State.lapProtected, partsOf_none hparts, List.any_nil]
  simp [State.access, Nat.mod_one, place_low (s := s) (core := core) (sys := sys) (show a.toNat < 0x3C000 by omega), tail,
    State.locate, homeScope_own, ownAccess, hmay, bare]

/-- An access of the own scratchpad passes no arbiter (R55). -/
theorem touch_own (hcore : core < 4096) {off : Nat} (ho : off < 0x40000) : s.touch core (ownAccess core off) = s := by
  have unit : sramUnit (padKey core + off) < 0x10000 := by
    rw [sramUnit, padKey, if_pos (by omega)]
    omega
  have home : homeArbiter (ownAccess core off).home = [] := if_neg (not_le.2 unit)
  rw [State.touch, Access.arbiters, home]
  rfl

theorem copyRead_own (hcore : core < 4096) (hn : 0 < n) (h : a.toNat + n ≤ 0x3C000)
    (hparts : ∀ p : Fin 8, (s.core core).parts[p] = none) (stop : Nat) (first : Bool) :
    s.copyRead core sys stop first a n = (.ok (readSpan n (padKey core + a.toNat) s.mem.sram), s) := by
  have laps (m : Nat) : s.lapCheckAt core (ownAccess core a.toNat).place m = .plain := by
    simp [State.lapCheckAt, ownAccess, State.lapCheck, partsOf_none hparts]
  simp only [State.copyRead, access_own_read hn h, laps, ite_self, touch_own hcore (show a.toNat < 0x40000 by omega)]
  rfl

theorem land_own (hcore : core < 4096) {off : Nat} (ho : off < 0x40000)
    (hparts : ∀ p : Fin 8, (s.core core).parts[p] = none) (bs : List Byte) :
    s.land (.sram (padKey core + off)) bs = s.writeSram (padKey core + off) bs := by
  have pad : padKey core + off < 0x40000000 := by rw [padKey]; omega
  have unit : (padKey core + off) / 0x40000 = core := by rw [padKey]; omega
  have bare : (s.writeSram (padKey core + off) bs).partsOf core = [] := partsOf_none hparts
  simp only [State.land, if_pos pad, unit, State.markDirty, bare, List.foldl_nil]

theorem copyWrite_own (hcore : core < 4096) {bs : List Byte} (hn : 0 < bs.length) (h : a.toNat + bs.length ≤ 0x3C000)
    (hparts : ∀ p : Fin 8, (s.core core).parts[p] = none)
    (hmay : s.mayStore (s.taskNo core) (s.relOf core) (s.asidOf core) (s.absAddr core (.pad core a.toNat)) bs.length = true) :
    s.copyWrite core sys a bs = (.ok (), s.writeSram (padKey core + a.toNat) bs) := by
  have low : a.toNat < 0x40000 := by omega
  have place : (ownAccess core a.toNat).loc = .sram (padKey core + a.toNat) := rfl
  simp only [State.copyWrite, access_own_write hn h hparts hmay, place, land_own hcore low hparts, touch_own hcore low]

/-! ## Capability regions, byte by byte (R110, R111) -/

variable {who : Option (Nat × Nat)} {asid : BitVec 16}

theorem foldl_lowest_isSome (l : List Word) (d : Word) :
    (l.foldl (fun m e => match m with | none => some e | some d => some (if e.toNat < d.toNat then e else d)) (some d)).isSome := by
  induction l generalizing d with
  | nil => rfl
  | cons e l ih => exact ih _

/-- A byte that a store is refused at is among those that decide its refusal. -/
theorem byteRefused_of_capRefusal (h : s.capRefusal who asid a 1 = none) : s.byteRefused who asid a = false := by
  by_contra refused
  rw [Bool.not_eq_false] at refused
  have first : decide (a.toNat ≤ a.toNat ∧ a.toNat < a.toNat + 1) = true := by simp
  rw [State.capRefusal, List.filter_cons_of_pos (by rw [first, refused]; rfl), List.foldl_cons] at h
  exact absurd h (Option.isSome_iff_ne_none.1 (foldl_lowest_isSome ..))

theorem capRefusal_none (h : ∀ e : Word, a.toNat ≤ e.toNat → e.toNat < a.toNat + n → s.byteRefused who asid e = false) :
    s.capRefusal who asid a n = none := by
  rw [State.capRefusal, List.filter_eq_nil_iff.2]
  · rfl
  · intro e _ he
    rw [Bool.and_eq_true, decide_eq_true_eq] at he
    obtain ⟨⟨low, high⟩, refused⟩ := he
    exact absurd refused (Bool.eq_false_iff.1 (h e low high))

/-- The absolute form of the first byte of the core's scratchpad (R109). -/
def padOrigin (s : State) (core : Nat) : Nat :=
  0x200000000 + (core - match s.taskOf core with | some t => t.base | none => core) * 0x40000

theorem absAddr_own (hcore : core < 4096) {off : Nat} (ho : off < 0x40000) :
    (s.absAddr core (.pad core off)).toNat = padOrigin s core + off := by
  simp only [State.absAddr, padOrigin]
  cases s.taskOf core <;> simp only [BitVec.toNat_ofNat] <;> omega

/-- Stores that are allowed byte by byte are allowed together. -/
theorem mayStore_span (hcore : core < 4096) {off : Nat} (ho : off + n ≤ 0x3C000) {task rel : Nat}
    (h : ∀ b, off ≤ b → b < off + n → s.mayStore task rel asid (s.absAddr core (.pad core b)) 1 = true) (hn : 0 < n) :
    s.mayStore task rel asid (s.absAddr core (.pad core off)) n = true := by
  rw [State.mayStore, Option.isNone_iff_eq_none]
  refine capRefusal_none fun e low high => ?_
  rw [absAddr_own hcore (by omega)] at low high
  have byte : e = s.absAddr core (.pad core (e.toNat - padOrigin s core)) := by
    apply BitVec.eq_of_toNat_eq
    rw [absAddr_own hcore (by omega)]
    omega
  rw [byte]
  exact byteRefused_of_capRefusal (Option.isNone_iff_eq_none.1 (h _ (by omega) (by omega)))

end OwnPad

/-! ## A range of the scratchpad copied, block by block (R177) -/

section Moved
variable {m m' m'' : Memory} {src dst k n : Nat}

/-- `n` bytes have been copied from one place of a memory to another, and no other byte has changed. -/
structure Copied (m m' : Memory) (src dst n : Nat) : Prop where
  wf : m'.wf = true
  moved : ∀ j, j < n → readByte m' (dst + j) = readByte m (src + j)
  kept : ∀ g, g < dst ∨ dst + n ≤ g → readByte m' g = readByte m g

theorem Copied.none (h : m.wf = true) (src dst : Nat) : Copied m m src dst 0 :=
  ⟨h, fun _ hj => absurd hj (Nat.not_lt_zero _), fun _ _ => rfl⟩

theorem length_readSpan (h : m.wf = true) (n a : Nat) : (readSpan n a m).length = n := by
  rw [Laws.readSpan_eq h, List.length_map, List.length_range]

theorem copied_writeSpan (h : m.wf = true) (src dst n : Nat) : Copied m (writeSpan m dst (readSpan n src m)) src dst n := by
  refine ⟨Laws.writeSpan_wf h .., fun j hj => ?_, fun g hg => ?_⟩
  · rw [Laws.readByte_writeSpan_same h (by rwa [length_readSpan h])]
    simp [Laws.readSpan_eq h]
  · exact Laws.readByte_writeSpan_other h (by rwa [length_readSpan h])

/-- A range copied in two parts, its source clear of its destination. -/
theorem Copied.append (h1 : Copied m m' src dst k) (h2 : Copied m' m'' (src + k) (dst + k) n)
    (hd : src + (k + n) ≤ dst ∨ dst + (k + n) ≤ src) : Copied m m'' src dst (k + n) := by
  refine ⟨h2.wf, fun j hj => ?_, fun g hg => ?_⟩
  · by_cases hjk : j < k
    · rw [h2.kept _ (.inl (by omega)), h1.moved j hjk]
    · obtain ⟨i, rfl⟩ := Nat.exists_eq_add_of_le (not_lt.1 hjk)
      rw [← Nat.add_assoc, h2.moved i (by omega), h1.kept _ (by omega), Nat.add_assoc]
  · rw [h2.kept g (by omega), h1.kept g (by omega)]

theorem readSpan_add (h : m.wf = true) (k n a : Nat) : readSpan (k + n) a m = readSpan k a m ++ readSpan n (a + k) m := by
  simp [Laws.readSpan_eq h, List.range_add, Function.comp_def, Nat.add_assoc]

end Moved

section Pieces
variable {a : Word} {n fuel : Nat}

/-- The size of the first piece of a range. -/
def pieceSize (a : Word) (n : Nat) : Nat := min n (64 - a.toNat % 64)

theorem pieces_cons (hn : 0 < n) : pieces (fuel + 1) a n =
    (a, pieceSize a n) :: pieces fuel (a + BitVec.ofNat 64 (pieceSize a n)) (n - pieceSize a n) := by
  rw [pieces, if_neg (by simp; omega)]
  rfl

theorem pieces_zero (fuel : Nat) (a : Word) : pieces fuel a 0 = [] := by
  cases fuel <;> rfl

theorem pieceSize_pos (hn : 0 < n) : 0 < pieceSize a n := by
  rw [pieceSize]
  omega

theorem pieceSize_le : pieceSize a n ≤ n := min_le_left ..

theorem advance_toNat (h : a.toNat + n ≤ 0x3C000) {k : Nat} (hk : k ≤ n) : (a + BitVec.ofNat 64 k).toNat = a.toNat + k := by
  rw [BitVec.toNat_add, BitVec.toNat_ofNat]
  omega

/-- Pieces enough for a range: what is left after the first piece begins a block. -/
theorem pieces_suffice (h : a.toNat + n ≤ 0x3C000) (hf : n + a.toNat % 64 ≤ 64 * (fuel + 1)) :
    n - pieceSize a n = 0 ∨
      n - pieceSize a n + (a + BitVec.ofNat 64 (pieceSize a n)).toNat % 64 ≤ 64 * fuel := by
  rw [advance_toNat h pieceSize_le, pieceSize]
  omega

theorem piecesOf_suffice (a : Word) (n : Nat) : n + a.toNat % 64 ≤ 64 * (n / 64 + 2) := by omega

end Pieces

section Copying
variable {s : State} {core : Nat} {sys : Bool}

/-- A state with another SRAM. -/
def withSram (s : State) (m : Memory) : State := { s with mem := { s.mem with sram := m } }

theorem copyReadAll_own (hcore : core < 4096) (hparts : ∀ p : Fin 8, (s.core core).parts[p] = none) (hwf : s.mem.sram.wf = true)
    (stop fuel : Nat) (first : Bool) (a : Word) (n : Nat) (h : a.toNat + n ≤ 0x3C000)
    (hf : n = 0 ∨ n + a.toNat % 64 ≤ 64 * fuel) : s.copyReadAll (coreIo core sys stop) first (pieces fuel a n) =
      (.ok (readSpan n (padKey core + a.toNat) s.mem.sram), s) := by
  induction fuel generalizing first a n with
  | zero =>
    obtain rfl : n = 0 := by omega
    rfl
  | succ fuel ih =>
    obtain rfl | hn := Nat.eq_zero_or_pos n
    · rfl
    · have size := pieceSize_le (a := a) (n := n)
      have next := advance_toNat h size
      have head : (coreIo core sys stop).rd s first a (pieceSize a n) = (.ok (readSpan (pieceSize a n) (padKey core + a.toNat)
          s.mem.sram), s) := copyRead_own hcore (pieceSize_pos hn) (by omega) hparts stop first
      have rest := ih false (a + BitVec.ofNat 64 (pieceSize a n)) (n - pieceSize a n) (by omega)
        (pieces_suffice h (by omega))
      have whole : readSpan n (padKey core + a.toNat) s.mem.sram = _ :=
        (congrArg (readSpan · _ _) (Nat.add_sub_cancel' size).symm).trans (readSpan_add hwf _ _ _)
      rw [pieces_cons hn]
      simp only [State.copyReadAll, head, rest, next, whole, Nat.add_assoc]

theorem copyBlocks_cons {was t : State} {io : CopyIo} {dst a src : Word} {k done : Nat} {bs : List Byte}
    {r : List (Word × Nat)} (hd : dst.getLsbD 63 = false) (hr : s.copyReadAll io (done == 0) (piecesOf src k) = (.ok bs, s))
    (hw : io.wr s a bs = (.ok (), t)) : s.copyBlocks was io none dst ((a, k) :: r) src done =
      t.copyBlocks was io none dst r (src + BitVec.ofNat 64 k) (done + k) := by
  rw [State.copyBlocks]
  simp only [hr, hd, Bool.and_false, Bool.false_eq_true, if_false, hw]

/-- What a copy within the core's own scratchpad asks of the state (R177). -/
structure CopiesOwn (s : State) (core : Nat) (src dst n : Nat) : Prop where
  core_lt : core < 4096
  bare : ∀ p : Fin 8, (s.core core).parts[p] = none
  source : src + n ≤ 0x3C000
  destination : dst + n ≤ 0x3C000
  apart : src + n ≤ dst ∨ dst + n ≤ src
  allowed : ∀ a, dst ≤ a → a < dst + n →
    s.mayStore (s.taskNo core) (s.relOf core) (s.asidOf core) (s.absAddr core (.pad core a)) 1 = true

/-- The rest of a copy whose first bytes have moved. -/
theorem CopiesOwn.rest {src dst n k : Nat} (h : CopiesOwn s core src dst n) (hk : k ≤ n) :
    CopiesOwn s core (src + k) (dst + k) (n - k) where
  core_lt := h.core_lt
  bare := h.bare
  source := by have := h.source; omega
  destination := by have := h.destination; omega
  apart := by have := h.apart; omega
  allowed a low high := h.allowed a (by omega) (by omega)

theorem copyBlocks_own {was : State} {stop : Nat} {dst : Word} (hd : dst.getLsbD 63 = false) (fuel : Nat) (m : Memory)
    (hwf : m.wf = true) (a src : Word) (n done : Nat) (h : CopiesOwn s core src.toNat a.toNat n)
    (hf : n = 0 ∨ n + a.toNat % 64 ≤ 64 * fuel) :
    ∃ m', (withSram s m).copyBlocks was (coreIo core sys stop) none dst (pieces fuel a n) src done =
        (.ok ⟨0, 0, 0, BitVec.ofNat 64 (done + n), done + n⟩, withSram s m') ∧
      Copied m m' (padKey core + src.toNat) (padKey core + a.toNat) n := by
  induction fuel generalizing m a src n done with
  | zero =>
    obtain rfl : n = 0 := by omega
    exact ⟨m, rfl, .none hwf ..⟩
  | succ fuel ih =>
    obtain rfl | hn := Nat.eq_zero_or_pos n
    · exact ⟨m, rfl, .none hwf ..⟩
    · have size := pieceSize_le (a := a) (n := n)
      have dstNext := advance_toNat h.destination size
      have srcNext := advance_toNat h.source size
      generalize hk : pieceSize a n = k at size dstNext srcNext
      have pos : 0 < k := hk ▸ pieceSize_pos hn
      have more := pieces_suffice h.destination (fuel := fuel) (by omega)
      rw [hk] at more
      have source := h.source
      have destination := h.destination
      have got : (withSram s m).copyReadAll (coreIo core sys stop) (done == 0) (piecesOf src k) =
          (.ok (readSpan k (padKey core + src.toNat) m), withSram s m) :=
        copyReadAll_own (s := withSram s m) h.core_lt h.bare hwf stop _ _ src k (by omega) (.inr (piecesOf_suffice src k))
      have may : s.mayStore (s.taskNo core) (s.relOf core) (s.asidOf core) (s.absAddr core (.pad core a.toNat)) k = true :=
        mayStore_span h.core_lt (by omega) (fun b low high => h.allowed b low (by omega)) pos
      have put : (coreIo core sys stop).wr (withSram s m) a (readSpan k (padKey core + src.toNat) m) = (.ok (),
          withSram s (writeSpan m (padKey core + a.toNat) (readSpan k (padKey core + src.toNat) m))) := by
        refine copyWrite_own h.core_lt ?_ ?_ h.bare ?_ <;> rw [length_readSpan hwf]
        exacts [pos, by omega, may]
      have first := copied_writeSpan hwf (padKey core + src.toNat) (padKey core + a.toNat) k
      obtain ⟨m', run, others⟩ := ih _ first.wf (a + BitVec.ofNat 64 k) (src + BitVec.ofNat 64 k) (n - k) (done + k)
        (by rw [dstNext, srcNext]; exact h.rest size) more
      rw [dstNext, srcNext, ← Nat.add_assoc, ← Nat.add_assoc] at others
      have total : k + (n - k) = n := Nat.add_sub_cancel' size
      refine ⟨m', ?_, ?_⟩
      · rw [pieces_cons hn, hk, copyBlocks_cons hd got put, run, Nat.add_assoc, total]
      · rw [← total]
        exact first.append others (by have := h.apart; omega)

end Copying

/-! ## What a copy costs -/

section Costs
variable (s : State) (core : Nat)

theorem debitEnergy_bud (n : Nat) : ∃ b, s.debitEnergy core n = { s with bud := b } := by
  unfold State.debitEnergy
  split
  · exact ⟨s.bud, rfl⟩
  · exact ⟨_, rfl⟩

theorem debitClass_bud (cls times : Nat) : ∃ b, s.debitClass core cls times = { s with bud := b } := by
  unfold State.debitClass
  dsimp only
  split
  · exact ⟨s.bud, rfl⟩
  · exact debitEnergy_bud ..

theorem debitBandwidth_bud (n : Nat) : ∃ b, s.debitBandwidth core n = { s with bud := b } := by
  unfold State.debitBandwidth
  split
  · exact ⟨s.bud, rfl⟩
  · exact ⟨_, rfl⟩

theorem debitCopy_bud (r : CopyReq) (e : CopyEnd) : ∃ b, s.debitCopy core r e = { s with bud := b } := by
  unfold State.debitCopy
  generalize (if e.status == 3 then 0 else copyDone r e) = moved
  dsimp only
  split
  · exact ⟨s.bud, rfl⟩
  · exact debitClass_bud ..

end Costs

/-! ## Completion of a request (R177) -/

section Completion
variable {s done : State} {core : Fin 4096} {e : CopyEnd} {r : CopyReq} {rest : List CopyReq}

theorem noteWrites_unlogged {c : Nat} (h : Unlogged s c) (w : Word × Word) : s.noteWrites c r e w = s := by
  unfold State.noteWrites
  cases ht : s.taskOf c with
  | none => rfl
  | some q =>
    obtain ⟨record, replay⟩ := h q ht
    simp [record, replay]

theorem storesOf_none {c : Nat} {ts : Fin 4} (h : ∀ f ∈ s.fab.fly, f.core ≠ c) : s.storesOf c ts = [] :=
  List.filter_eq_nil_iff.2 fun f hf => by simp [h f hf]

/-- Word 0 of a copy's completion (R177). -/
def completionWord (r : CopyReq) (e : CopyEnd) : Word :=
  BitVec.ofNat 64 (recField r.words 3 63 48 * 2 ^ 48 + e.status * 2 ^ 40 + e.cause.toNat * 2 ^ 32 + e.block % 2 ^ 32)

/-- The oldest request gone, and its completion under way to the core's mailbox. -/
def copyCompleted (s : State) (core : Nat) (r : CopyReq) (e : CopyEnd) : State :=
  (s.popCopy core).launch core r.ts (.deposit core (completionWord r e) e.word true)

theorem copyCompleted_copyq (hq : (s.core core).copyq = r :: rest) : ((copyCompleted s core r e).core core).copyq = rest := by
  have popped : (copyCompleted s core r e).core core = { s.core core with copyq := (s.core core).copyq.drop 1 } :=
    Laws.State.core_setCore ..
  rw [popped, hq]
  rfl

/-- A copy of the scratchpad alone, behind no store, completes at once. -/
theorem copyRequestComplete_completes (hq : (s.core core).copyq = r :: rest) (hc : r.cfet = none)
    (hs : ∀ f ∈ s.fab.fly, f.core ≠ core.val) (hl : Unlogged done core) (hrun : s.runCopy core r = (.ok e, done))
    (hg : copyGlobal r e = (0, 0)) :
    ∃ b, exec (.copyRequestComplete core) s = .next (copyCompleted { done with bud := b } core r e) := by
  have ready : (r.cfet.isSome || (s.storesOf core r.ts).any fun f => decide (f.id < r.id)) = false := by
    rw [hc, storesOf_none hs]
    rfl
  have noted (b : Budgets) (w : Word × Word) : { done with bud := b }.noteWrites core r e w = { done with bud := b } :=
    noteWrites_unlogged (s := { done with bud := b }) hl w
  have run : exec (.copyRequestComplete core) s = execCopyRequestComplete core s := rfl
  rw [run, execCopyRequestComplete]
  simp only [hq, ready, Bool.false_eq_true, if_false, hrun, hg, Nat.add_zero, Nat.not_lt_zero, noted]
  obtain ⟨b, hb⟩ := debitCopy_bud { done with bud := (if r.sys then (0, s) else
    s.payCopy core 0 0 (0 / 4096 + 0 / 4096 + 2) r.paid).2.bud } core r e
  exact ⟨b, by rw [hb]; rfl⟩

/-! ## A malformed request -/

theorem runCopy_malformed (h : s.copyMalformed core r = true) : s.runCopy core r = (.ok ⟨3, 0, 0, 0, 0⟩, s) := by
  unfold State.runCopy
  dsimp only
  rw [if_pos h]

theorem copyGlobal_malformed : copyGlobal r ⟨3, 0, 0, 0, 0⟩ = (0, 0) := rfl

theorem completionWord_malformed :
    (completionWord r ⟨3, 0, 0, 0, 0⟩).toNat = (r.words.getD 3 0).toNat / 2 ^ 48 * 2 ^ 48 + 3 * 2 ^ 40 := by
  have word := (r.words.getD 3 0).isLt
  have none_ : BitVec.toNat (0 : BitVec 8) = 0 := rfl
  simp only [completionWord, recField, fieldOf_eq, BitVec.toNat_ofNat, none_]
  omega

/-! ## A copy within the scratchpad -/

/-- The words of a plain copy within the scratchpad (R177). -/
def copyWords (src dst len tag : Nat) : List Word :=
  [0, BitVec.ofNat 64 src, BitVec.ofNat 64 dst, BitVec.ofNat 64 (tag * 2 ^ 48 + len)]

/-- A request to copy within the scratchpad. -/
structure PlainCopy (r : CopyReq) (src dst len tag : Nat) : Prop where
  words : r.words = copyWords src dst len tag
  tag_lt : tag < 2 ^ 16
  positive : 0 < len
  source : src + len ≤ 0x3C000
  destination : dst + len ≤ 0x3C000
  apart : src + len ≤ dst ∨ dst + len ≤ src

section Plain
variable {src dst len tag : Nat}

theorem near_toNat {a : Nat} (h : a ≤ 0x3C000) : (BitVec.ofNat 64 a).toNat = a := by
  rw [BitVec.toNat_ofNat]
  omega

theorem near_low {a : Nat} (h : a ≤ 0x3C000) : (BitVec.ofNat 64 a).getLsbD 63 = false := by
  rw [← Bool.not_eq_true, getLsbD_63_iff, near_toNat h]
  omega

namespace PlainCopy
variable (h : PlainCopy r src dst len tag)
include h

theorem word3 : (r.words.getD 3 0).toNat = tag * 2 ^ 48 + len := by
  obtain ⟨words, tag_lt, _, source, _, _⟩ := h
  have third : r.words.getD 3 0 = BitVec.ofNat 64 (tag * 2 ^ 48 + len) := by rw [words]; rfl
  rw [third, BitVec.toNat_ofNat]
  omega

theorem length_field : recField r.words 3 39 0 = len := by
  have := h.source
  rw [recField, h.word3, fieldOf_eq]
  omega

theorem tag_field : recField r.words 3 63 48 = tag := by
  have := h.source
  have := h.tag_lt
  rw [recField, h.word3, fieldOf_eq]
  omega

theorem reserved_field : recField r.words 3 47 40 = 0 := by
  have := h.source
  rw [recField, h.word3, fieldOf_eq]
  omega

theorem kind_field : recField r.words 0 3 0 = 0 := by
  rw [h.words]
  rfl

theorem upper_field : recField r.words 0 63 5 = 0 := by
  have first : r.words.getD 0 0 = 0 := by rw [h.words]; rfl
  rw [recField, first]
  rfl

theorem src_word : r.words.getD 1 0 = BitVec.ofNat 64 src := by
  rw [h.words]
  rfl

theorem dst_word : r.words.getD 2 0 = BitVec.ofNat 64 dst := by
  rw [h.words]
  rfl

theorem src_low : (r.words.getD 1 0).getLsbD 63 = false := by
  rw [h.src_word]
  exact near_low (by have := h.source; omega)

theorem dst_low : (r.words.getD 2 0).getLsbD 63 = false := by
  rw [h.dst_word]
  exact near_low (by have := h.destination; omega)

theorem src_toNat : (r.words.getD 1 0).toNat = src := by
  rw [h.src_word]
  exact near_toNat (by have := h.source; omega)

theorem dst_toNat : (r.words.getD 2 0).toNat = dst := by
  rw [h.dst_word]
  exact near_toNat (by have := h.destination; omega)

theorem not_overlap : s.copyOverlap core (r.words.getD 1 0) (r.words.getD 2 0) len = false := by
  obtain ⟨_, _, positive, source, destination, apart⟩ := id h
  have fromPad := place_low (s := s) (core := core.val) (a := r.words.getD 1 0) (sys := true) (by rw [h.src_toNat]; omega)
  have toPad := place_low (s := s) (core := core.val) (a := r.words.getD 2 0) (sys := true) (by rw [h.dst_toNat]; omega)
  have fromAbs := absAddr_own (s := s) core.isLt (off := src) (by omega)
  have toAbs := absAddr_own (s := s) core.isLt (off := dst) (by omega)
  simp only [State.copyOverlap, h.src_low, h.dst_low, fromPad, toPad, h.src_toNat, h.dst_toNat, fromAbs, toAbs,
    Bool.false_eq_true, if_false, decide_eq_false_iff_not]
  omega

theorem not_malformed : s.copyMalformed core r = false := by
  have positive := h.positive
  have source := h.source
  have some_ : (len == 0) = false := by rw [beq_eq_false_iff_ne]; omega
  have short : decide (2 ^ 32 < len) = false := decide_eq_false (by omega)
  rw [State.copyMalformed]
  simp only [h.length_field, h.reserved_field, h.kind_field, h.upper_field, h.not_overlap, some_, short]
  rfl

theorem runCopy_eq : s.runCopy core r = s.copyBlocks s (coreIo core r.sys (src + len)) none (r.words.getD 2 0)
    (piecesOf (r.words.getD 2 0) len) (r.words.getD 1 0) 0 := by
  have packed : ((0 : Nat) == 1) = false := rfl
  have restored : ((0 : Nat) == 4) = false := rfl
  unfold State.runCopy
  simp only [h.not_malformed, h.kind_field, h.length_field, h.src_toNat, packed, restored, Bool.false_eq_true, if_false]

theorem completionWord_eq (w : Word) (n : Nat) : completionWord r ⟨0, 0, 0, w, n⟩ = BitVec.ofNat 64 (tag * 2 ^ 48) := by
  simp [completionWord, h.tag_field]

theorem copyGlobal_eq (w : Word) (n : Nat) : copyGlobal r ⟨0, 0, 0, w, n⟩ = (0, 0) := by
  simp only [copyGlobal, h.src_low, h.dst_low, h.kind_field]
  rfl

theorem runCopy_copies (hown : CopiesOwn s core src dst len) (hwf : s.mem.sram.wf = true) :
    ∃ m', s.runCopy core r = (.ok ⟨0, 0, 0, BitVec.ofNat 64 len, len⟩, withSram s m') ∧
      Copied s.mem.sram m' (padKey core + src) (padKey core + dst) len := by
  obtain ⟨m', run, copied⟩ := copyBlocks_own (was := s) (sys := r.sys) (stop := src + len) h.dst_low (len / 64 + 2)
    s.mem.sram hwf (r.words.getD 2 0) (r.words.getD 1 0) len 0 (by rwa [h.src_toNat, h.dst_toNat])
    (.inr (piecesOf_suffice ..))
  rw [h.src_toNat, h.dst_toNat] at copied
  rw [Nat.zero_add] at run
  exact ⟨m', h.runCopy_eq.trans run, copied⟩

end PlainCopy
end Plain
end Completion
end Sys2Proof.Proofs

/-!
Proofs: segment fetches that land, and what copies come to (R177, R179, R163).
-/
namespace Sys2Proof.Proofs
open Sys2Proof Sys2Proof.Machine

section Landing
variable {s s1 : State} {core : Fin 4096} {r : CopyReq} {rest : List CopyReq} {g : Fin 16} {a : Word} {bs : List Byte}

/-- A core's segment fetch is over: one less is in flight, and with the last the segment is valid (R179). -/
def fetchOver (s : State) (core : Nat) (g : Fin 16) : State :=
  let t := s.popCopy core
  let c := t.core core
  t.setCore core { c with
    segFetch := c.segFetch.set g (c.segFetch[g] - 1)
    segFail := c.segFail.set g none
    segValid := if c.segFetch[g] - 1 == 0 && (none : Option (BitVec 8 × Word)).isNone then c.segValid ||| (1 <<< g.val)
      else c.segValid }

theorem core_popCopy (s : State) (c : Nat) : (s.popCopy c).core c = { s.core c with copyq := (s.core c).copyq.drop 1 } :=
  Laws.State.core_setCore ..

theorem fetchOver_copyq (s : State) (c : Nat) (g : Fin 16) :
    ((fetchOver s c g).core c).copyq = (s.core c).copyq.drop 1 := by
  rw [fetchOver, Laws.State.core_setCore, core_popCopy]

theorem fetchOver_segFetch (s : State) (c : Nat) (g : Fin 16) :
    ((fetchOver s c g).core c).segFetch[g] = (s.core c).segFetch[g] - 1 := by
  rw [fetchOver, Laws.State.core_setCore, core_popCopy]
  exact Vector.getElem_set_self ..

theorem fetchOver_valid (s : State) (c : Nat) (g : Fin 16) (h : (s.core c).segFetch[g] = 1) :
    ((fetchOver s c g).core c).segValid.getLsbD g.val = true := by
  have last : ((s.core c).segFetch[g] - 1 == 0 && (none : Option (BitVec 8 × Word)).isNone) = true := by rw [h]; rfl
  have g16 := g.isLt
  rw [fetchOver, Laws.State.core_setCore, core_popCopy]
  simp only [last, if_true, BitVec.getLsbD_or]
  rw [BitVec.natCast_eq_ofNat, BitVec.getLsbD_ofNat, Nat.one_shiftLeft, Nat.testBit_two_pow_self, decide_eq_true g16]
  exact Bool.or_true _

theorem loadBreaks_unmapped {c seg : Nat} (h : (s.core c).brkmap.getLsbD 63 = false) : s.loadBreaks c seg =
    s.setCore c { s.core c with breaks := (s.core c).breaks.filter fun a => segOf a != seg } :=
  if_pos ((Bool.not_eq_true' _).mpr h)

/-- The state with a segment's code and break bits read and paid for. -/
def segmentRead (s : State) (core : Nat) (g : Fin 16) (bs : List Byte) (b : Budgets) : State :=
  State.loadBreaks { s.writeCode core g.val bs with bud := b } core g.val

theorem core_segmentRead {c : Nat} {b : Budgets} (h : (s.core c).brkmap.getLsbD 63 = false) : (segmentRead s c g bs b).core c =
    { s.core c with breaks := (s.core c).breaks.filter fun a => segOf a != g.val } := by
  rw [segmentRead, loadBreaks_unmapped (s := { s.writeCode c g.val bs with bud := b }) h]
  exact Laws.State.core_setCore ..

theorem mem_segmentRead {c : Nat} {b : Budgets} (h : (s.core c).brkmap.getLsbD 63 = false) :
    (segmentRead s c g bs b).mem = (s.writeCode c g.val bs).mem := by
  rw [segmentRead, loadBreaks_unmapped (s := { s.writeCode c g.val bs with bud := b }) h]
  rfl

theorem fetchOver_mem (s : State) (c : Nat) (g : Fin 16) : (fetchOver s c g).mem = s.mem := rfl

theorem cfetLand_waits (hq : (s.core core).copyq = r :: rest) (hc : r.cfet = some (g, a))
    (hs : ∃ f ∈ s.storesOf core r.ts, f.id < r.id) : exec (.cfetLand core) s = .next s := by
  have behind : ((s.storesOf core r.ts).any fun f => decide (f.id < r.id)) = true := by simpa using hs
  have run : exec (.cfetLand core) s = execCfetLand core s := rfl
  rw [run, execCfetLand]
  simp only [hq, hc, behind, if_true]

theorem cfetLand_lands (hq : (s.core core).copyq = r :: rest) (hc : r.cfet = some (g, a)) (hb : s.bandwidthHeld core = false)
    (hs : ∀ f ∈ s.storesOf core r.ts, ¬f.id < r.id) (hf : s.fetchBytes core a = (.ok bs, s1)) :
    ∃ b, exec (.cfetLand core) s = .next (fetchOver (segmentRead s1 core g bs b) core g) := by
  have free : ((s.storesOf core r.ts).any fun f => decide (f.id < r.id)) = false := by simpa using hs
  have run : exec (.cfetLand core) s = execCfetLand core s := rfl
  obtain ⟨p, hp⟩ := debitBandwidth_bud (s1.writeCode core g.val bs) core 4096
  obtain ⟨b, hb'⟩ := debitClass_bud { s1.writeCode core g.val bs with bud := p } core 13 64
  refine ⟨b, ?_⟩
  rw [run, execCfetLand]
  simp only [hq, hc, free, hb, hf, hp, hb', Bool.false_eq_true, if_false]
  rfl

theorem cfetLand_spec (hq : (s.core core).copyq = r :: rest) (hc : r.cfet = some (g, a)) (hb : s.bandwidthHeld core = false)
    (hs : ∀ f ∈ s.storesOf core r.ts, ¬f.id < r.id) (hf : s.fetchBytes core a = (.ok bs, s1))
    (hm : (s1.core core).brkmap.getLsbD 63 = false) (hwf : s1.mem.code.wf = true) :
    ∃ t, exec (.cfetLand core) s = .next t ∧ (t.core core).copyq = (s1.core core).copyq.drop 1 ∧
      (t.core core).segFetch[g] = (s1.core core).segFetch[g] - 1 ∧
      ((s1.core core).segFetch[g] = 1 → (t.core core).segValid.getLsbD g.val = true) ∧
      (∀ j, j < bs.length → readByte t.mem.code (codeKey core (g.val * 4096) + j) = bs.getD j 0) ∧ t.mem.sram = s1.mem.sram := by
  obtain ⟨b, run⟩ := cfetLand_lands hq hc hb hs hf
  refine ⟨_, run, ?_, ?_, fun last => fetchOver_valid _ _ _ ?_, fun j hj => ?_, ?_⟩
  · rw [fetchOver_copyq, core_segmentRead hm]
  · rw [fetchOver_segFetch, core_segmentRead hm]
  · rw [core_segmentRead hm]
    exact last
  · rw [fetchOver_mem, mem_segmentRead hm, List.getD_eq_getElem _ _ hj]
    exact Laws.readByte_writeSpan_same hwf hj
  · rw [fetchOver_mem, mem_segmentRead hm]
    rfl

end Landing

/-! ## What copies come to -/

section Performed
variable {s : State} {core : Fin 4096} {r : CopyReq} {rest : List CopyReq} {src dst len tag : Nat}

theorem copyRequestComplete_copies (hq : (s.core core).copyq = r :: rest) (hc : r.cfet = none)
    (hs : ∀ f ∈ s.fab.fly, f.core ≠ core.val) (h : PlainCopy r src dst len tag) (hown : CopiesOwn s core src dst len)
    (hwf : s.mem.sram.wf = true) (hl : Unlogged s core) :
    ∃ t f, exec (.copyRequestComplete core) s = .next t ∧ (t.core core).copyq = rest ∧ t.fab.fly = s.fab.fly ++ [f] ∧
      f.what = .deposit core (BitVec.ofNat 64 (tag * 2 ^ 48)) (BitVec.ofNat 64 len) true ∧
      (∀ j, j < len → readByte t.mem.sram (padKey core + dst + j) = readByte s.mem.sram (padKey core + src + j)) ∧
      (∀ g, g < padKey core + dst ∨ padKey core + dst + len ≤ g → readByte t.mem.sram g = readByte s.mem.sram g) ∧
      t.mem.phys = s.mem.phys := by
  obtain ⟨m', run, copied⟩ := h.runCopy_copies hown hwf
  obtain ⟨b, ends⟩ := copyRequestComplete_completes (done := withSram s m') hq hc hs hl run (h.copyGlobal_eq ..)
  refine ⟨_, _, ends, copyCompleted_copyq hq, rfl, ?_, copied.moved, copied.kept, rfl⟩
  rw [← h.completionWord_eq (BitVec.ofNat 64 len) len]

theorem copyRequestComplete_malformed (hq : (s.core core).copyq = r :: rest) (hc : r.cfet = none)
    (hs : ∀ f ∈ s.fab.fly, f.core ≠ core.val) (hm : s.copyMalformed core r = true) (hl : Unlogged s core) :
    ∃ t f w, exec (.copyRequestComplete core) s = .next t ∧ (t.core core).copyq = rest ∧ t.fab.fly = s.fab.fly ++ [f] ∧
      f.what = .deposit core w 0 true ∧ w.toNat / 2 ^ 40 % 2 ^ 8 = 3 ∧
      w.toNat / 2 ^ 48 = (r.words.getD 3 0).toNat / 2 ^ 48 ∧ t.mem = s.mem := by
  obtain ⟨b, ends⟩ := copyRequestComplete_completes hq hc hs hl (runCopy_malformed hm) copyGlobal_malformed
  refine ⟨_, _, completionWord r ⟨3, 0, 0, 0, 0⟩, ends, copyCompleted_copyq hq, rfl, rfl, ?_, ?_, rfl⟩ <;>
    rw [completionWord_malformed] <;> omega

end Performed

/-! ## Copies and segment fetches, issued and performed -/

/-- Settles O39: a request is issued by what its descriptor or its registers say and by the room in the copy queue; a copy within
the scratchpad is an induction over its destination blocks, each read whole and then written. -/
theorem copyResults : Obligations.CopyResults := by
  unfold Obligations.CopyResults
  refine ⟨fun s k x a b c hi ha hb hc => ⟨fun low aligned free => ?_, fun hn => ?_, fun g0 g15 w63 misaligned => ?_,
    fun g0 g15 w63 aligned free => ?_⟩, ?_, ?_, ?_⟩
  · have hr : Readable s k b := ⟨low, aligned, free⟩
    refine ⟨fun room i his => ?_, fun full => ⟨copyInto_held hi hb hr full, copyInto_busy hi ha hb hr full⟩⟩
    obtain rfl | rfl : i = .copy x a b ∨ i = .copyb x a b := by simpa using his
    · exact copyInto_spec false hi ha hb hr room
    · exact copyInto_spec true hi ha hb hr room
  · have unnamed : ¬segmentNamed (s.sreg k b) (s.sreg k c) := by
      rintro ⟨g0, g15, w63⟩
      simp only [g0, not_lt.2 g15, w63, Bool.true_eq_false, or_self] at hn
    exact ⟨fetchInto_unnamed hi hb hc unnamed, fetchInto_unnamed hi hb hc unnamed⟩
  · exact ⟨fetchInto_misaligned hi hb hc ⟨g0, g15, w63⟩ misaligned, fetchInto_misaligned hi hb hc ⟨g0, g15, w63⟩ misaligned⟩
  · have hf : Fetchable s k b c := ⟨⟨g0, g15, w63⟩, aligned, free⟩
    refine ⟨fun room i his => ?_, fun full => ⟨fetchInto_held hi hb hc hf full, fetchInto_busy hi ha hb hc hf full⟩⟩
    obtain rfl | rfl : i = .cfet x a b c ∨ i = .cfetb x a b c := by simpa using his
    · exact fetchInto_spec false hi ha hb hc hf room
    · exact fetchInto_spec true hi ha hb hc hf room
  · intro s core r rest src dst len tag hq hc hs words tag_lt positive source destination apart bare hwf hl allowed
    exact copyRequestComplete_copies hq hc hs ⟨words, tag_lt, positive, source, destination, apart⟩
      ⟨core.isLt, bare, source, destination, apart, allowed⟩ hwf hl
  · exact fun s core r rest hq hc hs hm hl => copyRequestComplete_malformed hq hc hs hm hl
  · exact fun s s1 core r rest g a bs hq hc =>
      ⟨cfetLand_waits hq hc, fun hb hs hf hm hwf => cfetLand_spec hq hc hb hs hf hm hwf⟩

end Sys2Proof.Proofs
